-- ==== Sys2Proof/Word.lean ====
section
/-! DEFINITION. The 36-bit word of the part (R6), the byte, the epoch (R112) and nothing else: every helper over
them stands in Sys2Proof/Machine/Bits.lean. -/

namespace Sys2Proof

/-- A word: 36 bits, numbered 35 (most significant) down to 0 (R6). -/
abbrev Word := BitVec 36

/-- A byte of a byte-addressed path or a JESD204C octet. -/
abbrev Byte := BitVec 8

/-- An epoch: 36 bits of seconds above 36 bits of ep, taken as one value (R112, R118). -/
abbrev Epoch := BitVec 72

end Sys2Proof
end

