-- ==== Sys2Proof/Syntax.lean ====
section
/-! DEFINITION. The commands of the block: one constructor of `Instr` per row of spec/opcode_table.json, in the
table's order, with the row's operands. A mailbox command carries the mailbox it was submitted on: its words stand in
that mailbox's request buffer (R14, R68). A row that is an event of the outside world carries what the outside world
supplies (a level, a reading, received words). -/

namespace Sys2Proof

/-- An access path of R88: the CP, PCI Express, Lysith, management, or one Fiuth port; `agent` is any other agent of this
package, by its code of R348. -/
inductive Path where
  | pcie | lysith | mgmt
  | fiuth (p : Fin 4)
  | cp
  | agent (la : Fin 128)
deriving DecidableEq, Repr

/-- A mailbox index. -/
abbrev Mbx := Fin 16

/-- A source of tasks (R207): an input 0-5119 or a beam 0-16383. -/
structure Src where
  /-- true: a beam. -/
  beam : Bool
  index : Fin 16384
deriving DecidableEq, Repr

/-- A word as driven on F_AD with F_PAR: `bad` says the parity check of R283 fails. -/
structure BusWord where
  w : Word
  bad : Bool
deriving DecidableEq, Repr

/-- The geographic offset of a header on F_AD; `bad` says the header fails parity. -/
structure HdrOff where
  off : BitVec 12
  bad : Bool
deriving DecidableEq, Repr

/-- The request level of an IACK's header; `bad` says the header fails parity. -/
structure HdrLevel where
  level : Fin 8
  bad : Bool
deriving DecidableEq, Repr

/-- What a droop detector reports (R174): its rail and the rail's level in mV. -/
structure RailLevel where
  rail : Fin 8
  mv : BitVec 12
deriving DecidableEq, Repr

/-- The answers of R285. `invalid` is any combination the table does not name. -/
inductive BusAnswer where
  | accept (d : BusWord)
  | reject
  /-- DEFER by the agent of requester code `src`. -/
  | defer (src : Fin 17) (tag : Byte)
  | retry
  | invalid
deriving DecidableEq, Repr

/-- What a completion reports: OK, POISONED, address error or TIMEOUT (R320, R321). -/
inductive CplStatus where
  | ok | poisoned | addrErr | timeout
deriving DecidableEq, Repr

/-- The answers of an SRSP (R352, R359). -/
inductive SnpAns where
  | inv | fwd | dirty | cross
deriving DecidableEq, Repr

/-- A granted line state (R352: M, E, S or none). -/
inductive Grant where
  | none | m | e | s
deriving DecidableEq, Repr

/-- One member line of a MAP (R372, R417, R418). -/
structure MapEntry where
  idx : Fin 64
  valid : Bool
  dead : Bool
  pkgId : BitVec 16
  serial : BitVec 72
deriving DecidableEq, Repr

/-- Where the route memory takes a packet from (R339). -/
inductive PktSrc where
  | queue (c : Fin 64) (q : Fin 128)
  | record (n : Fin 16)
  | message (p : Fin 4)
  | lysith
  | loopIn (k : Fin 16)
deriving DecidableEq, Repr

/-- The way of a TREE message (R410): over a trunk link; within a domain from the member that owns the link to its leader, from
the leader to leave by that port, or from the leader for the member itself. -/
inductive TreeVia where
  | link
  | up (member : Fin 64) (port : Fin 8)
  | out (port : Fin 8)
  | member
deriving DecidableEq, Repr

/-- What a TREE message carries (R410): an announcement, identities of a subtree, the full list, entries of the system route
table for a member, a trunk link that came up or was lost. `first`: it begins a list that more messages may go on with. -/
inductive TreeBody where
  | announce (leader root : BitVec 72) (dist : Nat)
  | subtree (first : Bool) (serials : List (BitVec 72)) (ids : List (BitVec 16))
  | full (first : Bool) (root : BitVec 16) (serials : List (BitVec 72)) (ids : List (BitVec 16))
  | fill (ids : List (BitVec 16)) (entries : List (BitVec 36))
  | linkUp (up : Bool)
deriving DecidableEq, Repr

/-- A TREE message. -/
structure TreeMsg where
  via : TreeVia
  body : TreeBody
deriving DecidableEq, Repr

/-- A write of an MSI-X mask bit by the host (R413): that of an entry cleared, or the function mask set or cleared. -/
inductive MaskWrite where
  | entry (v : Fin 2048)
  | function (mask : Bool)
deriving DecidableEq, Repr

/-- What a Lysith partner reports in the training exchange and its refresh (R395). -/
structure Peer where
  serial : BitVec 72
  pkgId : BitVec 16
  assigned : Bool
  port : Fin 8
  boot : Fin 8
  trunk : Bool
deriving DecidableEq, Repr

/-- The name a DEAD carries (R369, R370): a whole package by domain index, or one agent. -/
inductive DeadName where
  | pkg (k : Fin 64)
  | agent (a : BitVec 13)
deriving DecidableEq, Repr

/-- A Twill instance (R381): a Fiuth segment, a cluster store, a region store or an HBM channel. -/
inductive TwlAt where
  | fiu (p : Fin 4)
  | clu (c : Fin 64)
  | rgn (r : Fin 8)
  | hbm (h : Fin 32)
deriving DecidableEq, Repr

/-- A new request at a Twill instance (R382, R383): its code; on a cluster store whether it reads, the bank and the queue that it
targets. -/
structure TwlNew where
  code : Fin 32
  read : Bool
  bank : Bool
  queue : Fin 128
deriving DecidableEq, Repr

/-- What a Twill decision sees: on a Fiuth segment the F_BREQ lines as sampled (R296); elsewhere the new requests, and the pending
ones that are withdrawn, by code and queue index (R384, R385). -/
structure TwlIn where
  breq : BitVec 16
  asked : List TwlNew
  gone : List (Fin 32 × Fin 4)
deriving DecidableEq, Repr

/-- A granted requester that does not use its grant (R389): on a Fiuth segment the slot granted; elsewhere a code, on a cluster
store with the direction of its grant. -/
inductive TwlDead where
  | fiu (p : Fin 4)
  | store (i : TwlAt) (code : Fin 32) (read : Bool)
deriving DecidableEq, Repr

/-- The commands of the block, one per row of the operations table. -/
inductive Instr where
  -- Mailbox commands: the command that mailbox `n` submitted is executed.
  | ping (n : Mbx)
  | getInfo (n : Mbx)
  | regRead (n : Mbx)
  | regWrite (n : Mbx)
  | imgBegin (n : Mbx)
  | imgChunk (n : Mbx)
  | imgBoot (n : Mbx)
  | imgAbort (n : Mbx)
  | ownerFuse (n : Mbx)
  | debugFuse (n : Mbx)
  | queueDropRem (n : Mbx)
  | epochGet (n : Mbx)
  | schedAdd (n : Mbx)
  | schedCancel (n : Mbx)
  | linkStart (n : Mbx)
  | linkStop (n : Mbx)
  | fchStart (n : Mbx)
  | fchStop (n : Mbx)
  | ingAnchor (n : Mbx)
  | recipeSet (n : Mbx)
  | modelLoad (n : Mbx)
  | beamSet (n : Mbx)
  | tableSwitch (n : Mbx)
  | taskCancel (n : Mbx)
  | unitFence (n : Mbx)
  /-- `result` is what the self-test of the unit finds (R229): 0 passed. -/
  | unitUnfence (n : Mbx) (result : Fin 4)
  | taskLoadGet (n : Mbx)
  | capChanSet (n : Mbx)
  | capArm (n : Mbx)
  | capDisarm (n : Mbx)
  | capTrigger (n : Mbx)
  | dmkMaskLoad (n : Mbx)
  | canvasPrep (n : Mbx)
  | calRun (n : Mbx)
  | calAbort (n : Mbx)
  | calSeal (n : Mbx)
  | canvasRead (n : Mbx)
  | canvasWrite (n : Mbx)
  | fiuSlotAdmit (n : Mbx)
  | fiuSlotRemove (n : Mbx)
  | fiuSegReset (n : Mbx)
  | fiuGeo (n : Mbx)
  | fiuAccess (n : Mbx)
  | fiuResult (n : Mbx)
  | routeSet (n : Mbx)
  | routeStage (n : Mbx)
  | routeCommit (n : Mbx)
  | routeFixed (n : Mbx)
  | cohInfo (n : Mbx)
  | cohLine (n : Mbx)
  | lnkInfo (n : Mbx)
  | pkgIdSet (n : Mbx)
  | srtSet (n : Mbx)
  /-- `suits`: package N reports EN = 0 and the same DOMAIN_ID (R417). -/
  | domainJoin (n : Mbx) (suits : Bool)
  /-- `suits`: the heir meets the conditions of R417 (R418). -/
  | domainLeave (n : Mbx) (suits : Bool)
  | lnkRetrain (n : Mbx)
  | errLogRead (n : Mbx)
  | ksRead (n : Mbx)
  | ksErase (n : Mbx)
  | ksProgram (n : Mbx)
  | ksRecord (n : Mbx)
  | bklInfo (n : Mbx)
  | pwrStandby (n : Mbx)
  | loopGet (n : Mbx)
  -- Scheduler actions: entry `e` issues its next occurrence at the current edge.
  | nop (e : Fin 4096)
  | pinSet (e : Fin 4096)
  | pinPulse (e : Fin 4096)
  | pulseFallingEdge (pin : Fin 16)
  | sysref (e : Fin 4096)
  | regWriteAction (e : Fin 4096)
  | calApply (e : Fin 4096)
  | routeSwitch (e : Fin 4096)
  | trigger (e : Fin 4096)
  | mark (e : Fin 4096)
  | event (e : Fin 4096)
  -- Register accesses with a row of their own; `path` is the path of the access (R63, R88).
  | mbxReqWrite (path : Path) (n : Mbx) (w : Word)
  | doorbell (path : Path) (n : Mbx) (w : Word)
  | mbxRspRead (path : Path) (n : Mbx)
  | mbxEvtRead (path : Path) (n : Mbx)
  /-- A management frame from `mac` with the bytes of its payload, in packed form (R65, R310). -/
  | mgmtFrame (mac : BitVec 48) (bytes : List Byte)
  | registerWrite (path : Path) (off : BitVec 23) (w : Word)
  | rcFieldRead (path : Path) (off : BitVec 23)
  | shadowLoRead (path : Path) (off : BitVec 23)
  | shadowHiRead (path : Path) (off : BitVec 23)
  | stagedLoWrite (path : Path) (off : BitVec 23) (w : Word)
  | hiWriteCommit (path : Path) (off : BitVec 23) (w : Word)
  | blockLock (path : Path) (off : BitVec 23) (w : Word)
  | reboot (path : Path) (w : Word)
  | topViewWrite (path : Path) (w : Word)
  | qpush (path : Path) (c : Fin 64) (q : Fin 128) (w : Word)
  | qtpush (path : Path) (c : Fin 64) (q : Fin 128) (p : Fin 8) (w : Word)
  | qpop (path : Path) (c : Fin 64) (q : Fin 128)
  | qdrop (path : Path) (c : Fin 64) (w : Word)
  | qcfgWrite (path : Path) (c : Fin 64) (q : Fin 128) (w : Word)
  | syncPulse (path : Path) (p : Fin 4) (w : Word)
  | fiuPortEnWrite (path : Path) (p : Fin 4) (w : Word)
  | cohEnWrite (path : Path) (w : Word)
  | pciHqCfgWrite (path : Path) (q : Fin 256) (w : Word)
  | axsPosWrite (path : Path) (a : Fin 4) (w : Word)
  | loopSetWrite (path : Path) (k : Fin 16) (w : Word)
  | errQpop (path : Path)
  /-- Unmasking of one vector's entry, or of the function mask (none). -/
  | msixUnmask (v : MaskWrite)
  /-- A host read of the 8-byte slot of word `off` in BAR0 or BAR2 (wide), byte enables `be` (R31). -/
  | hostWideRead (bar2 : Bool) (off : BitVec 29) (be : BitVec 8)
  /-- A host write of an 8-byte slot of BAR0 or BAR2 (wide), byte enables `be` (R30). -/
  | hostPartialWrite (bar2 : Bool) (off : BitVec 29) (be : BitVec 8) (data : BitVec 64)
  /-- A BAR2 request of `len` bytes at byte `addr`: a read, or a write of `data` (R29, R33). -/
  | bar2Request (addr : BitVec 32) (len : Fin 4097) (data : Option (List Byte))
  | bar4Read (q : Fin 256) (off : BitVec 22) (len : Fin 4097)
  | bar4Write (q : Fin 256) (off : BitVec 22)
  -- Reset, boot and the CP.
  | vaonApplied
  | resetRelease
  | diePairingDone
  | romInitDone
  | imgClaimTimeout
  | cpWdtExpiry
  | cpFatalException
  /-- The uncorrectable CP memory word (R424 class 12). -/
  | cpMemoryUe (word : BitVec 19)
  | warmRestartDone
  -- The epoch, its references and the axes.
  /-- `t` is the tracked source's time as an epoch, as the update measures its phase (R129, R131). -/
  | disciplineUpdate (t : Epoch)
  /-- Source 0 REF_A, 1 REF_B, 2 PTP, lost for the reason of event 0x201 (R123). -/
  | sourceLost (src : Fin 3) (reason : Fin 16)
  | sourceReturn (src : Fin 3)
  /-- `t` is the candidate's time as an epoch (R124). -/
  | candQualifies (t : Epoch)
  /-- `t` is the candidate's time code in seconds: UTC for REF_A and REF_B, TAI for PTP (R115, R130). -/
  | firstLockStep (t : BitVec 48)
  /-- Direction 0 withdraws, 1 inserts, 2 deletes; `dayEnd` is the epoch second that ends the UTC day (R117). -/
  | leapAnnounce (src : Fin 3) (dir : Fin 3) (dayEnd : BitVec 36)
  | taiUtcChange
  /-- The accepted levels of ENCa_A and ENCa_B after the filter (R134). -/
  | quadEdge (a : Fin 4) (lvA lvB : Bool)
  | indexEdge (a : Fin 4)
  | ssiFrameStart (a : Fin 4)
  /-- The bits read, and whether ENCa_A was high at the start and end of the recovery time (R136). -/
  | ssiFrameDone (a : Fin 4) (bits : Word) (highStart highEnd : Bool)
  -- Front-end ingest.
  | linkLaneLock (l : Fin 16)
  | linkSyncTimeout (l : Fin 16)
  /-- A SYSREF edge of link `l` at epoch `e` (R157). -/
  | sysrefEdge (l : Fin 16) (e : Epoch)
  | sysrefWaitTimeout (l : Fin 16)
  | linkRun (l : Fin 16)
  /-- Grid EMB `k` arrives on lane bit `j` at epoch `arr`; `crcBad` are its multiblocks that fail CRC-12, `marker`
  says its end-of-EMB marker stood at its block, `octets` are its octets in order (R162-R164). -/
  | embArrival (l : Fin 16) (j : Fin 16) (k : Nat) (arr : Epoch) (crcBad : List (Fin 4)) (marker : Bool)
      (octets : List Byte)
  | embRelease (l : Fin 16)
  | droopStretch (r : RailLevel)
  /-- A word written to the ingest page of Fiuth-borne input 4096 + `k` (R36, R171). -/
  | fchWord (k : Fin 1024) (w : Word)
  | fchDeadline (k : Fin 1024)
  -- Tasks and units.
  /-- Step code `st` of `src` (7: REDUCE collect); `c` is the contributing cluster of a REDUCE partial (R208). -/
  | taskReady (src : Src) (st : Fin 8) (c : Fin 64)
  | generatorPush (c : Fin 64)
  | taskStart (u : Fin 1024)
  | stealSearch (u : Fin 1024)
  | taskComplete (u : Fin 1024)
  | taskRelease (c : Fin 64) (q : Fin 128)
  | cancelComplete (src : Src)
  | unitEccError (u : Fin 1024)
  | residueMismatch (u : Fin 1024)
  | taskWatchdogExpiry (u : Fin 1024)
  | beamWaitExpiry (b : Fin 16384)
  -- Capture, triggers, calibration.
  | capturePacket (ch : Fin 4096)
  | trigInEdge (pin : Fin 8) (e : Epoch)
  | postTimeout (n : Fin 16)
  | rearmEnd (n : Fin 16)
  | decimTick
  | damaskTestDone
  | retirementEnd
  | calSolve
  | trimUpdate
  -- Fiuth cycles to TM9 (`src` is the requester code of the master, 16 the controller) and bus events.
  | read (p : Fin 4) (src : Fin 17) (addr : BusWord)
  | write (p : Fin 4) (src : Fin 17) (addr : BusWord) (d : BusWord)
  /-- `cnt` is the count word, C - 1 (R289). -/
  | blockRead (p : Fin 4) (src : Fin 17) (addr : BusWord) (cnt : Fin 64)
  | blockWrite (p : Fin 4) (src : Fin 17) (addr : BusWord) (ds : List BusWord)
  | lockRead (p : Fin 4) (src : Fin 17) (addr : BusWord)
  | lockWrite (p : Fin 4) (src : Fin 17) (addr : BusWord) (d : BusWord)
  | bcastWrite (p : Fin 4) (h : HdrOff) (d : BusWord)
  | iack (p : Fin 4) (slot : Fin 16) (h : HdrLevel)
  | reply (p : Fin 4) (hdr : BusWord) (ds : List BusWord)
  | geoRead (p : Fin 4) (slot : Fin 16) (h : HdrOff)
  | geoWrite (p : Fin 4) (slot : Fin 16) (h : HdrOff) (d : BusWord)
  | answerTimeout (p : Fin 4)
  | deferTimeout (p : Fin 4) (src : Fin 17) (tag : Byte)
  | retryWaitExpiry (p : Fin 4)
  | lockWindowExpiry (p : Fin 4)
  /-- A decision of any Twill instance (R381, R386). -/
  | grantDecision (at' : TwlAt) (x : TwlIn)
  | headerAfterGrantMissed (x : TwlDead)
  | tenureTimeout (p : Fin 4)
  /-- `irq` are the F_IRQ lines as sampled, 1 asserted (R299). -/
  | irqService (p : Fin 4) (irq : BitVec 8)
  | strayHoldoffExpiry (p : Fin 4) (level : Fin 8)
  | haltChange (p : Fin 4) (level : Bool)
  | syncPeriodic (p : Fin 4)
  | syncEdge (p : Fin 4)
  | rstSampled (p : Fin 4)
  | segResetDone (p : Fin 4)
  | modulePresence (p : Fin 4) (slot : Fin 16)
  | presenceRetry (p : Fin 4) (slot : Fin 16)
  | slotPoll (p : Fin 4) (slot : Fin 16)
  | slotRemovalComplete (p : Fin 4) (slot : Fin 16)
  /-- `seen`: F_CLK, F_VALID or F_RST activity was found in the monitor time (R306). -/
  | monitorEnd (p : Fin 4) (seen : Bool)
  -- The bridge and the route memory.
  | immEdge (p : Fin 4) (tag : Fin 64)
  | edge96 (p : Fin 4) (src : Fin 17)
  | bridgeReadCompletion (p : Fin 4) (tag : Fin 64) (st : CplStatus) (ds : List BusWord)
  | retryHoldExpiry (p : Fin 4) (slot : Fin 17)
  | bridgeMsgDelivery (p : Fin 4)
  | routePacket (src : PktSrc)
  | routeSwitchFinal
  -- Coherent fabric messages. `a` is the AGENT code, `tag` its TAG, addresses are 40-bit word addresses.
  | rdS (a : BitVec 13) (tag : Byte) (line : BitVec 40)
  | rdX (a : BitVec 13) (tag : Byte) (line : BitVec 40)
  | naRd (a : BitVec 13) (tag : Byte) (addr : BitVec 40) (cnt : Fin 17)
  | rdNc (a : BitVec 13) (tag : Byte) (addr : BitVec 40) (cnt : Fin 17)
  | wrNc (a : BitVec 13) (tag : Byte) (line : BitVec 40) (mask : BitVec 16) (ws : List Word)
  | acc36 (a : BitVec 13) (tag : Byte) (line : BitVec 40) (mask : BitVec 16) (ws : List Word)
  | add (a : BitVec 13) (tag : Byte) (addr : BitVec 40) (x : Word)
  | min (a : BitVec 13) (tag : Byte) (addr : BitVec 40) (x : Word)
  | max (a : BitVec 13) (tag : Byte) (addr : BitVec 40) (x : Word)
  | swap (a : BitVec 13) (tag : Byte) (addr : BitVec 40) (x : Word)
  | cas (a : BitVec 13) (tag : Byte) (addr : BitVec 40) (cmp x : Word)
  | lockRd (a : BitVec 13) (tag : Byte) (line : BitVec 40) (port : Fin 4)
  | lockWr (a : BitVec 13) (tag : Byte) (line : BitVec 40) (port : Fin 4) (mask : BitVec 16) (ws : List Word)
  | unlock (a : BitVec 13) (line : BitVec 40) (port : Fin 4)
  | snpS (line : BitVec 40) (a : BitVec 13) (tag : Byte) (c : Fin 64)
  | snpX (line : BitVec 40) (a : BitVec 13) (tag : Byte) (c : Fin 64)
  | snpInv (line : BitVec 40)
  | snpNa (line : BitVec 40) (a : BitVec 13) (tag : Byte) (c : Fin 64) (first : Fin 16) (cnt : Fin 17)
  | snpRcl (line : BitVec 40) (c : Fin 64)
  | wb (a : BitVec 13) (line : BitVec 40) (ws : List Word)
  | evict (a : BitVec 13) (line : BitVec 40)
  | srsp (pkg : Fin 64) (line : BitVec 40) (ans : SnpAns)
  | cmp (a : BitVec 13) (tag : Byte) (st : CplStatus)
  | cack (a : BitVec 13) (line : BitVec 40)
  | wback (a : BitVec 13) (line : BitVec 40)
  | pack (a : BitVec 13) (tag : Byte) (st : CplStatus)
  | data (a : BitVec 13) (tag : Byte) (st : CplStatus) (g : Grant) (ws : List Word)
  | sdata (a : BitVec 13) (line : BitVec 40) (ws : List Word)
  | hello (port : Fin 8) (domainId : BitVec 16) (serial : BitVec 72) (pkgId : BitVec 16)
  | helloTimer
  | formTimeout
  | map (leader : BitVec 72) (es : List MapEntry)
  | dead (name : DeadName) (reason : Fin 16)
  | down
  /-- A RESYNC for the port: the partner's question with the last ACK it received, or (`answer`) its answer with the
  last SEQ it accepted (R406). -/
  | resync (port : Fin 8) (answer : Bool) (seq : BitVec 12)
  | tree (port : Fin 8) (m : TreeMsg)
  /-- A PKT segment of package `srcPkg` (R400). -/
  | pkt (port : Fin 8) (srcPkg : BitVec 16) (kind : Fin 4) (first last : Bool) (ws : List Word)
  | snoopTimeout (line : BitVec 40) (k : Fin 64)
  | requestTimeout (a : BitVec 13) (tag : Byte)
  | cacheSnoopTimeout (c : Fin 64)
  | lockHoldTimeout (line : BitVec 40)
  -- Lysith links.
  | trainingRetry (n : Fin 8)
  /-- `lanes`: lanes with block lock and alignment on both sides (R395). -/
  | trainingDone (n : Fin 8) (lanes : BitVec 4) (peer : Peer)
  | partnerRefresh (n : Fin 8) (peer : Peer)
  /-- A DATA frame; `good`: its FEC codewords are correctable (R397). -/
  | dataFrame (n : Fin 8) (good : Bool) (ws : List Word)
  | idleFrame (n : Fin 8) (ws : List Word)
  | nakFrame (n : Fin 8) (ws : List Word)
  | laneRemoval (n : Fin 8) (lane : Fin 4)
  | lysithLaneRejoin (n : Fin 8) (lane : Fin 4)
  | retrainTimeout (n : Fin 8)
  | downTimeout (n : Fin 8)
  | resyncTimeout (n : Fin 8)
  /-- A delivery to the partner begins, or goes on: the status of the partner's response and the LAST_FAIL that it gives
  (R421). -/
  | firmwareForward (n : Fin 8) (status : Byte) (lastFail : BitVec 5)
  | leaveCopyDone
  | leaveForwardEnd
  -- The host link.
  | dlDown
  | dlUp (speed : Fin 8) (width : Fin 32)
  | hotReset
  | perstAssert
  | flr
  | flrComplete
  | d3hotEntry
  | d0Entry
  | crsEnd
  | flushTimeout (q : Fin 256)
  -- HBM, backlog.
  | hbmChannelFailure (s : Fin 2) (ch : Fin 16)
  | remapComplete (s : Fin 2)
  | egressStall (e : Fin 269)
  | backlogDrain (e : Fin 269)
  -- Power, thermal, loops.
  | supplyLoss
  /-- Voltage in mV and current in 10 mA of each of the 16 rails (R460). -/
  | railMonitorSample (mv : List (BitVec 12)) (cur : List (BitVec 16))
  | standbyEntry
  | wakeRequest
  | wakeRailEnable
  /-- Reading of sensor `i` (0-9), or of HBM stack `i` - 10 (10-11), s11 in 1/16 °C before trim (R464). -/
  | sensorConversion (i : Fin 12) (t : BitVec 12)
  | throttleUpdate
  /-- `raw` is the factory-trimmed current in nA (R468). -/
  | loopInSample (k : Fin 16) (raw : BitVec 25)
  /-- Measured output current in nA and VLOOP in 10 mV (R471, R472). -/
  | loopOutSample (k : Fin 16) (cur : BitVec 25) (vloop : BitVec 12)
  | loopWatchdogExpiry (k : Fin 16)
  -- Steps that end what another row began.
  | verifyDone
  | reloadDone
  | ksOperationDone
  | fiuAccessTimeLimit (n : Mbx)
  | slaveAnswer (p : Fin 4) (ans : BusAnswer)
  | headerOnSegment (p : Fin 4) (src : Fin 17) (cmd : BitVec 4) (addr : BusWord)
  | memberPortGrant (p : Fin 4)
  | invalidSyncHeaders (l : Fin 16) (j : Fin 16)
  | laneLockRegained (l : Fin 16) (j : Fin 16)
  | stretchEnd
  | perstDeassert
  | rstNAsserted
  | wholeEpochSecond
deriving DecidableEq, Repr

end Sys2Proof
end

