-- ==== Sys2Proof/Decode.lean ====
section
/-! DEFINITION. The words of the operations table: no row of spec/opcode_table.json has bits (each row's fields are
empty), so that no word spells a command. A command's own words, where it has any, travel in its operands: a mailbox
request in the mailbox's buffer (R14), a Fiuth header in its address word (R282), a coherent message in its fields. -/

namespace Sys2Proof

/-- The command that a word of `nbits` bits spells by the table: none. -/
def decodeTableWord (_nbits _w : Nat) : Option Instr := none

end Sys2Proof
end

