-- ==== Sys2Proof/Machine/Bits.lean ====
section
/-! DEFINITION. Fields of words, wrapping comparison (R118), rounding and saturation (R9), the byte forms of words, and
the sparse map that registers, memories and indexed state use. -/

namespace Sys2Proof.Machine

/-! ### Fields of words (R6) -/

/-- A 36-bit word of a number, its higher bits dropped. -/
def toW (n : Nat) : Word := BitVec.ofNat 36 n

/-- Bits hi:lo of a word. -/
def bitsOf (w : Word) (hi lo : Nat) : Nat := w.toNat / 2 ^ lo % 2 ^ (hi + 1 - lo)

/-- Bit `i` of a word. -/
def bitOf (w : Word) (i : Nat) : Bool := w.getLsbD i

/-- `w` with bits hi:lo replaced by `v`, taken to the field's width. -/
def putBits (w : Word) (hi lo v : Nat) : Word :=
  toW (w.toNat / 2 ^ (hi + 1) * 2 ^ (hi + 1) + v % 2 ^ (hi + 1 - lo) * 2 ^ lo + w.toNat % 2 ^ lo)

/-- A word from fields (hi, lo, value), zero elsewhere. -/
def mkW (fs : List (Nat × Nat × Nat)) : Word :=
  fs.foldl (fun w (hi, lo, v) => putBits w hi lo v) 0

/-- 1 for true. -/
def bit (b : Bool) : Nat := if b then 1 else 0

/-- Bit `i` of a number. -/
def nbit (n i : Nat) : Bool := n.testBit i

/-- `n` with bit `i` set or cleared. -/
def setNbit (n i : Nat) (b : Bool) : Nat :=
  if n.testBit i == b then n else if b then n + 2 ^ i else n - 2 ^ i

/-- Number of one bits among the low `k` bits. -/
def popcount (k n : Nat) : Nat := (List.range k).countP (fun i => n.testBit i)

/-- The tag of a stream word (R15). -/
def tagOf (w : Word) : Nat := bitsOf w 35 32

/-- The payload of a stream word. -/
def payload (w : Word) : Nat := bitsOf w 31 0

/-- A stream word of tag and payload. -/
def tagged (t p : Nat) : Word := mkW [(35, 32, t), (31, 0, p)]

/-- IDLE with payload zero (R15). -/
def idleW : Word := tagged 1 0

/-- Word `i` of a list, zero past its end. -/
def nth (ws : List Word) (i : Nat) : Word := ws.getD i 0

/-! ### Counters and comparison -/

/-- `a + b`, saturating at `m` (the registers that say so). -/
def satAdd (m a b : Nat) : Nat := if a + b ≤ m then a + b else m

/-- R118: `a` is later than `b` among `n`-bit wrapping values. -/
def later (n a b : Nat) : Bool :=
  let d := (a + 2 ^ n - b % 2 ^ n) % 2 ^ n
  1 ≤ d && d < 2 ^ (n - 1)

/-- R118: `a` is earlier than `b`. -/
def earlier (n a b : Nat) : Bool :=
  let d := (a + 2 ^ n - b % 2 ^ n) % 2 ^ n
  2 ^ (n - 1) < d

/-- R118: `a` is not earlier than `b`; an unordered pair fails the test. -/
def notEarlier (n a b : Nat) : Bool := a % 2 ^ n == b % 2 ^ n || later n a b

/-- R118: `a` is not later than `b`; an unordered pair fails the test. -/
def notLater (n a b : Nat) : Bool := a % 2 ^ n == b % 2 ^ n || earlier n a b

/-- The wrapping difference (a - b) mod 2^n as a signed number in [-2^(n-1), 2^(n-1)). -/
def sdiff (n a b : Nat) : Int :=
  let d := (a + 2 ^ n - b % 2 ^ n) % 2 ^ n
  if d < 2 ^ (n - 1) then (d : Int) else (d : Int) - 2 ^ n

/-! ### Arithmetic of R9 -/

/-- The `n`-bit two's complement value of a number. -/
def sOf (n v : Nat) : Int :=
  let u := v % 2 ^ n
  if u < 2 ^ (n - 1) then (u : Int) else (u : Int) - 2 ^ n

/-- The `n`-bit two's complement code of an integer. -/
def sTo (n : Nat) (x : Int) : Nat := (x % 2 ^ n).toNat

/-- num / den rounded half to even, den > 0. -/
def roundHe (num : Int) (den : Nat) : Int :=
  let q := num / (den : Int)
  let r := num % (den : Int)
  if 2 * r < den then q else if 2 * r > den then q + 1 else if q % 2 = 0 then q else q + 1

/-- `x` times 2^-k rounded half to even. -/
def shrHe (x : Int) (k : Nat) : Int := roundHe x (2 ^ k)

/-- Clamped to the signed format of `n` bits; the flag says it was clipped. -/
def satS (n : Nat) (x : Int) : Int × Bool :=
  if x < -(2 ^ (n - 1)) then (-(2 ^ (n - 1)), true)
  else if x > 2 ^ (n - 1) - 1 then (2 ^ (n - 1) - 1, true)
  else (x, false)

/-- Clamped to the unsigned format of `n` bits; the flag says it was clipped. -/
def satU (n : Nat) (x : Int) : Int × Bool :=
  if x < 0 then (0, true) else if x > 2 ^ n - 1 then (2 ^ n - 1, true) else (x, false)

/-- R10: a duration of `n` units of 1/`per` s in ep. -/
def epOf (n per : Nat) : Nat := (roundHe (n * 2 ^ 36 : Nat) per).toNat

/-- R120: the short epoch of an epoch value. -/
def shortEpoch (e : Nat) : Nat := e / 2 ^ 36 % 2 ^ 12 * 2 ^ 20 + e % 2 ^ 36 / 2 ^ 16

/-! ### Byte forms -/

/-- The `n` bytes of a number, least significant first. -/
def leBytes : Nat → Nat → List Byte
  | 0, _ => []
  | n + 1, v => BitVec.ofNat 8 v :: leBytes n (v / 256)

/-- The number whose bytes stand least significant first. -/
def ofLe (bs : List Byte) : Nat := bs.foldr (fun b a => b.toNat + 256 * a) 0

/-- The number whose bytes stand most significant first. -/
def ofBe (bs : List Byte) : Nat := bs.foldl (fun a b => 256 * a + b.toNat) 0

/-- The packed form (R29, R310): each pair of words in nine bytes, the even word in the less significant bits. An odd
last word is paired with zero. -/
def packBytes : List Word → List Byte
  | [] => []
  | [a] => leBytes 9 a.toNat
  | a :: b :: ws => leBytes 9 (a.toNat + b.toNat * 2 ^ 36) ++ packBytes ws

/-- The words of a packed byte string (R310); of a last pair that is not whole, the word that is. -/
def unpackWords : List Byte → List Word
  | b0 :: b1 :: b2 :: b3 :: b4 :: b5 :: b6 :: b7 :: b8 :: bs =>
    let v := ofLe [b0, b1, b2, b3, b4, b5, b6, b7, b8]
    toW v :: toW (v / 2 ^ 36) :: unpackWords bs
  | bs => if 5 ≤ bs.length then [toW (ofLe (bs.take 5))] else []

/-- Zero words appended up to a multiple of 16 (R57, R65). -/
def padGroup (ws : List Word) : List Word := ws ++ List.replicate ((16 - ws.length % 16) % 16) 0

/-- R55: the four bytes of a word, one per nonet, nonet 0 first. -/
def nonetBytes (w : Word) : List Byte :=
  [BitVec.ofNat 8 (bitsOf w 34 27), BitVec.ofNat 8 (bitsOf w 25 18), BitVec.ofNat 8 (bitsOf w 16 9),
   BitVec.ofNat 8 (bitsOf w 7 0)]

/-- R59: a nonet of the word has bit 8 set. -/
def nonetBad (w : Word) : Bool := bitOf w 35 || bitOf w 26 || bitOf w 17 || bitOf w 8

/-! ### Sparse maps

A map from Nat keys, an unlisted key holding `dflt key`. The canonical form lists keys strictly rising and no entry equal
to its default, so that equal maps are equal lists. -/

/-- A sparse map. -/
abbrev SMap (α : Type) := List (Nat × α)

/-- The value at a key. -/
def mapGet {α : Type} (dflt : Nat → α) : SMap α → Nat → α
  | [], k => dflt k
  | (k', v) :: m, k => if k = k' then v else mapGet dflt m k

/-- The map with the key removed. -/
def mapErase {α : Type} (m : SMap α) (k : Nat) : SMap α := m.filter (fun p => p.1 != k)

/-- The map with (k, v) put in its place by key. -/
def mapInsert {α : Type} (k : Nat) (v : α) : SMap α → SMap α
  | [] => [(k, v)]
  | (k', v') :: m => if k < k' then (k, v) :: (k', v') :: m
      else if k = k' then (k, v) :: m else (k', v') :: mapInsert k v m

/-- The map with the key's value set: the entry goes when the value is the key's default. -/
def mapSet {α : Type} [DecidableEq α] (dflt : Nat → α) (m : SMap α) (k : Nat) (v : α) : SMap α :=
  if v = dflt k then mapErase m k else mapInsert k v m

/-- The canonical form. -/
def mapWf {α : Type} [DecidableEq α] (dflt : Nat → α) : SMap α → Bool
  | [] => true
  | (k, v) :: m => v != dflt k && m.all (fun p => k < p.1) && mapWf dflt m

/-- The value at a key of a map whose default is the type's. -/
def mget {α : Type} [Inhabited α] (m : SMap α) (k : Nat) : α := mapGet (fun _ => default) m k

/-- The key's value set in a map whose default is the type's. -/
def mset {α : Type} [DecidableEq α] [Inhabited α] (m : SMap α) (k : Nat) (v : α) : SMap α :=
  mapSet (fun _ => default) m k v

/-- The key's value changed. -/
def mmod {α : Type} [DecidableEq α] [Inhabited α] (m : SMap α) (k : Nat) (f : α → α) : SMap α :=
  mset m k (f (mget m k))

/-- Fold over 0, 1, … n - 1. -/
def forN {α : Type} (n : Nat) (f : Nat → α → α) (a : α) : α := (List.range n).foldl (fun a i => f i a) a

/-- Fold over a list, the state last. -/
def each {α β : Type} (l : List β) (f : β → α → α) (a : α) : α := l.foldl (fun a b => f b a) a

/-- `f` applied when the condition holds. -/
def when {α : Type} (c : Bool) (f : α → α) (a : α) : α := if c then f a else a

/-- The first number below `n` with the property. -/
def firstN (n : Nat) (p : Nat → Bool) : Option Nat := (List.range n).find? p

end Sys2Proof.Machine
end

