-- ==== Sys2Proof/Config.lean ====
section
/-! DEFINITION. What an implementation fixes and the spec leaves open: constants without a body, so that no proof can
use a value of them. Each is named in a log entry of notes/assumptions. -/

namespace Sys2Proof.Config

/-- A free value: the value numbered by the counter `Dev.free` (assumption 3). -/
opaque freeNat : Nat → Nat

/-- The increment that the discipline loop computes at its update number `n` (R131; assumption 8). -/
opaque loopInc : Nat → Nat

/-- The frequency integrator at update number `n`, as an increment (R131; assumption 8). -/
opaque loopFreq : Nat → Nat

/-- The increment at which the epoch would run at the rate that the OCXO alone gives, measured at update number `n` (R131;
assumption 8). -/
opaque ocxoInc : Nat → Nat

/-- The SHA-384 hash of the Nuntoly key held in the boot ROM (R58; assumption 9). -/
opaque nuntolyHash : Nat

/-- Receive space, in words, that a Lysith port advertises at UP for credit class 1 to 5 (R398; assumption 10). -/
opaque creditSpace : Nat → Nat

/-- The geographic ID word of TM9 as a member module (R298; assumption 22). -/
opaque fiuId : Nat

/-- The factory serial that the payload of the identity record writes (R448; assumption 25). -/
opaque serialOf : List Word → Nat

/-- The factory trim of region sensor `i`, in 1/16 degree C, that the payload of the sensor-trim record writes (R280,
R448; assumption 25). -/
opaque sensorTrim : List Word → Nat → Int

/-- The Lysith address-error status as a response carries it (R23; assumption 28). -/
opaque addrErr : Nat

/-- The package ID to which the answer of a request routed by package ID goes, by the request's AGENT: no rule names it
(R43, R399; assumption 33). -/
opaque replyTo : Nat → Nat

/-- The epoch of slot `n` of beam `b`, in ep, on a package without a local member of it (R178; assumption 35). -/
opaque beamEpoch : Nat → Nat → Nat

/-- The slot rate of beam `b`, in mHz / 256, on a package without a local member of it (R232; assumption 35). -/
opaque beamRate : Nat → Nat

/-- The 32 payload bits of a queue word that carries a value of 18 + 18 bits to a shadow unit: R273 puts the x values,
c18 words, into a packet queue, whose words have 32 bits beside their tag, and states no packing (assumption 146). -/
opaque shqPayload : Word → Nat

/-- The cluster-store word offset of the staging area of a source's step in a cluster (R211; assumption 36). -/
opaque stage : Nat → Nat → Nat → Nat

end Sys2Proof.Config
end

