-- ==== Sys2Proof/Machine/Regs.lean ====
section
/-! DEFINITION. The register map: one address function and one field definition per register and field of the register
tables of spec/01 to spec/16 (offsets, field positions, access types and reset values as those tables state them), and
`regTable`, the same rows as data for an access by offset (R11, R24). Three kinds of value stand beside the tables: a
field marked "keep" is 0 here (assumption 6); MBX[n].CFG.PATH and CAL_BANK[1].OFS, whose reset depends on the index, are
completed in Sys2Proof/Machine/State.lean; an HBM Twill register of channel h stands under the key
0x80_0000 + h x 0x400, TOP_TWL_SEL of path i under 0x90_0000 + i (R392: one offset, several instances). -/

namespace Sys2Proof.Machine

/-- A field: the offset (key) of its register and its bits hi:lo. -/
structure Fld where
  off : Nat
  hi : Nat
  lo : Nat
deriving DecidableEq, Repr

/-- The access types of R11. -/
inductive Acc where
  | rw | ro | rc | w1c | wo | w1 | lk
deriving DecidableEq, Repr

/-- One field of a register table: bits, access type, reset value. -/
structure FldRow where
  hi : Nat
  lo : Nat
  acc : Acc
  reset : Nat
deriving DecidableEq, Repr

/-- One register table: the offset of instance 0, the instance ranges as (count, stride), outermost first, and the
fields that are not reserved. -/
structure RegRow where
  base : Nat
  dims : List (Nat × Nat)
  fields : List FldRow
deriving DecidableEq, Repr

/-! ### Registers of spec/01_architecture.md -/

abbrev R.pciBar2Ctl : Nat := 0x24020
abbrev F.pciBar2Ctl_MODE : Fld := ⟨0x24020, 11, 11⟩
abbrev F.pciBar2Ctl_BASE : Fld := ⟨0x24020, 10, 0⟩
abbrev R.pciBarErr : Nat := 0x24021
abbrev F.pciBarErr_PARTIAL_CNT : Fld := ⟨0x24021, 35, 24⟩
abbrev F.pciBarErr_OOR_CNT : Fld := ⟨0x24021, 23, 12⟩
abbrev F.pciBarErr_ALIGN_CNT : Fld := ⟨0x24021, 11, 0⟩
abbrev R.fiuSlvBase (i : Nat) : Nat := 0x1A010 + 0x800 * i
abbrev F.fiuSlvBase_EN (i : Nat) : Fld := ⟨0x1A010 + 0x800 * i, 10, 10⟩
abbrev F.fiuSlvBase_BASE (i : Nat) : Fld := ⟨0x1A010 + 0x800 * i, 9, 0⟩
abbrev R.topView : Nat := 0x10
abbrev F.topView_MODE_REJ : Fld := ⟨0x10, 2, 2⟩
abbrev F.topView_AUTO : Fld := ⟨0x10, 1, 1⟩
abbrev F.topView_VIEW : Fld := ⟨0x10, 0, 0⟩

/-- The rows of the register tables of spec/01_architecture.md. -/
def regTable01a : List RegRow := [
  ⟨0x24020, [], [⟨11, 11, .rw, 0x0⟩, ⟨10, 0, .rw, 0x0⟩]⟩,
  ⟨0x24021, [], [⟨35, 24, .rc, 0x0⟩, ⟨23, 12, .rc, 0x0⟩, ⟨11, 0, .rc, 0x0⟩]⟩,
  ⟨0x1A010, [(4, 0x800)], [⟨10, 10, .rw, 0x1⟩, ⟨9, 0, .rw, 0x3FF⟩]⟩,
  ⟨0x10, [], [⟨2, 2, .w1c, 0x0⟩, ⟨1, 1, .ro, 0x0⟩, ⟨0, 0, .rw, 0x0⟩]⟩]

/-! ### Registers of spec/02_control_processor_and_mailboxes.md -/

abbrev R.cpDebug : Nat := 0xA012
abbrev F.cpDebug_FUSE_OWNER : Fld := ⟨0xA012, 2, 2⟩
abbrev F.cpDebug_FUSE_DEBUG : Fld := ⟨0xA012, 1, 1⟩
abbrev F.cpDebug_LOCK : Fld := ⟨0xA012, 0, 0⟩
abbrev R.mbxReq (i : Nat) : Nat := 0xB010 + 0x100 * i
abbrev F.mbxReq_DATA (i : Nat) : Fld := ⟨0xB010 + 0x100 * i, 35, 0⟩
abbrev R.mbxRsp (i : Nat) : Nat := 0xB012 + 0x100 * i
abbrev F.mbxRsp_DATA (i : Nat) : Fld := ⟨0xB012 + 0x100 * i, 35, 0⟩
abbrev R.mbxEvt (i : Nat) : Nat := 0xB015 + 0x100 * i
abbrev F.mbxEvt_DATA (i : Nat) : Fld := ⟨0xB015 + 0x100 * i, 35, 0⟩
abbrev R.mbxDoorbell (i : Nat) : Nat := 0xB011 + 0x100 * i
abbrev F.mbxDoorbell_RING (i : Nat) : Fld := ⟨0xB011 + 0x100 * i, 0, 0⟩
abbrev R.mbxStat (i : Nat) : Nat := 0xB013 + 0x100 * i
abbrev F.mbxStat_BUSY (i : Nat) : Fld := ⟨0xB013 + 0x100 * i, 35, 35⟩
abbrev F.mbxStat_RSP_RDY (i : Nat) : Fld := ⟨0xB013 + 0x100 * i, 34, 34⟩
abbrev F.mbxStat_EVT_RDY (i : Nat) : Fld := ⟨0xB013 + 0x100 * i, 33, 33⟩
abbrev F.mbxStat_DBL_IGN (i : Nat) : Fld := ⟨0xB013 + 0x100 * i, 32, 32⟩
abbrev F.mbxStat_REQ_OVF (i : Nat) : Fld := ⟨0xB013 + 0x100 * i, 31, 31⟩
abbrev F.mbxStat_REQ_CNT (i : Nat) : Fld := ⟨0xB013 + 0x100 * i, 26, 18⟩
abbrev F.mbxStat_RSP_CNT (i : Nat) : Fld := ⟨0xB013 + 0x100 * i, 17, 9⟩
abbrev F.mbxStat_EVT_LOST (i : Nat) : Fld := ⟨0xB013 + 0x100 * i, 8, 0⟩
abbrev R.mbxCfg (i : Nat) : Nat := 0xB014 + 0x100 * i
abbrev F.mbxCfg_PATH (i : Nat) : Fld := ⟨0xB014 + 0x100 * i, 14, 12⟩
abbrev F.mbxCfg_IRQ_EN (i : Nat) : Fld := ⟨0xB014 + 0x100 * i, 11, 11⟩
abbrev F.mbxCfg_VEC (i : Nat) : Fld := ⟨0xB014 + 0x100 * i, 10, 0⟩
abbrev R.mbxEvtMask (i : Nat) : Nat := 0xB016 + 0x100 * i
abbrev F.mbxEvtMask_GROUP (i : Nat) : Fld := ⟨0xB016 + 0x100 * i, 15, 0⟩
abbrev R.cpBoot : Nat := 0xA010
abbrev F.cpBoot_STATE : Fld := ⟨0xA010, 35, 32⟩
abbrev F.cpBoot_SOURCE : Fld := ⟨0xA010, 31, 29⟩
abbrev F.cpBoot_LYS_PORT : Fld := ⟨0xA010, 28, 26⟩
abbrev F.cpBoot_LAST_FAIL : Fld := ⟨0xA010, 25, 21⟩
abbrev F.cpBoot_WARM_CNT : Fld := ⟨0xA010, 20, 13⟩
abbrev F.cpBoot_VENDOR_KEY : Fld := ⟨0xA010, 12, 12⟩
abbrev F.cpBoot_GEN : Fld := ⟨0xA010, 11, 0⟩
abbrev R.cpCtl : Nat := 0xA011
abbrev F.cpCtl_REBOOT : Fld := ⟨0xA011, 0, 0⟩
abbrev R.cpWdt : Nat := 0xA013
abbrev F.cpWdt_PERIOD : Fld := ⟨0xA013, 19, 0⟩

/-- The rows of the register tables of spec/02_control_processor_and_mailboxes.md. -/
def regTable02a : List RegRow := [
  ⟨0xA012, [], [⟨2, 2, .ro, 0x0⟩, ⟨1, 1, .ro, 0x0⟩, ⟨0, 0, .w1, 0x0⟩]⟩,
  ⟨0xB010, [(16, 0x100)], [⟨35, 0, .wo, 0x0⟩]⟩,
  ⟨0xB012, [(16, 0x100)], [⟨35, 0, .ro, 0x0⟩]⟩,
  ⟨0xB015, [(16, 0x100)], [⟨35, 0, .ro, 0x0⟩]⟩,
  ⟨0xB011, [(16, 0x100)], [⟨0, 0, .wo, 0x0⟩]⟩,
  ⟨0xB013, [(16, 0x100)], [⟨35, 35, .ro, 0x0⟩, ⟨34, 34, .ro, 0x0⟩, ⟨33, 33, .ro, 0x0⟩, ⟨32, 32, .w1c, 0x0⟩, ⟨31, 31, .w1c, 0x0⟩, ⟨26, 18, .ro, 0x0⟩, ⟨17, 9, .ro, 0x0⟩, ⟨8, 0, .rc, 0x0⟩]⟩,
  ⟨0xB014, [(16, 0x100)], [⟨14, 12, .lk, 0x0⟩, ⟨11, 11, .rw, 0x0⟩, ⟨10, 0, .rw, 0x0⟩]⟩,
  ⟨0xB016, [(16, 0x100)], [⟨15, 0, .rw, 0x1⟩]⟩,
  ⟨0xA010, [], [⟨35, 32, .ro, 0x0⟩, ⟨31, 29, .ro, 0x0⟩, ⟨28, 26, .ro, 0x0⟩, ⟨25, 21, .ro, 0x0⟩, ⟨20, 13, .ro, 0x0⟩, ⟨12, 12, .ro, 0x0⟩, ⟨11, 0, .ro, 0x0⟩]⟩,
  ⟨0xA011, [], [⟨0, 0, .wo, 0x0⟩]⟩,
  ⟨0xA013, [], [⟨19, 0, .lk, 0x2710⟩]⟩]

/-! ### Registers of spec/03_words_and_queues.md -/

abbrev R.cluQcfg (i j : Nat) : Nat := 0x40100 + 0x1000 * i + j
abbrev F.cluQcfg_EN (i j : Nat) : Fld := ⟨0x40100 + 0x1000 * i + j, 35, 35⟩
abbrev F.cluQcfg_MODE (i j : Nat) : Fld := ⟨0x40100 + 0x1000 * i + j, 34, 34⟩
abbrev F.cluQcfg_ORDER (i j : Nat) : Fld := ⟨0x40100 + 0x1000 * i + j, 33, 33⟩
abbrev F.cluQcfg_DEPTH (i j : Nat) : Fld := ⟨0x40100 + 0x1000 * i + j, 32, 28⟩
abbrev F.cluQcfg_BASE (i j : Nat) : Fld := ⟨0x40100 + 0x1000 * i + j, 27, 13⟩
abbrev F.cluQcfg_CUT (i j : Nat) : Fld := ⟨0x40100 + 0x1000 * i + j, 12, 0⟩
abbrev R.cluQstat (i j : Nat) : Nat := 0x40180 + 0x1000 * i + j
abbrev F.cluQstat_CFG_REJ (i j : Nat) : Fld := ⟨0x40180 + 0x1000 * i + j, 35, 35⟩
abbrev F.cluQstat_PAR_ERR (i j : Nat) : Fld := ⟨0x40180 + 0x1000 * i + j, 34, 34⟩
abbrev F.cluQstat_MALFORMED (i j : Nat) : Fld := ⟨0x40180 + 0x1000 * i + j, 33, 33⟩
abbrev F.cluQstat_RD_IN_PKT (i j : Nat) : Fld := ⟨0x40180 + 0x1000 * i + j, 32, 32⟩
abbrev F.cluQstat_DROPPING (i j : Nat) : Fld := ⟨0x40180 + 0x1000 * i + j, 31, 31⟩
abbrev F.cluQstat_PKTS (i j : Nat) : Fld := ⟨0x40180 + 0x1000 * i + j, 30, 17⟩
abbrev F.cluQstat_COUNT (i j : Nat) : Fld := ⟨0x40180 + 0x1000 * i + j, 16, 0⟩
abbrev R.cluQlost (i j : Nat) : Nat := 0x40200 + 0x1000 * i + j
abbrev F.cluQlost_LOST_WORDS (i j : Nat) : Fld := ⟨0x40200 + 0x1000 * i + j, 35, 12⟩
abbrev F.cluQlost_LOST_PKTS (i j : Nat) : Fld := ⟨0x40200 + 0x1000 * i + j, 11, 0⟩
abbrev R.cluQerrcnt (i j : Nat) : Nat := 0x40280 + 0x1000 * i + j
abbrev F.cluQerrcnt_PAR_CNT (i j : Nat) : Fld := ⟨0x40280 + 0x1000 * i + j, 35, 24⟩
abbrev F.cluQerrcnt_MALF_CNT (i j : Nat) : Fld := ⟨0x40280 + 0x1000 * i + j, 23, 12⟩
abbrev F.cluQerrcnt_DROP_CNT (i j : Nat) : Fld := ⟨0x40280 + 0x1000 * i + j, 11, 0⟩
abbrev R.cluQpush (i j : Nat) : Nat := 0x40300 + 0x1000 * i + j
abbrev F.cluQpush_DATA (i j : Nat) : Fld := ⟨0x40300 + 0x1000 * i + j, 35, 0⟩
abbrev R.cluQpop (i j : Nat) : Nat := 0x40380 + 0x1000 * i + j
abbrev F.cluQpop_DATA (i j : Nat) : Fld := ⟨0x40380 + 0x1000 * i + j, 35, 0⟩
abbrev R.cluQtpri (i j : Nat) : Nat := 0x40400 + 0x1000 * i + j
abbrev F.cluQtpri_VALID (i j : Nat) : Fld := ⟨0x40400 + 0x1000 * i + j, 3, 3⟩
abbrev F.cluQtpri_PRI (i j : Nat) : Fld := ⟨0x40400 + 0x1000 * i + j, 2, 0⟩
abbrev R.cluQdrop (i : Nat) : Nat := 0x40480 + 0x1000 * i
abbrev F.cluQdrop_QUEUE (i : Nat) : Fld := ⟨0x40480 + 0x1000 * i, 6, 0⟩
abbrev R.cluQtpush (i j k : Nat) : Nat := 0x40800 + 0x1000 * i + 0x8 * j + k
abbrev F.cluQtpush_DATA (i j k : Nat) : Fld := ⟨0x40800 + 0x1000 * i + 0x8 * j + k, 35, 0⟩

/-- The rows of the register tables of spec/03_words_and_queues.md. -/
def regTable03a : List RegRow := [
  ⟨0x40100, [(64, 0x1000), (128, 0x1)], [⟨35, 35, .rw, 0x0⟩, ⟨34, 34, .lk, 0x0⟩, ⟨33, 33, .lk, 0x0⟩, ⟨32, 28, .lk, 0x4⟩, ⟨27, 13, .lk, 0x0⟩, ⟨12, 0, .rw, 0x0⟩]⟩,
  ⟨0x40180, [(64, 0x1000), (128, 0x1)], [⟨35, 35, .w1c, 0x0⟩, ⟨34, 34, .w1c, 0x0⟩, ⟨33, 33, .w1c, 0x0⟩, ⟨32, 32, .ro, 0x0⟩, ⟨31, 31, .ro, 0x0⟩, ⟨30, 17, .ro, 0x0⟩, ⟨16, 0, .ro, 0x0⟩]⟩,
  ⟨0x40200, [(64, 0x1000), (128, 0x1)], [⟨35, 12, .rc, 0x0⟩, ⟨11, 0, .rc, 0x0⟩]⟩,
  ⟨0x40280, [(64, 0x1000), (128, 0x1)], [⟨35, 24, .rc, 0x0⟩, ⟨23, 12, .rc, 0x0⟩, ⟨11, 0, .rc, 0x0⟩]⟩,
  ⟨0x40300, [(64, 0x1000), (128, 0x1)], [⟨35, 0, .wo, 0x0⟩]⟩,
  ⟨0x40380, [(64, 0x1000), (128, 0x1)], [⟨35, 0, .ro, 0x0⟩]⟩,
  ⟨0x40400, [(64, 0x1000), (128, 0x1)], [⟨3, 3, .ro, 0x0⟩, ⟨2, 0, .ro, 0x0⟩]⟩,
  ⟨0x40480, [(64, 0x1000)], [⟨6, 0, .wo, 0x0⟩]⟩,
  ⟨0x40800, [(64, 0x1000), (128, 0x8), (8, 0x1)], [⟨35, 0, .wo, 0x0⟩]⟩]

/-! ### Registers of spec/04_epoch_axes_scheduler.md -/

abbrev R.epoNowLo : Nat := 0x1010
abbrev F.epoNowLo_FRAC : Fld := ⟨0x1010, 35, 0⟩
abbrev R.epoNowHi : Nat := 0x1011
abbrev F.epoNowHi_SEC : Fld := ⟨0x1011, 35, 0⟩
abbrev R.epoInc : Nat := 0x1012
abbrev F.epoInc_INC : Fld := ⟨0x1012, 35, 0⟩
abbrev R.epoTai : Nat := 0x1013
abbrev F.epoTai_LEAP_PEND : Fld := ⟨0x1013, 10, 9⟩
abbrev F.epoTai_TAI_UTC : Fld := ⟨0x1013, 8, 0⟩
abbrev R.epoOriginLo : Nat := 0x1014
abbrev F.epoOriginLo_ORIGIN : Fld := ⟨0x1014, 35, 0⟩
abbrev R.epoOriginHi : Nat := 0x1015
abbrev F.epoOriginHi_ORIGIN : Fld := ⟨0x1015, 11, 0⟩
abbrev R.epoStat : Nat := 0x1016
abbrev F.epoStat_STATE : Fld := ⟨0x1016, 35, 33⟩
abbrev F.epoStat_SEL : Fld := ⟨0x1016, 32, 30⟩
abbrev F.epoStat_CAND : Fld := ⟨0x1016, 29, 27⟩
abbrev F.epoStat_EVER_LOCKED : Fld := ⟨0x1016, 26, 26⟩
abbrev F.epoStat_OCXO_OK : Fld := ⟨0x1016, 25, 25⟩
abbrev F.epoStat_RESID_NZ : Fld := ⟨0x1016, 24, 24⟩
abbrev F.epoStat_VALID : Fld := ⟨0x1016, 23, 21⟩
abbrev R.epoRefcfg : Nat := 0x1017
abbrev F.epoRefcfg_RANK_A : Fld := ⟨0x1017, 35, 34⟩
abbrev F.epoRefcfg_RANK_B : Fld := ⟨0x1017, 33, 32⟩
abbrev F.epoRefcfg_RANK_P : Fld := ⟨0x1017, 31, 30⟩
abbrev F.epoRefcfg_EN_A : Fld := ⟨0x1017, 29, 29⟩
abbrev F.epoRefcfg_EN_B : Fld := ⟨0x1017, 28, 28⟩
abbrev F.epoRefcfg_EN_P : Fld := ⟨0x1017, 27, 27⟩
abbrev F.epoRefcfg_EN_OCXO : Fld := ⟨0x1017, 26, 26⟩
abbrev F.epoRefcfg_QUAL_TIME : Fld := ⟨0x1017, 25, 18⟩
abbrev F.epoRefcfg_BW : Fld := ⟨0x1017, 17, 16⟩
abbrev R.epoSlew : Nat := 0x1018
abbrev F.epoSlew_RATE : Fld := ⟨0x1018, 35, 20⟩
abbrev F.epoSlew_MAX_OFS : Fld := ⟨0x1018, 19, 0⟩
abbrev R.epoPtp : Nat := 0x1019
abbrev F.epoPtp_TRANSPORT : Fld := ⟨0x1019, 8, 8⟩
abbrev F.epoPtp_DOMAIN : Fld := ⟨0x1019, 7, 0⟩
abbrev R.schCfg : Nat := 0x2010
abbrev F.schCfg_GRACE : Fld := ⟨0x2010, 9, 0⟩
abbrev R.schStat : Nat := 0x2011
abbrev F.schStat_ARMED : Fld := ⟨0x2011, 35, 23⟩
abbrev F.schStat_LATE_CNT : Fld := ⟨0x2011, 22, 11⟩
abbrev F.schStat_CONGEST_CNT : Fld := ⟨0x2011, 10, 0⟩
abbrev R.axsCfg (i : Nat) : Nat := 0x4010 + 0x400 * i
abbrev F.axsCfg_MODE (i : Nat) : Fld := ⟨0x4010 + 0x400 * i, 35, 34⟩
abbrev F.axsCfg_GRAY (i : Nat) : Fld := ⟨0x4010 + 0x400 * i, 33, 33⟩
abbrev F.axsCfg_IDX (i : Nat) : Fld := ⟨0x4010 + 0x400 * i, 32, 31⟩
abbrev F.axsCfg_FILT (i : Nat) : Fld := ⟨0x4010 + 0x400 * i, 30, 28⟩
abbrev F.axsCfg_BITS (i : Nat) : Fld := ⟨0x4010 + 0x400 * i, 27, 22⟩
abbrev F.axsCfg_DIV (i : Nat) : Fld := ⟨0x4010 + 0x400 * i, 21, 9⟩
abbrev F.axsCfg_PERIOD (i : Nat) : Fld := ⟨0x4010 + 0x400 * i, 8, 0⟩
abbrev R.axsPos (i : Nat) : Nat := 0x4011 + 0x400 * i
abbrev F.axsPos_POS (i : Nat) : Fld := ⟨0x4011 + 0x400 * i, 35, 0⟩
abbrev R.axsStat (i : Nat) : Nat := 0x4012 + 0x400 * i
abbrev F.axsStat_ILLEGAL (i : Nat) : Fld := ⟨0x4012 + 0x400 * i, 35, 35⟩
abbrev F.axsStat_FRAME_ERR (i : Nat) : Fld := ⟨0x4012 + 0x400 * i, 34, 34⟩
abbrev F.axsStat_IDX_SEEN (i : Nat) : Fld := ⟨0x4012 + 0x400 * i, 33, 33⟩
abbrev F.axsStat_ERR_CNT (i : Nat) : Fld := ⟨0x4012 + 0x400 * i, 11, 0⟩

/-- The rows of the register tables of spec/04_epoch_axes_scheduler.md. -/
def regTable04a : List RegRow := [
  ⟨0x1010, [], [⟨35, 0, .ro, 0x0⟩]⟩,
  ⟨0x1011, [], [⟨35, 0, .ro, 0x0⟩]⟩,
  ⟨0x1012, [], [⟨35, 0, .ro, 0x55E63B88C⟩]⟩,
  ⟨0x1013, [], [⟨10, 9, .ro, 0x0⟩, ⟨8, 0, .rw, 0x25⟩]⟩,
  ⟨0x1014, [], [⟨35, 0, .lk, 0x0⟩]⟩,
  ⟨0x1015, [], [⟨11, 0, .lk, 0x0⟩]⟩,
  ⟨0x1016, [], [⟨35, 33, .ro, 0x0⟩, ⟨32, 30, .ro, 0x7⟩, ⟨29, 27, .ro, 0x7⟩, ⟨26, 26, .ro, 0x0⟩, ⟨25, 25, .ro, 0x0⟩, ⟨24, 24, .ro, 0x0⟩, ⟨23, 21, .ro, 0x0⟩]⟩,
  ⟨0x1017, [], [⟨35, 34, .lk, 0x0⟩, ⟨33, 32, .lk, 0x1⟩, ⟨31, 30, .lk, 0x2⟩, ⟨29, 29, .lk, 0x1⟩, ⟨28, 28, .lk, 0x1⟩, ⟨27, 27, .lk, 0x0⟩, ⟨26, 26, .lk, 0x1⟩, ⟨25, 18, .lk, 0xA⟩, ⟨17, 16, .lk, 0x1⟩]⟩,
  ⟨0x1018, [], [⟨35, 20, .lk, 0x64⟩, ⟨19, 0, .lk, 0x3E8⟩]⟩,
  ⟨0x1019, [], [⟨8, 8, .lk, 0x0⟩, ⟨7, 0, .lk, 0x0⟩]⟩,
  ⟨0x2010, [], [⟨9, 0, .lk, 0xA⟩]⟩,
  ⟨0x2011, [], [⟨35, 23, .ro, 0x0⟩, ⟨22, 11, .rc, 0x0⟩, ⟨10, 0, .rc, 0x0⟩]⟩,
  ⟨0x4010, [(4, 0x400)], [⟨35, 34, .rw, 0x0⟩, ⟨33, 33, .rw, 0x0⟩, ⟨32, 31, .rw, 0x0⟩, ⟨30, 28, .rw, 0x0⟩, ⟨27, 22, .rw, 0x24⟩, ⟨21, 9, .rw, 0x4F⟩, ⟨8, 0, .rw, 0x64⟩]⟩,
  ⟨0x4011, [(4, 0x400)], [⟨35, 0, .rw, 0x0⟩]⟩,
  ⟨0x4012, [(4, 0x400)], [⟨35, 35, .w1c, 0x0⟩, ⟨34, 34, .w1c, 0x0⟩, ⟨33, 33, .w1c, 0x0⟩, ⟨11, 0, .rc, 0x0⟩]⟩]

/-! ### Registers of spec/05_ingest.md -/

abbrev R.felCfg0 (i : Nat) : Nat := 0x14010 + 0x400 * i
abbrev F.felCfg0_LANES (i : Nat) : Fld := ⟨0x14010 + 0x400 * i, 35, 20⟩
abbrev F.felCfg0_M_M1 (i : Nat) : Fld := ⟨0x14010 + 0x400 * i, 19, 12⟩
abbrev F.felCfg0_S_M1 (i : Nat) : Fld := ⟨0x14010 + 0x400 * i, 11, 9⟩
abbrev F.felCfg0_NP (i : Nat) : Fld := ⟨0x14010 + 0x400 * i, 8, 7⟩
abbrev F.felCfg0_N_M1 (i : Nat) : Fld := ⟨0x14010 + 0x400 * i, 6, 3⟩
abbrev F.felCfg0_CS (i : Nat) : Fld := ⟨0x14010 + 0x400 * i, 2, 1⟩
abbrev R.felCfg1 (i : Nat) : Nat := 0x14011 + 0x400 * i
abbrev F.felCfg1_E_M1 (i : Nat) : Fld := ⟨0x14011 + 0x400 * i, 35, 34⟩
abbrev F.felCfg1_IQ (i : Nat) : Fld := ⟨0x14011 + 0x400 * i, 33, 33⟩
abbrev F.felCfg1_SR_SRC (i : Nat) : Fld := ⟨0x14011 + 0x400 * i, 32, 31⟩
abbrev F.felCfg1_SR_PIN (i : Nat) : Fld := ⟨0x14011 + 0x400 * i, 30, 28⟩
abbrev F.felCfg1_SR_MON (i : Nat) : Fld := ⟨0x14011 + 0x400 * i, 27, 27⟩
abbrev F.felCfg1_CH_BASE (i : Nat) : Fld := ⟨0x14011 + 0x400 * i, 26, 15⟩
abbrev F.felCfg1_RBD (i : Nat) : Fld := ⟨0x14011 + 0x400 * i, 14, 0⟩
abbrev R.felRate (i : Nat) : Nat := 0x14012 + 0x400 * i
abbrev F.felRate_FS (i : Nat) : Fld := ⟨0x14012 + 0x400 * i, 35, 0⟩
abbrev R.felTxOfs (i : Nat) : Nat := 0x14013 + 0x400 * i
abbrev F.felTxOfs_OFS (i : Nat) : Fld := ⟨0x14013 + 0x400 * i, 35, 0⟩
abbrev R.felStat (i : Nat) : Nat := 0x14014 + 0x400 * i
abbrev F.felStat_STATE (i : Nat) : Fld := ⟨0x14014 + 0x400 * i, 35, 34⟩
abbrev F.felStat_CFG_REJ (i : Nat) : Fld := ⟨0x14014 + 0x400 * i, 33, 33⟩
abbrev F.felStat_SR_PHASE_ERR (i : Nat) : Fld := ⟨0x14014 + 0x400 * i, 32, 32⟩
abbrev F.felStat_OVF (i : Nat) : Fld := ⟨0x14014 + 0x400 * i, 31, 31⟩
abbrev F.felStat_LANES_UP (i : Nat) : Fld := ⟨0x14014 + 0x400 * i, 15, 0⟩
abbrev R.felCnt (i : Nat) : Nat := 0x14015 + 0x400 * i
abbrev F.felCnt_POISON_CNT (i : Nat) : Fld := ⟨0x14015 + 0x400 * i, 35, 18⟩
abbrev F.felCnt_FILL_CNT (i : Nat) : Fld := ⟨0x14015 + 0x400 * i, 17, 0⟩
abbrev R.felSlotLo (i : Nat) : Nat := 0x14016 + 0x400 * i
abbrev F.felSlotLo_SLOT (i : Nat) : Fld := ⟨0x14016 + 0x400 * i, 35, 0⟩
abbrev R.felSlotHi (i : Nat) : Nat := 0x14017 + 0x400 * i
abbrev F.felSlotHi_SLOT (i : Nat) : Fld := ⟨0x14017 + 0x400 * i, 35, 0⟩
abbrev R.felLane (i j : Nat) : Nat := 0x14020 + 0x400 * i + j
abbrev F.felLane_UP (i j : Nat) : Fld := ⟨0x14020 + 0x400 * i + j, 35, 35⟩
abbrev F.felLane_LOST_RSN (i j : Nat) : Fld := ⟨0x14020 + 0x400 * i + j, 34, 32⟩
abbrev F.felLane_CRC_CNT (i j : Nat) : Fld := ⟨0x14020 + 0x400 * i + j, 31, 24⟩
abbrev F.felLane_LAT (i j : Nat) : Fld := ⟨0x14020 + 0x400 * i + j, 23, 0⟩
abbrev R.ingStat : Nat := 0x10010
abbrev F.ingStat_STRETCH_CNT : Fld := ⟨0x10010, 35, 18⟩
abbrev F.ingStat_MAX_STRETCH : Fld := ⟨0x10010, 17, 8⟩
abbrev F.ingStat_LONG_CNT : Fld := ⟨0x10010, 7, 0⟩
abbrev R.ingDroop : Nat := 0x10011
abbrev F.ingDroop_THRESH : Fld := ⟨0x10011, 9, 0⟩
abbrev R.ingChCfg (i : Nat) : Nat := 0x11000 + 0x2 * i
abbrev F.ingChCfg_EN (i : Nat) : Fld := ⟨0x11000 + 0x2 * i, 35, 35⟩
abbrev F.ingChCfg_CLU (i : Nat) : Fld := ⟨0x11000 + 0x2 * i, 34, 29⟩
abbrev F.ingChCfg_QUEUE (i : Nat) : Fld := ⟨0x11000 + 0x2 * i, 28, 22⟩
abbrev F.ingChCfg_CS_POISON (i : Nat) : Fld := ⟨0x11000 + 0x2 * i, 21, 19⟩
abbrev R.ingChSkew (i : Nat) : Nat := 0x11001 + 0x2 * i
abbrev F.ingChSkew_SKEW (i : Nat) : Fld := ⟨0x11001 + 0x2 * i, 35, 0⟩
abbrev R.ingFchCfg (i : Nat) : Nat := 0x13000 + 0x4 * i
abbrev F.ingFchCfg_RUN (i : Nat) : Fld := ⟨0x13000 + 0x4 * i, 35, 35⟩
abbrev F.ingFchCfg_FMT (i : Nat) : Fld := ⟨0x13000 + 0x4 * i, 34, 34⟩
abbrev F.ingFchCfg_CLU (i : Nat) : Fld := ⟨0x13000 + 0x4 * i, 33, 28⟩
abbrev F.ingFchCfg_QUEUE (i : Nat) : Fld := ⟨0x13000 + 0x4 * i, 27, 21⟩
abbrev F.ingFchCfg_LATENCY (i : Nat) : Fld := ⟨0x13000 + 0x4 * i, 20, 0⟩
abbrev R.ingFchRate (i : Nat) : Nat := 0x13001 + 0x4 * i
abbrev F.ingFchRate_RATE (i : Nat) : Fld := ⟨0x13001 + 0x4 * i, 35, 0⟩
abbrev R.ingFchCnt (i : Nat) : Nat := 0x13002 + 0x4 * i
abbrev F.ingFchCnt_FILL (i : Nat) : Fld := ⟨0x13002 + 0x4 * i, 35, 27⟩
abbrev F.ingFchCnt_LATE (i : Nat) : Fld := ⟨0x13002 + 0x4 * i, 26, 18⟩
abbrev F.ingFchCnt_AHEAD (i : Nat) : Fld := ⟨0x13002 + 0x4 * i, 17, 9⟩
abbrev F.ingFchCnt_MALF (i : Nat) : Fld := ⟨0x13002 + 0x4 * i, 8, 0⟩

/-- The rows of the register tables of spec/05_ingest.md. -/
def regTable05a : List RegRow := [
  ⟨0x14010, [(16, 0x400)], [⟨35, 20, .rw, 0x0⟩, ⟨19, 12, .rw, 0x0⟩, ⟨11, 9, .rw, 0x0⟩, ⟨8, 7, .rw, 0x2⟩, ⟨6, 3, .rw, 0xF⟩, ⟨2, 1, .rw, 0x0⟩]⟩,
  ⟨0x14011, [(16, 0x400)], [⟨35, 34, .rw, 0x0⟩, ⟨33, 33, .rw, 0x0⟩, ⟨32, 31, .rw, 0x0⟩, ⟨30, 28, .rw, 0x0⟩, ⟨27, 27, .rw, 0x1⟩, ⟨26, 15, .rw, 0x0⟩, ⟨14, 0, .rw, 0x3E8⟩]⟩,
  ⟨0x14012, [(16, 0x400)], [⟨35, 0, .rw, 0x0⟩]⟩,
  ⟨0x14013, [(16, 0x400)], [⟨35, 0, .rw, 0x0⟩]⟩,
  ⟨0x14014, [(16, 0x400)], [⟨35, 34, .ro, 0x0⟩, ⟨33, 33, .w1c, 0x0⟩, ⟨32, 32, .w1c, 0x0⟩, ⟨31, 31, .w1c, 0x0⟩, ⟨15, 0, .ro, 0x0⟩]⟩,
  ⟨0x14015, [(16, 0x400)], [⟨35, 18, .rc, 0x0⟩, ⟨17, 0, .rc, 0x0⟩]⟩,
  ⟨0x14016, [(16, 0x400)], [⟨35, 0, .ro, 0x0⟩]⟩,
  ⟨0x14017, [(16, 0x400)], [⟨35, 0, .ro, 0x0⟩]⟩,
  ⟨0x14020, [(16, 0x400), (16, 0x1)], [⟨35, 35, .ro, 0x0⟩, ⟨34, 32, .ro, 0x0⟩, ⟨31, 24, .rc, 0x0⟩, ⟨23, 0, .ro, 0x0⟩]⟩,
  ⟨0x10010, [], [⟨35, 18, .rc, 0x0⟩, ⟨17, 8, .rc, 0x0⟩, ⟨7, 0, .rc, 0x0⟩]⟩,
  ⟨0x10011, [], [⟨9, 0, .lk, 0x2B2⟩]⟩,
  ⟨0x11000, [(4096, 0x2)], [⟨35, 35, .rw, 0x0⟩, ⟨34, 29, .rw, 0x0⟩, ⟨28, 22, .rw, 0x0⟩, ⟨21, 19, .rw, 0x0⟩]⟩,
  ⟨0x11001, [(4096, 0x2)], [⟨35, 0, .rw, 0x0⟩]⟩,
  ⟨0x13000, [(1024, 0x4)], [⟨35, 35, .ro, 0x0⟩, ⟨34, 34, .rw, 0x0⟩, ⟨33, 28, .rw, 0x0⟩, ⟨27, 21, .rw, 0x0⟩, ⟨20, 0, .rw, 0x3E8⟩]⟩,
  ⟨0x13001, [(1024, 0x4)], [⟨35, 0, .rw, 0x0⟩]⟩,
  ⟨0x13002, [(1024, 0x4)], [⟨35, 27, .rc, 0x0⟩, ⟨26, 18, .rc, 0x0⟩, ⟨17, 9, .rc, 0x0⟩, ⟨8, 0, .rc, 0x0⟩]⟩]

/-! ### Registers of spec/06_sample_chain.md -/

abbrev R.cluSat (i j : Nat) : Nat := 0x40020 + 0x1000 * i + j
abbrev F.cluSat_COUNT (i j : Nat) : Fld := ⟨0x40020 + 0x1000 * i + j, 35, 0⟩

/-- The rows of the register tables of spec/06_sample_chain.md. -/
def regTable06a : List RegRow := [
  ⟨0x40020, [(64, 0x1000), (7, 0x1)], [⟨35, 0, .rc, 0x0⟩]⟩]

/-! ### Registers of spec/07_work_distribution.md -/

abbrev R.tskCfg : Nat := 0x28010
abbrev F.tskCfg_ADM_LIMIT : Fld := ⟨0x28010, 35, 26⟩
abbrev F.tskCfg_BEAM_WAIT : Fld := ⟨0x28010, 25, 16⟩
abbrev F.tskCfg_MARGIN : Fld := ⟨0x28010, 15, 0⟩
abbrev R.tskBudget (i : Nat) : Nat := 0x28020 + i
abbrev F.tskBudget_NS (i : Nat) : Fld := ⟨0x28020 + i, 19, 0⟩
abbrev R.tskCost (i : Nat) : Nat := 0x28100 + i
abbrev F.tskCost_LOCAL (i : Nat) : Fld := ⟨0x28100 + i, 35, 18⟩
abbrev F.tskCost_REMOTE (i : Nat) : Fld := ⟨0x28100 + i, 17, 0⟩
abbrev R.tskRgnLoad (i : Nat) : Nat := 0x28400 + 0x10 * i
abbrev F.tskRgnLoad_ADM_REJ (i : Nat) : Fld := ⟨0x28400 + 0x10 * i, 35, 35⟩
abbrev F.tskRgnLoad_OVER (i : Nat) : Fld := ⟨0x28400 + 0x10 * i, 34, 34⟩
abbrev F.tskRgnLoad_N_AVAIL (i : Nat) : Fld := ⟨0x28400 + 0x10 * i, 16, 10⟩
abbrev F.tskRgnLoad_PERMILLE (i : Nat) : Fld := ⟨0x28400 + 0x10 * i, 9, 0⟩
abbrev R.tskRgnCnt (i : Nat) : Nat := 0x28401 + 0x10 * i
abbrev F.tskRgnCnt_LATE (i : Nat) : Fld := ⟨0x28401 + 0x10 * i, 35, 28⟩
abbrev F.tskRgnCnt_STEAL_REJ (i : Nat) : Fld := ⟨0x28401 + 0x10 * i, 27, 20⟩
abbrev F.tskRgnCnt_BEAM_LATE (i : Nat) : Fld := ⟨0x28401 + 0x10 * i, 19, 12⟩
abbrev F.tskRgnCnt_GEN_STALL (i : Nat) : Fld := ⟨0x28401 + 0x10 * i, 11, 0⟩
abbrev R.tskRgnSteals (i : Nat) : Nat := 0x28402 + 0x10 * i
abbrev F.tskRgnSteals_CLUSTER (i : Nat) : Fld := ⟨0x28402 + 0x10 * i, 35, 18⟩
abbrev F.tskRgnSteals_REGION (i : Nat) : Fld := ⟨0x28402 + 0x10 * i, 17, 0⟩
abbrev R.tskFence (i : Nat) : Nat := 0x28800 + i
abbrev F.tskFence_UNITS (i : Nat) : Fld := ⟨0x28800 + i, 31, 0⟩
abbrev R.tskUnit (i : Nat) : Nat := 0x29000 + i
abbrev F.tskUnit_FENCED (i : Nat) : Fld := ⟨0x29000 + i, 35, 35⟩
abbrev F.tskUnit_REASON (i : Nat) : Fld := ⟨0x29000 + i, 34, 32⟩
abbrev F.tskUnit_RUN (i : Nat) : Fld := ⟨0x29000 + i, 31, 31⟩
abbrev F.tskUnit_STOLEN (i : Nat) : Fld := ⟨0x29000 + i, 30, 30⟩
abbrev F.tskUnit_DEPTH (i : Nat) : Fld := ⟨0x29000 + i, 29, 24⟩
abbrev F.tskUnit_STEP (i : Nat) : Fld := ⟨0x29000 + i, 23, 20⟩
abbrev F.tskUnit_INDEX (i : Nat) : Fld := ⟨0x29000 + i, 13, 0⟩
abbrev R.tskQseq (i j : Nat) : Nat := 0x2A000 + 0x80 * i + j
abbrev F.tskQseq_NEXT_ISSUE (i j : Nat) : Fld := ⟨0x2A000 + 0x80 * i + j, 31, 16⟩
abbrev F.tskQseq_NEXT_REL (i j : Nat) : Fld := ⟨0x2A000 + 0x80 * i + j, 15, 0⟩

/-- The rows of the register tables of spec/07_work_distribution.md. -/
def regTable07a : List RegRow := [
  ⟨0x28010, [], [⟨35, 26, .lk, 0x352⟩, ⟨25, 16, .lk, 0xC8⟩, ⟨15, 0, .lk, 0x800⟩]⟩,
  ⟨0x28020, [(8, 0x1)], [⟨19, 0, .lk, 0xC350⟩]⟩,
  ⟨0x28100, [(256, 0x1)], [⟨35, 18, .rw, 0x3FFFF⟩, ⟨17, 0, .rw, 0x3FFFF⟩]⟩,
  ⟨0x28400, [(8, 0x10)], [⟨35, 35, .w1c, 0x0⟩, ⟨34, 34, .ro, 0x0⟩, ⟨16, 10, .ro, 0x78⟩, ⟨9, 0, .ro, 0x0⟩]⟩,
  ⟨0x28401, [(8, 0x10)], [⟨35, 28, .rc, 0x0⟩, ⟨27, 20, .rc, 0x0⟩, ⟨19, 12, .rc, 0x0⟩, ⟨11, 0, .rc, 0x0⟩]⟩,
  ⟨0x28402, [(8, 0x10)], [⟨35, 18, .rc, 0x0⟩, ⟨17, 0, .rc, 0x0⟩]⟩,
  ⟨0x28800, [(32, 0x1)], [⟨31, 0, .ro, 0x0⟩]⟩,
  ⟨0x29000, [(1024, 0x1)], [⟨35, 35, .ro, 0x0⟩, ⟨34, 32, .ro, 0x0⟩, ⟨31, 31, .ro, 0x0⟩, ⟨30, 30, .ro, 0x0⟩, ⟨29, 24, .ro, 0x0⟩, ⟨23, 20, .ro, 0x0⟩, ⟨13, 0, .ro, 0x0⟩]⟩,
  ⟨0x2A000, [(64, 0x80), (128, 0x1)], [⟨31, 16, .ro, 0x0⟩, ⟨15, 0, .ro, 0x0⟩]⟩]

/-! ### Registers of spec/08_capture_and_trigger.md -/

abbrev R.trgCfg (i : Nat) : Nat := 0xC010 + 0x200 * i
abbrev F.trgCfg_KIND (i : Nat) : Fld := ⟨0xC010 + 0x200 * i, 35, 35⟩
abbrev F.trgCfg_STOP (i : Nat) : Fld := ⟨0xC010 + 0x200 * i, 34, 34⟩
abbrev F.trgCfg_MFIELD (i : Nat) : Fld := ⟨0xC010 + 0x200 * i, 33, 31⟩
abbrev F.trgCfg_MSHIFT (i : Nat) : Fld := ⟨0xC010 + 0x200 * i, 30, 26⟩
abbrev F.trgCfg_MASK (i : Nat) : Fld := ⟨0xC010 + 0x200 * i, 25, 23⟩
abbrev F.trgCfg_TMO (i : Nat) : Fld := ⟨0xC010 + 0x200 * i, 22, 15⟩
abbrev R.trgSpan (i : Nat) : Nat := 0xC011 + 0x200 * i
abbrev F.trgSpan_PRE (i : Nat) : Fld := ⟨0xC011 + 0x200 * i, 31, 16⟩
abbrev F.trgSpan_POST_M1 (i : Nat) : Fld := ⟨0xC011 + 0x200 * i, 15, 0⟩
abbrev R.trgGroup (i : Nat) : Nat := 0xC012 + 0x200 * i
abbrev F.trgGroup_COUNT_M1 (i : Nat) : Fld := ⟨0xC012 + 0x200 * i, 35, 24⟩
abbrev F.trgGroup_FIRST (i : Nat) : Fld := ⟨0xC012 + 0x200 * i, 23, 12⟩
abbrev F.trgGroup_WATCH (i : Nat) : Fld := ⟨0xC012 + 0x200 * i, 11, 0⟩
abbrev R.trgRecBase (i : Nat) : Nat := 0xC013 + 0x200 * i
abbrev F.trgRecBase_BASE (i : Nat) : Fld := ⟨0xC013 + 0x200 * i, 33, 0⟩
abbrev R.trgRecLen (i : Nat) : Nat := 0xC014 + 0x200 * i
abbrev F.trgRecLen_LEN (i : Nat) : Fld := ⟨0xC014 + 0x200 * i, 30, 0⟩
abbrev R.trgRecEp (i : Nat) : Nat := 0xC015 + 0x200 * i
abbrev F.trgRecEp_EP (i : Nat) : Fld := ⟨0xC015 + 0x200 * i, 19, 0⟩
abbrev R.trgStat (i : Nat) : Nat := 0xC016 + 0x200 * i
abbrev F.trgStat_STATE (i : Nat) : Fld := ⟨0xC016 + 0x200 * i, 35, 33⟩
abbrev F.trgStat_CONT (i : Nat) : Fld := ⟨0xC016 + 0x200 * i, 32, 32⟩
abbrev F.trgStat_DECIM (i : Nat) : Fld := ⟨0xC016 + 0x200 * i, 31, 29⟩
abbrev F.trgStat_FILL_PM (i : Nat) : Fld := ⟨0xC016 + 0x200 * i, 28, 19⟩
abbrev F.trgStat_PEND (i : Nat) : Fld := ⟨0xC016 + 0x200 * i, 18, 16⟩
abbrev R.trgCnt (i : Nat) : Nat := 0xC017 + 0x200 * i
abbrev F.trgCnt_MISSED (i : Nat) : Fld := ⟨0xC017 + 0x200 * i, 35, 24⟩
abbrev F.trgCnt_DEC_SKIP (i : Nat) : Fld := ⟨0xC017 + 0x200 * i, 23, 12⟩
abbrev F.trgCnt_RETRIG (i : Nat) : Fld := ⟨0xC017 + 0x200 * i, 11, 0⟩
abbrev R.trgMissEpLo (i : Nat) : Nat := 0xC018 + 0x200 * i
abbrev F.trgMissEpLo_FRAC (i : Nat) : Fld := ⟨0xC018 + 0x200 * i, 35, 0⟩
abbrev R.trgMissEpHi (i : Nat) : Nat := 0xC019 + 0x200 * i
abbrev F.trgMissEpHi_SEC (i : Nat) : Fld := ⟨0xC019 + 0x200 * i, 35, 0⟩
abbrev R.trgRecnum (i : Nat) : Nat := 0xC01A + 0x200 * i
abbrev F.trgRecnum_NEXT (i : Nat) : Fld := ⟨0xC01A + 0x200 * i, 19, 0⟩
abbrev R.trgCond (i j : Nat) : Nat := 0xC020 + 0x200 * i + 0x2 * j
abbrev F.trgCond_TYPE (i j : Nat) : Fld := ⟨0xC020 + 0x200 * i + 0x2 * j, 35, 32⟩
abbrev F.trgCond_FIELD (i j : Nat) : Fld := ⟨0xC020 + 0x200 * i + 0x2 * j, 31, 29⟩
abbrev F.trgCond_PIN (i j : Nat) : Fld := ⟨0xC020 + 0x200 * i + 0x2 * j, 28, 26⟩
abbrev F.trgCond_TAGS (i j : Nat) : Fld := ⟨0xC020 + 0x200 * i + 0x2 * j, 25, 24⟩
abbrev R.trgThr (i j : Nat) : Nat := 0xC021 + 0x200 * i + 0x2 * j
abbrev F.trgThr_THR (i j : Nat) : Fld := ⟨0xC021 + 0x200 * i + 0x2 * j, 31, 0⟩
abbrev R.dmkStat : Nat := 0xE010
abbrev F.dmkStat_QDEPTH : Fld := ⟨0xE010, 35, 31⟩
abbrev F.dmkStat_BUSY : Fld := ⟨0xE010, 30, 30⟩
abbrev R.dmkCnt : Nat := 0xE011
abbrev F.dmkCnt_TESTED : Fld := ⟨0xE011, 35, 18⟩
abbrev F.dmkCnt_FAILED : Fld := ⟨0xE011, 17, 0⟩

/-- The rows of the register tables of spec/08_capture_and_trigger.md. -/
def regTable08a : List RegRow := [
  ⟨0xC010, [(16, 0x200)], [⟨35, 35, .lk, 0x0⟩, ⟨34, 34, .lk, 0x0⟩, ⟨33, 31, .lk, 0x2⟩, ⟨30, 26, .lk, 0x0⟩, ⟨25, 23, .lk, 0x0⟩, ⟨22, 15, .lk, 0x64⟩]⟩,
  ⟨0xC011, [(16, 0x200)], [⟨31, 16, .lk, 0x400⟩, ⟨15, 0, .lk, 0x3FF⟩]⟩,
  ⟨0xC012, [(16, 0x200)], [⟨35, 24, .lk, 0x0⟩, ⟨23, 12, .lk, 0x0⟩, ⟨11, 0, .lk, 0x0⟩]⟩,
  ⟨0xC013, [(16, 0x200)], [⟨33, 0, .lk, 0x0⟩]⟩,
  ⟨0xC014, [(16, 0x200)], [⟨30, 0, .lk, 0x0⟩]⟩,
  ⟨0xC015, [(16, 0x200)], [⟨19, 0, .lk, 0x0⟩]⟩,
  ⟨0xC016, [(16, 0x200)], [⟨35, 33, .ro, 0x0⟩, ⟨32, 32, .ro, 0x0⟩, ⟨31, 29, .ro, 0x0⟩, ⟨28, 19, .ro, 0x0⟩, ⟨18, 16, .ro, 0x0⟩]⟩,
  ⟨0xC017, [(16, 0x200)], [⟨35, 24, .rc, 0x0⟩, ⟨23, 12, .rc, 0x0⟩, ⟨11, 0, .rc, 0x0⟩]⟩,
  ⟨0xC018, [(16, 0x200)], [⟨35, 0, .ro, 0x0⟩]⟩,
  ⟨0xC019, [(16, 0x200)], [⟨35, 0, .ro, 0x0⟩]⟩,
  ⟨0xC01A, [(16, 0x200)], [⟨19, 0, .ro, 0x0⟩]⟩,
  ⟨0xC020, [(16, 0x200), (8, 0x2)], [⟨35, 32, .lk, 0x0⟩, ⟨31, 29, .lk, 0x0⟩, ⟨28, 26, .lk, 0x0⟩, ⟨25, 24, .lk, 0x0⟩]⟩,
  ⟨0xC021, [(16, 0x200), (8, 0x2)], [⟨31, 0, .lk, 0x0⟩]⟩,
  ⟨0xE010, [], [⟨35, 31, .ro, 0x0⟩, ⟨30, 30, .ro, 0x0⟩]⟩,
  ⟨0xE011, [], [⟨35, 18, .rc, 0x0⟩, ⟨17, 0, .rc, 0x0⟩]⟩]

/-! ### Registers of spec/09_calibration.md -/

abbrev R.calCfg : Nat := 0xF010
abbrev F.calCfg_STRICT : Fld := ⟨0xF010, 0, 0⟩
abbrev R.calBank (i : Nat) : Nat := 0xF011 + i
abbrev F.calBank_OFS (i : Nat) : Fld := ⟨0xF011 + i, 21, 0⟩
abbrev R.calStat : Nat := 0xF013
abbrev F.calStat_INIT : Fld := ⟨0xF013, 35, 35⟩
abbrev F.calStat_ACTIVE : Fld := ⟨0xF013, 34, 34⟩
abbrev F.calStat_PSTATE : Fld := ⟨0xF013, 33, 32⟩
abbrev F.calStat_JOB : Fld := ⟨0xF013, 31, 31⟩
abbrev F.calStat_STALE : Fld := ⟨0xF013, 30, 30⟩
abbrev F.calStat_ACT_GEN : Fld := ⟨0xF013, 23, 12⟩
abbrev F.calStat_PEND_GEN : Fld := ⟨0xF013, 11, 0⟩
abbrev R.calCnt : Nat := 0xF014
abbrev F.calCnt_JOBS : Fld := ⟨0xF014, 35, 24⟩
abbrev F.calCnt_APPLIES : Fld := ⟨0xF014, 23, 12⟩
abbrev F.calCnt_STALE_CNT : Fld := ⟨0xF014, 11, 0⟩
abbrev R.calLastLo : Nat := 0xF015
abbrev F.calLastLo_FRAC : Fld := ⟨0xF015, 35, 0⟩
abbrev R.calLastHi : Nat := 0xF016
abbrev F.calLastHi_SEC : Fld := ⟨0xF016, 35, 0⟩
abbrev R.calCond : Nat := 0xF017
abbrev F.calCond_CLASS : Fld := ⟨0xF017, 35, 34⟩
abbrev F.calCond_T1 : Fld := ⟨0xF017, 23, 12⟩
abbrev F.calCond_T0 : Fld := ⟨0xF017, 11, 0⟩
abbrev R.calPendSum (i : Nat) : Nat := 0xF018 + i
abbrev F.calPendSum_CLS_MIN (i : Nat) : Fld := ⟨0xF018 + i, 35, 34⟩
abbrev F.calPendSum_CLS_MAX (i : Nat) : Fld := ⟨0xF018 + i, 33, 32⟩
abbrev F.calPendSum_TMIN (i : Nat) : Fld := ⟨0xF018 + i, 23, 12⟩
abbrev F.calPendSum_TMAX (i : Nat) : Fld := ⟨0xF018 + i, 11, 0⟩
abbrev R.calTrim : Nat := 0xF01A
abbrev F.calTrim_FREEZE_JESD : Fld := ⟨0xF01A, 35, 35⟩
abbrev F.calTrim_FREEZE_LNK : Fld := ⟨0xF01A, 34, 34⟩
abbrev F.calTrim_TRIM_STEPS : Fld := ⟨0xF01A, 7, 0⟩
abbrev R.calShadow (i : Nat) : Nat := 0xF100 + i
abbrev F.calShadow_LOCAL (i : Nat) : Fld := ⟨0xF100 + i, 3, 0⟩

/-- The rows of the register tables of spec/09_calibration.md. -/
def regTable09a : List RegRow := [
  ⟨0xF010, [], [⟨0, 0, .lk, 0x0⟩]⟩,
  ⟨0xF011, [(2, 0x1)], [⟨21, 0, .lk, 0x0⟩]⟩,
  ⟨0xF013, [], [⟨35, 35, .ro, 0x0⟩, ⟨34, 34, .ro, 0x0⟩, ⟨33, 32, .ro, 0x0⟩, ⟨31, 31, .ro, 0x0⟩, ⟨30, 30, .w1c, 0x0⟩, ⟨23, 12, .ro, 0x0⟩, ⟨11, 0, .ro, 0x0⟩]⟩,
  ⟨0xF014, [], [⟨35, 24, .rc, 0x0⟩, ⟨23, 12, .rc, 0x0⟩, ⟨11, 0, .rc, 0x0⟩]⟩,
  ⟨0xF015, [], [⟨35, 0, .ro, 0x0⟩]⟩,
  ⟨0xF016, [], [⟨35, 0, .ro, 0x0⟩]⟩,
  ⟨0xF017, [], [⟨35, 34, .ro, 0x0⟩, ⟨23, 12, .ro, 0x0⟩, ⟨11, 0, .ro, 0x0⟩]⟩,
  ⟨0xF018, [(2, 0x1)], [⟨35, 34, .ro, 0x3⟩, ⟨33, 32, .ro, 0x0⟩, ⟨23, 12, .ro, 0x7FF⟩, ⟨11, 0, .ro, 0x800⟩]⟩,
  ⟨0xF01A, [], [⟨35, 35, .rw, 0x0⟩, ⟨34, 34, .rw, 0x0⟩, ⟨7, 0, .rc, 0x0⟩]⟩,
  ⟨0xF100, [(64, 0x1)], [⟨3, 0, .lk, 0xF⟩]⟩]

/-! ### Registers of spec/10_fiuth_bus.md -/

abbrev R.fiuCfg (i : Nat) : Nat := 0x1A011 + 0x800 * i
abbrev F.fiuCfg_EN (i : Nat) : Fld := ⟨0x1A011 + 0x800 * i, 35, 35⟩
abbrev F.fiuCfg_ROLE (i : Nat) : Fld := ⟨0x1A011 + 0x800 * i, 34, 34⟩
abbrev F.fiuCfg_MYSLOT (i : Nat) : Fld := ⟨0x1A011 + 0x800 * i, 33, 30⟩
abbrev F.fiuCfg_NO_RST (i : Nat) : Fld := ⟨0x1A011 + 0x800 * i, 29, 29⟩
abbrev F.fiuCfg_AUTO_ADMIT (i : Nat) : Fld := ⟨0x1A011 + 0x800 * i, 28, 28⟩
abbrev F.fiuCfg_HALT (i : Nat) : Fld := ⟨0x1A011 + 0x800 * i, 27, 27⟩
abbrev F.fiuCfg_DEF_TMO (i : Nat) : Fld := ⟨0x1A011 + 0x800 * i, 26, 15⟩
abbrev F.fiuCfg_RTY_MAX (i : Nat) : Fld := ⟨0x1A011 + 0x800 * i, 14, 11⟩
abbrev F.fiuCfg_RTY_WAIT (i : Nat) : Fld := ⟨0x1A011 + 0x800 * i, 10, 3⟩
abbrev R.fiuCtl (i : Nat) : Nat := 0x1A012 + 0x800 * i
abbrev F.fiuCtl_SYNC_PULSE (i : Nat) : Fld := ⟨0x1A012 + 0x800 * i, 0, 0⟩
abbrev R.fiuStat (i : Nat) : Nat := 0x1A013 + 0x800 * i
abbrev F.fiuStat_STATE (i : Nat) : Fld := ⟨0x1A013 + 0x800 * i, 35, 33⟩
abbrev F.fiuStat_HALT_IN (i : Nat) : Fld := ⟨0x1A013 + 0x800 * i, 32, 32⟩
abbrev F.fiuStat_CONFLICT (i : Nat) : Fld := ⟨0x1A013 + 0x800 * i, 31, 31⟩
abbrev F.fiuStat_STRAY (i : Nat) : Fld := ⟨0x1A013 + 0x800 * i, 30, 30⟩
abbrev F.fiuStat_LOCK_BRK (i : Nat) : Fld := ⟨0x1A013 + 0x800 * i, 29, 29⟩
abbrev F.fiuStat_DEF_OUT (i : Nat) : Fld := ⟨0x1A013 + 0x800 * i, 28, 24⟩
abbrev F.fiuStat_IRQ_IN (i : Nat) : Fld := ⟨0x1A013 + 0x800 * i, 23, 16⟩
abbrev R.fiuErrcnt (i : Nat) : Nat := 0x1A014 + 0x800 * i
abbrev F.fiuErrcnt_NOANS (i : Nat) : Fld := ⟨0x1A014 + 0x800 * i, 35, 27⟩
abbrev F.fiuErrcnt_PAR (i : Nat) : Fld := ⟨0x1A014 + 0x800 * i, 26, 18⟩
abbrev F.fiuErrcnt_PROTO (i : Nat) : Fld := ⟨0x1A014 + 0x800 * i, 17, 9⟩
abbrev F.fiuErrcnt_REJ (i : Nat) : Fld := ⟨0x1A014 + 0x800 * i, 8, 0⟩
abbrev R.fiuSyncCfg (i : Nat) : Nat := 0x1A015 + 0x800 * i
abbrev F.fiuSyncCfg_MODE (i : Nat) : Fld := ⟨0x1A015 + 0x800 * i, 11, 10⟩
abbrev F.fiuSyncCfg_PERIOD (i : Nat) : Fld := ⟨0x1A015 + 0x800 * i, 9, 0⟩
abbrev R.fiuSyncTsLo (i : Nat) : Nat := 0x1A016 + 0x800 * i
abbrev F.fiuSyncTsLo_FRAC (i : Nat) : Fld := ⟨0x1A016 + 0x800 * i, 35, 0⟩
abbrev R.fiuSyncTsHi (i : Nat) : Nat := 0x1A017 + 0x800 * i
abbrev F.fiuSyncTsHi_SEC (i : Nat) : Fld := ⟨0x1A017 + 0x800 * i, 35, 0⟩
abbrev R.fiuMod (i j : Nat) : Nat := 0x1A020 + 0x800 * i + j
abbrev F.fiuMod_PRESENT (i j : Nat) : Fld := ⟨0x1A020 + 0x800 * i + j, 35, 35⟩
abbrev F.fiuMod_EN (i j : Nat) : Fld := ⟨0x1A020 + 0x800 * i + j, 34, 34⟩
abbrev F.fiuMod_DEF_OK (i j : Nat) : Fld := ⟨0x1A020 + 0x800 * i + j, 33, 33⟩
abbrev F.fiuMod_RTY_OK (i j : Nat) : Fld := ⟨0x1A020 + 0x800 * i + j, 32, 32⟩
abbrev F.fiuMod_DEFERS (i j : Nat) : Fld := ⟨0x1A020 + 0x800 * i + j, 31, 31⟩
abbrev F.fiuMod_MASTER (i j : Nat) : Fld := ⟨0x1A020 + 0x800 * i + j, 30, 30⟩
abbrev F.fiuMod_ID (i j : Nat) : Fld := ⟨0x1A020 + 0x800 * i + j, 19, 0⟩
abbrev R.fiuIrqMap (i j : Nat) : Nat := 0x1A030 + 0x800 * i + j
abbrev F.fiuIrqMap_SLOTS (i j : Nat) : Fld := ⟨0x1A030 + 0x800 * i + j, 15, 0⟩

/-- The rows of the register tables of spec/10_fiuth_bus.md. -/
def regTable10a : List RegRow := [
  ⟨0x1A011, [(4, 0x800)], [⟨35, 35, .rw, 0x1⟩, ⟨34, 34, .rw, 0x0⟩, ⟨33, 30, .rw, 0x0⟩, ⟨29, 29, .rw, 0x1⟩, ⟨28, 28, .rw, 0x0⟩, ⟨27, 27, .rw, 0x0⟩, ⟨26, 15, .rw, 0x3E8⟩, ⟨14, 11, .rw, 0x8⟩, ⟨10, 3, .rw, 0x2⟩]⟩,
  ⟨0x1A012, [(4, 0x800)], [⟨0, 0, .wo, 0x0⟩]⟩,
  ⟨0x1A013, [(4, 0x800)], [⟨35, 33, .ro, 0x0⟩, ⟨32, 32, .ro, 0x0⟩, ⟨31, 31, .w1c, 0x0⟩, ⟨30, 30, .w1c, 0x0⟩, ⟨29, 29, .w1c, 0x0⟩, ⟨28, 24, .ro, 0x0⟩, ⟨23, 16, .ro, 0x0⟩]⟩,
  ⟨0x1A014, [(4, 0x800)], [⟨35, 27, .rc, 0x0⟩, ⟨26, 18, .rc, 0x0⟩, ⟨17, 9, .rc, 0x0⟩, ⟨8, 0, .rc, 0x0⟩]⟩,
  ⟨0x1A015, [(4, 0x800)], [⟨11, 10, .rw, 0x0⟩, ⟨9, 0, .rw, 0x3E8⟩]⟩,
  ⟨0x1A016, [(4, 0x800)], [⟨35, 0, .ro, 0x0⟩]⟩,
  ⟨0x1A017, [(4, 0x800)], [⟨35, 0, .ro, 0x0⟩]⟩,
  ⟨0x1A020, [(4, 0x800), (16, 0x1)], [⟨35, 35, .ro, 0x0⟩, ⟨34, 34, .ro, 0x0⟩, ⟨33, 33, .rw, 0x0⟩, ⟨32, 32, .rw, 0x0⟩, ⟨31, 31, .rw, 0x0⟩, ⟨30, 30, .rw, 0x0⟩, ⟨19, 0, .ro, 0x0⟩]⟩,
  ⟨0x1A030, [(4, 0x800), (8, 0x1)], [⟨15, 0, .rw, 0x0⟩]⟩]

/-! ### Registers of spec/11_bridge.md -/

abbrev R.brgCfg : Nat := 0x18010
abbrev F.brgCfg_IMM : Fld := ⟨0x18010, 35, 29⟩
abbrev F.brgCfg_RTY_HOLD : Fld := ⟨0x18010, 28, 19⟩
abbrev F.brgCfg_MIRQ : Fld := ⟨0x18010, 18, 18⟩
abbrev F.brgCfg_MVEC : Fld := ⟨0x18010, 17, 10⟩
abbrev R.brgStat : Nat := 0x18011
abbrev F.brgStat_CFG_REJ : Fld := ⟨0x18011, 35, 35⟩
abbrev R.brgPerrInfo : Nat := 0x18012
abbrev F.brgPerrInfo_VALID : Fld := ⟨0x18012, 35, 35⟩
abbrev F.brgPerrInfo_DIR : Fld := ⟨0x18012, 34, 34⟩
abbrev F.brgPerrInfo_PORT : Fld := ⟨0x18012, 33, 32⟩
abbrev F.brgPerrInfo_SRC : Fld := ⟨0x18012, 31, 27⟩
abbrev F.brgPerrInfo_REASON : Fld := ⟨0x18012, 26, 23⟩
abbrev F.brgPerrInfo_OVF : Fld := ⟨0x18012, 22, 11⟩
abbrev R.brgPerrLo : Nat := 0x18013
abbrev F.brgPerrLo_ADDR : Fld := ⟨0x18013, 35, 0⟩
abbrev R.brgPerrHi : Nat := 0x18014
abbrev F.brgPerrHi_ADDR : Fld := ⟨0x18014, 3, 0⟩
abbrev R.brgPortCnt (i : Nat) : Nat := 0x18020 + i
abbrev F.brgPortCnt_PW_FULL (i : Nat) : Fld := ⟨0x18020 + i, 35, 28⟩
abbrev F.brgPortCnt_TAG_FULL (i : Nat) : Fld := ⟨0x18020 + i, 27, 20⟩
abbrev F.brgPortCnt_RTY_DISC (i : Nat) : Fld := ⟨0x18020 + i, 19, 12⟩
abbrev F.brgPortCnt_RD_LOST (i : Nat) : Fld := ⟨0x18020 + i, 11, 6⟩
abbrev F.brgPortCnt_WIN_REJ (i : Nat) : Fld := ⟨0x18020 + i, 5, 0⟩
abbrev R.brgMsg (i : Nat) : Nat := 0x18028 + i
abbrev F.brgMsg_EVT (i : Nat) : Fld := ⟨0x18028 + i, 24, 24⟩
abbrev F.brgMsg_PKT (i : Nat) : Fld := ⟨0x18028 + i, 23, 23⟩
abbrev F.brgMsg_SRC (i : Nat) : Fld := ⟨0x18028 + i, 22, 12⟩
abbrev F.brgMsg_MSG_DROP (i : Nat) : Fld := ⟨0x18028 + i, 11, 0⟩
abbrev R.brgPortStat (i : Nat) : Nat := 0x18030 + i
abbrev F.brgPortStat_TAGS (i : Nat) : Fld := ⟨0x18030 + i, 35, 29⟩
abbrev F.brgPortStat_PW_FILL (i : Nat) : Fld := ⟨0x18030 + i, 28, 20⟩
abbrev F.brgPortStat_MSGQ (i : Nat) : Fld := ⟨0x18030 + i, 19, 15⟩
abbrev R.brgIwinCfg (i j : Nat) : Nat := 0x18100 + 0x20 * i + 0x2 * j
abbrev F.brgIwinCfg_EN (i j : Nat) : Fld := ⟨0x18100 + 0x20 * i + 0x2 * j, 35, 35⟩
abbrev F.brgIwinCfg_XLT (i j : Nat) : Fld := ⟨0x18100 + 0x20 * i + 0x2 * j, 34, 33⟩
abbrev F.brgIwinCfg_WIDTH (i j : Nat) : Fld := ⟨0x18100 + 0x20 * i + 0x2 * j, 32, 31⟩
abbrev F.brgIwinCfg_RD_EN (i j : Nat) : Fld := ⟨0x18100 + 0x20 * i + 0x2 * j, 30, 30⟩
abbrev F.brgIwinCfg_WR_EN (i j : Nat) : Fld := ⟨0x18100 + 0x20 * i + 0x2 * j, 29, 29⟩
abbrev F.brgIwinCfg_LOCK_EN (i j : Nat) : Fld := ⟨0x18100 + 0x20 * i + 0x2 * j, 28, 28⟩
abbrev F.brgIwinCfg_LIMIT (i j : Nat) : Fld := ⟨0x18100 + 0x20 * i + 0x2 * j, 21, 0⟩
abbrev R.brgIwinBase (i j : Nat) : Nat := 0x18101 + 0x20 * i + 0x2 * j
abbrev F.brgIwinBase_BASE (i j : Nat) : Fld := ⟨0x18101 + 0x20 * i + 0x2 * j, 35, 0⟩
abbrev R.brgOwinCfg (i : Nat) : Nat := 0x18200 + 0x2 * i
abbrev F.brgOwinCfg_EN (i : Nat) : Fld := ⟨0x18200 + 0x2 * i, 35, 35⟩
abbrev F.brgOwinCfg_PORT (i : Nat) : Fld := ⟨0x18200 + 0x2 * i, 34, 33⟩
abbrev F.brgOwinCfg_WIDTH (i : Nat) : Fld := ⟨0x18200 + 0x2 * i, 32, 31⟩
abbrev F.brgOwinCfg_BLOCK (i : Nat) : Fld := ⟨0x18200 + 0x2 * i, 30, 30⟩
abbrev F.brgOwinCfg_LIMIT (i : Nat) : Fld := ⟨0x18200 + 0x2 * i, 25, 0⟩
abbrev R.brgOwinBase (i : Nat) : Nat := 0x18201 + 0x2 * i
abbrev F.brgOwinBase_BASE (i : Nat) : Fld := ⟨0x18201 + 0x2 * i, 35, 0⟩
abbrev R.rteGen : Nat := 0x1C010
abbrev F.rteGen_STATE : Fld := ⟨0x1C010, 35, 34⟩
abbrev F.rteGen_ACT_GEN : Fld := ⟨0x1C010, 33, 22⟩
abbrev F.rteGen_STG_GEN : Fld := ⟨0x1C010, 21, 10⟩
abbrev F.rteGen_FIXED : Fld := ⟨0x1C010, 9, 9⟩
abbrev R.rteStg : Nat := 0x1C012
abbrev F.rteStg_COUNT : Fld := ⟨0x1C012, 13, 0⟩
abbrev R.rteCnt : Nat := 0x1C011
abbrev F.rteCnt_DISCARD : Fld := ⟨0x1C011, 35, 24⟩
abbrev F.rteCnt_LOOP : Fld := ⟨0x1C011, 23, 12⟩
abbrev F.rteCnt_CLIP : Fld := ⟨0x1C011, 11, 0⟩

/-- The rows of the register tables of spec/11_bridge.md. -/
def regTable11a : List RegRow := [
  ⟨0x18010, [], [⟨35, 29, .lk, 0x18⟩, ⟨28, 19, .lk, 0x64⟩, ⟨18, 18, .rw, 0x0⟩, ⟨17, 10, .rw, 0x0⟩]⟩,
  ⟨0x18011, [], [⟨35, 35, .w1c, 0x0⟩]⟩,
  ⟨0x18012, [], [⟨35, 35, .w1c, 0x0⟩, ⟨34, 34, .ro, 0x0⟩, ⟨33, 32, .ro, 0x0⟩, ⟨31, 27, .ro, 0x0⟩, ⟨26, 23, .ro, 0x0⟩, ⟨22, 11, .rc, 0x0⟩]⟩,
  ⟨0x18013, [], [⟨35, 0, .ro, 0x0⟩]⟩,
  ⟨0x18014, [], [⟨3, 0, .ro, 0x0⟩]⟩,
  ⟨0x18020, [(4, 0x1)], [⟨35, 28, .rc, 0x0⟩, ⟨27, 20, .rc, 0x0⟩, ⟨19, 12, .rc, 0x0⟩, ⟨11, 6, .rc, 0x0⟩, ⟨5, 0, .rc, 0x0⟩]⟩,
  ⟨0x18028, [(4, 0x1)], [⟨24, 24, .rw, 0x1⟩, ⟨23, 23, .rw, 0x0⟩, ⟨22, 12, .rw, 0xFF⟩, ⟨11, 0, .rc, 0x0⟩]⟩,
  ⟨0x18030, [(4, 0x1)], [⟨35, 29, .ro, 0x0⟩, ⟨28, 20, .ro, 0x0⟩, ⟨19, 15, .ro, 0x0⟩]⟩,
  ⟨0x18100, [(4, 0x20), (12, 0x2)], [⟨35, 35, .rw, 0x0⟩, ⟨34, 33, .lk, 0x0⟩, ⟨32, 31, .lk, 0x0⟩, ⟨30, 30, .lk, 0x1⟩, ⟨29, 29, .lk, 0x1⟩, ⟨28, 28, .lk, 0x0⟩, ⟨21, 0, .lk, 0x3FFFFF⟩]⟩,
  ⟨0x18101, [(4, 0x20), (12, 0x2)], [⟨35, 0, .lk, 0x0⟩]⟩,
  ⟨0x18200, [(16, 0x2)], [⟨35, 35, .rw, 0x0⟩, ⟨34, 33, .lk, 0x0⟩, ⟨32, 31, .lk, 0x0⟩, ⟨30, 30, .lk, 0x1⟩, ⟨25, 0, .lk, 0x0⟩]⟩,
  ⟨0x18201, [(16, 0x2)], [⟨35, 0, .lk, 0x0⟩]⟩,
  ⟨0x1C010, [], [⟨35, 34, .ro, 0x0⟩, ⟨33, 22, .ro, 0x0⟩, ⟨21, 10, .ro, 0x0⟩, ⟨9, 9, .ro, 0x1⟩]⟩,
  ⟨0x1C012, [], [⟨13, 0, .ro, 0x0⟩]⟩,
  ⟨0x1C011, [], [⟨35, 24, .rc, 0x0⟩, ⟨23, 12, .rc, 0x0⟩, ⟨11, 0, .rc, 0x0⟩]⟩]

/-! ### Registers of spec/12_coherent_fabric.md -/

abbrev R.cohCfg : Nat := 0x1E010
abbrev F.cohCfg_EN : Fld := ⟨0x1E010, 35, 35⟩
abbrev F.cohCfg_DOMAIN_ID : Fld := ⟨0x1E010, 34, 19⟩
abbrev F.cohCfg_EXPECT : Fld := ⟨0x1E010, 18, 12⟩
abbrev F.cohCfg_FORM_TMO : Fld := ⟨0x1E010, 11, 0⟩
abbrev R.cohTmo : Nat := 0x1E011
abbrev F.cohTmo_REQ_TMO : Fld := ⟨0x1E011, 35, 18⟩
abbrev F.cohTmo_SNP_TMO : Fld := ⟨0x1E011, 17, 0⟩
abbrev R.cohStat : Nat := 0x1E012
abbrev F.cohStat_STATE : Fld := ⟨0x1E012, 35, 34⟩
abbrev F.cohStat_SIZE : Fld := ⟨0x1E012, 33, 32⟩
abbrev F.cohStat_MEMBERS : Fld := ⟨0x1E012, 31, 25⟩
abbrev F.cohStat_MY_IDX : Fld := ⟨0x1E012, 24, 19⟩
abbrev F.cohStat_FORMER_IDX : Fld := ⟨0x1E012, 18, 13⟩
abbrev F.cohStat_LEADER : Fld := ⟨0x1E012, 12, 7⟩
abbrev F.cohStat_JOIN_REJ : Fld := ⟨0x1E012, 6, 6⟩
abbrev R.cohCnt : Nat := 0x1E013
abbrev F.cohCnt_POISONED : Fld := ⟨0x1E013, 35, 27⟩
abbrev F.cohCnt_LOST_LINES : Fld := ⟨0x1E013, 26, 18⟩
abbrev F.cohCnt_TIMEOUT : Fld := ⟨0x1E013, 17, 9⟩
abbrev F.cohCnt_LATE_RSP : Fld := ⟨0x1E013, 8, 0⟩
abbrev R.cohPlogLo : Nat := 0x1E014
abbrev F.cohPlogLo_ADDR : Fld := ⟨0x1E014, 35, 0⟩
abbrev R.cohPlogHi : Nat := 0x1E015
abbrev F.cohPlogHi_ADDR : Fld := ⟨0x1E015, 3, 0⟩
abbrev R.cohMap (i : Nat) : Nat := 0x1E100 + i
abbrev F.cohMap_VALID (i : Nat) : Fld := ⟨0x1E100 + i, 35, 35⟩
abbrev F.cohMap_DEAD (i : Nat) : Fld := ⟨0x1E100 + i, 34, 34⟩
abbrev F.cohMap_PKG_ID (i : Nat) : Fld := ⟨0x1E100 + i, 15, 0⟩
abbrev R.cohCache (i : Nat) : Nat := 0x1E200 + i
abbrev F.cohCache_OFF (i : Nat) : Fld := ⟨0x1E200 + i, 35, 35⟩
abbrev F.cohCache_VALID (i : Nat) : Fld := ⟨0x1E200 + i, 9, 0⟩
abbrev R.cohHome (i : Nat) : Nat := 0x1E300 + i
abbrev F.cohHome_TRK (i : Nat) : Fld := ⟨0x1E300 + i, 35, 27⟩
abbrev F.cohHome_WB_TRK (i : Nat) : Fld := ⟨0x1E300 + i, 26, 21⟩

/-- The rows of the register tables of spec/12_coherent_fabric.md. -/
def regTable12a : List RegRow := [
  ⟨0x1E010, [], [⟨35, 35, .rw, 0x0⟩, ⟨34, 19, .lk, 0x0⟩, ⟨18, 12, .lk, 0x4⟩, ⟨11, 0, .lk, 0x96⟩]⟩,
  ⟨0x1E011, [], [⟨35, 18, .lk, 0x7D0⟩, ⟨17, 0, .lk, 0x1F4⟩]⟩,
  ⟨0x1E012, [], [⟨35, 34, .ro, 0x0⟩, ⟨33, 32, .ro, 0x0⟩, ⟨31, 25, .ro, 0x0⟩, ⟨24, 19, .ro, 0x0⟩, ⟨18, 13, .ro, 0x0⟩, ⟨12, 7, .ro, 0x0⟩, ⟨6, 6, .w1c, 0x0⟩]⟩,
  ⟨0x1E013, [], [⟨35, 27, .rc, 0x0⟩, ⟨26, 18, .rc, 0x0⟩, ⟨17, 9, .rc, 0x0⟩, ⟨8, 0, .rc, 0x0⟩]⟩,
  ⟨0x1E014, [], [⟨35, 0, .ro, 0x0⟩]⟩,
  ⟨0x1E015, [], [⟨3, 0, .ro, 0x0⟩]⟩,
  ⟨0x1E100, [(64, 0x1)], [⟨35, 35, .ro, 0x0⟩, ⟨34, 34, .ro, 0x0⟩, ⟨15, 0, .ro, 0x0⟩]⟩,
  ⟨0x1E200, [(64, 0x1)], [⟨35, 35, .ro, 0x0⟩, ⟨9, 0, .ro, 0x0⟩]⟩,
  ⟨0x1E300, [(8, 0x1)], [⟨35, 27, .ro, 0x0⟩, ⟨26, 21, .ro, 0x0⟩]⟩]

/-! ### Registers of spec/13_arbitration.md -/

abbrev R.cluTwlSlot (i j : Nat) : Nat := 0x40C00 + 0x1000 * i + j
abbrev F.cluTwlSlot_FREE (i j : Nat) : Fld := ⟨0x40C00 + 0x1000 * i + j, 5, 5⟩
abbrev F.cluTwlSlot_REQ (i j : Nat) : Fld := ⟨0x40C00 + 0x1000 * i + j, 4, 0⟩
abbrev R.rgnTwlSlot (i j : Nat) : Nat := 0x30400 + 0x800 * i + j
abbrev F.rgnTwlSlot_FREE (i j : Nat) : Fld := ⟨0x30400 + 0x800 * i + j, 5, 5⟩
abbrev F.rgnTwlSlot_REQ (i j : Nat) : Fld := ⟨0x30400 + 0x800 * i + j, 4, 0⟩
abbrev R.hbmTwlSlot (i j : Nat) : Nat := 0x800000 + 0x400 * i + j
abbrev F.hbmTwlSlot_FREE (i j : Nat) : Fld := ⟨0x800000 + 0x400 * i + j, 5, 5⟩
abbrev F.hbmTwlSlot_REQ (i j : Nat) : Fld := ⟨0x800000 + 0x400 * i + j, 4, 0⟩
abbrev R.fiuTwlSlot (i j : Nat) : Nat := 0x1A400 + 0x800 * i + j
abbrev F.fiuTwlSlot_FREE (i j : Nat) : Fld := ⟨0x1A400 + 0x800 * i + j, 5, 5⟩
abbrev F.fiuTwlSlot_REQ (i j : Nat) : Fld := ⟨0x1A400 + 0x800 * i + j, 4, 0⟩
abbrev R.cluTwlCfg (i : Nat) : Nat := 0x40D00 + 0x1000 * i
abbrev F.cluTwlCfg_LEN_M1 (i : Nat) : Fld := ⟨0x40D00 + 0x1000 * i, 35, 28⟩
abbrev F.cluTwlCfg_MAXWAIT (i : Nat) : Fld := ⟨0x40D00 + 0x1000 * i, 27, 16⟩
abbrev R.rgnTwlCfg (i : Nat) : Nat := 0x30500 + 0x800 * i
abbrev F.rgnTwlCfg_LEN_M1 (i : Nat) : Fld := ⟨0x30500 + 0x800 * i, 35, 28⟩
abbrev F.rgnTwlCfg_MAXWAIT (i : Nat) : Fld := ⟨0x30500 + 0x800 * i, 27, 16⟩
abbrev R.hbmTwlCfg (i : Nat) : Nat := 0x800100 + 0x400 * i
abbrev F.hbmTwlCfg_LEN_M1 (i : Nat) : Fld := ⟨0x800100 + 0x400 * i, 35, 28⟩
abbrev F.hbmTwlCfg_MAXWAIT (i : Nat) : Fld := ⟨0x800100 + 0x400 * i, 27, 16⟩
abbrev R.fiuTwlCfg (i : Nat) : Nat := 0x1A500 + 0x800 * i
abbrev F.fiuTwlCfg_LEN_M1 (i : Nat) : Fld := ⟨0x1A500 + 0x800 * i, 35, 28⟩
abbrev F.fiuTwlCfg_MAXWAIT (i : Nat) : Fld := ⟨0x1A500 + 0x800 * i, 27, 16⟩
abbrev R.cluTwlStat (i : Nat) : Nat := 0x40D01 + 0x1000 * i
abbrev F.cluTwlStat_PTR (i : Nat) : Fld := ⟨0x40D01 + 0x1000 * i, 35, 28⟩
abbrev F.cluTwlStat_BAD_SLOT (i : Nat) : Fld := ⟨0x40D01 + 0x1000 * i, 27, 27⟩
abbrev R.rgnTwlStat (i : Nat) : Nat := 0x30501 + 0x800 * i
abbrev F.rgnTwlStat_PTR (i : Nat) : Fld := ⟨0x30501 + 0x800 * i, 35, 28⟩
abbrev F.rgnTwlStat_BAD_SLOT (i : Nat) : Fld := ⟨0x30501 + 0x800 * i, 27, 27⟩
abbrev R.hbmTwlStat (i : Nat) : Nat := 0x800101 + 0x400 * i
abbrev F.hbmTwlStat_PTR (i : Nat) : Fld := ⟨0x800101 + 0x400 * i, 35, 28⟩
abbrev F.hbmTwlStat_BAD_SLOT (i : Nat) : Fld := ⟨0x800101 + 0x400 * i, 27, 27⟩
abbrev R.fiuTwlStat (i : Nat) : Nat := 0x1A501 + 0x800 * i
abbrev F.fiuTwlStat_PTR (i : Nat) : Fld := ⟨0x1A501 + 0x800 * i, 35, 28⟩
abbrev F.fiuTwlStat_BAD_SLOT (i : Nat) : Fld := ⟨0x1A501 + 0x800 * i, 27, 27⟩
abbrev R.cluTwlCnt (i : Nat) : Nat := 0x40D02 + 0x1000 * i
abbrev F.cluTwlCnt_DEAD (i : Nat) : Fld := ⟨0x40D02 + 0x1000 * i, 35, 18⟩
abbrev F.cluTwlCnt_AGED (i : Nat) : Fld := ⟨0x40D02 + 0x1000 * i, 17, 0⟩
abbrev R.rgnTwlCnt (i : Nat) : Nat := 0x30502 + 0x800 * i
abbrev F.rgnTwlCnt_DEAD (i : Nat) : Fld := ⟨0x30502 + 0x800 * i, 35, 18⟩
abbrev F.rgnTwlCnt_AGED (i : Nat) : Fld := ⟨0x30502 + 0x800 * i, 17, 0⟩
abbrev R.hbmTwlCnt (i : Nat) : Nat := 0x800102 + 0x400 * i
abbrev F.hbmTwlCnt_DEAD (i : Nat) : Fld := ⟨0x800102 + 0x400 * i, 35, 18⟩
abbrev F.hbmTwlCnt_AGED (i : Nat) : Fld := ⟨0x800102 + 0x400 * i, 17, 0⟩
abbrev R.fiuTwlCnt (i : Nat) : Nat := 0x1A502 + 0x800 * i
abbrev F.fiuTwlCnt_DEAD (i : Nat) : Fld := ⟨0x1A502 + 0x800 * i, 35, 18⟩
abbrev F.fiuTwlCnt_AGED (i : Nat) : Fld := ⟨0x1A502 + 0x800 * i, 17, 0⟩
abbrev R.cluTwlReq (i j : Nat) : Nat := 0x40E00 + 0x1000 * i + j
abbrev F.cluTwlReq_PEND (i j : Nat) : Fld := ⟨0x40E00 + 0x1000 * i + j, 35, 33⟩
abbrev F.cluTwlReq_MAX_WAIT (i j : Nat) : Fld := ⟨0x40E00 + 0x1000 * i + j, 32, 21⟩
abbrev F.cluTwlReq_STALL (i j : Nat) : Fld := ⟨0x40E00 + 0x1000 * i + j, 20, 9⟩
abbrev R.rgnTwlReq (i j : Nat) : Nat := 0x30600 + 0x800 * i + j
abbrev F.rgnTwlReq_PEND (i j : Nat) : Fld := ⟨0x30600 + 0x800 * i + j, 35, 33⟩
abbrev F.rgnTwlReq_MAX_WAIT (i j : Nat) : Fld := ⟨0x30600 + 0x800 * i + j, 32, 21⟩
abbrev F.rgnTwlReq_STALL (i j : Nat) : Fld := ⟨0x30600 + 0x800 * i + j, 20, 9⟩
abbrev R.hbmTwlReq (i j : Nat) : Nat := 0x800200 + 0x400 * i + j
abbrev F.hbmTwlReq_PEND (i j : Nat) : Fld := ⟨0x800200 + 0x400 * i + j, 35, 33⟩
abbrev F.hbmTwlReq_MAX_WAIT (i j : Nat) : Fld := ⟨0x800200 + 0x400 * i + j, 32, 21⟩
abbrev F.hbmTwlReq_STALL (i j : Nat) : Fld := ⟨0x800200 + 0x400 * i + j, 20, 9⟩
abbrev R.fiuTwlReq (i j : Nat) : Nat := 0x1A600 + 0x800 * i + j
abbrev F.fiuTwlReq_PEND (i j : Nat) : Fld := ⟨0x1A600 + 0x800 * i + j, 35, 33⟩
abbrev F.fiuTwlReq_MAX_WAIT (i j : Nat) : Fld := ⟨0x1A600 + 0x800 * i + j, 32, 21⟩
abbrev F.fiuTwlReq_STALL (i j : Nat) : Fld := ⟨0x1A600 + 0x800 * i + j, 20, 9⟩
abbrev R.cluTwlGnt (i j : Nat) : Nat := 0x40E20 + 0x1000 * i + j
abbrev F.cluTwlGnt_COUNT (i j : Nat) : Fld := ⟨0x40E20 + 0x1000 * i + j, 35, 0⟩
abbrev R.rgnTwlGnt (i j : Nat) : Nat := 0x30620 + 0x800 * i + j
abbrev F.rgnTwlGnt_COUNT (i j : Nat) : Fld := ⟨0x30620 + 0x800 * i + j, 35, 0⟩
abbrev R.hbmTwlGnt (i j : Nat) : Nat := 0x800220 + 0x400 * i + j
abbrev F.hbmTwlGnt_COUNT (i j : Nat) : Fld := ⟨0x800220 + 0x400 * i + j, 35, 0⟩
abbrev R.fiuTwlGnt (i j : Nat) : Nat := 0x1A620 + 0x800 * i + j
abbrev F.fiuTwlGnt_COUNT (i j : Nat) : Fld := ⟨0x1A620 + 0x800 * i + j, 35, 0⟩
abbrev R.topTwlSel (i : Nat) : Nat := 0x900000 + i
abbrev F.topTwlSel_CH (i : Nat) : Fld := ⟨0x900000 + i, 4, 0⟩

/-- The rows of the register tables of spec/13_arbitration.md. -/
def regTable13a : List RegRow := [
  ⟨0x40C00, [(64, 0x1000), (256, 0x1)], [⟨5, 5, .lk, 0x1⟩, ⟨4, 0, .lk, 0x0⟩]⟩,
  ⟨0x30400, [(8, 0x800), (256, 0x1)], [⟨5, 5, .lk, 0x1⟩, ⟨4, 0, .lk, 0x0⟩]⟩,
  ⟨0x800000, [(32, 0x400), (256, 0x1)], [⟨5, 5, .lk, 0x1⟩, ⟨4, 0, .lk, 0x0⟩]⟩,
  ⟨0x1A400, [(4, 0x800), (256, 0x1)], [⟨5, 5, .lk, 0x1⟩, ⟨4, 0, .lk, 0x0⟩]⟩,
  ⟨0x40D00, [(64, 0x1000)], [⟨35, 28, .lk, 0xFF⟩, ⟨27, 16, .lk, 0x0⟩]⟩,
  ⟨0x30500, [(8, 0x800)], [⟨35, 28, .lk, 0xFF⟩, ⟨27, 16, .lk, 0x0⟩]⟩,
  ⟨0x800100, [(32, 0x400)], [⟨35, 28, .lk, 0xFF⟩, ⟨27, 16, .lk, 0x0⟩]⟩,
  ⟨0x1A500, [(4, 0x800)], [⟨35, 28, .lk, 0xFF⟩, ⟨27, 16, .lk, 0x0⟩]⟩,
  ⟨0x40D01, [(64, 0x1000)], [⟨35, 28, .ro, 0x0⟩, ⟨27, 27, .w1c, 0x0⟩]⟩,
  ⟨0x30501, [(8, 0x800)], [⟨35, 28, .ro, 0x0⟩, ⟨27, 27, .w1c, 0x0⟩]⟩,
  ⟨0x800101, [(32, 0x400)], [⟨35, 28, .ro, 0x0⟩, ⟨27, 27, .w1c, 0x0⟩]⟩,
  ⟨0x1A501, [(4, 0x800)], [⟨35, 28, .ro, 0x0⟩, ⟨27, 27, .w1c, 0x0⟩]⟩,
  ⟨0x40D02, [(64, 0x1000)], [⟨35, 18, .rc, 0x0⟩, ⟨17, 0, .rc, 0x0⟩]⟩,
  ⟨0x30502, [(8, 0x800)], [⟨35, 18, .rc, 0x0⟩, ⟨17, 0, .rc, 0x0⟩]⟩,
  ⟨0x800102, [(32, 0x400)], [⟨35, 18, .rc, 0x0⟩, ⟨17, 0, .rc, 0x0⟩]⟩,
  ⟨0x1A502, [(4, 0x800)], [⟨35, 18, .rc, 0x0⟩, ⟨17, 0, .rc, 0x0⟩]⟩,
  ⟨0x40E00, [(64, 0x1000), (32, 0x1)], [⟨35, 33, .ro, 0x0⟩, ⟨32, 21, .rc, 0x0⟩, ⟨20, 9, .rc, 0x0⟩]⟩,
  ⟨0x30600, [(8, 0x800), (32, 0x1)], [⟨35, 33, .ro, 0x0⟩, ⟨32, 21, .rc, 0x0⟩, ⟨20, 9, .rc, 0x0⟩]⟩,
  ⟨0x800200, [(32, 0x400), (32, 0x1)], [⟨35, 33, .ro, 0x0⟩, ⟨32, 21, .rc, 0x0⟩, ⟨20, 9, .rc, 0x0⟩]⟩,
  ⟨0x1A600, [(4, 0x800), (32, 0x1)], [⟨35, 33, .ro, 0x0⟩, ⟨32, 21, .rc, 0x0⟩, ⟨20, 9, .rc, 0x0⟩]⟩,
  ⟨0x40E20, [(64, 0x1000), (32, 0x1)], [⟨35, 0, .rc, 0x0⟩]⟩,
  ⟨0x30620, [(8, 0x800), (32, 0x1)], [⟨35, 0, .rc, 0x0⟩]⟩,
  ⟨0x800220, [(32, 0x400), (32, 0x1)], [⟨35, 0, .rc, 0x0⟩]⟩,
  ⟨0x1A620, [(4, 0x800), (32, 0x1)], [⟨35, 0, .rc, 0x0⟩]⟩]

/-- The rows of the register tables of spec/13_arbitration.md. -/
def regTable13b : List RegRow := [
  ⟨0x900000, [(8, 0x1)], [⟨4, 0, .rw, 0x0⟩]⟩]

/-! ### Registers of spec/14_links_host_discovery.md -/

abbrev R.lnkCfg (i : Nat) : Nat := 0x20010 + 0x800 * i
abbrev F.lnkCfg_EN (i : Nat) : Fld := ⟨0x20010 + 0x800 * i, 35, 35⟩
abbrev F.lnkCfg_TRUNK (i : Nat) : Fld := ⟨0x20010 + 0x800 * i, 34, 34⟩
abbrev F.lnkCfg_FW_FWD (i : Nat) : Fld := ⟨0x20010 + 0x800 * i, 33, 33⟩
abbrev F.lnkCfg_AUTO_REJOIN (i : Nat) : Fld := ⟨0x20010 + 0x800 * i, 32, 32⟩
abbrev F.lnkCfg_DOWN_TMO (i : Nat) : Fld := ⟨0x20010 + 0x800 * i, 31, 24⟩
abbrev R.lnkStat (i : Nat) : Nat := 0x20011 + 0x800 * i
abbrev F.lnkStat_STATE (i : Nat) : Fld := ⟨0x20011 + 0x800 * i, 35, 33⟩
abbrev F.lnkStat_LANES (i : Nat) : Fld := ⟨0x20011 + 0x800 * i, 32, 29⟩
abbrev F.lnkStat_PEER_ID (i : Nat) : Fld := ⟨0x20011 + 0x800 * i, 28, 13⟩
abbrev F.lnkStat_PEER_ID_OK (i : Nat) : Fld := ⟨0x20011 + 0x800 * i, 12, 12⟩
abbrev F.lnkStat_PEER_PORT (i : Nat) : Fld := ⟨0x20011 + 0x800 * i, 11, 9⟩
abbrev F.lnkStat_PEER_BOOT (i : Nat) : Fld := ⟨0x20011 + 0x800 * i, 8, 6⟩
abbrev R.lnkPeerSerLo (i : Nat) : Nat := 0x20012 + 0x800 * i
abbrev F.lnkPeerSerLo_SERIAL (i : Nat) : Fld := ⟨0x20012 + 0x800 * i, 35, 0⟩
abbrev R.lnkPeerSerHi (i : Nat) : Nat := 0x20013 + 0x800 * i
abbrev F.lnkPeerSerHi_SERIAL (i : Nat) : Fld := ⟨0x20013 + 0x800 * i, 35, 0⟩
abbrev R.lnkCnt (i : Nat) : Nat := 0x20014 + 0x800 * i
abbrev F.lnkCnt_REPLAY (i : Nat) : Fld := ⟨0x20014 + 0x800 * i, 35, 24⟩
abbrev F.lnkCnt_NAK (i : Nat) : Fld := ⟨0x20014 + 0x800 * i, 23, 12⟩
abbrev F.lnkCnt_LANE_LOSS (i : Nat) : Fld := ⟨0x20014 + 0x800 * i, 11, 6⟩
abbrev F.lnkCnt_REROUTE (i : Nat) : Fld := ⟨0x20014 + 0x800 * i, 5, 0⟩
abbrev R.lnkFec (i : Nat) : Nat := 0x20015 + 0x800 * i
abbrev F.lnkFec_CORR (i : Nat) : Fld := ⟨0x20015 + 0x800 * i, 35, 0⟩
abbrev R.topPkg : Nat := 0x12
abbrev F.topPkg_ASSIGNED : Fld := ⟨0x12, 35, 35⟩
abbrev F.topPkg_DUP : Fld := ⟨0x12, 34, 34⟩
abbrev F.topPkg_ID : Fld := ⟨0x12, 15, 0⟩
abbrev R.pciStat : Nat := 0x24010
abbrev F.pciStat_LINK_UP : Fld := ⟨0x24010, 35, 35⟩
abbrev F.pciStat_SPEED : Fld := ⟨0x24010, 34, 32⟩
abbrev F.pciStat_WIDTH : Fld := ⟨0x24010, 31, 27⟩
abbrev F.pciStat_D3HOT : Fld := ⟨0x24010, 26, 26⟩
abbrev F.pciStat_DOWN_CNT : Fld := ⟨0x24010, 25, 14⟩
abbrev F.pciStat_FLR_CNT : Fld := ⟨0x24010, 13, 2⟩
abbrev R.pciHqCfg (i : Nat) : Nat := 0x24400 + 0x4 * i
abbrev F.pciHqCfg_EN (i : Nat) : Fld := ⟨0x24400 + 0x4 * i, 35, 35⟩
abbrev F.pciHqCfg_PUSH (i : Nat) : Fld := ⟨0x24400 + 0x4 * i, 34, 34⟩
abbrev F.pciHqCfg_LOG2SZ (i : Nat) : Fld := ⟨0x24400 + 0x4 * i, 33, 29⟩
abbrev F.pciHqCfg_VEC (i : Nat) : Fld := ⟨0x24400 + 0x4 * i, 28, 18⟩
abbrev F.pciHqCfg_IRQ_EN (i : Nat) : Fld := ⟨0x24400 + 0x4 * i, 17, 17⟩
abbrev F.pciHqCfg_FLUSH (i : Nat) : Fld := ⟨0x24400 + 0x4 * i, 16, 4⟩
abbrev R.pciHqAddrLo (i : Nat) : Nat := 0x24401 + 0x4 * i
abbrev F.pciHqAddrLo_ADDR (i : Nat) : Fld := ⟨0x24401 + 0x4 * i, 35, 0⟩
abbrev R.pciHqAddrHi (i : Nat) : Nat := 0x24402 + 0x4 * i
abbrev F.pciHqAddrHi_ADDR (i : Nat) : Fld := ⟨0x24402 + 0x4 * i, 27, 0⟩
abbrev R.pciHqPtr (i : Nat) : Nat := 0x24403 + 0x4 * i
abbrev F.pciHqPtr_WR (i : Nat) : Fld := ⟨0x24403 + 0x4 * i, 33, 17⟩
abbrev F.pciHqPtr_RD (i : Nat) : Fld := ⟨0x24403 + 0x4 * i, 16, 0⟩

/-- The rows of the register tables of spec/14_links_host_discovery.md. -/
def regTable14a : List RegRow := [
  ⟨0x20010, [(8, 0x800)], [⟨35, 35, .rw, 0x1⟩, ⟨34, 34, .lk, 0x0⟩, ⟨33, 33, .rw, 0x1⟩, ⟨32, 32, .rw, 0x1⟩, ⟨31, 24, .rw, 0x14⟩]⟩,
  ⟨0x20011, [(8, 0x800)], [⟨35, 33, .ro, 0x0⟩, ⟨32, 29, .ro, 0x0⟩, ⟨28, 13, .ro, 0x0⟩, ⟨12, 12, .ro, 0x0⟩, ⟨11, 9, .ro, 0x0⟩, ⟨8, 6, .ro, 0x0⟩]⟩,
  ⟨0x20012, [(8, 0x800)], [⟨35, 0, .ro, 0x0⟩]⟩,
  ⟨0x20013, [(8, 0x800)], [⟨35, 0, .ro, 0x0⟩]⟩,
  ⟨0x20014, [(8, 0x800)], [⟨35, 24, .rc, 0x0⟩, ⟨23, 12, .rc, 0x0⟩, ⟨11, 6, .rc, 0x0⟩, ⟨5, 0, .rc, 0x0⟩]⟩,
  ⟨0x20015, [(8, 0x800)], [⟨35, 0, .rc, 0x0⟩]⟩,
  ⟨0x12, [], [⟨35, 35, .ro, 0x0⟩, ⟨34, 34, .w1c, 0x0⟩, ⟨15, 0, .ro, 0x0⟩]⟩,
  ⟨0x24010, [], [⟨35, 35, .ro, 0x0⟩, ⟨34, 32, .ro, 0x0⟩, ⟨31, 27, .ro, 0x0⟩, ⟨26, 26, .ro, 0x0⟩, ⟨25, 14, .rc, 0x0⟩, ⟨13, 2, .rc, 0x0⟩]⟩,
  ⟨0x24400, [(256, 0x4)], [⟨35, 35, .rw, 0x0⟩, ⟨34, 34, .rw, 0x0⟩, ⟨33, 29, .rw, 0x4⟩, ⟨28, 18, .rw, 0x0⟩, ⟨17, 17, .rw, 0x0⟩, ⟨16, 4, .rw, 0xA⟩]⟩,
  ⟨0x24401, [(256, 0x4)], [⟨35, 0, .rw, 0x0⟩]⟩,
  ⟨0x24402, [(256, 0x4)], [⟨27, 0, .rw, 0x0⟩]⟩,
  ⟨0x24403, [(256, 0x4)], [⟨33, 17, .ro, 0x0⟩, ⟨16, 0, .rw, 0x0⟩]⟩]

/-! ### Registers of spec/15_faults_errors_keep_store.md -/

abbrev R.errQstat : Nat := 0x9010
abbrev F.errQstat_LOST : Fld := ⟨0x9010, 35, 24⟩
abbrev F.errQstat_COUNT : Fld := ⟨0x9010, 8, 0⟩
abbrev R.errQpop : Nat := 0x9011
abbrev F.errQpop_DATA : Fld := ⟨0x9011, 35, 0⟩
abbrev R.errQmask (i : Nat) : Nat := 0x9012 + i
abbrev F.errQmask_CLASSES (i : Nat) : Fld := ⟨0x9012 + i, 31, 0⟩
abbrev R.errEvtMask (i : Nat) : Nat := 0x9014 + i
abbrev F.errEvtMask_CLASSES (i : Nat) : Fld := ⟨0x9014 + i, 31, 0⟩
abbrev R.errStop : Nat := 0x9020
abbrev F.errStop_CAUSE : Fld := ⟨0x9020, 35, 32⟩
abbrev F.errStop_SEC : Fld := ⟨0x9020, 31, 0⟩
abbrev R.errHbmStat (i : Nat) : Nat := 0x9030 + i
abbrev F.errHbmStat_FAILED (i : Nat) : Fld := ⟨0x9030 + i, 35, 35⟩
abbrev F.errHbmStat_CH (i : Nat) : Fld := ⟨0x9030 + i, 34, 31⟩
abbrev F.errHbmStat_REMAP (i : Nat) : Fld := ⟨0x9030 + i, 30, 30⟩
abbrev F.errHbmStat_NFAIL (i : Nat) : Fld := ⟨0x9030 + i, 29, 28⟩
abbrev R.errHbmUse (i : Nat) : Nat := 0x9032 + i
abbrev F.errHbmUse_GROUPS (i : Nat) : Fld := ⟨0x9032 + i, 27, 0⟩
abbrev R.errHbmSpare (i : Nat) : Nat := 0x9034 + i
abbrev F.errHbmSpare_BASE (i : Nat) : Fld := ⟨0x9034 + i, 27, 0⟩
abbrev R.errBklCfg : Nat := 0x9040
abbrev F.errBklCfg_LEN : Fld := ⟨0x9040, 35, 16⟩
abbrev F.errBklCfg_WAIT : Fld := ⟨0x9040, 15, 0⟩
abbrev R.errBklBase : Nat := 0x9041
abbrev F.errBklBase_BASE : Fld := ⟨0x9041, 23, 0⟩
abbrev R.errBklStat : Nat := 0x9042
abbrev F.errBklStat_USED : Fld := ⟨0x9042, 35, 16⟩
abbrev F.errBklStat_CFG_REJ : Fld := ⟨0x9042, 15, 15⟩
abbrev R.errBklPeak : Nat := 0x9043
abbrev F.errBklPeak_PEAK : Fld := ⟨0x9043, 19, 0⟩
abbrev R.errBklLost : Nat := 0x9044
abbrev F.errBklLost_WORDS : Fld := ⟨0x9044, 35, 0⟩
abbrev R.errCnt (i : Nat) : Nat := 0x9100 + i
abbrev F.errCnt_COUNT (i : Nat) : Fld := ⟨0x9100 + i, 35, 0⟩
abbrev R.errBklEgr (i : Nat) : Nat := 0x9200 + i
abbrev F.errBklEgr_STATE (i : Nat) : Fld := ⟨0x9200 + i, 35, 34⟩
abbrev F.errBklEgr_CHUNKS (i : Nat) : Fld := ⟨0x9200 + i, 33, 14⟩
abbrev F.errBklEgr_LOST_PKTS (i : Nat) : Fld := ⟨0x9200 + i, 13, 0⟩
abbrev R.ksStat : Nat := 0x8010
abbrev F.ksStat_BUSY : Fld := ⟨0x8010, 35, 35⟩
abbrev F.ksStat_OP : Fld := ⟨0x8010, 34, 32⟩
abbrev F.ksStat_ERASES : Fld := ⟨0x8010, 15, 0⟩
abbrev R.ksPend (i : Nat) : Nat := 0x8011 + i
abbrev F.ksPend_SECTORS (i : Nat) : Fld := ⟨0x8011 + i, 31, 0⟩

/-- The rows of the register tables of spec/15_faults_errors_keep_store.md. -/
def regTable15a : List RegRow := [
  ⟨0x9010, [], [⟨35, 24, .rc, 0x0⟩, ⟨8, 0, .ro, 0x0⟩]⟩,
  ⟨0x9011, [], [⟨35, 0, .ro, 0x0⟩]⟩,
  ⟨0x9012, [(2, 0x1)], [⟨31, 0, .rw, 0xFFFFFFFF⟩]⟩,
  ⟨0x9014, [(2, 0x1)], [⟨31, 0, .rw, 0xFFFFFFFF⟩]⟩,
  ⟨0x9020, [], [⟨35, 32, .rw, 0x0⟩, ⟨31, 0, .ro, 0x0⟩]⟩,
  ⟨0x9030, [(2, 0x1)], [⟨35, 35, .ro, 0x0⟩, ⟨34, 31, .ro, 0x0⟩, ⟨30, 30, .ro, 0x0⟩, ⟨29, 28, .ro, 0x0⟩]⟩,
  ⟨0x9032, [(2, 0x1)], [⟨27, 0, .lk, 0x0⟩]⟩,
  ⟨0x9034, [(2, 0x1)], [⟨27, 0, .lk, 0x0⟩]⟩,
  ⟨0x9040, [], [⟨35, 16, .lk, 0xE38E3⟩, ⟨15, 0, .lk, 0x7D0⟩]⟩,
  ⟨0x9041, [], [⟨23, 0, .lk, 0x800⟩]⟩,
  ⟨0x9042, [], [⟨35, 16, .ro, 0x0⟩, ⟨15, 15, .w1c, 0x0⟩]⟩,
  ⟨0x9043, [], [⟨19, 0, .rc, 0x0⟩]⟩,
  ⟨0x9044, [], [⟨35, 0, .rc, 0x0⟩]⟩,
  ⟨0x9100, [(64, 0x1)], [⟨35, 0, .rc, 0x0⟩]⟩,
  ⟨0x9200, [(269, 0x1)], [⟨35, 34, .ro, 0x0⟩, ⟨33, 14, .ro, 0x0⟩, ⟨13, 0, .rc, 0x0⟩]⟩,
  ⟨0x8010, [], [⟨35, 35, .ro, 0x0⟩, ⟨34, 32, .ro, 0x0⟩, ⟨15, 0, .rc, 0x0⟩]⟩,
  ⟨0x8011, [(2, 0x1)], [⟨31, 0, .ro, 0x0⟩]⟩]

/-! ### Registers of spec/16_power_thermal_service.md -/

abbrev R.pwrStat : Nat := 0x6010
abbrev F.pwrStat_WAKE_SRC : Fld := ⟨0x6010, 35, 33⟩
abbrev F.pwrStat_RAIL_WARN : Fld := ⟨0x6010, 31, 16⟩
abbrev F.pwrStat_PG : Fld := ⟨0x6010, 15, 0⟩
abbrev R.pwrRail (i : Nat) : Nat := 0x6020 + i
abbrev F.pwrRail_MV (i : Nat) : Fld := ⟨0x6020 + i, 35, 24⟩
abbrev F.pwrRail_CUR (i : Nat) : Fld := ⟨0x6020 + i, 23, 8⟩
abbrev R.pwrTotal : Nat := 0x6030
abbrev F.pwrTotal_P : Fld := ⟨0x6030, 15, 0⟩
abbrev R.pwrBlk : Nat := 0x6031
abbrev F.pwrBlk_UNITS_GATED : Fld := ⟨0x6031, 35, 25⟩
abbrev F.pwrBlk_UNITS_OFF : Fld := ⟨0x6031, 24, 14⟩
abbrev F.pwrBlk_LANES_OFF : Fld := ⟨0x6031, 13, 8⟩
abbrev F.pwrBlk_HBM_SR : Fld := ⟨0x6031, 7, 2⟩
abbrev R.pwrMuslin (i : Nat) : Nat := 0x6080 + i
abbrev F.pwrMuslin_DATA (i : Nat) : Fld := ⟨0x6080 + i, 35, 0⟩
abbrev R.thmCfg : Nat := 0x5010
abbrev F.thmCfg_WARN : Fld := ⟨0x5010, 35, 24⟩
abbrev F.thmCfg_THROTTLE : Fld := ⟨0x5010, 23, 12⟩
abbrev F.thmCfg_HYST : Fld := ⟨0x5010, 11, 4⟩
abbrev R.thmSens (i : Nat) : Nat := 0x5020 + i
abbrev F.thmSens_MAX (i : Nat) : Fld := ⟨0x5020 + i, 23, 12⟩
abbrev F.thmSens_TEMP (i : Nat) : Fld := ⟨0x5020 + i, 11, 0⟩
abbrev R.thmHbm (i : Nat) : Nat := 0x502A + i
abbrev F.thmHbm_TEMP (i : Nat) : Fld := ⟨0x502A + i, 11, 0⟩
abbrev R.thmStat : Nat := 0x5030
abbrev F.thmStat_WARN : Fld := ⟨0x5030, 35, 35⟩
abbrev F.thmStat_COLD : Fld := ⟨0x5030, 34, 34⟩
abbrev F.thmStat_STEP : Fld := ⟨0x5030, 23, 0⟩
abbrev R.thmCnt : Nat := 0x5031
abbrev F.thmCnt_THR_MS : Fld := ⟨0x5031, 35, 18⟩
abbrev F.thmCnt_WARN_CNT : Fld := ⟨0x5031, 17, 9⟩
abbrev F.thmCnt_STEP_CNT : Fld := ⟨0x5031, 8, 0⟩
abbrev R.loopStat : Nat := 0x7010
abbrev F.loopStat_VLOOP : Fld := ⟨0x7010, 35, 24⟩
abbrev F.loopStat_VLOOP_LOW : Fld := ⟨0x7010, 23, 23⟩
abbrev R.loopInCfg (i : Nat) : Nat := 0x7100 + 0x4 * i
abbrev F.loopInCfg_EN (i : Nat) : Fld := ⟨0x7100 + 0x4 * i, 35, 35⟩
abbrev F.loopInCfg_POWERED (i : Nat) : Fld := ⟨0x7100 + 0x4 * i, 34, 34⟩
abbrev F.loopInCfg_STREAM (i : Nat) : Fld := ⟨0x7100 + 0x4 * i, 33, 33⟩
abbrev F.loopInCfg_LOG2P (i : Nat) : Fld := ⟨0x7100 + 0x4 * i, 32, 29⟩
abbrev R.loopInVal (i : Nat) : Nat := 0x7101 + 0x4 * i
abbrev F.loopInVal_CLASS (i : Nat) : Fld := ⟨0x7101 + 0x4 * i, 35, 33⟩
abbrev F.loopInVal_I (i : Nat) : Fld := ⟨0x7101 + 0x4 * i, 24, 0⟩
abbrev R.loopInTrim (i : Nat) : Nat := 0x7102 + 0x4 * i
abbrev F.loopInTrim_GAIN (i : Nat) : Fld := ⟨0x7102 + 0x4 * i, 35, 18⟩
abbrev F.loopInTrim_OFS (i : Nat) : Fld := ⟨0x7102 + 0x4 * i, 17, 0⟩
abbrev R.loopInCnt (i : Nat) : Nat := 0x7103 + 0x4 * i
abbrev F.loopInCnt_FAIL (i : Nat) : Fld := ⟨0x7103 + 0x4 * i, 35, 27⟩
abbrev F.loopInCnt_RANGE (i : Nat) : Fld := ⟨0x7103 + 0x4 * i, 26, 18⟩
abbrev R.loopOutCfg (i : Nat) : Nat := 0x7200 + 0x4 * i
abbrev F.loopOutCfg_EN (i : Nat) : Fld := ⟨0x7200 + 0x4 * i, 35, 35⟩
abbrev F.loopOutCfg_FAIL_HI (i : Nat) : Fld := ⟨0x7200 + 0x4 * i, 34, 34⟩
abbrev F.loopOutCfg_WDOG (i : Nat) : Fld := ⟨0x7200 + 0x4 * i, 33, 18⟩
abbrev R.loopOutSet (i : Nat) : Nat := 0x7201 + 0x4 * i
abbrev F.loopOutSet_SET (i : Nat) : Fld := ⟨0x7201 + 0x4 * i, 24, 0⟩
abbrev R.loopOutAct (i : Nat) : Nat := 0x7202 + 0x4 * i
abbrev F.loopOutAct_COMPLIANCE (i : Nat) : Fld := ⟨0x7202 + 0x4 * i, 35, 35⟩
abbrev F.loopOutAct_OPEN (i : Nat) : Fld := ⟨0x7202 + 0x4 * i, 34, 34⟩
abbrev F.loopOutAct_FAILSAFE (i : Nat) : Fld := ⟨0x7202 + 0x4 * i, 33, 33⟩
abbrev F.loopOutAct_COMP_SEEN (i : Nat) : Fld := ⟨0x7202 + 0x4 * i, 32, 32⟩
abbrev F.loopOutAct_I (i : Nat) : Fld := ⟨0x7202 + 0x4 * i, 24, 0⟩
abbrev R.loopOutTrim (i : Nat) : Nat := 0x7203 + 0x4 * i
abbrev F.loopOutTrim_GAIN (i : Nat) : Fld := ⟨0x7203 + 0x4 * i, 35, 18⟩
abbrev F.loopOutTrim_OFS (i : Nat) : Fld := ⟨0x7203 + 0x4 * i, 17, 0⟩

/-- The rows of the register tables of spec/16_power_thermal_service.md. -/
def regTable16a : List RegRow := [
  ⟨0x6010, [], [⟨35, 33, .ro, 0x0⟩, ⟨31, 16, .w1c, 0x0⟩, ⟨15, 0, .ro, 0xFFFF⟩]⟩,
  ⟨0x6020, [(16, 0x1)], [⟨35, 24, .ro, 0x0⟩, ⟨23, 8, .ro, 0x0⟩]⟩,
  ⟨0x6030, [], [⟨15, 0, .ro, 0x0⟩]⟩,
  ⟨0x6031, [], [⟨35, 25, .ro, 0x0⟩, ⟨24, 14, .ro, 0x0⟩, ⟨13, 8, .ro, 0x20⟩, ⟨7, 2, .ro, 0x0⟩]⟩,
  ⟨0x6080, [(8, 0x1)], [⟨35, 0, .rw, 0x0⟩]⟩,
  ⟨0x5010, [], [⟨35, 24, .lk, 0x5F0⟩, ⟨23, 12, .lk, 0x690⟩, ⟨11, 4, .lk, 0x50⟩]⟩,
  ⟨0x5020, [(10, 0x1)], [⟨23, 12, .rc, 0x800⟩, ⟨11, 0, .ro, 0x0⟩]⟩,
  ⟨0x502A, [(2, 0x1)], [⟨11, 0, .ro, 0x0⟩]⟩,
  ⟨0x5030, [], [⟨35, 35, .ro, 0x0⟩, ⟨34, 34, .ro, 0x0⟩, ⟨23, 0, .ro, 0x0⟩]⟩,
  ⟨0x5031, [], [⟨35, 18, .rc, 0x0⟩, ⟨17, 9, .rc, 0x0⟩, ⟨8, 0, .rc, 0x0⟩]⟩,
  ⟨0x7010, [], [⟨35, 24, .ro, 0x0⟩, ⟨23, 23, .w1c, 0x0⟩]⟩,
  ⟨0x7100, [(16, 0x4)], [⟨35, 35, .rw, 0x0⟩, ⟨34, 34, .rw, 0x0⟩, ⟨33, 33, .rw, 0x0⟩, ⟨32, 29, .rw, 0x6⟩]⟩,
  ⟨0x7101, [(16, 0x4)], [⟨35, 33, .ro, 0x3⟩, ⟨24, 0, .ro, 0x0⟩]⟩,
  ⟨0x7102, [(16, 0x4)], [⟨35, 18, .rw, 0x20000⟩, ⟨17, 0, .rw, 0x0⟩]⟩,
  ⟨0x7103, [(16, 0x4)], [⟨35, 27, .rc, 0x0⟩, ⟨26, 18, .rc, 0x0⟩]⟩,
  ⟨0x7200, [(16, 0x4)], [⟨35, 35, .rw, 0x0⟩, ⟨34, 34, .lk, 0x0⟩, ⟨33, 18, .lk, 0x0⟩]⟩,
  ⟨0x7201, [(16, 0x4)], [⟨24, 0, .rw, 0x0⟩]⟩,
  ⟨0x7202, [(16, 0x4)], [⟨35, 35, .ro, 0x0⟩, ⟨34, 34, .ro, 0x0⟩, ⟨33, 33, .ro, 0x0⟩, ⟨32, 32, .w1c, 0x0⟩, ⟨24, 0, .ro, 0x0⟩]⟩,
  ⟨0x7203, [(16, 0x4)], [⟨35, 18, .rw, 0x20000⟩, ⟨17, 0, .rw, 0x0⟩]⟩]

/-- BLOCK_LOCK, at offset 0x008 of every block instance (R78). -/
def blockLockFields : List FldRow := [⟨35, 35, .w1c, 0x0⟩, ⟨34, 34, .w1, 0x0⟩, ⟨33, 18, .rc, 0x0⟩, ⟨14, 0, .ro, 0x0⟩]
abbrev F.blockLock_LOCK_VIOL (base : Nat) : Fld := ⟨base + 8, 35, 35⟩
abbrev F.blockLock_LOCK (base : Nat) : Fld := ⟨base + 8, 34, 34⟩
abbrev F.blockLock_VIOL_CNT (base : Nat) : Fld := ⟨base + 8, 33, 18⟩
abbrev F.blockLock_LAST_OFS (base : Nat) : Fld := ⟨base + 8, 14, 0⟩

/-- Every register table of the spec. -/
def regTable : List RegRow :=
  regTable01a ++ regTable02a ++ regTable03a ++ regTable04a ++ regTable05a ++ regTable06a ++ regTable07a ++ regTable08a ++ regTable09a ++ regTable10a ++ regTable11a ++ regTable12a ++ regTable13a ++ regTable13b ++ regTable14a ++ regTable15a ++ regTable16a

end Sys2Proof.Machine
end

