-- ==== Sys2Proof/Machine/State.lean ====
section
/-! DEFINITION. The state of the part: plain data, every piece of state that spec/00 to spec/17 give it, and the queue
of commands. A field that a register table gives stands in `Dev.regs` under the register's offset; a count or flag that
a register shows of other state (RSP_CNT, QSTAT.COUNT, SCH_STAT.ARMED, ...) is computed from that state when it is read
(`Dev.readWord`, Sys2Proof/Machine/RegFile.lean). Every structure's default value, the one `Inhabited` gives, is its
value after reset: zero, false, none, empty. Times that only bound an action are not state (assumption 2). -/

namespace Sys2Proof.Machine

/-- Where the response to a request goes (R63, R64): nowhere yet, the response buffer, a package by ID, with the
Lysith port that its request came by, the partner of a Lysith port (RT 2, R421), or a management station. -/
inductive Origin where
  | none
  | regs
  | lysith (pkg : BitVec 16) (port : Fin 8)
  | link (port : Fin 8)
  | mgmt (mac : BitVec 48)
deriving DecidableEq, Repr, Inhabited

/-- What the part drives outward or returns to a requester, in the order it does so (assumption 5). -/
inductive Out where
  /-- The value a register read returned on a path. -/
  | readData (path : Path) (off : Nat) (w : Word)
  /-- The bytes a host read returned; `ur`: the request was an Unsupported Request. -/
  | hostData (ur : Bool) (bytes : List Byte)
  /-- An MSI-X message of a vector: address and data of its table entry (R413). -/
  | msix (v : Nat) (addr data : Nat)
  /-- A write of the endpoint into host memory: byte address and words, packed (R414). -/
  | hostWrite (addr : Nat) (ws : List Word)
  /-- A management frame: the bytes of its payload (R65). -/
  | mgmt (mac : BitVec 48) (bytes : List Byte)
  /-- A mailbox response that came over Lysith, handed to the requesting agent: its source package (R400). -/
  | lysRsp (pkg : Nat) (ws : List Word)
  /-- A frame of 64 words on a Lysith port (R396). -/
  | frame (port : Nat) (ws : List Word)
  /-- A training exchange on a Lysith port in control blocks, and its 1 ms refresh, with TM9's own values (R395). -/
  | training (port : Nat) (own : Peer)
  | refresh (port : Nat) (own : Peer)
  /-- A RETRAIN control block on a Lysith port (R402). -/
  | retrain (port : Nat)
  /-- A pin edge: pin code of R140, level, fine delay in steps of 8 ps (R142). -/
  | pin (code : Nat) (level : Bool) (d : Nat)
  /-- A read that the part's own agent completed: agent, tag, status, words (R364). -/
  | complete (agent tag : Nat) (st : Nat) (ws : List Word)
  /-- A Fiuth header driven on port p: source, command, address, then the count word of a block cycle and the data words;
  true: F_PAR inverted (R282, R284, R289, R318). -/
  | fiuth (p src cmd : Nat) (addr : Word) (ds : List (Word × Bool))
  /-- The answer to a Fiuth cycle addressed to this package: 0 F_ACK, 1 F_REJ, 2 DEFER, 3 RETRY; tag; data (R285). -/
  | fiuAns (p : Nat) (ans tag : Nat) (ds : List (Word × Bool))
  /-- A level on a Fiuth line of port p: 0 F_HALT, 1 F_RST, 2 F_SYNC, 3 F_GNT (value: the slot), 4 F_IRQ (a mask of levels),
  5 F_MREQ (R299 to R302, R306). -/
  | fiuLine (p line : Nat) (v : Nat)
  /-- A front-end output: link's SYNC or the bias code of a loop output; kind and value. -/
  | drive (kind idx : Nat) (v : Nat)
  /-- The supply of the loop of loop input k from VLOOP (R468). -/
  | loopSupply (k : Nat) (on : Bool)
  /-- The power-control pin RAIL_EN (R461, R463). -/
  | railEn (on : Bool)
deriving DecidableEq, Repr

/-! ### Mailboxes and the CP (spec/02) -/

/-- One mailbox (R62-R69). -/
structure Mailbox where
  /-- The request buffer, at most 256 words; kept while the command is outstanding (R69). -/
  req : List Word
  /-- The unread response words. -/
  rsp : List Word
  /-- The event queue: messages of four words, oldest first, at most 64 (R75). -/
  evts : List (List Word)
  /-- Words already read of the oldest message (R75). -/
  evtRd : Nat
  /-- The copy of the last executed command's response, header first (R67). -/
  replay : Option (List Word)
  /-- A command is outstanding. -/
  busy : Bool
  /-- Where its response goes (R63, R64). -/
  origin : Origin
  /-- The response is to be discarded: a host-side reset came while the command was outstanding (R416). -/
  discard : Bool
deriving DecidableEq, Repr, Inhabited

/-- The loader of the boot ROM (R49-R53). -/
structure Loader where
  /-- Claiming source: 0 none, 1 PCI Express, 2 Lysith, 3 management. -/
  claim : Nat
  /-- The declared length L. -/
  len : Nat
  /-- Words accepted by IMG_CHUNK since the last IMG_BEGIN. -/
  staged : Nat
  /-- An IMG_CHUNK has been accepted since the last IMG_BEGIN (R51). -/
  chunked : Bool
  /-- The mailbox whose IMG_BOOT is in VERIFY. -/
  verify : Option Nat
  /-- Length and segment count of the image that runs, the retained image (R82). -/
  retLen : Nat
deriving DecidableEq, Repr, Inhabited

/-- The control processor, its log and the package's event counter. -/
structure Cp where
  /-- Doorbelled mailboxes not yet taken, in doorbell order (R69). -/
  doorbells : List Nat
  /-- Mailboxes whose command has been taken and is not yet answered (class L), oldest first. -/
  executing : List Nat
  /-- EVT_SEQ of the next event (R73). -/
  evtSeq : Nat
  /-- Events raised by the command in progress (code, instance, epoch, E3) in the order of R75: they are delivered at its
  end, so that the list is empty between commands. -/
  raised : List (Nat × Nat × Nat × Word)
  /-- The command interrupted by a warm restart: mailbox and sequence (R82). -/
  interrupted : Option (Nat × Nat)
  /-- The CP has started at ENTRY in a warm restart (step 3 of R82). -/
  atEntry : Bool
  /-- CCLK edge counts of the last warm restarts, newest first (R83). -/
  warm : List Nat
  loader : Loader
  /-- The log of R429: entries (kind, four words, GAP count in the first for kind 2), oldest first. -/
  log : List (Nat × List Word)
  /-- Sequence of the next log entry. -/
  logSeq : Nat
  /-- The log's LOST count. -/
  logLost : Nat
  /-- EVT_SEQ of the last event copied into the log, and that a warm restart came after it (R430). -/
  lastSeq : Option Nat
  gap : Bool
  /-- Error-queue entries that the firmware has not yet copied into the log (R430). -/
  errUncopied : Nat
  /-- A black-box record is owed after the next successful boot: its cause word (R452, CP halt). -/
  bbHalt : Bool
deriving DecidableEq, Repr, Inhabited

/-- The one-time fuses (R60, R61). -/
structure Fuses where
  /-- FUSE_OWNER: the owner-key hash is fused. -/
  owner : Bool
  /-- The fused owner-key hash, 384 bits, as the number its 48 bytes write big-endian. -/
  hash : Nat
  /-- FUSE_DEBUG. -/
  debug : Bool
deriving DecidableEq, Repr, Inhabited

/-! ### Cluster-store queues (spec/03) -/

/-- What the ECC-protected pointer state of a queue records of one word (R103): 0 body, 1 HEAD, 2 the word that ends a
packet (TAIL, or the ABORT of R97). -/
structure QEnt where
  kind : Nat
  /-- The exact epoch that travels beside a HEAD (R235). -/
  ep : Option Nat
  /-- The tag of a c18 word of a delay line, which has no room for one (assumption 21); 0 elsewhere. -/
  side : Nat := 0
deriving DecidableEq, Repr, Inhabited

/-- The pointer state of one queue. Its words stand in the cluster store at the places of R92. -/
structure Queue where
  /-- Ring index of the oldest word. -/
  rd : Nat
  /-- The words present, oldest first. -/
  ents : List QEnt
  /-- Tweed order: per level the ring index of the oldest item in the level and the items present (R109). -/
  lvRd : SMap Nat
  lvCnt : SMap Nat
  /-- The writer is inside a packet. -/
  wrOpen : Bool
  /-- Arriving words of a packet discarded under R100 are discarded and counted as lost through its TAIL. -/
  discArr : Bool
  /-- QSTAT.DROPPING (R104). -/
  dropping : Bool
  /-- QSTAT.RD_IN_PKT (R99). -/
  rdIn : Bool
  /-- The argument of the ESCAPE ABORT that the next pop returns (R100). -/
  abort : Option Nat
  /-- This state fails its ECC uncorrectably (R103, R424 class 4). -/
  badPtr : Bool
deriving DecidableEq, Repr, Inhabited

/-- The last drop-remainder that found its queue full (R105): one more than its edge count, the pointer state before and
after it, DROP_CNT before it, and of a QUEUE_DROP_REM its mailbox and the response it gave. -/
structure DropTie where
  edge : Nat
  before : Queue
  after : Queue
  cnt : Nat
  rsp : Option (Nat × List Word) := none
deriving DecidableEq, Repr, Inhabited

/-! ### Epoch, axes and scheduler (spec/04) -/

/-- The epoch unit. -/
structure Epo where
  /-- The 101-bit counter (R112). -/
  cnt : Nat
  /-- CCLK edges since reset release (R93). -/
  edges : Nat
  /-- The counter at the latest CCLK edge, and at the one before it, which a stretch moves away (R141, R174). -/
  edgeCnt : Nat
  prevCnt : Nat
  /-- The host write of TAI_UTC that waits for the next whole second (R117). -/
  taiPend : Option Nat
  /-- The epoch second at which the announced leap second changes TAI_UTC (R117). -/
  leapAt : Option Nat
  /-- Sources that failed OFFSET and have not been lost and returned: bit 0 REF_A, 1 REF_B, 2 PTP (R124). -/
  failed : Nat
  /-- The residual of a Velvet slew in 2^-16 ep (R129). -/
  resid : Int
  /-- The residual is slewed within LOCKED (R127). -/
  slewLocked : Bool
  /-- STATE has returned to LOCKED on SEL, and the slew within LOCKED begins at the next update (R127). -/
  slewStart : Bool
  /-- QUALIFY was entered because SEL was lost (R127). -/
  qLost : Bool
  /-- The candidate qualified for the first-lock step, which comes at its next whole second (R130). -/
  stepPend : Bool
  /-- The EPO_REFCFG and EPO_SLEW words in force while a write waits for the next update (R132). -/
  refOld : Option Word
  slewOld : Option Word
  /-- Updates made in LOCKED without a break (R131). -/
  lockedMs : Nat
  /-- The frequency integrator and the OCXO's offset against the epoch rate, in units of EPO_INC, at the last 60,000 updates
  made in LOCKED, latest first: the holdover values are their means (R125, R131). -/
  freqs : List Nat
  ocxos : List Int
  /-- The edge count at the first-lock step (R130). -/
  stepEdge : Option Nat
deriving DecidableEq, Repr, Inhabited

/-- Beside its eight table words at 0x3_00A8_0000 + n x 8 (R138, R139), what the scheduler keeps of an entry that is
not free. -/
structure SchEnt where
  /-- The entry is committed (STATE of W0 is not 0). -/
  live : Bool
  /-- Occurrences issued. -/
  issued : Nat
  /-- The edge at which the due occurrence was first deferred (R148). -/
  deferred : Option Nat
  /-- The target was already passed when the entry was committed or retested (R144, R151). -/
  late : Bool
  /-- Axis entries: occurrences crossed and not yet issued, the edge of the crossing, and whether the first of them is
  still to issue (R145, R146). -/
  crossed : Nat
  crossEdge : Nat
  onTime : Bool
  /-- The edge at which the last occurrence issued, or the entry was committed late (R144, R146). -/
  last : Option Nat
deriving DecidableEq, Repr, Inhabited

/-- The scheduler. -/
structure Sch where
  ents : SMap SchEnt
  /-- The edge for which `count` non-pin actions have issued (R148). -/
  edge : Nat
  count : Nat
  /-- Levels of the pins of R140, bit = pin code. -/
  pins : Nat
  /-- Per pin the falling edge of a pulse in progress, as a value of the 101-bit counter (R142, R147). -/
  fall : SMap (Option Nat)
  /-- Per pin the last scheduler action that reached it: one more than its edge count, its entry, and the pin's level before
  the actions of that edge (R147). -/
  reach : SMap (Nat × Nat × Bool)
  /-- Per axis 1-4 the last accepted levels of ENCa_A (bit 1) and ENCa_B (bit 0) (R134). -/
  enc : SMap Nat
  /-- Per axis: an SSI frame is being read (R136). -/
  ssi : SMap Bool
deriving DecidableEq, Repr, Inhabited

/-! ### Errors, backlog, keep store (spec/15) -/

/-- A packet recorded in a backlog chain (R438). -/
structure BklPkt where
  head : Word
  /-- The destination package of a packet that leaves by Lysith. -/
  dest : Nat
  /-- Its KIND and source package (R400): 0 a stream packet; others are held at egress 268 only (R405). -/
  kind : Nat
  src : Nat
  /-- Its words do not begin with the HEAD: slot words alone, or no stream packet (R338). -/
  bare : Bool
  /-- The system route table chose its port (R339, R406). -/
  srt : Bool
  /-- The write run on Fiuth that the drain goes on with (R326). -/
  run : Option Nat
  /-- Where its words still to be delivered stand: chunk, first data word, words. -/
  spans : List (Nat × Nat × Nat)
  /-- Words before the first of these have been delivered directly (R438). -/
  cont : Bool
  /-- The drain has delivered a part of it. -/
  begun : Bool
  /-- It stands for a discarded continuation: the words discarded, which the drain delivers as an ABORT (R442). -/
  abort : Option Nat
deriving DecidableEq, Repr, Inhabited

/-- A chunk of a chain: its number, the data words written, and the pairs of its descriptor (R438). -/
structure Chunk where
  num : Nat
  fill : Nat
  recs : List (Word × Word)
deriving DecidableEq, Repr, Inhabited

/-- The chain of one egress (R437 to R442). -/
structure Chain where
  /-- The chunks held, oldest first. -/
  chunks : List Chunk
  pkts : List BklPkt
  /-- No credit, or no room, for WAIT ns (R437). -/
  stalled : Bool
deriving DecidableEq, Repr, Inhabited

/-- A keep-store operation in progress (R446). -/
inductive KsOp where
  | erase (n : Nat) (sector : Nat)
  | program (n : Nat) (first : Nat) (ws : List Word)
  | record (n : Nat) (type first : Nat)
deriving DecidableEq, Repr

/-- The keep store: it keeps its contents without power (R444). -/
structure KeepStore where
  /-- The 64 Ki words, an erased one reading 0x0_FFFF_FFFF. -/
  words : SMap Word
  /-- Words that fail ECC. -/
  bad : List Nat
  /-- Sectors marked ERASE_PEND in the journal (R450). -/
  pend : List Nat
deriving DecidableEq, Repr, Inhabited

/-- The error unit. -/
structure ErrUnit where
  /-- Hardware error queue: entries of four words, oldest first, at most 256 (R427). -/
  queue : List (List Word)
  /-- Words already popped of the oldest entry (R428). -/
  rd : Nat
  /-- Errors met by the command in progress (class, instance, entry) in the order of R427: they enter the queue at its end,
  so that the list is empty between commands. -/
  met : List (Nat × Nat × List Word)
  /-- Per block-lock base: one more than the edge count of the last violation recorded, 0 for none (R80). -/
  violEdge : SMap Nat
  /-- The chains of the backlog reserve by egress (R437). -/
  chains : SMap Chain
  /-- Level events of R442 raised since USED fell below 25 %: bit 0 above 50 %, bit 1 above 90 %. -/
  level : Nat
  /-- Per stack: failed channels (bit = channel), the stack accepts no request, the failed channel being remapped. -/
  hbmFail : SMap Nat
  hbmStop : SMap Bool
  hbmSecond : SMap Bool
  /-- Writes kept for the remap, in order: address, and the words of one write in one group (R434, R435). -/
  hbmKept : List (Nat × List Word)
  /-- Redirected groups that a whole write has covered since the remap: logical group addresses (R435). -/
  hbmWritten : SMap Bool
  ksOp : Option KsOp
  /-- One more than the edge count at which it began, and whether it marked its sector (R450, R453). -/
  ksEdge : Nat
  ksNew : Bool
deriving DecidableEq, Repr, Inhabited

/-! ### Links and host (spec/14) -/

/-- A message for the wire: its class of R353 (1 REQ, 2 PST, 3 SNP, 4 WB, 5 PKT, 6 RSP, 7 DAT, 8 control) and its
words, header first (R399). -/
structure Msg where
  cls : Nat
  ws : List Word
  /-- A segment of a stream packet of this package: the packet's HEAD, and whether the system route table chose its port
  (R438). -/
  head : Option (Word × Bool) := none
deriving DecidableEq, Repr, Inhabited

/-- An unacknowledged DATA frame: SEQ, its message words, and the messages that end in it (R396, R397). -/
structure TxFrame where
  seq : Nat
  ws : List Word
  ends : List Msg
deriving DecidableEq, Repr, Inhabited

/-- One Lysith port. -/
structure Lnk where
  /-- SEQ of the next DATA frame sent, SEQ expected, last frame accepted in order (R396, R397). -/
  tx : Nat
  rx : Nat
  /-- Unacknowledged DATA frames, oldest first. -/
  unacked : List TxFrame
  /-- A NAK was sent, and frames are discarded until the expected SEQ (R397). -/
  nakSent : Bool
  /-- The SEQ last named by a NAK received and the consecutive NAKs for it. -/
  nakSeq : Nat
  naks : Nat
  /-- Credit granted by the partner, and credit to be returned, in words, by class 1-5 (R398). -/
  credit : SMap Nat
  owed : SMap Nat
  /-- The last frame sent carried a PKT message (R398). -/
  pktLast : Bool
  /-- Messages waiting to be sent. -/
  txq : List Msg
  /-- The message that the next DATA frame continues, and its words still to go (R396). -/
  txPart : Option (Msg × List Word)
  /-- Words of a message that continues in the next DATA frame. -/
  rxPart : List Word
  /-- Messages held while the port recovers (R406). -/
  held : List Msg
  /-- A recovery under R406 awaits the RESYNC answer. -/
  recovering : Bool
  /-- The port retrains (R402). -/
  retraining : Bool
  /-- The partner's values have been exchanged (R395), and its TRUNK bit. -/
  peerOk : Bool
  peerTrunk : Bool
  peerSerial : Nat
  /-- Lanes removed that train in the background (R403). -/
  rejoin : Nat
  /-- One more than the edge count of the last retrain and of the last lane removals, and the lanes of those (R423). -/
  rtEdge : Nat
  cutEdge : Nat
  cut : Nat
  /-- The port went DOWN at this edge, its RESYNC to follow; the 100 µs limit has passed at this edge (R423). -/
  sync : Bool
  expired : Bool
  /-- A firmware delivery on the port: the request whose response is awaited; a claim stands at the partner (R421). -/
  fwd : Option Nat
  fwdWait : Bool
  /-- The next request of the delivery waits for the image's HBM stack, which is being remapped (R434). -/
  fwdHeld : Bool
deriving DecidableEq, Repr, Inhabited

/-- One host stream queue (R414, R415). -/
structure HostQ where
  /-- Words held for BAR4 reads, at most 1,024. -/
  pull : List Word
  /-- Words held for ring groups; 16 or more only while the ring is full. -/
  grp : List Word
  /-- The queue is inside a packet. -/
  inPkt : Bool
  /-- The PUSH setting in force. -/
  push : Bool
  /-- Stalled under R416 with a chain, until EN is written 1. -/
  hold : Bool
  /-- The last write of PTR.RD: one more than its edge count, and RD before that edge (R423). -/
  rdWas : Nat × Nat
deriving DecidableEq, Repr, Inhabited

/-- One MSI-X table entry; `unmasked`: its mask bit is clear. -/
structure MsixEnt where
  addr : Nat
  data : Nat
  unmasked : Bool
deriving DecidableEq, Repr, Inhabited

/-- The PCI Express endpoint. -/
structure Pci where
  hq : SMap HostQ
  msix : SMap MsixEnt
  /-- The pending bit array. -/
  pba : SMap Bool
  /-- The function mask. -/
  fmask : Bool
  /-- The nibble latch of R31 and the slot it belongs to. -/
  nibble : Option (Bool × Nat × Nat)
  /-- The status registers of Advanced Error Reporting: uncorrectable and correctable errors (R411). -/
  aerUncor : Nat
  aerCor : Nat
  /-- FLR, PERST# or hot reset has come since host queues stalled (R416). -/
  reset : Bool
  /-- Function Level Reset in progress; PERST# asserted; host queues stalled by R416 until the link is up. -/
  flr : Bool
  perst : Bool
  stalled : Bool
  /-- Configuration requests are answered normally, no longer with retry (R412). -/
  cfgOk : Bool
deriving DecidableEq, Repr, Inhabited

/-! ### Ingest (spec/05) -/

/-- An extended multiblock in a lane buffer (R162). -/
structure Emb where
  k : Nat
  /-- It arrived later than its release point. -/
  late : Bool
  /-- Its end-of-EMB marker stood at its block, and no stretch overran it (R163, R175). -/
  whole : Bool
  /-- Multiblocks that failed CRC-12, bit = multiblock. -/
  crc : Nat
  octets : List Byte
deriving DecidableEq, Repr, Inhabited

/-- One lane of a JESD204C link. -/
structure FelLane where
  /-- Sync-header lock and EMB lock. -/
  lock : Bool
  /-- EMBs that wait for release. -/
  buf : List Emb
  /-- Consecutive late EMBs, and consecutive EMBs without their marker (R163). -/
  lateRun : Nat
  markRun : Nat
  /-- While lost: the first EMB missed, and the last EMB that arrived within the window (R165). -/
  lostFrom : Nat
  good : Option Nat
  /-- The first EMB that the lane delivers. -/
  start : Nat
deriving DecidableEq, Repr, Inhabited

/-- One JESD204C link. -/
structure Fel where
  /-- E_sr, once captured (R157). -/
  esr : Option Nat
  /-- k0, and the next EMB to be released (R159). -/
  k0 : Nat
  next : Nat
  /-- The slot number at which LINK_STOP takes effect (R168). -/
  stopAt : Option Nat
  lanes : SMap FelLane
  /-- The edge count and the status of the last completion of LINK_START (R168). -/
  fin : Option (Nat × Nat)
deriving DecidableEq, Repr, Inhabited

/-- One Fiuth-borne input: T0, SEQ0, the next slot to be released (R171), the boundary of FCH_STOP. -/
structure Fch where
  t0 : Nat
  seq0 : Nat
  next : Nat
  stopAt : Option Nat
  /-- The edge count of a deadline whose slot no word has yet been lost for (R173). -/
  dueEdge : Option Nat
deriving DecidableEq, Repr, Inhabited

/-- The slots of one input: E(n) = (a + n x st) / den in ep, the residual r x den, the slots released; MARK payloads
that wait for their slot, with the epoch they were set at (R204). -/
structure Inp where
  a : Int
  st : Nat
  den : Nat
  res : Int
  slots : Nat
  marks : List (Nat × Nat) := []
deriving DecidableEq, Repr, Inhabited

/-- The ingest block. -/
structure Ing where
  fel : SMap Fel
  fch : SMap Fch
  /-- Inputs 0-5119. -/
  inp : SMap Inp
  /-- CCLK_REF periods of the stretch in progress, and all periods stretched since reset release (R174). -/
  stretch : Nat
  stretched : Nat
  /-- The CCLK_REF edge counts of the periods stretched in the last 2 µs (R175). -/
  win : List Nat
deriving DecidableEq, Repr, Inhabited

/-! ### Recipes and tasks (spec/06, spec/07) -/

/-- A word inside a recipe: its tag (R15) and its value, a c18 pair or a payload; MARK words stand between slots. -/
structure Item where
  tag : Nat
  w : Word
deriving DecidableEq, Repr, Inhabited

/-- A step of a recipe: its code, its words of RECIPE_SET, its cost table entry (assumption 20). -/
structure StepCfg where
  code : Nat
  sw0 : Word
  sw1 : Word
  sw2 : Word
  cost : Nat
deriving DecidableEq, Repr, Inhabited

/-- What one step of one source carries from block to block (R179), and its output that the next step has not yet
consumed. -/
structure StepRun where
  /-- Blocks made ready, blocks begun by a unit, blocks completed. -/
  ready : Nat
  begun : Nat
  done : Nat
  /-- Input slots consumed, and output slots produced per stream. -/
  inSlots : Nat
  outSlots : Nat
  /-- Per stream the slots kept: FILTER its window's past, DETECT the window so far, PACK the packet so far. -/
  hist : List (List Item)
  /-- MARK words that wait for their output slot (R180). -/
  marks : List (Nat × Word)
  /-- Blocks of output held, oldest first, each a list of streams; the number of the first. -/
  out : List (List (List Item))
  outBase : Nat
  /-- Output slots from which the other table bank is in force, ascending (R205). -/
  switches : List Nat
  /-- DELAY: the last slot was clamped (R187). -/
  clamped : Bool
deriving DecidableEq, Repr, Inhabited

/-- A MODEL_LOAD (step 0) or a TABLE_SWITCH of a step that answered OK: one more than its edge count, its slot, its mailbox and
response, and what it replaced. A step that begins the slot at the same edge makes it PAST (R185, R206). -/
structure CmdTie where
  edge : Nat
  step : Nat
  slot : Nat
  mbx : Nat
  rsp : List Word
  dPend : List (Nat × List Nat) := []
  pPend : List (Nat × List Nat) := []
  switches : List Nat := []
deriving DecidableEq, Repr, Inhabited

/-- One source of tasks: an input (key: its number) or a beam (key 0x10000 + its number). -/
structure Source where
  recipe : List StepCfg
  /-- A recipe that takes effect at the next slot 0. -/
  next : Option (List StepCfg)
  /-- Cluster-store words of carried state. -/
  words : Nat
  /-- By step code; a beam's collect is 4. -/
  steps : SMap StepRun
  /-- D_0-D_5 at the DELAY step, P_0-P_5 at the ROTATE step, and the loads that wait for their anchor (R184, R185). -/
  dm : List Nat
  pm : List Nat
  dPend : List (Nat × List Nat)
  pPend : List (Nat × List Nat)
  /-- TASK_CANCEL: its first block while in force, tasks cancelled, and its completion has not come (R224). -/
  cancelAt : Option Nat
  cancelled : Nat
  cancelling : Bool
  /-- The edge count of the cancel, for what the same edge brings (R225). -/
  cancelEdge : Nat
  /-- MODEL_LOADs and TABLE_SWITCHes of the present edge, newest first. -/
  cmdTies : List CmdTie := []
deriving DecidableEq, Repr, Inhabited

/-- A beam as BEAM_SET defines it (R195 to R199). -/
structure Beam where
  collect : Bool
  clu : Nat
  area : Nat
  nContrib : Nat
  rshift : Nat
  oshift : Nat
  tab0 : Nat
  tab1 : Nat
  count : Nat
  nMemb : Nat
  /-- The cost entry of its partial tasks (assumption 20). -/
  cost : Nat
  /-- The local members of each bank's table as it was last read: input and sub-channel. -/
  members : List (Nat × Nat)
  members1 : List (Nat × Nat)
  /-- Partial tasks by contributing cluster. -/
  parts : SMap StepRun
  /-- Blocks made ready because the beam wait expired (R230). -/
  expired : List Nat
  /-- COUNT of a ring block in another package, as it was last read, by block (R208); a read of it is out. -/
  seen : SMap (Option Nat)
  asked : Bool
deriving DecidableEq, Repr, Inhabited

/-- A word on its way into a queue: the word, the tag of a c18 word of a delay line, the exact epoch beside a HEAD. -/
structure OutW where
  w : Word
  side : Nat
  ep : Option Nat
deriving DecidableEq, Repr, Inhabited

/-- A unit's last steal (R220): one more than its edge count, the victim, whether the entry stood at the top of a fenced
unit's deque, its descriptor there, and whether the STEALS field counted it. -/
structure StealTie where
  edge : Nat
  victim : Nat
  top : Bool
  ws : List Word
  counted : Bool
deriving DecidableEq, Repr, Inhabited

/-- A unit: the ring position of its deque's top, the descriptors in it, the descriptor it runs (R211 to R213). -/
structure UnitS where
  top : Nat
  cnt : Nat
  run : Option (List Word)
  stolen : Bool
  /-- A fence awaits its recovery event: the edge of the fence (R431). -/
  recover : Option Nat
  /-- Region-store words that the running task has read, by 40-bit address; true: POISONED (R365). -/
  got : SMap (Option (Word × Bool))
  /-- Requests of the running task outstanding; words of its contribution or clearing already issued; one of them failed
  (R364). -/
  wait : Nat
  sent : Nat
  failed : Bool
  /-- The descriptor of an aborted partial or collect task whose stores had begun: its reads and requests (`got`, `wait`,
  `sent`, `failed`) stand here for the unit that runs it again, so that no word is stored twice (R223). -/
  aborted : Option (List Word)
  /-- The unit's last steal (R220, R225). -/
  steal : Option StealTie
  /-- One more than the edge count of the last fence or unfence: its effects are from the next edge on (R227, R229). -/
  turned : Nat := 0
deriving DecidableEq, Repr, Inhabited

/-- A task that waits in the generator; `made`: its SEQ is allotted (R210). -/
structure GenT where
  desc : List Word
  made : Bool
deriving DecidableEq, Repr, Inhabited

/-- A member table in another package being read (R195): the words received by 40-bit address, requests outstanding. -/
structure TabRd where
  got : SMap (Option Word)
  left : Nat
deriving DecidableEq, Repr, Inhabited

/-- Task distribution. -/
structure Tsk where
  src : SMap Source
  beams : SMap Beam
  units : SMap UnitS
  /-- By cluster, in creation order. -/
  gen : SMap (List GenT)
  /-- Done ordered tasks not yet released, by cluster x 128 + queue: SEQ and words (R221). -/
  done : SMap (List (Nat × List OutW))
  /-- Member tables being read: for the BEAM_SET of mailbox n under n, for bank h of beam b under 16 + 2 b + h (R195, R205). -/
  tabRds : SMap (Option TabRd) := []
deriving DecidableEq, Repr, Inhabited


/-! ### Calibration (spec/09) -/

/-- A block of x values that reached a shadow unit (R273): its input, block number, first slot and that slot's epoch,
its slots. -/
structure CalBlk where
  inp : Nat
  g : Nat
  n0 : Nat
  ep : Nat
  xs : List Item
deriving DecidableEq, Repr, Inhabited

/-- A calibration job (R272, R273): its values, its mailbox and sequence, its scheduler entries with their GEN, the
reference blocks received by cluster, the pairs of input and reference block, and the clusters and inputs whose packets
SHQ lost. -/
structure CalJob where
  ref : Nat
  first : Nat
  cnt : Nat
  t0 : Nat
  period : Nat
  guard : Nat
  cycles : Nat
  shq : Nat
  lags : Nat
  mbx : Nat
  seq : Nat
  ents : List (Nat × Nat)
  refs : SMap (List CalBlk)
  pairs : List (CalBlk × CalBlk)
  lost : List (Nat × Nat)
deriving DecidableEq, Repr, Inhabited


/-- What one CCLK edge has done to the pending bank and to the job, for the happenings of one cycle (R271, R277). -/
structure CalTie where
  /-- The edge, counted from 1; 0: none. -/
  edge : Nat := 0
  /-- PSTATE, PEND_GEN and both CAL_PEND_SUM before the edge's first write or seal. -/
  pstate : Nat := 0
  gen : Nat := 0
  sums : List Word := []
  /-- Writes of the edge to the pending bank, newest first: of a mailbox command its mailbox and sequence; first word, the
  words before. -/
  writes : List (Option (Nat × Nat) × Nat × List Word) := []
  /-- The bank pending before a CAL_APPLY that has issued at the edge. -/
  applied : Option Nat := none
  /-- The job completed at the edge: mailbox, sequence, the event's detail, JOBS before. -/
  done : Option (Nat × Nat × Word × Nat) := none
deriving DecidableEq, Repr, Inhabited
/-! ### Fiuth ports and the bridge (spec/10, spec/11) -/

/-- A packet on its way to a capture channel: its words, the exact epoch beside its HEAD. -/
structure CapPkt where
  ws : List Word
  ep : Option Nat
deriving DecidableEq, Repr, Inhabited

/-- What one of TM9's own Fiuth cycles is for. -/
inductive Owner where
  /-- A REPLY for inbound read tag `t`. -/
  | reply (t : Nat)
  | iack (level slot : Nat)
  /-- Presence: the read of ID (`id` none) or of CAP. -/
  | presence (slot : Nat) (id : Option Word)
  | admitSlot (slot : Nat) (mbx : Option Nat)
  | poll (slot : Nat)
  | geo (mbx : Nat) (write : Bool)
  /-- Words `ofs` on of the FIU_ACCESS numbered `id` of a mailbox. -/
  | access (mbx id ofs : Nat)
  /-- The CTL write that ends the removal of a slot (R304). -/
  | remove (slot : Nat)
  /-- Write run `run` of the route memory through a window: the HEAD of its packet, the Fiuth address where it starts. -/
  | route (win run : Nat) (head : Word) (start : Nat)
deriving DecidableEq, Repr, Inhabited

/-- One of TM9's own cycles (R284, R326). -/
structure Own where
  cmd : Nat
  addr : Word
  cnt : Nat
  /-- The words to be driven; true: with F_PAR inverted (R318). -/
  ws : List (Word × Bool)
  /-- Words already answered, and the words read; true: parity failed. -/
  k : Nat
  got : List (Word × Bool)
  retries : Nat
  owner : Owner
  /-- Decisions that it has taken part in without a grant (R385). -/
  waited : Nat := 0
deriving DecidableEq, Repr, Inhabited

/-- A read of TM9 as master that its slave deferred (R294): the slave's requester code, the tag. -/
structure DefRd where
  src : Nat
  tag : Nat
  own : Own
deriving DecidableEq, Repr, Inhabited

/-- A message of a port (R330, R331): M0 bits 23:0, its epoch, and the posted writes ahead of it (R332). -/
structure BrgMsg where
  m0 : Nat
  ep : Nat
  ahead : List Nat
deriving DecidableEq, Repr, Inhabited

/-- An inbound read that holds a Lysith tag (R319 to R322). -/
structure InRead where
  src : Nat
  cmd : Nat
  /-- The Fiuth address, the words, the window's WIDTH. -/
  addr : Word
  cnt : Nat
  width : Nat
  /-- The 40-bit or Tweed address of word 0. -/
  lys : Nat
  tweed : Bool
  /-- How the master was answered: 0 not yet, 1 DEFER, 2 RETRY (a hold), 3 F_VALID held to edge 96; 4 the read is
  abandoned, and the tag waits for its completion; 5 a locked pair; 6 a LOCK_WRITE waits for its acknowledgement; 7 it
  was answered at edge 96. -/
  ans : Nat
  /-- Words of lines already read, of a read of several lines. -/
  part : List (Word × Bool)
  /-- The completion: status of R16 and words; true: poisoned. -/
  data : Option (Nat × List (Word × Bool))
  /-- The data came from a register, whose read side effects are done (R323). -/
  isReg : Bool
  /-- Its first words have been asked for. -/
  begun : Bool := false
deriving DecidableEq, Repr, Inhabited

/-- A write of the posted buffer (R325): its number, its master, its 40-bit address (of a line, with the words that the
mask names), whether it names a package by Tweed address, and whether it has gone to its target. -/
structure Posted where
  num : Nat
  src : Nat
  addr : Nat
  mask : Nat
  ws : List Word
  tweed : Bool
  sent : Bool
  /-- Messages of the port made before it, which it may not pass (R336). -/
  msgs : Nat := 0
deriving DecidableEq, Repr, Inhabited

/-- Words of a posted write that wait for room: master, 40-bit or Tweed address and word of each, and the failure of the
word that follows them: parity (`none`) or an address error (R325). -/
structure HeldWr where
  src : Nat
  tweed : Bool
  ws : List (Nat × Word)
  fail : Option (Option Nat)
deriving DecidableEq, Repr, Inhabited

/-- A pending request of a Twill instance but a Fiuth segment's (R383, R384): its code; on a cluster store 0 a write, 1 a read, the
bank and the queue that it targets; its wait (R385). -/
structure TwlReq where
  code : Nat
  dir : Nat
  bank : Nat
  queue : Nat
  waited : Nat
deriving DecidableEq, Repr, Inhabited

/-- An answer of a Twill decision: GRANT or PEND, the code and direction, the queue index that it names (R384). -/
structure TwlAns where
  granted : Bool
  code : Nat
  dir : Nat
  index : Option Nat
deriving DecidableEq, Repr, Inhabited

/-- A Twill instance of a cluster store, region store or HBM channel (R381 to R390): requests pending, oldest first; LEN in force
while a write waits; the cycle of its next decision; the answers of its last. -/
structure Twl where
  pend : List TwlReq
  lenOld : Option Nat
  cycle : Nat
  ans : List TwlAns
deriving DecidableEq, Repr, Inhabited

/-- One Fiuth port. -/
structure FiuPort where
  /-- ROLE, MYSLOT and NO_RST in force (R306). -/
  role : Bool
  mySlot : Nat
  noRst : Bool
  /-- Others assert F_HALT. -/
  haltExt : Bool
  /-- TM9's geographic CTL as a member, bits 4:0. -/
  ctl : Nat
  /-- Own cycles waiting for the bus, those that wait for room in the buffers of R335, the one on the bus, and those that
  wait RTY_WAIT, oldest first. -/
  queue : List Own
  outer : List Own
  cur : Option Own
  wait : List Own
  deferred : List DefRd
  /-- The slot granted whose header has not been sampled, and F_CMD of the last header. -/
  granted : Option Nat
  lastCmd : Nat
  /-- Waits of the requesters pending at the Twill instance by code; LEN in force while a write waits (R390). -/
  waits : SMap (Option Nat)
  lenOld : Option Nat
  /-- The answer of the last cycle is overdue (R286). -/
  late : Bool
  /-- The lock of R290: master, address, and whether TM9 is its slave; and a LOCK_READ of another slave's not yet
  answered. -/
  lock : Option (Nat × Word × Bool)
  lockReq : Option (Nat × Word)
  /-- Consecutive cycles without answer by slot (R305). -/
  noAns : SMap Nat
  /-- Interrupts (R299): last slot served by level, IACKs of the pass in progress at a level, levels held off. -/
  served : SMap (Option Nat)
  pass : SMap Nat
  holdoff : Nat
  removing : List Nat
  /-- A segment reset in progress: its mailbox, if a command's; slots that re-present after one (R302). -/
  segReset : Option (Option Nat)
  represent : List Nat
  /-- CFG.EN was written 0 while a cycle was under way, and the edge count of that write (R306, R307). -/
  closing : Bool
  offEdge : Option Nat
  /-- ROLE, MYSLOT and NO_RST at the last write of EN from 0 to 1, until the port leaves OFF with them (R306). -/
  latch : Option (Bool × Nat × Bool)
  /-- Handshakes to come of the cycle of another master's under way on the segment. -/
  other : Option Nat
  /-- The lines as TM9 drives them: F_HALT, F_RST, and on a member port F_MREQ and F_IRQ (R299 to R302, R306). -/
  haltOut : Bool
  rstOut : Bool
  mreqOut : Bool
  irqOut : Nat
  /-- Messages queued, messages made, and their packets for the route memory (R333). -/
  msgs : List BrgMsg
  msgCnt : Nat
  pkts : List CapPkt
  /-- Inbound reads by tag index 0-63, and the writes of the posted buffer in acceptance order; the oldest is at its
  target. -/
  tags : SMap (Option InRead)
  /-- Reads not yet sent toward Lysith, oldest first: tag index, and the posted writes ahead of it (R336). -/
  issue : List (Nat × List Nat)
  posted : List Posted
  postNext : Nat
  held : Option HeldWr
  /-- Write runs begun by the route memory. -/
  runs : Nat
deriving DecidableEq, Repr, Inhabited

/-- A FIU_ACCESS of a mailbox (R326). -/
structure FiuAcc where
  /-- The number that its cycles carry, and the window's WIDTH when it began (R316). -/
  id : Nat
  width : Nat
  seq : Nat
  port : Nat
  win : Nat
  write : Bool
  cnt : Nat
  /-- Cycles not ended; the words read; a word failed parity; a cycle failed; the command was answered DEFERRED. -/
  left : Nat
  got : SMap Word
  poisoned : Bool
  failed : Bool
  deferred : Bool
deriving DecidableEq, Repr, Inhabited

/-! ### Route memory, packets, loops, power (spec/11, spec/14, spec/16) -/

/-- A staged route change (R342): endpoint, X0, X1. -/
structure RteChange where
  ep : Nat
  x0 : Word
  x1 : Word
deriving DecidableEq, Repr, Inhabited

/-- The route memory beside its entries: the staging list in order, and E_rs while SWITCHING with the edge of issue. -/
structure Rte where
  staged : List RteChange
  ers : Option Nat
  /-- Stream packets received over Lysith that wait for the route memory, oldest first (R400). -/
  rx : List (List Word)
deriving DecidableEq, Repr, Inhabited

/-- A loop input's stream (R470): the epoch second of its slot 0, slots since, the slots of the packet so far, and
packets for the route memory. -/
structure LoopIn where
  sec : Option Nat
  n : Nat
  held : List Word
  pkts : List CapPkt
deriving DecidableEq, Repr, Inhabited

/-- A loop output: the SET word that waits for the next millisecond, the setpoint in force, and consecutive readings that
meet each condition of R472. -/
structure LoopOut where
  pend : Option Nat
  set : Nat
  low : Nat
  isOpen : Nat
  good : Nat
  /-- What TM9 drives, in nA; 0: nothing (R471, R473). -/
  level : Nat
  /-- The failure level stands, from a watchdog expiry until a SET takes effect (R473). -/
  fail : Bool
  /-- One more than the edge count of the last write of SET (R474). -/
  setEdge : Nat
deriving DecidableEq, Repr, Inhabited

/-- A stop of this edge that another of the same edge wins over (R474): its cause, and what the shutdown is judged by. -/
structure StopTie where
  cause : Nat
  hot : SMap Bool
  trim : SMap Int
deriving DecidableEq, Repr, Inhabited

/-- Power and thermal state (R455 to R467). -/
structure Pwr where
  /-- RAIL_EN is low. -/
  railOff : Bool
  /-- TM9 is held in reset: from a stop or RST_N low until reset release. -/
  held : Bool
  /-- PWR_STANDBY was accepted and entry has not begun (R461). -/
  standby : Bool
  /-- A wake request is latched (R463). -/
  wake : Bool
  /-- The cause that the next reset release loads into WAKE_SRC; 0: none. -/
  src : Nat
  /-- Per sensor 0-9 the last reading was at or above SHUTDOWN (R465). -/
  hot : SMap Bool
  /-- Per sensor 0-9 the last read of MAX: its edge count, and the value it cleared (R13). -/
  maxWas : SMap (Option (Nat × Nat))
  /-- Factory trims of the region sensors and their trims now, in 1/16 degree C (R280). -/
  fact : SMap Int
  trim : SMap Int
  loopIn : SMap LoopIn
  loopOut : SMap LoopOut
  /-- Edges after a thermal shutdown during which WAKE_N is still ignored (R467). -/
  cool : Nat
  /-- The stop of this edge (R474). -/
  stopNow : Option StopTie
  /-- THM_CFG before the writes of an edge, and one more than its count (R474). -/
  thmOld : Option (Nat × Word)
deriving DecidableEq, Repr, Inhabited

/-- A packet under reassembly (R400): KIND and words, by source package. -/
structure PktRx where
  kind : Nat
  ws : List Word
  /-- Segments before these have gone their way (R405). -/
  cont : Bool := false
deriving DecidableEq, Repr, Inhabited

/-! ### The coherent fabric (spec/12, spec/14) -/

/-- A line in a cluster cache (R349, R350): its line number (40-bit address / 16), its state 1 M, 2 E, 3 S, 4 WBP, its
16 words. -/
structure CLine where
  line : Nat
  st : Nat
  ws : List Word
deriving DecidableEq, Repr, Inhabited

/-- A directory entry (R351): DSTATE, OWNER, PKG, WMASK; while locked, the holder's AGENT and bridge port, and whether
the line was DP (R367, R375). -/
structure DirEnt where
  st : Nat
  owner : Nat
  pkg : Nat
  wmask : Nat
  holder : Nat
  port : Nat
  wasDp : Bool
deriving DecidableEq, Repr, Inhabited

/-- A message of R352 with its fields: CODE, AGENT, TAG, SUB, GRANT, MASK, 40-bit address, CLUSTER, status, words. -/
structure CMsg where
  code : Nat
  agent : Nat := 0
  tag : Nat := 0
  sub : Nat := 0
  grant : Nat := 0
  mask : Nat := 0
  addr : Nat := 0
  clu : Nat := 0
  st : Nat := 0
  ws : List Word := []
  /-- It came, or goes, routed by package ID (RT 1): its address is local (R43, R399). -/
  rt1 : Bool := false
deriving DecidableEq, Repr, Inhabited

/-- A transaction open at a home (R355 to R357). -/
structure CTxn where
  /-- The request; `void`: it was discarded because its requester is dead (R374). -/
  req : CMsg
  void : Bool
  /-- Domain indices whose SRSP is awaited; the owner snooped. -/
  waits : List Nat
  owner : Option Nat
  /-- The owner sent the data to the requester; it answered DIRTY; its SDATA. -/
  fwd : Bool
  dirty : Bool
  sdata : Option (List Word)
  /-- The owner answered CROSS; its WB (words) or EVICT (none) that has arrived (R361). -/
  cross : Bool
  wb : Option (Option (List Word))
  /-- The request is performed; a CACK is awaited; the entry written at the close. -/
  done : Bool
  cack : Bool
  next : DirEnt
  /-- The CACK came before the SRSP of the owner that sent the data. -/
  acked : Bool
  /-- A WB or EVICT, with its sender, that waits for the close. -/
  early : Option (Nat × Option (List Word))
deriving DecidableEq, Repr, Inhabited

/-- What a request of a local agent is for. -/
inductive CohWho where
  | nothing
  /-- A fill of the agent's own cluster cache. -/
  | fill
  /-- Words that a unit's running task reads, or an ATOM or store of it. -/
  | unit (u : Nat)
  /-- COUNT of the ring block that block `g` of beam `b` uses, in another package (R208). -/
  | count (b g : Nat)
  /-- COUNT of such a ring block, read because the beam wait of block `g` expired (R230). -/
  | countAt (b g : Nat)
  /-- Words of a member table, by the key of `Tsk.tabRds`. -/
  | tab (k : Nat)
  /-- The words of a CANVAS_READ of a mailbox (R366). -/
  | mbx (n : Nat)
  /-- A host read through BAR2: its number. -/
  | host (k : Nat)
  /-- An NA_RD routed by package ID, which this home has an owner's copy for (R366, R378). -/
  | relay (m : CMsg)
  /-- An inbound Fiuth read by tag, and an inbound posted or lock write by number, of a port. -/
  | fiuRd (p t : Nat)
  | fiuWr (p k : Nat)
deriving DecidableEq, Repr, Inhabited

/-- A request outstanding at a local agent: the message, its purpose. One for the right to write carries the words that
the unit stores (R350, R375). -/
structure COut where
  m : CMsg
  who : CohWho
deriving DecidableEq, Repr, Inhabited

/-- A request that waits to be sent: its purpose, its agent, the TAG that it must carry if it has one, the message. -/
structure CWait where
  who : CohWho
  la : Nat
  tag : Option Nat
  m : CMsg
deriving DecidableEq, Repr, Inhabited

/-- A CANVAS_READ in progress (R366): its local address and length, the words received. -/
structure MbxRd where
  addr : Nat
  cnt : Nat
  got : SMap (Option Word)
deriving DecidableEq, Repr, Inhabited

/-- A departure from the domain (R418): the heir; 1 copying, 2 holding, 3 forwarding; requests held. -/
structure Leave where
  heir : Option Nat
  phase : Nat
  held : List CMsg
deriving DecidableEq, Repr, Inhabited

/-- A HELLO seen: serial, package ID, the port of its first arrival and of one by another way. -/
structure Seen where
  serial : Nat
  id : Nat
  port : Option Nat
  alt : Option Nat
deriving DecidableEq, Repr, Inhabited

/-- The system tree as a leader's firmware knows it (R410). A trunk link is the domain index of the member that owns it x 8 +
its port: the links that are up, best root serial, distance, uplink, announcements by link (leader, root, distance),
identities (serial, ID) reported by link, and the full list. -/
structure Tree where
  links : List Nat
  root : Nat
  dist : Nat
  uplink : Option Nat
  heard : SMap (Option (Nat × Nat × Nat))
  below : SMap (List (Nat × Nat))
  ids : List (Nat × Nat)
deriving DecidableEq, Repr, Inhabited

/-- A host read through BAR2 in progress, or the read of a merge (R30): its number, first word address, words, the first
byte and length within their bytes, packed mode, which of these bytes are enabled (R31), the words received; a merge:
the bits that the host writes and their values. -/
structure HostRd where
  num : Nat
  addr : Nat
  cnt : Nat
  skip : Nat
  len : Nat
  packed : Bool
  be : Nat
  merge : Option (Nat × Nat)
  got : SMap (Option Word)
deriving DecidableEq, Repr, Inhabited

/-- The coherent fabric. -/
structure Coh where
  /-- Cache lines by cluster, least recently used first. -/
  caches : SMap (List CLine)
  /-- Directory entries by local line number, and the transactions open. -/
  dir : SMap DirEnt
  txns : SMap (Option CTxn)
  /-- Requests that wait for a busy line or a tracker, in arrival order. -/
  waiting : List CMsg
  /-- Requests to an HBM stack that accepts none (R434), in arrival order. -/
  hbmHeld : List CMsg
  /-- Outstanding requests of this package's agents. -/
  outs : List COut
  /-- Messages on their way between agents of this package. -/
  inbox : List CMsg
  /-- Requests to windows of this package that have no home (R21), in arrival order. -/
  plain : List CMsg
  /-- Requests of this package's agents that wait for a free TAG (R348), for the end of the cache's request for the same
  line, or for a way (R349, R354). -/
  tagWait : List CWait
  /-- Write-backs that wait for one of the 32 trackers of their region store (R354). -/
  wbWait : List CMsg
  /-- CANVAS_READs in progress by mailbox. -/
  mbxRds : SMap (Option MbxRd)
  /-- Completed requests whose words have not yet been handed on: purpose, the request, status, words. -/
  done : List (CohWho × CMsg × Nat × List Word)
  /-- Domain indices found unreachable and not yet declared dead (R405); agents declared dead singly (R369). -/
  lost : List Nat
  deadAgents : List Nat
  /-- HELLOs seen, since the package entered FORMING if it did, in ascending serial (R371). -/
  seen : List Seen
  /-- Serials of the members by domain index (R372). -/
  serials : SMap Nat
  /-- One more than the edge count of the last MAP for a DOMAIN_JOIN at the leader (R423). -/
  joinEdge : Nat
  /-- A DOMAIN_JOIN in progress: the package ID; a departure in progress. -/
  joining : Option Nat
  leave : Option Leave
  tree : Tree
  /-- Words of a MAP of which more messages are to come. -/
  mapRx : List Word
  /-- Host reads through BAR2 in progress, oldest first, and the number of the next. -/
  hostRds : List HostRd
  hostNext : Nat
deriving DecidableEq, Repr, Inhabited
/-! ### Capture and triggers (spec/08) -/

/-- What a capture channel keeps beside C0-C6 of its table entry (R236, R238): slot 0 has been found, the sequence
expected, the epoch of the block whose epoch words were overwritten last, packets delivered and not yet stored. -/
structure CapChan where
  started : Bool
  seq : Nat
  oldEp : Nat
  pend : List CapPkt
deriving DecidableEq, Repr, Inhabited

/-- The slots of one channel that a record being cut has collected: the channel, the slot to come next, the first slot
after its span, the words so far. -/
structure CutCol where
  ch : Nat
  next : Nat
  stop : Nat
  ws : List Word
deriving DecidableEq, Repr, Inhabited

/-- A record being cut (R246, R251). -/
structure Cut where
  num : Nat
  et : Nat
  cause : Nat
  decim : Nat
  pre : Nat
  retrig : Nat
  missed : Nat
  skipped : Nat
  cols : List CutCol
  /-- The watched channel's slots, when it lies outside the group. -/
  watch : Option CutCol
deriving DecidableEq, Repr, Inhabited

/-- A record in its buffer: number, ring offset, the words it takes or reserves; `ready`: its TAIL is written; what an
engineering engine's test reads: the words before the trailer, PRE_ACTUAL, positions, channels. -/
structure Rec where
  num : Nat
  ofs : Nat
  len : Nat
  ready : Bool
  body : List Word
  pre : Nat
  npos : Nat
  nch : Nat
deriving DecidableEq, Repr, Inhabited

/-- A trigger that has arrived: its slot, the mask of its conditions; the reason for which it is missed and the epoch of its
slot, where a rule names a reason in any state (R244), else 0. -/
structure Arrival where
  slot : Nat
  mask : Nat
  reason : Nat
  ep : Nat
deriving DecidableEq, Repr, Inhabited

/-- A trigger engine (R241 to R257). -/
structure Trg where
  /-- Unresolved epoch triggers: the mask of conditions, the epoch (R244). -/
  pend : List (Nat × Nat)
  cut : Option Cut
  recs : List Rec
  /-- Ring offset at which the next record starts. -/
  ofs : Nat
  /-- DCNT; triggers missed and skipped since the previous record. -/
  dcnt : Nat
  missed : Nat
  skipped : Nat
  /-- The engine goes to IDLE once POST or REARM ends, or to STOPPED once POST ends (R241, R250, R262). -/
  disarm : Bool
  stop : Bool
  /-- The edge count at which POST ended (R249). -/
  postEdge : Nat
  /-- The triggers that arrived at one edge, by slot, and one more than its edge count: CAP_DISARM of the edge wins over them,
  and the lowest slot is taken first (R245, R250). -/
  arrs : List Arrival
  arrEdge : Nat
deriving DecidableEq, Repr, Inhabited

/-- Capture. -/
structure Cap where
  chan : SMap CapChan
  trg : SMap Trg
  /-- Records queued for the Damask engine, in queue order: engine and record number (R261). -/
  dmk : List (Nat × Nat)
  /-- Epoch fraction bits 35:26 at the last tick (R256). -/
  tick : Nat
  /-- One more than the edge count of the last tick. -/
  tickEdge : Nat
deriving DecidableEq, Repr, Inhabited

/-! ### What a command of the present edge has done -/

/-- The block before or after a command: every part of it that a scheduler action or a steal can change. -/
structure Snap where
  regs : SMap Word
  mem : SMap Word
  uncorr : SMap Bool
  parBad : SMap Nat
  staged : SMap (Option Word)
  out : List Out
  cp : Cp
  mbx : SMap Mailbox
  queues : SMap Queue
  qTie : SMap DropTie
  epo : Epo
  sch : Sch
  err : ErrUnit
  lnk : SMap Lnk
  pci : Pci
  unreached : List Nat
  bbOwed : List (List Word)
  ing : Ing
  tsk : Tsk
  fiu : SMap FiuPort
  acc : SMap (Option FiuAcc)
  rte : Rte
  pwr : Pwr
  cap : Cap
  coh : Coh
  cal : Option CalJob
  calTie : CalTie
deriving DecidableEq, Repr, Inhabited

/-- A command of the present edge that another command of the same edge can win over: 0 an issue of scheduler entry `idx`
(R149), 1 a steal of unit `idx` (R225), 2 a trigger of engine `idx` and what follows it (R245, R250), 3 a tick of engine `idx`
(R256), 4 a watchdog expiry of loop output `idx` (R474); one more than its edge count; the block before and after it. The
MODEL's own field, not the spec's (assumption 171). -/
structure Tie where
  kind : Nat
  idx : Nat
  edge : Nat
  before : Snap
  after : Snap
deriving DecidableEq, Repr, Inhabited

/-! ### The whole state -/

/-- The block but for its queue of commands, its fuses and its keep store. -/
structure Dev where
  /-- The registers, keyed by window offset (see Sys2Proof/Machine/Regs.lean), those at their reset value not listed. -/
  regs : SMap Word
  /-- The local space of R21 but for the register window, by local word address; an unlisted word reads zero. -/
  mem : SMap Word
  /-- Local addresses whose word is uncorrectable or poisoned. -/
  uncorr : SMap Bool
  /-- Local addresses whose word is read with a corrected error (R424). -/
  corr : SMap Bool
  /-- Cluster-store addresses whose word fails parity: bit 1 the upper half, bit 0 the lower (R102). -/
  parBad : SMap Nat
  /-- Shadow and staging words of the 72-bit pairs: key path x 2^24 + offset of NAME_LO (R88). -/
  shadow : SMap (Option Word)
  staged : SMap (Option Word)
  /-- Free values drawn so far: the MODEL's own field, not the spec's (assumption 3). -/
  free : Nat
  /-- What the part has driven outward or returned, oldest first: the MODEL's own field (assumption 5). -/
  out : List Out
  cp : Cp
  mbx : SMap Mailbox
  /-- Queues by cluster x 128 + queue. -/
  queues : SMap Queue
  /-- Drop-remainders of full queues, by the same key (R105). -/
  qTie : SMap DropTie
  epo : Epo
  sch : Sch
  err : ErrUnit
  lnk : SMap Lnk
  pci : Pci
  /-- Destinations for which event 0x903 has been raised: RT x 2^16 + DEST (R405). -/
  unreached : List Nat
  /-- The factory serial read from the keep store (R448), 72 bits. -/
  serial : Nat
  /-- Payloads of the black-box records that the firmware owes, oldest first (R452). -/
  bbOwed : List (List Word)
  ing : Ing
  tsk : Tsk
  fiu : SMap FiuPort
  /-- The Twill instances of kinds 0 to 2, by kind x 64 + instance. -/
  twl : SMap Twl
  /-- FIU_ACCESS by mailbox: in progress or held for FIU_RESULT. -/
  acc : SMap (Option FiuAcc)
  /-- FIU_ACCESS commands begun. -/
  accNum : Nat
  rte : Rte
  pwr : Pwr
  /-- Packets under reassembly by source package, and packets given up to mailboxes' agents (R400). -/
  rxPkt : SMap (Option PktRx)
  cap : Cap
  coh : Coh
  /-- The calibration job in progress. -/
  cal : Option CalJob
  /-- What the present edge has done to the pending bank and to the job (R271, R277). -/
  calTie : CalTie
  /-- What commands of the present edge have done, newest first (R149, R225). -/
  ties : List Tie
deriving DecidableEq, Repr, Inhabited

/-- The state: the block, what a loss of power does not touch (fuses and keep store), and the commands waiting, first in,
first out. -/
structure State where
  pending : List Instr
  fuses : Fuses
  ks : KeepStore
  dev : Dev
deriving DecidableEq, Repr

/-- Why the block stops: no command of this spec does, so no meaning answers one. -/
inductive Fault where
  /-- Raised by nobody: every access the spec calls an error is answered as R23 says, which is a next state. Safe. -/
  | none
deriving DecidableEq, Repr

/-- Why a command has no meaning. -/
inductive Refusal where
  /-- Raised by exec for a command whose meaning is not written yet. Safe: the model stops where the part goes on. -/
  | notModelled (mnemonic : String)
deriving DecidableEq, Repr

/-- Right after reset: every register at its table's reset value, every buffer, queue and engine empty or idle, memory
with nothing listed, the fuses and the keep store as delivered (assumptions 6 and 7). -/
def State.reset : State := { pending := [], fuses := default, ks := default, dev := default }

end Sys2Proof.Machine
end

