-- ==== Sys2Proof/Machine/Ops.lean ====
section
/-! DEFINITION. The named operations over registers, memory, events, errors and outputs that every meaning uses. -/

namespace Sys2Proof.Machine

/-- The outcome type of every meaning. -/
abbrev R := Host.Outcome State Fault Refusal

/-! ### Registers -/

/-- The indices of an offset relative to a register table's base, outermost first. -/
def hitDims : Nat → List (Nat × Nat) → Option (List Nat)
  | r, [] => if r = 0 then some [] else none
  | r, (c, st) :: ds => if r / st < c then (hitDims (r % st) ds).map (r / st :: ·) else none

/-- The register table that an offset belongs to, with its indices. -/
def lookupReg (off : Nat) : Option (RegRow × List Nat) :=
  regTable.findSome? fun r =>
    if r.base ≤ off then (hitDims (off - r.base) r.dims).map (fun ix => (r, ix)) else none

/-- R62: PATH of mailbox n at reset. -/
def pathReset (n : Nat) : Nat := if n < 8 then 0 else if n < 12 then 1 else if n < 14 then 2 else 3

/-- A register's value at reset: that of its table, with R62 for PATH and CAL_BANK[1].OFS = 0x08_0000. -/
def regDflt (off : Nat) : Word :=
  match lookupReg off with
  | none => 0
  | some (r, ix) =>
    let w := mkW (r.fields.map fun f => (f.hi, f.lo, f.reset))
    if r.base = R.mbxCfg 0 then putBits w 14 12 (pathReset (ix.headD 0))
    else if off = R.calBank 1 then toW 0x080000 else w

/-- The stored value of the register at an offset. -/
def Dev.reg (d : Dev) (off : Nat) : Word := mapGet regDflt d.regs off

/-- The stored value of a register set. -/
def Dev.setReg (off : Nat) (w : Word) (d : Dev) : Dev := { d with regs := mapSet regDflt d.regs off w }

/-- The value of a field. -/
def Dev.f (d : Dev) (fl : Fld) : Nat := bitsOf (d.reg fl.off) fl.hi fl.lo

/-- A one-bit field as a truth value. -/
def Dev.fb (d : Dev) (fl : Fld) : Bool := d.f fl != 0

/-- A field set. -/
def Dev.setF (fl : Fld) (v : Nat) (d : Dev) : Dev := d.setReg fl.off (putBits (d.reg fl.off) fl.hi fl.lo v)

/-- A counter field increased by `n`, saturating at its greatest value. -/
def Dev.inc (fl : Fld) (n : Nat) (d : Dev) : Dev := d.setF fl (satAdd (2 ^ (fl.hi + 1 - fl.lo) - 1) (d.f fl) n)

/-- A field that holds a maximum. -/
def Dev.maxF (fl : Fld) (v : Nat) (d : Dev) : Dev := if d.f fl < v then d.setF fl v else d

/-! ### Paths -/

/-- The writer's path as event 0x006 codes it (R76): PATH 0-3, 7 the CP. The other agents of this package, for which R76
gives no code, show the CP's (assumption 147). -/
def pathCode : Path → Nat
  | .pcie => 0 | .lysith => 1 | .mgmt => 2 | .fiuth _ => 3 | .cp => 7 | .agent _ => 7

/-- The access path of R88: CP 7 (management commands are the CP's), PCI Express 0, Lysith 1, Fiuth port p 2 + p. The
other agents of this package, to which R88 gives no path, share the CP's (assumption 147). -/
def pathIdx : Path → Nat
  | .pcie => 0 | .lysith => 1 | .fiuth p => 2 + p.val | .mgmt => 7 | .cp => 7 | .agent _ => 7

/-- The requester code of R23 of an access path; Lysith accesses come from another package. -/
def pathReq : Path → Nat
  | .pcie => 65 | .lysith => 0x7F | .mgmt => 64 | .fiuth _ => 66 | .cp => 64 | .agent la => la.val

/-! ### Outputs, free values, the epoch -/

/-- Something driven outward or returned. -/
def Dev.emit (o : Out) (d : Dev) : Dev := { d with out := d.out ++ [o] }

/-- The number of the next free value, and the state that has drawn it. -/
def Dev.fresh (d : Dev) : Nat × Dev := (Config.freeNat d.free, { d with free := d.free + 1 })

/-- The epoch: seconds and ep as one 72-bit value (R112, R118). -/
def Dev.now (d : Dev) : Nat := d.epo.cnt / 2 ^ 29 % 2 ^ 72

/-- The epoch counter set to a value of seconds and ep. -/
def Dev.setNow (e : Nat) (d : Dev) : Dev :=
  { d with epo := { d.epo with cnt := 2 ^ 29 * (e % 2 ^ 72), edgeCnt := 2 ^ 29 * (e % 2 ^ 72) } }

/-- The epoch seconds. -/
def Dev.nowSec (d : Dev) : Nat := d.now / 2 ^ 36

/-- The two words, seconds and ep, of an epoch. -/
def epWords (e : Nat) : List Word := [toW (e / 2 ^ 36), toW e]

/-! ### Event codes and MSI-X -/

/-- A vector sent (R413): pending while its entry or the function is masked; nothing goes out in D3hot or while the link
is down (R416, assumption 11). -/
def Dev.sendMsix (v : Nat) (d : Dev) : Dev :=
  let e := mget d.pci.msix v
  if !e.unmasked || d.pci.fmask then { d with pci := { d.pci with pba := mset d.pci.pba v true } }
  else if d.fb F.pciStat_D3HOT || !d.fb F.pciStat_LINK_UP || d.pci.flr then d
  else d.emit (.msix v e.addr e.data)

/-! ### The CP log (R429, R430) -/

/-- The firmware executes and is not held by a restart. -/
def Dev.running (d : Dev) : Bool := d.f F.cpBoot_STATE == 5

/-- One entry written to the log; a full log of 1,024 loses its oldest. -/
def Dev.logPut (kind : Nat) (ws : List Word) (d : Dev) : Dev :=
  let full := d.cp.log.length ≥ 1024
  { d with cp := { d.cp with
      log := (if full then d.cp.log.drop 1 else d.cp.log) ++ [(kind, ws)]
      logSeq := (d.cp.logSeq + 1) % 2 ^ 36
      logLost := if full then d.cp.logLost + 1 else d.cp.logLost } }

/-- R430: at the first event copied after a warm restart, a GAP entry for the events missed. -/
def Dev.logGap (seq : Nat) (d : Dev) : Dev :=
  if d.cp.gap then
    let d := { d with cp := { d.cp with gap := false } }
    match d.cp.lastSeq with
    | some l =>
      let df := (seq + 4096 - l % 4096) % 4096
      if df > 1 then d.logPut 2 [toW (df - 1)] else d
    | none => d
  else d

/-- R429: an event copied into the log while the firmware runs. -/
def Dev.logEvent (seq : Nat) (msg : List Word) (d : Dev) : Dev :=
  if d.running then
    let d := (d.logGap seq).logPut 0 msg
    { d with cp := { d.cp with lastSeq := some seq } }
  else d

/-! ### Events (R73-R75) -/

/-- A mailbox of the block. -/
def Dev.mb (d : Dev) (n : Nat) : Mailbox := mget d.mbx n

/-- A mailbox changed. -/
def Dev.modMb (n : Nat) (f : Mailbox → Mailbox) (d : Dev) : Dev := { d with mbx := mmod d.mbx n f }

/-- R75: a full event queue drops the oldest message of which no word has been read. -/
def dropOldestUnread {α : Type} (rd : Nat) (q : List α) : List α :=
  if rd = 0 then q.drop 1 else q.take 1 ++ q.drop 2

/-- A message delivered to one mailbox (R68, R75). -/
def Dev.deliverEvt (n : Nat) (msg : List Word) (d : Dev) : Dev :=
  let m := d.mb n
  let full := m.evts.length ≥ 64
  let q := if full then dropOldestUnread m.evtRd m.evts else m.evts
  let d := d.modMb n (fun m => { m with evts := q ++ [msg] })
  let d := if full then d.inc (F.mbxStat_EVT_LOST n) 1 else d
  if d.fb (F.mbxCfg_IRQ_EN n) then d.sendMsix (d.f (F.mbxCfg_VEC n)) else d

/-- An event raised with an epoch, without the check of the log's LOST count. -/
def Dev.eventRaw (code inst ep : Nat) (e3 : Word) (d : Dev) : Dev :=
  let seq := d.cp.evtSeq
  let msg := mkW [(35, 24, code), (23, 12, inst), (11, 0, seq)] :: epWords ep ++ [e3]
  let d := { d with cp := { d.cp with evtSeq := (seq + 1) % 4096 } }
  let d := forN 16 (fun n d =>
    if nbit (d.f (F.mbxEvtMask_GROUP n)) (code / 256) then d.deliverEvt n msg else d) d
  d.logEvent seq msg

/-- An event taken out of the events raised: delivered and copied, with event 0xA04 when the log's LOST count leaves zero
(R429). -/
def Dev.eventOut (x : Nat × Nat × Nat × Word) (d : Dev) : Dev :=
  let d' := d.eventRaw x.1 x.2.1 x.2.2.1 x.2.2.2
  if d.cp.logLost = 0 && d'.cp.logLost != 0 then d'.eventRaw 0xA04 0 d'.now (toW d'.cp.logLost) else d'

/-- An element inserted behind every element whose two keys are not greater (R75, R427). -/
def insertByKeys {α : Type} (x : Nat × Nat × α) : List (Nat × Nat × α) → List (Nat × Nat × α)
  | [] => [x]
  | y :: ys => if y.1 < x.1 || (y.1 == x.1 && y.2.1 ≤ x.2.1) then y :: insertByKeys x ys else x :: y :: ys

/-- An event raised with an epoch of its own (R333): it waits for the end of the command, because the events of one cycle
take ascending code, then ascending instance (R75). -/
def Dev.eventAt (code inst ep : Nat) (e3 : Word) (d : Dev) : Dev :=
  { d with cp := { d.cp with raised := insertByKeys (code, inst, ep, e3) d.cp.raised } }

/-- An event raised (R73-R75). -/
def Dev.event (code inst : Nat) (e3 : Word) (d : Dev) : Dev := d.eventAt code inst d.now e3

/-- A message with the detail `new` in place of `old`, if it is of an event raised now by this code and instance. -/
def amendMsg (code inst now : Nat) (old new : Word) (msg : List Word) : List Word :=
  match msg with
  | e0 :: rest =>
    if bitsOf e0 35 12 = code * 4096 + inst && rest == epWords now ++ [old] then e0 :: (epWords now ++ [new]) else msg
  | [] => []

/-- The detail of a completion raised at this edge that a cancel of the same cycle overrides, in every copy of its event:
the cancel wins (R168, R277). -/
def Dev.amendEvent (code inst : Nat) (old new : Word) (d : Dev) : Dev :=
  let f := amendMsg code inst d.now old new
  let d := forN 16 (fun n d => d.modMb n fun m => { m with evts := m.evts.map f }) d
  { d with cp := { d.cp with log := d.cp.log.map fun (k, ws) => (k, if k = 0 then f ws else ws) } }

/-- A counter field incremented, its event raised when it leaves zero (R108 and the rules of that pattern). -/
def Dev.incEv (fl : Fld) (n : Nat) (code inst : Nat) (e3 : Nat → Word) (d : Dev) : Dev :=
  let was := d.f fl
  let d := d.inc fl n
  if was = 0 && d.f fl != 0 then d.event code inst (e3 (d.f fl)) else d

/-! ### Errors (R424-R428) -/

/-- An error-queue entry copied into the log, with event 0xA04 when the log's LOST count leaves zero (R429). -/
def Dev.logErr (ent : List Word) (d : Dev) : Dev :=
  let d' := d.logPut 1 ent
  if d.cp.logLost = 0 && d'.cp.logLost != 0 then d'.event 0xA04 0 (toW d'.cp.logLost) else d'

/-- An error's entry put into the hardware queue, and the log's copy (R427 to R429). -/
def Dev.queueErr (ent : List Word) (d : Dev) : Dev :=
  let full := d.err.queue.length ≥ 256
  let q := if full then dropOldestUnread d.err.rd d.err.queue else d.err.queue
  let d := { d with err := { d.err with queue := q ++ [ent] } }
  let d := if d.running then d.logErr ent
    else { d with cp := { d.cp with errUncopied := d.cp.errUncopied + 1 } }
  if full then d.incEv F.errQstat_LOST 1 0xA01 0 toW else d

/-- The errors met by the command put into the queue in the order of R427. -/
def Dev.queueErrs (d : Dev) : Dev :=
  d.err.met.foldl (fun d x => d.queueErr x.2.2) { d with err := { d.err with met := [] } }

/-! ### Fiuth ports: own cycles waiting, and the lines of a member port (R299, R306, R329, R335 to R337) -/

/-- A Fiuth port. -/
def Dev.fp (d : Dev) (p : Nat) : FiuPort := mget d.fiu p

/-- A Fiuth port changed. -/
def Dev.modFp (p : Nat) (f : FiuPort → FiuPort) (d : Dev) : Dev := { d with fiu := mmod d.fiu p f }

/-- STAT.STATE: 0 OFF, 1 MONITOR, 2 CONTROL, 3 MEMBER_WAIT, 4 MEMBER, 5 CONFLICT. -/
def Dev.fpState (d : Dev) (p : Nat) : Nat := d.f (F.fiuStat_STATE p)

/-- The rank of an own cycle among those waiting (R336): REPLY, IACK, posted and access cycles, geographic cycles. -/
def Own.rank (o : Own) : Nat := if o.cmd = 9 then 0 else if o.cmd = 8 then 1 else if o.cmd ≥ 10 then 3 else 2

/-- The cycle is a read that may be deferred: class N of R335. -/
def Own.isRead (o : Own) : Bool := o.cmd == 1 || o.cmd == 3

/-- The cycle is a posted write: class P of R335. -/
def Own.isPosted (o : Own) : Bool := o.cmd == 2 || o.cmd == 4

/-- Own cycles that hold a place in the buffers of R335. -/
def FiuPort.own (x : FiuPort) : List Own := x.queue ++ x.cur.toList ++ x.wait

/-- Words in the outbound posted buffer. -/
def FiuPort.pFill (x : FiuPort) : Nat :=
  (x.own.map fun o => if o.isPosted then o.ws.length - o.k else 0).foldl (· + ·) 0

/-- Reads and IACKs in their buffer. -/
def FiuPort.nFill (x : FiuPort) : Nat := x.own.countP fun o => o.isRead || o.cmd == 8

/-- R335, R336: the buffer of an own cycle has room for it, and none waits that it may not pass. -/
def FiuPort.room (x : FiuPort) (o : Own) : Bool :=
  if o.isPosted then decide (x.pFill + o.ws.length ≤ 1024) && !x.outer.any Own.isPosted
  else if o.isRead then decide (x.nFill < 16) && x.outer.isEmpty
  else true

/-- An own cycle enters its buffer, or waits for room. -/
def FiuPort.enter (x : FiuPort) (o : Own) : FiuPort :=
  if x.room o then { x with queue := x.queue ++ [o] } else { x with outer := x.outer ++ [o] }

/-- The cycles that wait for room enter as far as there is some. -/
def FiuPort.refill (x : FiuPort) : FiuPort := x.outer.foldl FiuPort.enter { x with outer := [] }

/-- R336, R337: the next of the posted writes and reads: a read passes no earlier cycle of either class and waits while 16
reads are deferred (R294); a posted write passes reads. -/
def FiuPort.pickPN (x : FiuPort) : Option Nat :=
  if x.wait.any Own.isPosted then none
  else if x.wait.any Own.isRead || decide (x.deferred.length ≥ 16) then x.queue.findIdx? Own.isPosted
  else x.queue.findIdx? fun o => o.rank == 2

/-- R336: the own cycle whose header comes next; no IACK while the message queue is full (R334). -/
def FiuPort.pick (x : FiuPort) : Option Nat :=
  let first := fun r => x.queue.findIdx? fun o => o.rank == r
  (first 0).or ((if x.msgs.length < 16 then first 1 else none).or (x.pickPN.or (first 3)))

/-- R329: the pending conditions of a member port: bit 0 posted error, 1 and 2 mailboxes 14 and 15. -/
def Dev.memberIrq (d : Dev) (p : Nat) : Nat :=
  let mb := fun n => !(d.mb n).rsp.isEmpty || !(d.mb n).evts.isEmpty
  bit (d.fb F.brgPerrInfo_VALID && d.f F.brgPerrInfo_PORT = p) + 2 * bit (mb 14) + 4 * bit (mb 15)

/-- R299, R329: the levels of F_IRQ that a port asserts. -/
def Dev.irqLine (d : Dev) (p : Nat) : Nat :=
  let c := (d.fp p).ctl
  if d.fpState p = 4 && d.fb F.brgCfg_MIRQ && nbit c 4 && d.memberIrq p ≠ 0 then 2 ^ (c / 2 % 8) else 0

/-- R306: F_MREQ: presence in MEMBER_WAIT, a request in MEMBER. -/
def Dev.mreqLine (d : Dev) (p : Nat) : Bool :=
  d.fpState p = 3 || (d.fpState p = 4 && (d.fp p).refill.pick.isSome)

/-- The lines F_IRQ and F_MREQ of a port driven where they change. -/
def Dev.memberLines (p : Nat) (d : Dev) : Dev :=
  let i := d.irqLine p
  let m := d.mreqLine p
  let d := if i = (d.fp p).irqOut then d else (d.modFp p fun x => { x with irqOut := i }).emit (.fiuLine p 4 i)
  if m = (d.fp p).mreqOut then d else (d.modFp p fun x => { x with mreqOut := m }).emit (.fiuLine p 5 (bit m))

/-- R282, R461, R476: the lines that TM9 asserts on a port released. -/
def Dev.fiuRelease (p : Nat) (d : Dev) : Dev :=
  let x := d.fp p
  let d := if x.haltOut then d.emit (.fiuLine p 0 0) else d
  let d := if x.rstOut then d.emit (.fiuLine p 1 0) else d
  let d := if x.irqOut = 0 then d else d.emit (.fiuLine p 4 0)
  let d := if x.mreqOut then d.emit (.fiuLine p 5 0) else d
  d.modFp p fun x => { x with haltOut := false, rstOut := false, irqOut := 0, mreqOut := false }

/-- The end of a command: its errors enter the queue (R427), its events go out (R75), the lines of member ports follow. -/
def Dev.settle (d : Dev) : Dev :=
  let d := d.queueErrs
  forN 4 Dev.memberLines (d.cp.raised.foldl (fun d x => d.eventOut x) { d with cp := { d.cp with raised := [] } })

/-- An error of class `cls`: its counter, event 0xA00 when that leaves zero, and its entry for the hardware queue. `ah` are
address bits 39:36 for the memory classes, `code` and `q3` the event's code and detail or the address. -/
def Dev.error (cls sev inst ah code : Nat) (q3 : Word) (d : Dev) : Dev :=
  let was := d.f (F.errCnt_COUNT cls)
  let d := d.inc (F.errCnt_COUNT cls) 1
  let ent := mkW [(35, 30, cls), (29, 28, sev), (27, 16, inst), (15, 12, ah), (11, 0, code)] :: epWords d.now ++ [q3]
  let d := if nbit (d.f (F.errQmask_CLASSES (cls / 32))) (cls % 32) then
      { d with err := { d.err with met := insertByKeys (cls, inst, ent) d.err.met } }
    else d
  if was = 0 && nbit (d.f (F.errEvtMask_CLASSES (cls / 32))) (cls % 32) then d.event 0xA00 0 (toW cls) else d

/-! ### The frame of every meaning -/

/-- The end of a command on the state. -/
def State.settle (s : State) : State := { s with dev := s.dev.settle }

/-- A meaning on the state: while TM9 is held in reset, nothing happens (R457, R458, R461, R467). -/
def gate (f : State → State) (s : State) : R := .next (if s.dev.pwr.held then s else (f s).settle)

/-- A meaning that acts on the block alone: queue, fuses and keep store stay. -/
def lift (f : Dev → Dev) : State → R := gate fun s => { s with dev := f s.dev }

/-- A meaning that reads fuses and keep store and acts on the block. -/
def liftRd (f : Fuses → KeepStore → Dev → Dev) : State → R := gate fun s => { s with dev := f s.fuses s.ks s.dev }

/-! ### Address errors (R23) -/

/-- R23: an address error of requester `req` at a 40-bit address: event 0x101 and a class 0 error. -/
def Dev.addrError (req addr : Nat) (d : Dev) : Dev :=
  let ah := addr / 2 ^ 36 % 16
  let inst := ah * 128 + req % 128
  (d.event 0x101 inst (toW addr)).error 0 1 inst ah 0x101 (toW addr)

/-! ### Memory (R21, R22, R434, R435) -/

/-- The one canonical form of memory: addresses strictly rising, no entry equal to what an unlisted word reads as, zero. -/
def Memory.wf (m : SMap Word) : Bool := mapWf (fun _ => 0) m

/-- The windows of the local space. -/
inductive Win where
  | hbm (s : Nat) | rstore | unitMem | cluStore | route | cpMem | tables | regs | unbacked
deriving DecidableEq, Repr

/-- Words of one HBM stack. -/
def hbmWords : Nat := 3817748704

/-- R21: the window of a local address. -/
def winOf (a : Nat) : Win :=
  if a < hbmWords then .hbm 0
  else if a < 0x100000000 then .unbacked
  else if a < 0x100000000 + hbmWords then .hbm 1
  else if a < 0x200000000 then .unbacked
  else if a < 0x200400000 then .rstore
  else if a < 0x300000000 then .unbacked
  else if a < 0x300400000 then .unitMem
  else if a < 0x300800000 then .cluStore
  else if a < 0x300A00000 then .route
  else if a < 0x300A80000 then .cpMem
  else if a < 0x300AC0000 then .tables
  else if a < 0x3FF800000 then .unbacked
  else if a < 0x400000000 then .regs
  else .unbacked

/-- Where an HBM word of stack `s` is held now (R434): its local address, and whether it is lost to a failed channel.
`group` is the key of its redirected group. -/
def Dev.hbmLoc (d : Dev) (s a : Nat) : Nat × Bool × Option Nat :=
  let w := a - 0x100000000 * s
  let g := w / 16
  let fail := mget d.err.hbmFail s
  if nbit fail (g % 16) then
    let f := d.f (F.errHbmStat_CH s)
    if d.fb (F.errHbmStat_REMAP s) && g % 16 == f && g < d.f (F.errHbmUse_GROUPS s) then
      let row := g / 16
      let k := row % 15
      let ch := if k < f then k else k + 1
      let g' := d.f (F.errHbmSpare_BASE s) + row / 15 * 16 + ch
      (0x100000000 * s + g' * 16 + w % 16, nbit fail (g' % 16), some (0x100000000 * s + g))
    else (a, true, none)
  else (a, false, none)

/-- The word at a local address, and whether it reads POISONED or uncorrectable. -/
def Dev.rdP (d : Dev) (a : Nat) : Word × Bool :=
  match winOf a with
  | .hbm s =>
    let (a', lost, grp) := d.hbmLoc s a
    let unwritten := match grp with
      | some g => !mget d.err.hbmWritten g
      | none => false
    (mapGet (fun _ => 0) d.mem a', lost || unwritten || mget d.uncorr a')
  | _ => (mapGet (fun _ => 0) d.mem a, mget d.uncorr a)

/-- The word at a local address. -/
def Dev.rd (d : Dev) (a : Nat) : Word := (d.rdP a).1

/-- A word stored at its place: it is whole and of good parity from then on. -/
def Dev.store (a : Nat) (w : Word) (d : Dev) : Dev :=
  { d with mem := mapSet (fun _ => 0) d.mem a w, uncorr := mset d.uncorr a false, corr := mset d.corr a false
           parBad := mset d.parBad a 0 }

/-- R434: the address is in an HBM stack that accepts no request. -/
def Dev.hbmHeld (d : Dev) (a : Nat) : Bool :=
  match winOf a with
  | .hbm s => mget d.err.hbmStop s
  | _ => false

/-- A word kept for the remap; `more`: of the same write as the word before it. -/
def keepWord (more : Bool) (a : Nat) (w : Word) (kept : List (Nat × List Word)) : List (Nat × List Word) :=
  match kept.getLast? with
  | some (b, ws) => if more && b + ws.length == a && a % 16 != 0 then kept.dropLast ++ [(b, ws ++ [w])] else kept ++ [(a, [w])]
  | none => [(a, [w])]

/-- A word written at a local address: to its redirected place, kept for the remap, or lost (R434, R435). -/
def Dev.wrPart (more : Bool) (a : Nat) (w : Word) (d : Dev) : Dev :=
  match winOf a with
  | .hbm s =>
    let (a', lost, _) := d.hbmLoc s a
    if lost then
      if mget d.err.hbmStop s then { d with err := { d.err with hbmKept := keepWord more a w d.err.hbmKept } } else d
    else d.store a' w
  | _ => d.store a w

/-- One word written. -/
def Dev.wr (a : Nat) (w : Word) (d : Dev) : Dev := d.wrPart false a w

/-- R435: a write that covers all 16 words of a redirected group makes it whole. -/
def Dev.groupWhole (a : Nat) (d : Dev) : Dev :=
  match winOf a with
  | .hbm s => (match d.hbmLoc s a with
    | (_, _, some g) => { d with err := { d.err with hbmWritten := mset d.err.hbmWritten g true } }
    | _ => d)
  | _ => d

/-- Consecutive words written. -/
def Dev.wrs (a : Nat) (ws : List Word) (d : Dev) : Dev :=
  let d := (ws.zipIdx).foldl (fun d (w, i) => d.wrPart (i != 0) (a + i) w) d
  let first := (a + 15) / 16
  forN ((a + ws.length) / 16 - first) (fun k d => d.groupWhole (16 * (first + k))) d

/-- Consecutive words read. -/
def Dev.rds (d : Dev) (a n : Nat) : List Word := (List.range n).map fun i => d.rd (a + i)

/-- R363 and R426: the error class of an uncorrectable word met at an address, if its window has one. -/
def ueClass (a : Nat) : Option Nat :=
  match winOf a with
  | .hbm _ => some 10
  | .rstore => some 6
  | .cpMem => some 12
  | .route => some 14
  | .tables => some 15
  | _ => none

/-- R424: the error class of a corrected word met at an address, if its window has one. -/
def ceClass (a : Nat) : Option Nat :=
  match winOf a with
  | .hbm _ => some 9
  | .rstore => some 5
  | .unitMem => some 3
  | _ => none

/-! ### Bit lists kept in registers -/

/-- This package's ID and whether it is assigned (R409). -/
def Dev.pkgId (d : Dev) : Nat := d.f F.topPkg_ID

/-- Local addresses of tables (R138, R404). -/
def schTab : Nat := 0x300A80000
def drtTab : Nat := 0x300AA8000
def srtTab : Nat := 0x300AB0000

/-- The local address of the register window (R24). -/
def regBase : Nat := 0x3FF800000

/-! ### The package in the domain -/

/-- COH_STAT.STATE: 0 OFF, 1 FORMING, 2 UP, 3 DOWN. -/
def Dev.cohState (d : Dev) : Nat := d.f F.cohStat_STATE

/-- The domain index that this package's AGENT codes and lines carry now: 0 outside a domain (R20), the former one after
a domain-down, which R378 keeps in addresses (assumption 28). -/
def Dev.myIdx (d : Dev) : Nat :=
  if d.cohState = 2 then d.f F.cohStat_MY_IDX else if d.cohState = 3 then d.f F.cohStat_FORMER_IDX else 0

/-- The 40-bit address of a local address of this package. -/
def Dev.fullAddr (d : Dev) (a : Nat) : Nat := 2 ^ 34 * d.myIdx + a

/-- The 40-bit address of a register of this package. -/
def Dev.regAddr (d : Dev) (off : Nat) : Nat := d.fullAddr (regBase + off)

/-- R426: an error of a memory class at a local address, entered by its Lysith address. -/
def Dev.memError (cls sev a : Nat) (d : Dev) : Dev :=
  d.error cls sev 0 (d.fullAddr a / 2 ^ 36) 0 (toW (d.fullAddr a))

/-- R424, R426: the errors of the words at some local addresses as they are read: uncorrectable and corrected ones. -/
def Dev.wordErrs (as : List Nat) (d : Dev) : Dev :=
  let put := fun (sev : Nat) (cls : Option Nat) (a : Nat) (d : Dev) => match cls with
    | some c => d.memError c sev a
    | none => d
  each as (fun a d => if mget d.uncorr a then put 1 (ueClass a) a d
    else if mget d.corr a then put 0 (ceClass a) a d else d) d

end Sys2Proof.Machine
end

