-- ==== Sys2Proof/Machine/Backlog.lean ====
section
/-! DEFINITION. The backlog reserve: its chunks and chains, and the black-box records that firmware owes (R50, R436 to R438,
R442, R452). -/

namespace Sys2Proof.Machine

/-! ### Black-box records owed (R452) -/

/-- R452: the payload of a black-box record: cause, epoch, CP_BOOT, the last eight error-queue entries, each with its
bits 31:0, then bits 35:32 of the 36-bit values in the same order. -/
def Dev.bbPayload (d : Dev) (cause : Nat) : List Word :=
  let q := d.queueErrs.err.queue
  let ents := q.drop (q.length - 8)
  let vals := epWords d.now ++ [d.reg R.cpBoot] ++ ents.flatten ++ List.replicate (32 - 4 * ents.length) 0
  toW cause :: vals.map (fun w => toW (bitsOf w 31 0)) ++ vals.map (fun w => toW (bitsOf w 35 32))

/-- R452: a black-box record is owed. -/
def Dev.oweBb (cause : Nat) (d : Dev) : Dev := { d with bbOwed := d.bbOwed ++ [d.bbPayload cause] }

/-- R452: a record whose cause code the spec does not give, a free value (assumption 15). -/
def Dev.oweBbFree (d : Dev) : Dev := let (c, d) := d.fresh; d.oweBb (c % 2 ^ 32)

/-! ### Chains (R436 to R443) -/

/-- The chain of an egress. -/
def Dev.chain (d : Dev) (e : Nat) : Chain := mget d.err.chains e

/-- A chain changed. -/
def Dev.modChain (e : Nat) (f : Chain → Chain) (d : Dev) : Dev :=
  { d with err := { d.err with chains := mmod d.err.chains e f } }

/-- Nothing is chained. -/
def Dev.chainEmpty (d : Dev) (e : Nat) : Bool := (d.chain e).pkts.isEmpty

/-- Chunk numbers in use. -/
def Dev.bklChunks (d : Dev) : List Nat := d.err.chains.flatMap fun x => x.2.chunks.map (·.num)

/-- R436: the local address of word `k` of a chunk. -/
def Dev.bklAddr (d : Dev) (num k : Nat) : Nat := d.f F.errBklBase_BASE * 1024 + num * 1024 + k

/-- R50: words of the backlog reserve written; a line of them in the retained-image area is an address error of requester 67
and changes nothing (assumption 138). -/
def Dev.bklWrs (a : Nat) (ws : List Word) (d : Dev) : Dev :=
  if a < 0x200000 then forN ((ws.length + 15) / 16) (fun i d => d.addrError 67 (d.fullAddr ((a / 16 + i) * 16))) d
  else d.wrs a ws

/-- R438: both copies of a chunk's descriptor written; word 15 is the number of the next chunk, a free value while there
is none (assumption 24). -/
def Dev.bklDescribe (c : Chunk) (next : Option Nat) (d : Dev) : Dev :=
  let (v, d) := d.fresh
  let pairs := (List.range 7).flatMap fun i => match (c.recs)[i]? with
    | some r => [r.1, r.2]
    | none => [(0 : Word), 0]
  let ws := toW c.recs.length :: pairs ++ [toW (next.getD v)]
  (d.bklWrs (d.bklAddr c.num 0) ws).bklWrs (d.bklAddr c.num 1008) ws

/-- The descriptors of the last two chunks of a chain written anew. -/
def Dev.bklDescribeEnd (e : Nat) (d : Dev) : Dev :=
  let cs := (d.chain e).chunks
  let n := cs.length
  let d := match cs[n - 2]?, cs[n - 1]? with
    | some a, some b => if n ≥ 2 then d.bklDescribe a (some b.num) else d
    | _, _ => d
  match cs[n - 1]? with
  | some b => d.bklDescribe b none
  | none => d

/-- The registers of the reserve after a change of the chunks of egress `e`, and the level events of R442. -/
def Dev.bklCount (e : Nat) (d : Dev) : Dev :=
  let used := d.bklChunks.length
  let len := d.f F.errBklCfg_LEN
  let d := ((d.setF F.errBklStat_USED used).maxF F.errBklPeak_PEAK used).setF (F.errBklEgr_CHUNKS e)
    (d.chain e).chunks.length
  let lv := if used * 4 < len then 0 else d.err.level
  let ev := fun (b : Nat) (d : Dev) => d.event 0xA12 0 (mkW [(9, 8, b + 1), (7, 0, used * 100 / len)])
  let d := { d with err := { d.err with level := lv } }
  let rise := fun (b : Nat) (ov : Bool) (d : Dev) =>
    if ov && !nbit d.err.level b then
      ev b { d with err := { d.err with level := setNbit d.err.level b true } }
    else d
  (d |> rise 0 (decide (used * 2 > len))) |> rise 1 (decide (used * 10 > len * 9))

/-- Chunks of a chain that no packet has words in are freed, but for those that the packet being written holds. -/
def Dev.bklTrim (e : Nat) (hold : List Nat) (d : Dev) : Dev :=
  let c := d.chain e
  let used := hold ++ c.pkts.flatMap fun p => p.spans.map (·.1)
  let cs := c.chunks.filter fun k => used.contains k.num
  if cs.length = c.chunks.length then d else (d.modChain e fun c => { c with chunks := cs }).bklCount e

/-- Event 0xA11: the chain of an egress has emptied (R439). -/
def Dev.bklEmptied (e : Nat) (d : Dev) : Dev :=
  if d.chainEmpty e then (d.modChain e fun c => { c with stalled := false }).event 0xA11 0 (toW e) else d

/-- Words of a chained packet. -/
def BklPkt.words (p : BklPkt) : Nat := p.spans.foldl (fun a s => a + s.2.2) 0

/-- A whole chained packet (R442). -/
def BklPkt.whole (p : BklPkt) : Bool := !p.cont && !p.begun && p.abort.isNone

/-- R442: a discard of packets and words of an egress: its counts, a class 20 error, event 0xA13. -/
def Dev.bklLoss (e pkts words : Nat) (d : Dev) : Dev :=
  let det := mkW [(35, 20, Nat.min pkts 0xFFFF), (8, 0, e)]
  let d := (d.inc (F.errBklEgr_LOST_PKTS e) pkts).inc F.errBklLost_WORDS words
  ((d.error 20 1 0 0 0xA13 det).event 0xA13 0 det).oweBbFree

/-- R442: the chain that gives up packets: the most chunks, then the lowest egress. -/
def Dev.bklVictim (d : Dev) : Option Nat :=
  let cs := d.err.chains.filter fun x => x.2.pkts.any (·.whole)
  (cs.find? fun a => cs.all fun b => decide (b.2.chunks.length < a.2.chunks.length)
    || (b.2.chunks.length == a.2.chunks.length && decide (a.1 ≤ b.1))).map (·.1)

/-- R442: whole packets of chain `e` discarded, oldest first, until a chunk is free; packets and words counted. `hold`: the
chunks that the packet being written for egress `w` holds. -/
def Dev.bklGive (w : Nat) (hold : List Nat) (e len pk wd : Nat) : Nat → Dev → Dev
  | 0, d => d.bklLoss e pk wd
  | fuel + 1, d =>
    match (d.chain e).pkts.findIdx? (·.whole) with
    | none => if pk = 0 then d else d.bklLoss e pk wd
    | some i =>
      let p := (d.chain e).pkts.getD i default
      let d := (d.modChain e fun c => { c with pkts := c.pkts.eraseIdx i }).bklTrim e (if e = w then hold else [])
      if d.bklChunks.length < len then d.bklLoss e (pk + 1) (wd + p.words)
      else d.bklGive w hold e len (pk + 1) (wd + p.words) fuel

/-- R442: chunks given up until one is free, or no chain holds a whole packet. -/
def Dev.bklRoom (w : Nat) (hold : List Nat) : Nat → Dev → Dev
  | 0, d => d
  | fuel + 1, d =>
    let len := d.f F.errBklCfg_LEN
    if d.bklChunks.length < len then d
    else match d.bklVictim with
      | none => d
      | some e =>
        let d := d.bklGive w hold e len 0 0 (d.chain e).pkts.length
        (if e = w then d else d.bklEmptied e).bklRoom w hold fuel

/-- A free chunk joins a chain: the lowest-numbered one (assumption 24); none when the reserve is full. -/
def Dev.bklAlloc (e : Nat) (hold : List Nat) (d : Dev) : Bool × Dev :=
  let d := d.bklRoom e hold (d.err.chains.length + 1)
  let used := d.bklChunks
  match firstN (Nat.min (used.length + 1) (d.f F.errBklCfg_LEN)) (fun i => !used.contains i) with
  | some i => (true, (d.modChain e fun c => { c with chunks := c.chunks ++ [⟨i, 0, []⟩] }).bklCount e)
  | none => (false, d)

/-- The newest chunk of a chain. -/
def Chain.newest (c : Chain) : Chunk := (c.chunks.getLast?).getD default

/-- The newest chunk changed. -/
def Chain.setNewest (f : Chunk → Chunk) (c : Chain) : Chain :=
  { c with chunks := c.chunks.zipIdx.map fun (k, i) => if i + 1 = c.chunks.length then f k else k }

/-- Words written into the chunks of a chain; false when no chunk could be had: the spans written so far. -/
def Dev.bklWords (e : Nat) : Nat → List Word → List (Nat × Nat × Nat) → Dev → Bool × List (Nat × Nat × Nat) × Dev
  | 0, _, sp, d => (true, sp, d)
  | fuel + 1, ws, sp, d =>
    if ws.isEmpty then (true, sp, d)
    else
      let c := d.chain e
      if c.chunks.isEmpty || c.newest.fill ≥ 992 then
        let (ok, d) := d.bklAlloc e (sp.map (·.1))
        if ok then d.bklWords e fuel ws sp else (false, sp, d)
      else
        let k := c.newest
        let n := Nat.min ws.length (992 - k.fill)
        let d := d.bklWrs (d.bklAddr k.num (16 + k.fill)) (ws.take n)
        let d := d.modChain e (·.setNewest fun k => { k with fill := k.fill + n })
        d.bklWords e fuel (ws.drop n) (sp ++ [(k.num, k.fill, n)])

/-- The descriptor pair of the last packet begun takes its length. -/
def Dev.bklRecord (e num : Nat) (head : Word) (len : Nat) (cont : Bool) (d : Dev) : Dev :=
  let r := (head, mkW [(35, 35, bit cont), (34, 0, len)])
  let d := d.modChain e fun c => { c with
    chunks := c.chunks.map fun k => if k.num = num then { k with recs := k.recs ++ [r] } else k }
  let cs := (d.chain e).chunks
  let d := (List.range cs.length).foldl (fun d i => match cs[i]? with
    | some k => if k.num = num then d.bklDescribe k ((cs[i + 1]?).map (·.num)) else d
    | none => d) d
  d.bklDescribeEnd e

/-- A chunk in which an eighth packet would begin is closed (R438). -/
def Dev.bklClose (e : Nat) (d : Dev) : Dev :=
  if (d.chain e).newest.recs.length ≥ 7 then d.modChain e (·.setNewest fun k => { k with fill := 992 }) else d

/-- What a packet carries into a chain beside its words. -/
def BklPkt.mk0 (head : Word) (dest : Nat) : BklPkt := { (default : BklPkt) with head := head, dest := dest }

/-- R438: the words of a packet appended to a chain; `p` gives the rest of its record. When the reserve has no chunk for it,
the packet is discarded whole, a continuation leaving what the drain puts in its place (R442). -/
def Dev.bklAppend (e : Nat) (p : BklPkt) (ws : List Word) (d : Dev) : Dev :=
  let d := if d.chainEmpty e then d.event 0xA10 0 (toW e) else d
  let d := d.bklClose e
  let (ok, sp, d) := d.bklWords e (2 * (ws.length / 992 + 2)) ws []
  if ok then
    (d.modChain e fun c => { c with pkts := c.pkts ++ [{ p with spans := sp }] }).bklRecord e ((sp.headD default).1) p.head
      ws.length p.cont
  else
    let d := d.modChain e fun c =>
      if p.cont then { c with pkts := c.pkts ++ [{ p with spans := [], abort := some ws.length }] } else c
    (d.bklTrim e []).bklLoss e 1 ws.length

/-- R327: the chained rest of a write run that failed goes with it. -/
def Dev.bklDropRun (e run : Nat) (d : Dev) : Dev :=
  match (d.chain e).pkts with
  | p :: ps => if p.run = some run then ((d.modChain e fun c => { c with pkts := ps }).bklTrim e []).bklEmptied e else d
  | [] => d

/-- The first `n` words taken off the spans. -/
def dropSpans : Nat → List (Nat × Nat × Nat) → List (Nat × Nat × Nat)
  | _, [] => []
  | n, (c, o, k) :: ss => if n = 0 then (c, o, k) :: ss
    else if n < k then (c, o + n, k - n) :: ss else dropSpans (n - k) ss

/-- The words of a chained packet, as the drain delivers them: a POISONED word with tag POISON, counted in its class, and the
HEAD from the descriptor (R424, R441). -/
def Dev.bklRead (p : BklPkt) (d : Dev) : List Word × Dev :=
  let as := p.spans.flatMap fun (num, o, n) => (List.range n).map fun i => d.bklAddr num (16 + o + i)
  let ws := as.map fun a =>
    let (w, bad) := d.rdP a
    if bad then putBits w 35 32 2 else w
  (if p.cont || p.begun || p.bare then ws else p.head :: ws.drop 1, d.wordErrs as)

/-- Words of a chained packet are in an HBM stack that accepts no request (R434). -/
def Dev.bklHeld (d : Dev) (p : BklPkt) : Bool := p.spans.any fun (num, _, _) => d.hbmHeld (d.bklAddr num 0)

/-- What the drain delivers of a packet: an ESCAPE ABORT in place of a discarded continuation (R442). -/
def Dev.bklOut (p : BklPkt) (d : Dev) : List Word × Dev :=
  match p.abort with
  | some n => ([tagged 15 (0x01000000 + Nat.min n 0xFFFFFF)], d)
  | none => d.bklRead p

/-- The chain's oldest packet is gone; event 0xA11 when the chain is empty. -/
def Dev.bklPopPkt (e : Nat) (d : Dev) : Dev :=
  ((d.modChain e fun c => { c with pkts := c.pkts.drop 1 }).bklTrim e []).bklEmptied e

/-- The first `k` words of the chain's oldest packet, one of `n`, are delivered. -/
def Dev.bklTake (e n k : Nat) (d : Dev) : Dev :=
  if n ≤ k then d.bklPopPkt e
  else
    (d.modChain e fun c => { c with pkts := match c.pkts with
      | p :: ps => { p with spans := dropSpans k p.spans, begun := p.begun || k > 0 } :: ps
      | [] => [] }).bklTrim e []

end Sys2Proof.Machine
end

