-- ==== Sys2Proof/Machine/Wire.lean ====
section
/-! DEFINITION. Sending on Lysith: the message header of R399, frames and credits of R396 to R398, and routing by DRT and
SRT (R404, R405). -/

namespace Sys2Proof.Machine

/-- A Lysith port of the block. -/
def Dev.port (d : Dev) (n : Nat) : Lnk := mget d.lnk n

/-- A Lysith port changed. -/
def Dev.modPort (n : Nat) (f : Lnk → Lnk) (d : Dev) : Dev := { d with lnk := mmod d.lnk n f }

/-- The port carries messages: UP or DEGRADED. -/
def Dev.portUp (d : Dev) (n : Nat) : Bool := d.f (F.lnkStat_STATE n) == 2 || d.f (F.lnkStat_STATE n) == 3

/-- One bit taken into the CRC-32 of IEEE 802.3. -/
def crcBit (c : Nat) (b : Bool) : Nat :=
  let top := nbit c 31 != b
  let c := c * 2 % 2 ^ 32
  if top then c ^^^ 0x04C11DB7 else c

/-- R396: the CRC over words, bit 35 of the first word first (assumption 12). -/
def crc32 (ws : List Word) : Nat :=
  (ws.foldl (fun c w => (List.range 36).foldl (fun c i => crcBit c (bitOf w (35 - i))) c) (2 ^ 32 - 1)) ^^^ (2 ^ 32 - 1)

/-- The credit class to return in the next frame: the lowest with credit owed (R396). -/
def Dev.owedClass (d : Dev) (n : Nat) : Nat := ((firstN 5 fun c => mget (d.port n).owed (c + 1) != 0).map (· + 1)).getD 0

/-- A frame driven: TYPE, SEQ (zero but for DATA), ACK, the credit returned, the message words padded with zeros, the
CRC (R396). -/
def Dev.sendFrame (n type seq : Nat) (ws : List Word) (d : Dev) : Dev :=
  let p := d.port n
  let c := d.owedClass n
  let cr := if c = 0 then 0 else Nat.min 511 (mget p.owed c)
  let f0 := mkW [(35, 24, seq), (23, 12, p.rx + 4095), (11, 9, c), (8, 0, cr)]
  let body := (f0 :: ws) ++ List.replicate (62 - ws.length) 0
  let f63 := mkW [(35, 32, type), (31, 0, crc32 body)]
  let d := if c = 0 then d else d.modPort n (fun p => { p with owed := mset p.owed c (mget p.owed c - cr) })
  d.emit (.frame n (body ++ [f63]))

/-- Credit units of four words that a message takes (R396, assumption 10). -/
def msgUnits (m : Msg) : Nat := (m.ws.length + 3) / 4

/-- The values that TM9 gives its partner in the training exchange (R395). -/
def Dev.ownPeer (d : Dev) (n : Nat) : Peer :=
  { serial := BitVec.ofNat 72 d.serial, pkgId := BitVec.ofNat 16 d.pkgId, assigned := d.fb F.topPkg_ASSIGNED
    port := Fin.ofNat 8 n, boot := Fin.ofNat 8 (d.f F.cpBoot_STATE), trunk := d.fb (F.lnkCfg_TRUNK n) }

/-! ### Filling a frame (R396, R398) -/

/-- The message may go: RSP, DAT and control take no credit (R398). -/
def Lnk.canSend (x : Lnk) (m : Msg) : Bool := m.cls ≥ 6 || msgUnits m ≤ mget x.credit m.cls

/-- The order in which the classes of a frame are tried: DAT and RSP, control among them, first, then PKT unless the last
frame carried it, the coherent classes latest first, and PKT (R398). -/
def classOrder (pktLast : Bool) : List Nat := [7, 6] ++ (if pktLast then [4, 3, 2, 1, 5] else [5, 4, 3, 2, 1])

/-- The index of the next message to send: the first waiting one of the first class that may go; only the oldest of a
class may (R353). -/
def Lnk.pick (x : Lnk) (order : List Nat) : Option Nat :=
  order.findSome? fun c => match x.txq.findIdx? (fun m => m.cls == c) with
    | some i => if (x.txq[i]?.map x.canSend).getD false then some i else none
    | none => none

/-- The contents of a frame: its message words, the messages that end in it, whether the first credited one is PKT, and the
port after it. -/
structure Filled where
  ws : List Word
  ends : List Msg
  pkt : Option Bool
  x : Lnk

/-- R396: `room` words of a frame filled with messages back to back; the last may continue into the next frame. -/
def Lnk.fill (order : List Nat) : Nat → Nat → Lnk → Filled
  | 0, _, x => ⟨[], [], none, x⟩
  | fuel + 1, room, x =>
    match x.txPart with
    | some (m, ws) =>
      if room < ws.length then ⟨ws.take room, [], some (m.cls == 5), { x with txPart := some (m, ws.drop room) }⟩
      else
        let f := Lnk.fill order fuel (room - ws.length) { x with txPart := none }
        { f with ws := ws ++ f.ws, ends := m :: f.ends, pkt := if m.cls ≤ 5 then some (m.cls == 5) else f.pkt }
    | none =>
      if room = 0 then ⟨[], [], none, x⟩
      else match x.pick order with
        | none => ⟨[], [], none, x⟩
        | some i => match x.txq[i]? with
          | none => ⟨[], [], none, x⟩
          | some m => Lnk.fill order fuel room { x with
              txq := x.txq.eraseIdx i
              txPart := some (m, m.ws)
              credit := if m.cls ≥ 6 then x.credit else mset x.credit m.cls (mget x.credit m.cls - msgUnits m) }

/-- The next DATA frame of a port: 62 message words (R396). -/
def Lnk.frame (x : Lnk) : Filled := x.fill (classOrder x.pktLast) (2 * x.txq.length + 2) 62

/-- The port carries traffic: it is up and does not retrain (R402). -/
def Dev.linkOpen (d : Dev) (n : Nat) : Bool := d.portUp n && !(d.port n).retraining

/-- One DATA frame sent, when a message may go and fewer than 512 frames are unacknowledged (R397). -/
def Dev.pumpOne (n : Nat) (d : Dev) : Dev :=
  let x := d.port n
  let f := x.frame
  if !d.linkOpen n || x.unacked.length ≥ 512 || f.ws.isEmpty then d
  else
    let d := d.modPort n fun _ => { f.x with
      tx := (x.tx + 1) % 4096, unacked := x.unacked ++ [⟨x.tx, f.ws, f.ends⟩], pktLast := f.pkt.getD x.pktLast }
    d.sendFrame n 0 x.tx f.ws

/-- An IDLE frame: ACK and credit (R396, R397). -/
def Dev.idleOut (n : Nat) (d : Dev) : Dev := if d.linkOpen n then d.sendFrame n 1 0 [] else d

/-- Every waiting message that may go is sent; with 512 frames unacknowledged an IDLE frame goes instead (R397). -/
def Dev.pump (n : Nat) (d : Dev) : Dev :=
  let d := forN ((d.port n).txq.length + 1) (fun _ d => d.pumpOne n) d
  if (d.port n).unacked.length ≥ 512 && !(d.port n).frame.ws.isEmpty then d.idleOut n else d

/-- Credit that is owed returned in IDLE frames, 511 units at most in each (R396, R398). -/
def Dev.creditOut (n : Nat) (d : Dev) : Dev :=
  let k := (List.range 5).foldl (fun a c => a + (mget (d.port n).owed (c + 1) + 510) / 511) 0
  forN k (fun _ d => d.idleOut n) d

/-- What follows an accepted DATA frame: messages that may go, and the ACK and the credit in an IDLE frame where no DATA
frame has carried them (R396, R398). -/
def Dev.pumpAck (n : Nat) (d : Dev) : Dev :=
  let d' := d.pump n
  (if (d'.port n).tx = (d.port n).tx then d'.idleOut n else d').creditOut n

/-! ### Routing (R404, R405) -/

/-- Messages given to a port: held while the port recovers (R406), else queued and sent as credit allows. -/
def Dev.sendAll (n : Nat) (ms : List Msg) (d : Dev) : Dev :=
  if (d.port n).recovering then d.modPort n (fun p => { p with held := p.held ++ ms })
  else (d.modPort n (fun p => { p with txq := p.txq ++ ms })).pump n

/-- One message given to a port. -/
def Dev.sendOn (n : Nat) (m : Msg) (d : Dev) : Dev := d.sendAll n [m]

/-- R404, R405: the port of a table entry: PRI, else ALT. A port in recovery still takes the messages that it will hold,
but not what must go `now` (R406). RT 0 never leaves by a trunk port. -/
def Dev.entryPort (d : Dev) (rt0 now : Bool) (e : Word) : Option Nat :=
  let ok := fun n => (d.portUp n || (!now && (d.port n).recovering)) && !(rt0 && d.fb (F.lnkCfg_TRUNK n))
  let pri := bitsOf e 27 25
  let alt := bitsOf e 23 21
  if !bitOf e 35 then none
  else if ok pri then some pri
  else if bitOf e 24 && ok alt then some alt
  else none

/-- R404: the port that a message of route type `rt` to `dest` leaves by, now or after a recovery. -/
def Dev.routeBy (d : Dev) (now : Bool) (rt dest : Nat) : Option Nat :=
  if rt = 0 then d.entryPort true now (d.rd (drtTab + dest % 64))
  else
    let e := d.rd (srtTab + dest % 65536)
    if bitOf e 35 && bitOf e 34 then d.entryPort false now (d.rd (drtTab + bitsOf e 33 28)) else d.entryPort false now e

/-- R404: the port that a message leaves by. -/
def Dev.routeOf (d : Dev) (rt dest : Nat) : Option Nat := d.routeBy false rt dest

/-- R405: event 0x903, once per destination until a message to it passes. Key: rt x 2^16 + dest. -/
def Dev.unreach (rt dest : Nat) (d : Dev) : Dev :=
  let k := rt * 65536 + dest
  if d.unreached.contains k then d
  else ({ d with unreached := d.unreached ++ [k] }).event 0x903 0 (mkW [(16, 16, rt), (15, 0, dest)])

/-- R405: a destination is reached again. -/
def Dev.reached (rt dest : Nat) (d : Dev) : Dev := { d with unreached := d.unreached.filter (· != rt * 65536 + dest) }

/-- Messages sent by their route; the flag says whether it was reachable (R405). -/
def Dev.sendRoute (now : Bool) (rt dest : Nat) (ms : List Msg) (d : Dev) : Bool × Dev :=
  match d.routeBy now rt dest with
  | some n => (true, (d.reached rt dest).sendAll n ms)
  | none => (false, d.unreach rt dest)

/-- A message sent by its route. -/
def Dev.sendRt (rt dest : Nat) (m : Msg) (d : Dev) : Bool × Dev := d.sendRoute false rt dest [m]

/-- The class of a message code (R352). -/
def codeClass (code : Nat) : Nat :=
  if code ≤ 8 then 1 else if code = 9 then 2 else if code < 0x10 then 3 else if code ≤ 0x11 then 4
  else if code < 0x18 then 6 else if code = 0x1C then 5 else 7

/-- The header words H0 to H2 and the words after them (R399). -/
def mkMsg (code rt dest tag agent sub grant mask h2 : Nat) (ws : List Word) : Msg :=
  { cls := codeClass code
    ws := mkW [(35, 31, code), (30, 26, ws.length), (25, 24, rt), (23, 8, dest), (7, 0, tag)]
      :: mkW [(35, 23, agent), (22, 19, sub), (18, 16, grant), (15, 0, mask)] :: toW h2 :: ws }

/-- The segments, at most 31 words each, of a PKT to a destination (R400). -/
def pktSegs : Nat → List Word → List (List Word)
  | 0, _ => []
  | fuel + 1, ws => if ws.length ≤ 31 then [ws] else ws.take 31 :: pktSegs fuel (ws.drop 31)

/-- What a PKT packet carries beside its words: source, KIND, HEAD of a stream packet of this package. -/
structure PktInfo where
  src : Nat
  kind : Nat
  head : Option (Word × Bool) := none

/-- One segment of a packet (R400). -/
def PktInfo.seg (p : PktInfo) (rt dest : Nat) (first last : Bool) (ws : List Word) : Msg :=
  let h1 := mkW [(35, 20, p.src), (19, 18, p.kind), (17, 17, bit first), (16, 16, bit last)]
  { cls := 5, head := p.head
    ws := mkW [(35, 31, 0x1C), (30, 26, ws.length), (25, 24, rt), (23, 8, dest)] :: h1 :: 0 :: ws }

/-- The PKT messages that carry a packet, or with `cont` the rest of one (R400). -/
def PktInfo.msgs (p : PktInfo) (rt dest : Nat) (cont : Bool) (ws : List Word) : List Msg :=
  let segs := pktSegs (ws.length / 31 + 1) ws
  segs.zipIdx.map fun (sg, i) => p.seg rt dest (!cont && i == 0) (i + 1 == segs.length) sg

/-- A packet whose destination is unreachable, held at egress 268 (R405, R437). -/
def Dev.holdPkt (p : PktInfo) (dest : Nat) (cont : Bool) (ws : List Word) (d : Dev) : Dev :=
  let q := BklPkt.mk0 ((p.head.map (·.1)).getD (ws.headD 0)) dest
  d.bklAppend 268 { q with kind := p.kind, src := p.src, bare := p.kind != 0, cont := cont, srt := true } ws

/-- A packet sent to a package by ID, or held while that is unreachable (R400, R405). -/
def Dev.sendPkt (dest kind : Nat) (ws : List Word) (d : Dev) : Dev :=
  let p : PktInfo := { src := d.pkgId, kind := kind }
  let (ok, d) := d.sendRoute false 1 dest (p.msgs 1 dest false ws)
  if ok then d else d.holdPkt p dest false ws

/-- A PKT sent to the partner of a port (RT 2). -/
def Dev.sendLink (n kind : Nat) (ws : List Word) (d : Dev) : Dev :=
  d.sendAll n (({ src := d.pkgId, kind := kind : PktInfo }).msgs 2 0 false ws)

end Sys2Proof.Machine
end

