-- ==== Sys2Proof/Machine/Mailbox.lean ====
section
/-! DEFINITION. The mailboxes: buffers, doorbell tests, the taking of a command by the CP or the boot ROM, and the answer
(R48, R62 to R69). -/

namespace Sys2Proof.Machine

/-- Status codes of R16 by name. -/
def stOK : Nat := 0
def stBUSY : Nat := 1
def stBAD_OPCODE : Nat := 2
def stBAD_ARG : Nat := 3
def stLOCKED : Nat := 4
def stPAST : Nat := 5
def stNOT_ERASED : Nat := 6
def stSTALE : Nat := 7
def stNO_RESOURCE : Nat := 8
def stCONFLICT : Nat := 9
def stPOISONED : Nat := 10
def stTIMEOUT : Nat := 11
def stCANCELLED : Nat := 12
def stDEFERRED : Nat := 13

/-- The opcodes of the mailbox commands of spec/02 to spec/16. -/
def opcodes : List Nat :=
  [0x001, 0x002, 0x003, 0x004, 0x010, 0x011, 0x012, 0x013, 0x018, 0x019, 0x110, 0x200, 0x210, 0x211,
   0x300, 0x301, 0x302, 0x303, 0x304, 0x400, 0x401, 0x402, 0x403, 0x410, 0x411, 0x412, 0x413] ++
  [0x500, 0x501, 0x502, 0x503, 0x504, 0x600, 0x601, 0x602, 0x603, 0x604, 0x605,
   0x700, 0x701, 0x702, 0x703, 0x710, 0x711, 0x712, 0x713, 0x714, 0x715, 0x800, 0x801] ++
  [0x900, 0x901, 0x902, 0x903, 0x904, 0x905, 0xA00, 0xA10, 0xA11, 0xA12, 0xA13, 0xA20, 0xB00, 0xB01]

/-- The boot command set of R52. -/
def bootSet (op : Nat) : Bool := 0x010 ≤ op && op ≤ 0x01F

/-- Header fields of a request (R14). -/
def hdrOp (h : Word) : Nat := bitsOf h 35 24
def hdrSeq (h : Word) : Nat := bitsOf h 23 16
def hdrLen (h : Word) : Nat := bitsOf h 15 8
def hdrFlags (h : Word) : Nat := bitsOf h 7 0

/-- Word `i` of the request of mailbox `n`, the header being word 0. -/
def Dev.arg (d : Dev) (n i : Nat) : Word := nth (d.mb n).req i

/-- The sequence of the request of mailbox `n`. -/
def Dev.seqOf (d : Dev) (n : Nat) : Nat := hdrSeq (d.arg n 0)

/-- PATH of a mailbox (R62). -/
def Dev.pathOf (d : Dev) (n : Nat) : Nat := d.f (F.mbxCfg_PATH n)

/-- R63: the path may reach the registers of mailbox `n`. PATH 4 to 7 is no path (R62). -/
def Dev.mbxAllowed (d : Dev) (p : Path) (n : Nat) : Bool :=
  match p with
  | .cp => true
  | .mgmt => true
  | _ => decide (d.pathOf n < 4) && pathCode p == d.pathOf n

/-! ### The answer -/

/-- A response sent away from the response buffer: by Lysith to a package or to the partner of a port, or in a management
frame, packed and padded to whole groups (R64, R65, R310). -/
def Dev.sendRsp (o : Origin) (rsp : List Word) (d : Dev) : Dev :=
  match o with
  | .lysith pkg _ => d.sendPkt pkg.toNat 2 rsp
  | .link p => d.sendLink p.val 2 rsp
  | .mgmt mac => d.emit (.mgmt mac (packBytes (padGroup rsp)))
  | _ => d

/-- A response given to where the request came from; MSI-X as R68 says. A mailbox disabled since answers nothing (R62). -/
def Dev.giveRsp (n : Nat) (rsp : List Word) (d : Dev) : Dev :=
  let m := d.mb n
  let quiet := bitOf (d.arg n 0) 0 || decide (d.pathOf n ≥ 4)
  let d := if d.pathOf n ≥ 4 then d else match m.origin with
    | .none | .regs => if m.discard then d else d.modMb n (fun m => { m with rsp := rsp })
    | o => d.sendRsp o rsp
  let d := d.modMb n (fun m => { m with req := [], busy := false, origin := .none, discard := false })
  let d := { d with cp := { d.cp with executing := d.cp.executing.filter (· != n) } }
  if d.fb (F.mbxCfg_IRQ_EN n) && !quiet then d.sendMsix (d.f (F.mbxCfg_VEC n)) else d

/-- The response words of a status and body to the request of mailbox `n` (R14). -/
def Dev.rspWords (d : Dev) (n st : Nat) (body : List Word) : List Word :=
  mkW [(35, 24, hdrOp (d.arg n 0)), (23, 16, d.seqOf n), (15, 8, body.length), (7, 0, st)] :: body

/-- The response that mailbox `n` gave at the present edge amended, unread and in the copy of R67: another command of the edge
wins over the one that it answers. One sent away stays as it was (assumption 171). -/
def Dev.amendRsp (n : Nat) (old new : List Word) (d : Dev) : Dev :=
  d.modMb n fun m => { m with
    rsp := if m.rsp = old then new else m.rsp, replay := if m.replay = some old then some new else m.replay }

/-- A response of another status, with no further words. -/
def statusOnly (st : Nat) (rsp : List Word) : List Word := [putBits (nth rsp 0) 15 0 st]

/-- An executed command's answer: it replaces the copy of R67. -/
def Dev.reply (n st : Nat) (body : List Word) (d : Dev) : Dev :=
  let rsp := d.rspWords n st body
  (d.modMb n (fun m => { m with replay := some rsp })).giveRsp n rsp

/-- An answer that mailbox hardware gives without executing anything: the copy of R67 stays. -/
def Dev.hwAnswer (n st : Nat) (d : Dev) : Dev := d.giveRsp n (d.rspWords n st [])

/-! ### Execution -/

/-- The boot ROM admits the command of mailbox `n` (R48). -/
def Dev.bootAdmits (d : Dev) (n op : Nat) : Bool :=
  let st := d.f F.cpBoot_STATE
  2 ≤ st && st ≤ 4 && (n == 0 || n == 8 || n == 12) && d.pathOf n < 4 && (op == 1 || op == 2 || bootSet op)

/-- The CP or the boot ROM takes commands of mailbox `n` now; the boot ROM none while it verifies (R69). -/
def Dev.serves (d : Dev) (n op : Nat) : Bool :=
  d.running || (d.bootAdmits n op && d.cp.loader.verify.isNone)

/-- The mailbox whose command is next: the oldest doorbelled one that is not disabled (R62, R69). -/
def Dev.nextMbx (d : Dev) : Option Nat := d.cp.doorbells.find? fun n => d.pathOf n < 4

/-- The next mailbox taken out of the doorbell order. -/
def Dev.popMbx (d : Dev) : Dev :=
  { d with cp := { d.cp with doorbells := d.nextMbx.elim d.cp.doorbells d.cp.doorbells.erase } }

/-- A command with an undefined opcode at the front of the doorbell order is answered BAD_OPCODE (R72), or LOCKED where
R52 comes first. -/
def Dev.serveUnknown : Nat → Dev → Dev
  | 0, d => d
  | fuel + 1, d =>
    match d.nextMbx with
    | some n =>
      let op := hdrOp (d.arg n 0)
      if !opcodes.contains op && d.serves n op then
        let d := d.popMbx
        let st := if bootSet op && (d.running || d.pathOf n == 3) then stLOCKED else stBAD_OPCODE
        (d.reply n st []).serveUnknown fuel
      else d
    | none => d

/-- The command of mailbox `n` is taken and executed when it is the oldest doorbelled one (R69) and its opcode is `op`:
R52 first, then the length test of R498, then `k`. Otherwise nothing happens (assumption 1). What R52 means by a command that
arrives is read as the taking, not the doorbell (assumption 165). -/
def Dev.takeCmd (n op : Nat) (lenOk : Nat → Bool) (k : Dev → Dev) (d : Dev) : Dev :=
  match d.nextMbx with
  | some m =>
    if m = n ∧ hdrOp (d.arg n 0) = op ∧ d.serves n op = true then
      let d := d.popMbx
      let d :=
        if bootSet op && (d.running || d.pathOf n == 3) then d.reply n stLOCKED []
        else if !lenOk (hdrLen (d.arg n 0)) then d.reply n stBAD_ARG []
        else k d
      d.serveUnknown 16
    else d
  | none => d

/-- The command of mailbox `n` stays outstanding until a later step answers it (class L). -/
def Dev.hold (n : Nat) (d : Dev) : Dev := { d with cp := { d.cp with executing := d.cp.executing ++ [n] } }

/-! ### Doorbell, request and response registers -/

/-- An outstanding command answered by the step that ends it; none when it was answered otherwise before (R499), and none
during a warm restart, at whose end it is answered TIMEOUT (R82). -/
def Dev.finish (n st : Nat) (body : List Word) (d : Dev) : Dev :=
  if d.cp.executing.contains n && d.f F.cpBoot_STATE != 6 then d.reply n st body else d

/-- R48, R83: mailbox hardware answers the doorbell of mailbox `n` BUSY. -/
def Dev.bootBusy (d : Dev) (n op : Nat) : Bool :=
  let st := d.f F.cpBoot_STATE
  st == 7 || st < 2 || (st < 5 && !d.bootAdmits n op)

/-- The command of mailbox `n` waits for execution in doorbell order (R69). -/
def Dev.enqueueCmd (n : Nat) (d : Dev) : Dev :=
  let d := d.modMb n (fun m => { m with busy := true })
  ({ d with cp := { d.cp with doorbells := d.cp.doorbells ++ [n] } }).serveUnknown 16

/-- A doorbell on mailbox `n`, its tests in the order of R67. In RESTART one that fails the length or flag test, or matches a
REPLAY, is answered at once; only one that is to execute is held (assumption 134). -/
def Dev.ring (n : Nat) (d : Dev) : Dev :=
  let m := d.mb n
  if d.pathOf n ≥ 4 || m.busy || m.req.isEmpty then d.setF (F.mbxStat_DBL_IGN n) 1
  else
    let h := m.req.headD 0
    let d := d.modMb n (fun m => { m with
      rsp := [], origin := if m.origin = .none then .regs else m.origin })
    if d.bootBusy n (hdrOp h) then d.hwAnswer n stBUSY
    else if m.req.length ≠ hdrLen h + 1 then d.hwAnswer n stBAD_ARG
    else if hdrFlags h / 4 ≠ 0 then d.hwAnswer n stBAD_ARG
    else match (if nbit (hdrFlags h) 1 then m.replay else none) with
      | some r =>
        if hdrOp (nth r 0) = hdrOp h ∧ hdrSeq (nth r 0) = hdrSeq h then d.giveRsp n r
        else d.enqueueCmd n
      | none => d.enqueueCmd n

/-- A write of MBX[n].REQ (R68). -/
def Dev.reqPush (n : Nat) (w : Word) (d : Dev) : Dev :=
  let m := d.mb n
  if m.busy || m.req.length ≥ 256 then d.setF (F.mbxStat_REQ_OVF n) 1
  else d.modMb n (fun m => { m with req := m.req ++ [w] })

/-- A read of MBX[n].RSP: the word popped, IDLE when none is left (R68). -/
def Dev.rspPop (n : Nat) (d : Dev) : Word × Dev :=
  match (d.mb n).rsp with
  | w :: ws => (w, d.modMb n (fun m => { m with rsp := ws }))
  | [] => (idleW, d)

/-- A read of MBX[n].EVT: the next word of the oldest message, IDLE when none is left (R68, R75). -/
def Dev.evtPop (n : Nat) (d : Dev) : Word × Dev :=
  let m := d.mb n
  match m.evts with
  | e :: es =>
    let w := nth e m.evtRd
    if m.evtRd ≥ 3 then (w, d.modMb n (fun m => { m with evts := es, evtRd := 0 }))
    else (w, d.modMb n (fun m => { m with evtRd := m.evtRd + 1 }))
  | [] => (idleW, d)

/-- R64: the lowest-numbered idle mailbox of a path. -/
def Dev.idleMbx (d : Dev) (path : Nat) : Option Nat :=
  firstN 16 fun n => d.pathOf n == path && !(d.mb n).busy && (d.mb n).req.isEmpty

/-- R64: a request placed in a mailbox of a path and its doorbell rung; with no idle one, hardware answers BUSY. The
buffer takes 256 words (R68). -/
def Dev.place (path : Nat) (o : Origin) (ws : List Word) (d : Dev) : Dev :=
  let h := nth ws 0
  match d.idleMbx path with
  | some n =>
    let d := if ws.length > 256 then d.setF (F.mbxStat_REQ_OVF n) 1 else d
    (d.modMb n (fun m => { m with req := ws.take 256, origin := o })).ring n
  | none => d.sendRsp o [mkW [(35, 24, hdrOp h), (23, 16, hdrSeq h), (7, 0, stBUSY)]]

/-- A doorbell written by a path (R62, R63, R68): RING = 1 submits the request buffer. -/
def Dev.doorbellWrite (p : Path) (n : Nat) (w : Word) (d : Dev) : Dev :=
  if d.pathOf n ≥ 4 then (if bitOf w 0 then d.ring n else d)
  else if !d.mbxAllowed p n then d.addrError (pathReq p) (d.regAddr (R.mbxDoorbell n))
  else if bitOf w 0 then d.ring n else d

/-- The request in the payload of a management frame: the header word and the words that it counts (R65). -/
def frameReq (bytes : List Byte) : List Word :=
  let ws := unpackWords bytes
  ws.take (hdrLen (nth ws 0) + 1)

/-- MGMT_FRAME (R64, R65). -/
def execMgmtFrame (mac : BitVec 48) (bytes : List Byte) : State → R :=
  lift fun d => if (frameReq bytes).isEmpty then d else d.place 2 (.mgmt mac) (frameReq bytes)

/-- MBX_REQ_WRITE (R63, R68). -/
def execMbxReqWrite (p : Path) (n : Mbx) (w : Word) : State → R :=
  lift fun d => if !d.mbxAllowed p n then d.addrError (pathReq p) (d.regAddr (R.mbxReq n)) else d.reqPush n w

/-- DOORBELL (R62 to R69). -/
def execDoorbell (p : Path) (n : Mbx) (w : Word) : State → R := lift (Dev.doorbellWrite p n w)

/-- MBX_RSP_READ (R63, R68). -/
def execMbxRspRead (p : Path) (n : Mbx) : State → R :=
  lift fun d =>
    if !d.mbxAllowed p n then (d.addrError (pathReq p) (d.regAddr (R.mbxRsp n))).emit (.readData p (R.mbxRsp n) 0)
    else let (w, d) := d.rspPop n; d.emit (.readData p (R.mbxRsp n) w)

/-- MBX_EVT_READ (R63, R68, R75). -/
def execMbxEvtRead (p : Path) (n : Mbx) : State → R :=
  lift fun d =>
    if !d.mbxAllowed p n then (d.addrError (pathReq p) (d.regAddr (R.mbxEvt n))).emit (.readData p (R.mbxEvt n) 0)
    else let (w, d) := d.evtPop n; d.emit (.readData p (R.mbxEvt n) w)

end Sys2Proof.Machine
end

