-- ==== Sys2Proof/Machine/Coh.lean ====
section
/-! DEFINITION. The coherent fabric: agents, caches, homes, snoops, requests and dead agents (R20, R347 to R378). A
message between two agents of this package is delivered at once, in the order sent; one to another package leaves by
Lysith. -/

namespace Sys2Proof.Machine

/-! ### Indices, agents, targets -/

/-- R348: the AGENT code of a local agent. -/
def Dev.agentOf (d : Dev) (la : Nat) : Nat := d.myIdx * 128 + la

/-- The AGENT is one of this package. -/
def Dev.ownAgent (d : Dev) (a : Nat) : Bool := a / 128 == d.myIdx

/-- Where a 40-bit address lies: here, at a live member, at a dead one, at a former member reached by package ID, or
nowhere. -/
inductive Tgt where
  | here (a : Nat)
  | remote (k : Nat)
  | gone (k : Nat)
  | tweed (pkg a : Nat)
  | err
deriving DecidableEq, Repr

/-- R20, R374, R378: the target of a 40-bit address. -/
def Dev.target (d : Dev) (addr : Nat) : Tgt :=
  let k := addr / 2 ^ 34 % 64
  let a := addr % 2 ^ 34
  if d.cohState = 2 then
    if k = d.f F.cohStat_MY_IDX then .here a
    else if !d.fb (F.cohMap_VALID k) then .err
    else if d.fb (F.cohMap_DEAD k) then .gone k
    else .remote k
  else if d.cohState = 3 then
    if k = d.f F.cohStat_FORMER_IDX then .here a
    else if winOf a = .rstore && d.fb (F.cohMap_VALID k) && !d.fb (F.cohMap_DEAD k)
        && d.f (F.cohMap_PKG_ID k) < 16384 then .tweed (d.f (F.cohMap_PKG_ID k)) a
    else .err
  else if k = 0 then .here a
  else .err

/-- R42: package and local address of a Tweed address. -/
def tweedOf (t : Nat) : Nat × Nat := (t / 2 ^ 22 % 16384, 0x200000000 + t % 2 ^ 22)

/-- The live members other than this package. -/
def Dev.others (d : Dev) : List Nat :=
  (List.range 64).filter fun k => k != d.f F.cohStat_MY_IDX && d.fb (F.cohMap_VALID k) && !d.fb (F.cohMap_DEAD k)

/-! ### Statuses and messages -/

/-- The address-error status inside the model. -/
def stADDR : Nat := 0x100

/-- A status as a message carries it. -/
def stOut (st : Nat) : Nat := if st = stADDR then Config.addrErr % 256 else st

/-- R399: the wire form of a message; a snoop's cluster goes in H3. -/
def CMsg.wire (m : CMsg) (rt dest : Nat) : Msg :=
  let h2 := if m.code = 0x13 || m.code = 0x16 || m.code = 0x18 then stOut m.st
    else if rt = 1 then m.addr % 2 ^ 34 / 16 else m.addr / 16
  let ws := if 0x0A ≤ m.code && m.code ≤ 0x0E then toW m.clu :: m.ws else m.ws
  mkMsg m.code rt dest m.tag m.agent m.sub m.grant m.mask h2 ws

/-- The state of the fabric changed. -/
def Dev.modCoh (f : Coh → Coh) (d : Dev) : Dev := { d with coh := f d.coh }

/-- A message to the package with domain index `k`: delivered here, sent by Lysith, or, when `k` is unreachable, noted
(R405). After a domain-down an answer goes by the package ID that COH_MAP keeps (assumption 28). -/
def Dev.cohTo (k : Nat) (m : CMsg) (d : Dev) : Dev :=
  if k = d.myIdx then d.modCoh fun c => { c with inbox := c.inbox ++ [m] }
  else if d.cohState = 2 then
    if d.fb (F.cohMap_DEAD k) then d
    else
      let (ok, d) := d.sendRt 0 k (m.wire 0 k)
      if ok || d.coh.lost.contains k then d else d.modCoh fun c => { c with lost := c.lost ++ [k] }
  else if d.fb (F.cohMap_VALID k) then (d.sendRt 1 (d.f (F.cohMap_PKG_ID k)) (m.wire 1 (d.f (F.cohMap_PKG_ID k)))).2
  else d

/-- The mask of `n` words of a line from word `first` on. -/
def lineMask (first n : Nat) : Nat := (2 ^ n - 1) * 2 ^ first % 2 ^ 16

/-- The words that a mask names, ascending. -/
def maskWords (mask : Nat) : List Nat := (List.range 16).filter fun i => nbit mask i

/-- Agents that cache lines: cluster caches. -/
def isCache (a : Nat) : Bool := a % 128 < 64

/-! ### Counters (R358, R368, R374) -/

/-- An answer that nothing awaits any more. -/
def Dev.lateRsp (d : Dev) : Dev := d.inc F.cohCnt_LATE_RSP 1

/-- A request that completes TIMEOUT: count, event 0x803 when that leaves zero, and a class 8 error with the event raised with
it (R368, R426). -/
def Dev.cohTimeout (addr : Nat) (d : Dev) : Dev :=
  let det := toW (addr % 2 ^ 40 / 16)
  let d' := d.incEv F.cohCnt_TIMEOUT 1 0x803 0 (fun _ => det)
  if d.f F.cohCnt_TIMEOUT = 0 then d'.error 8 1 0 0 0x803 det else d'.error 8 1 0 0 0 0

/-- A stray WB or EVICT (R358). -/
def Dev.cohStray (d : Dev) : Dev := d.error 8 1 0 0 0 0

/-- Directory entries. -/
def Dev.dirE (d : Dev) (l : Nat) : DirEnt := mget d.coh.dir l
def Dev.setDir (l : Nat) (e : DirEnt) (d : Dev) : Dev := d.modCoh fun c => { c with dir := mset c.dir l e }

/-- A line becomes DP (R374). -/
def Dev.makeDP (l : Nat) (d : Dev) : Dev :=
  let addr := d.fullAddr (l * 16)
  let d := d.setDir l { (default : DirEnt) with st := 3 }
  let d := (d.setF F.cohPlogLo_ADDR addr).setF F.cohPlogHi_ADDR (addr / 2 ^ 36)
  d.incEv F.cohCnt_POISONED 1 0x802 0 fun _ => toW (addr / 16)

/-- R369, R374: the agent is dead, by itself or with its package. -/
def Dev.agentDead (d : Dev) (a : Nat) : Bool :=
  d.coh.deadAgents.contains a
    || (d.cohState = 2 && a / 128 ≠ d.myIdx && (!d.fb (F.cohMap_VALID (a / 128)) || d.fb (F.cohMap_DEAD (a / 128))))
    || (d.cohState ≠ 2 && !d.ownAgent a)

/-- The mask of the domain indices whose S copies still count. -/
def Dev.livePkgs (d : Dev) (pkg : Nat) : Nat :=
  (List.range 64).foldl (fun m k =>
    if nbit pkg k && (k == d.myIdx || (d.cohState == 2 && !d.fb (F.cohMap_DEAD k))) then m + 2 ^ k else m) 0

/-- R374, step 2: an entry at its lookup under the dead-agent rule. -/
def Dev.dirLook (l : Nat) (d : Dev) : Dev :=
  let e := d.dirE l
  if e.st = 2 && d.agentDead e.owner then d.makeDP l
  else if e.st = 1 then d.setDir l { e with pkg := d.livePkgs e.pkg }
  else d

/-! ### Caches (R349, R350, R359, R361) -/

/-- The lines of a cluster cache. -/
def Dev.cacheOf (d : Dev) (c : Nat) : List CLine := mget d.coh.caches c

/-- A cache changed. -/
def Dev.modCache (c : Nat) (f : List CLine → List CLine) (d : Dev) : Dev :=
  d.modCoh fun x => { x with caches := mmod x.caches c f }

/-- A line of a cache by line number. -/
def findLine (ls : List CLine) (l : Nat) : Option CLine := ls.find? fun x => x.line == l

/-- A line's state changed, its words kept. -/
def setLine (l st : Nat) (ls : List CLine) : List CLine := ls.map fun x => if x.line = l then { x with st := st } else x

/-- A line removed. -/
def dropLine (l : Nat) (ls : List CLine) : List CLine := ls.filter fun x => x.line != l

/-- The line becomes the most recently used. -/
def touchLine (l : Nat) (ls : List CLine) : List CLine :=
  (dropLine l ls) ++ (findLine ls l).toList

/-- A line leaves a cache: M by WB, E by EVICT, each held in WBP; S without a message (R349, R361). -/
def Dev.cacheEvict (c : Nat) (x : CLine) (d : Dev) : Dev :=
  let home := x.line / 2 ^ 30
  let m : CMsg := { code := 0x11, agent := d.agentOf c, addr := x.line * 16 }
  match x.st with
  | 1 => (d.modCache c (setLine x.line 4)).cohTo home { m with code := 0x10, ws := x.ws, mask := 0xFFFF }
  | 2 => (d.modCache c (setLine x.line 4)).cohTo home m
  | 3 => d.modCache c (dropLine x.line)
  | _ => d

/-- The lines of a cache in the set of line `l` (R349). -/
def Dev.cacheSet (d : Dev) (c l : Nat) : List CLine := (d.cacheOf c).filter fun x => x.line % 64 == l % 64

/-- A line installed, in the way that its request has reserved (R354). -/
def Dev.cacheInstall (c l st : Nat) (ws : List Word) (d : Dev) : Dev :=
  d.modCache c fun ls => dropLine l ls ++ [⟨l, st, ws⟩]

/-- The words of a mask replaced in a line. -/
def mergeWords (old : List Word) (mask : Nat) (ws : List Word) : List Word :=
  ((maskWords mask).zip ws).foldl (fun l (i, w) => l.set i w) old

/-- A line written in E or M, which leaves it in M (R350). -/
def Dev.cacheStore (c l mask : Nat) (ws : List Word) (d : Dev) : Dev :=
  d.modCache c fun ls => touchLine l (ls.map fun x =>
    if x.line = l then { x with st := 1, ws := mergeWords x.ws mask ws } else x)

/-- The answer to a snoop (R357, step 3). -/
def Dev.snoopAnswer (m : CMsg) (c ans : Nat) (d : Dev) : Dev :=
  d.cohTo (m.addr / 2 ^ 34) { code := 0x12, agent := d.agentOf c, addr := m.addr, sub := ans }

/-- Data sent straight to the requester by a snooped owner. -/
def Dev.snoopData (m : CMsg) (grant : Nat) (ws : List Word) (d : Dev) : Dev :=
  d.cohTo (m.agent / 128) { code := 0x18, agent := m.agent, tag := m.tag, grant := grant, addr := m.addr, ws := ws }

/-- Dirty words sent to the home. -/
def Dev.snoopDirty (m : CMsg) (c : Nat) (ws : List Word) (d : Dev) : Dev :=
  d.cohTo (m.addr / 2 ^ 34) { code := 0x19, agent := d.agentOf c, addr := m.addr, mask := 0xFFFF, ws := ws }

/-- The words of a line that a mask names. -/
def pickWords (ws : List Word) (mask : Nat) : List Word := (maskWords mask).map (nth ws)

/-- R359, R360: a snoop applied at this package. Answers: 0 I, 1 FWD, 2 DIRTY, 3 CROSS. -/
def Dev.snoopArrive (m : CMsg) (d : Dev) : Dev :=
  let l := m.addr / 16
  let c := m.clu
  if m.code = 0x0C then
    let cross := (List.range 64).any fun c => ((findLine (d.cacheOf c) l).map (·.st)) == some 4
    let d := forN 64 (fun c d =>
      if ((findLine (d.cacheOf c) l).map (·.st)) == some 3 then d.modCache c (dropLine l) else d) d
    d.snoopAnswer m 0 (if cross then 3 else 0)
  else match findLine (d.cacheOf c) l with
    | none => d.snoopAnswer m c 0
    | some x =>
      if x.st = 4 then d.snoopAnswer m c 3
      else match m.code with
        | 0x0A =>
          if x.st = 1 then (((d.snoopData m 3 x.ws).snoopDirty m c x.ws).modCache c (setLine l 3)).snoopAnswer m c 2
          else if x.st = 2 then ((d.snoopData m 3 x.ws).modCache c (setLine l 3)).snoopAnswer m c 1
          else d.snoopAnswer m c 0
        | 0x0B =>
          if x.st = 1 || x.st = 2 then
            ((d.snoopData m x.st x.ws).modCache c (dropLine l)).snoopAnswer m c 1
          else (d.modCache c (dropLine l)).snoopAnswer m c 0
        | 0x0D =>
          if x.st = 1 || x.st = 2 then (d.snoopData m 0 (pickWords x.ws m.mask)).snoopAnswer m c 1
          else d.snoopAnswer m c 0
        | _ =>
          if x.st = 1 then ((d.snoopDirty m c x.ws).modCache c (dropLine l)).snoopAnswer m c 2
          else (d.modCache c (dropLine l)).snoopAnswer m c 0

/-! ### The home's store -/

/-- Words read at a home: an uncorrectable one is an error of its class (R363, R365, R426). -/
def Dev.homeRead (a : Nat) (is : List Nat) (d : Dev) : List Word × Bool × Dev :=
  (is.map fun i => d.rd (a + i), is.any fun i => (d.rdP (a + i)).2, d.wordErrs (is.map (a + ·)))

/-- R418, step 3: a write of a leaving package repeated to the heir. -/
def Dev.leaveRepeat (a mask : Nat) (ws : List Word) (d : Dev) : Dev :=
  match d.coh.leave with
  | some { heir := some h, phase := 1, .. } =>
    if winOf a = .rstore then
      (d.sendRt 1 h ({ code := 9, agent := d.myIdx * 128 + 64, addr := a, mask := mask, ws := ws : CMsg }.wire 1 h)).2
    else d
  | _ => d

/-- The words of a mask written at a line of the home. -/
def Dev.homeWrite (a mask : Nat) (ws : List Word) (d : Dev) : Dev :=
  let d := if mask = 0xFFFF then d.wrs a (ws.take 16)
    else each ((maskWords mask).zip ws) (fun (i, w) d => d.wr (a + i) w) d
  d.leaveRepeat a mask ws

/-- R50: a write into the retained-image area, but from the host while PCI Express holds the claim. -/
def Dev.imageWrite (d : Dev) (m : CMsg) (a : Nat) : Bool :=
  decide (a < 0x200000) && (m.code == 5 || m.code == 7 || m.code == 9)
    && !(d.ownAgent m.agent && m.agent % 128 == 65 && d.cp.loader.claim == 1)

/-- The line of local address `a` touches bank `b` of the Canvas (R263). -/
def Dev.inBank (d : Dev) (b a : Nat) : Bool :=
  let s := 0x200000000 + d.f (F.calBank_OFS b)
  decide (s / 16 ≤ a / 16) && decide (a < s + 40976)

/-- R265: the agents that write the banks: this package's CP and CAL block, and, while a job runs, the agents of the
clusters of its inputs, whose shadow units write under them (assumption 31). -/
def Dev.bankAgent (d : Dev) (m : CMsg) : Bool :=
  d.ownAgent m.agent && !m.rt1 && (m.agent % 128 == 64 || m.agent % 128 == 68 || (isCache m.agent && match d.cal with
    | some j => (List.range j.cnt).any fun i =>
        let i := j.first + i
        m.agent % 128 == (if i < 4096 then d.f (F.ingChCfg_CLU i) else d.f (F.ingFchCfg_CLU (i - 4096)))
    | none => false))

/-- R265: a write, or a request for the right to write, into a bank of the Canvas by another agent. -/
def Dev.bankWrite (d : Dev) (m : CMsg) (a : Nat) : Bool :=
  (m.code == 5 || m.code == 7 || m.code == 9 || m.code == 2) && !d.bankAgent m && [0, 1].any fun b => d.inBank b a

/-- R271, R277: what this edge has done so far; at an edge that has done nothing yet, the state as it stands. -/
def Dev.tieNow (d : Dev) : CalTie :=
  if d.calTie.edge = d.epo.edges + 1 then d.calTie
  else { edge := d.epo.edges + 1, pstate := d.f F.calStat_PSTATE, gen := d.f F.calStat_PEND_GEN
         sums := [d.reg (R.calPendSum 0), d.reg (R.calPendSum 1)] }

/-- That record changed. -/
def Dev.modTie (f : CalTie → CalTie) (d : Dev) : Dev := { d with calTie := f d.tieNow }

/-- R266: a write into bank `b` by another agent than the CAL block. -/
def Dev.agentWrites (d : Dev) (m : CMsg) (a b : Nat) : Bool :=
  (m.code == 5 || m.code == 7 || m.code == 9) && m.agent % 128 != 68 && d.inBank b a

/-- R266, R271: such a write of the pending bank is BUSY in RETIRING, and at the edge of a CAL_APPLY in the bank that was
pending before it. -/
def Dev.bankBusy (d : Dev) (m : CMsg) (a : Nat) : Bool :=
  (d.agentWrites m a (1 - d.f F.calStat_ACTIVE) && d.f F.calStat_PSTATE == 2)
    || d.tieNow.applied.any (d.agentWrites m a)

/-- R266, R271: such a write of the pending bank noted with the words before it; it opens a SEALED bank. -/
def Dev.bankOpen (m : CMsg) (a : Nat) (d : Dev) : Dev :=
  let b := 1 - d.f F.calStat_ACTIVE
  if d.agentWrites m a b then
    let w := a / 16 * 16 - (0x200000000 + d.f (F.calBank_OFS b))
    let old := (List.range 16).map fun k => d.rd (a / 16 * 16 + k)
    let d := d.modTie fun t => { t with writes := (none, w, old) :: t.writes }
    if d.f F.calStat_PSTATE = 1 then d.setF F.calStat_PSTATE 0 else d
  else d

/-- Dirty words of a cached line at its home; those of a bank of the Canvas from an agent that may not write it are an
address error (R265). -/
def Dev.dirtyWrite (ag l : Nat) (ws : List Word) (d : Dev) : Dev :=
  if d.bankWrite { code := 9, agent := ag } (l * 16) then
    d.addrError (if d.ownAgent ag then ag % 128 else 0x7F) (d.fullAddr (l * 16))
  else d.homeWrite (l * 16) 0xFFFF ws

/-- R362: the word that an ATOM stores. -/
def atomWord (op : Nat) (w x c : Word) : Word :=
  match op with
  | 0 => w + x
  | 1 => w + x
  | 2 => if x.toInt < w.toInt then x else w
  | 3 => if x.toInt > w.toInt then x else w
  | 4 => x
  | _ => if w = c then x else w

/-- R362, R363: an ATOM executed on the words of its mask, an uncorrectable word staying so: the old words, and whether
one was damaged. -/
def Dev.homeAtom (m : CMsg) (a : Nat) (d : Dev) : List Word × Bool × Dev :=
  let is := maskWords m.mask
  let (old, bad, d) := d.homeRead a is
  let cmp := nth m.ws 0
  let xs := if m.sub = 5 then m.ws.drop 1 else m.ws
  let new := (old.zip xs).map fun (w, x) => atomWord m.sub w x cmp
  let ue := is.filter fun i => mget d.uncorr (a + i)
  let d := d.homeWrite a m.mask new
  (old, bad, { d with uncorr := ue.foldl (fun u i => mset u (a + i) true) d.uncorr })

/-! ### Requests at a home (R355 to R358, R367, R375) -/

/-- An answer to a request. To one routed by package ID it goes by the ID that COH_MAP keeps of a former member, else
to a package that no rule names (assumption 33). -/
def Dev.homeReply (m : CMsg) (code st grant : Nat) (ws : List Word) (d : Dev) : Dev :=
  let k := m.agent / 128
  let r : CMsg := { code := code, agent := m.agent, tag := m.tag, st := st, grant := grant, addr := m.addr
                    mask := m.mask, ws := ws }
  if m.rt1 then
    let id := if d.cohState = 3 && d.fb (F.cohMap_VALID k) then d.f (F.cohMap_PKG_ID k)
      else Config.replyTo m.agent % 65536
    (d.sendRt 1 id (r.wire 1 id)).2
  else d.cohTo k r

/-- The local address of the line of a request. -/
def CMsg.lineA (m : CMsg) : Nat := m.addr % 2 ^ 34 / 16 * 16

/-- The transaction of a line. -/
def Dev.txn (d : Dev) (l : Nat) : Option CTxn := mget d.coh.txns l
def Dev.setTxn (l : Nat) (t : Option CTxn) (d : Dev) : Dev := d.modCoh fun c => { c with txns := mset c.txns l t }

/-- A CACK closes the request: a cluster cache's read or ATOM of a region store (R356, R357, R363). One that goes by Tweed
address is served as an uncached agent's (R378). -/
def CMsg.cacks (m : CMsg) : Bool :=
  isCache m.agent && !m.rt1 && (m.code = 1 || m.code = 2 || m.code = 3 || m.code = 5) && winOf (m.addr % 2 ^ 34) = .rstore

/-- PKG bit of an agent's package. -/
def pkgBit (a : Nat) : Nat := 2 ^ (a / 128)

/-- R375: WMASK gains written words; a full mask ends DP. -/
def dpWrite (e : DirEnt) (mask : Nat) : DirEnt :=
  if e.wmask ||| mask = 0xFFFF then default else { e with wmask := e.wmask ||| mask }

/-- A request performed on the home's store under an entry without an owner: the answer sent, the entry that follows. A
line with a damaged word, a DP line, and any line of a leaving package are answered without grant (R365, R375, R418). A
line of a bank of the Canvas is granted S to an agent that may not write it (R265, assumption 178).
Code 0x20 is the recall of R418 step 1, which nobody answers. A write of a retiring bank of the Canvas is answered BUSY,
unperformed (R266). -/
def Dev.homePerform (m : CMsg) (e : DirEnt) (d : Dev) : DirEnt × Dev :=
  let a := m.lineA
  let dp := e.st == 3
  let st := fun (bad : Bool) => if bad || dp then stPOISONED else stOK
  if d.bankBusy m a then
    (if dp then e else default, d.homeReply m (if m.code = 9 then 0x16 else if m.sub = 0 then 0x13 else 0x18) stBUSY 0
      ((maskWords m.mask).map fun _ => 0))
  else
  let d := d.bankOpen m a
  match m.code with
  | 0x20 => (if dp then e else default, d)
  | 5 =>
    let (old, bad, d) := d.homeAtom m a
    let e' := if dp then e else default
    (e', if m.sub = 0 then d.homeReply m 0x13 (st bad) 0 [] else d.homeReply m 0x18 (st bad) 0 old)
  | 9 => (if dp then dpWrite e m.mask else default, (d.homeWrite a m.mask m.ws).homeReply m 0x16 stOK 0 [])
  | 6 =>
    let (ws, bad, d) := d.homeRead a (List.range 16)
    ({ e with st := 4, owner := 0, pkg := 0, holder := m.agent, port := m.sub, wasDp := dp },
      d.homeReply m 0x18 (st bad) 0 ws)
  | 1 =>
    let (ws, bad, d) := d.homeRead a (List.range 16)
    if dp || bad || d.coh.leave.isSome then (e, d.homeReply m 0x18 (st bad) 0 ws)
    else if e.st = 1 || d.bankWrite { m with code := 2 } a then
      ({ e with st := 1, pkg := e.pkg ||| pkgBit m.agent }, d.homeReply m 0x18 stOK 3 ws)
    else ({ (default : DirEnt) with st := 2, owner := m.agent }, d.homeReply m 0x18 stOK 2 ws)
  | 2 =>
    let (ws, bad, d) := d.homeRead a (List.range 16)
    if dp then (e, d.homeReply m 0x18 (st bad) 0 ws)
    else if bad || d.coh.leave.isSome then (default, d.homeReply m 0x18 (st bad) 0 ws)
    else ({ (default : DirEnt) with st := 2, owner := m.agent }, d.homeReply m 0x18 stOK 2 ws)
  | _ =>
    let (ws, bad, d) := d.homeRead a (maskWords m.mask)
    (e, d.homeReply m 0x18 (st bad) 0 ws)

/-- The snoop that a request sends to an owner. -/
def snoopCode (code : Nat) : Nat := if code = 1 then 0x0A else if code = 2 then 0x0B else if code = 3 then 0x0D else 0x0E

/-- A request that must leave the line without copies: its perform follows every SRSP (R358). -/
def needsInv (code : Nat) : Bool := code = 2 || code = 5 || code = 6 || code = 9 || code = 0x20

/-- The outstanding request that an answer belongs to: by local agent, TAG and class. -/
def COut.is (pst : Bool) (la tag : Nat) (o : COut) : Bool :=
  o.m.agent % 128 == la && o.m.tag == tag && (o.m.code == 9) == pst

/-- A TAG for an NA_RD routed by package ID: the highest of this package's CP that is free. -/
def Dev.relayTag (d : Dev) : Option Nat :=
  (firstN 256 fun t => !d.coh.outs.any (COut.is false 64 (255 - t))).map (255 - ·)

/-- R366: the request that a home sends on to the owner in a snoop. An owner answers a requester by its domain index; for
one that is known by a package ID only, the home asks in its own name and answers it (assumption 183). -/
def Dev.relay (m : CMsg) (d : Dev) : CMsg × Dev :=
  if !m.rt1 || m.code > 3 then (m, d)
  else
    let m' : CMsg := { m with rt1 := false, agent := d.agentOf 64, tag := d.relayTag.getD 255 }
    (m', d.modCoh fun c => { c with outs := c.outs ++ [⟨m', .relay m⟩] })

/-- Its own request forgotten: the home answers itself. -/
def Dev.unrelay (m : CMsg) (d : Dev) : Dev :=
  if m.rt1 then d.modCoh fun c => { c with outs := c.outs.filter fun o => o.who != .relay m } else d

/-- A request whose line is free starts (R357, step 2; R358). One that no snoop delays and no CACK closes leaves the
line free again at once. -/
def Dev.homeStart (m : CMsg) (d : Dev) : Dev :=
  let l := m.lineA / 16
  let d := d.dirLook l
  let e := d.dirE l
  let t : CTxn := { (default : CTxn) with req := m, next := e }
  if e.st = 2 then
    let k := e.owner / 128
    let (q, d) := d.relay m
    (d.setTxn l (some { t with waits := [k], owner := some e.owner })).cohTo k
      { code := snoopCode m.code, agent := q.agent, tag := q.tag, mask := m.mask, addr := d.fullAddr (l * 16)
        clu := e.owner % 128 }
  else if e.st = 1 && needsInv m.code && e.pkg ≠ 0 then
    let ks := (List.range 64).filter fun k => nbit e.pkg k
    each ks (fun k d => d.cohTo k { code := 0x0C, agent := m.agent, tag := m.tag, addr := d.fullAddr (l * 16) })
      (d.setTxn l (some { t with waits := ks }))
  else
    let e := if e.st = 1 && needsInv m.code then default else e
    let (e', d) := d.homePerform m e
    if m.cacks && !d.agentDead m.agent then d.setTxn l (some { t with done := true, cack := true, next := e' })
    else d.setDir l e'

/-- The transactions open in the region of line `l`. -/
def Dev.regionTxns (d : Dev) (l : Nat) : List CTxn :=
  d.coh.txns.filterMap fun t => if t.1 / 0x8000 = l / 0x8000 then t.2 else none

/-- R354: a region store has one of its 256 trackers free for a request. -/
def Dev.trackerFree (d : Dev) (l : Nat) : Bool :=
  winOf (l * 16) ≠ .rstore || decide ((d.regionTxns l).length < 256)

/-- R354: write-back trackers of a region store in use. -/
def Dev.wbTrackers (d : Dev) (l : Nat) : Nat :=
  ((d.regionTxns l).map fun t => bit t.early.isSome + bit t.wb.isSome).foldl (· + ·) 0

/-- The request may start: its line is neither busy nor locked, its HBM stack accepts requests (R434). -/
def Dev.homeFree (d : Dev) (m : CMsg) : Bool :=
  let l := m.lineA / 16
  !d.hbmHeld m.lineA && (d.txn l).isNone && (d.dirE l).st ≠ 4 && d.trackerFree l && (!m.rt1 || m.code > 3 || d.relayTag.isSome)

/-- The oldest waiting request that may start does so (R355), at most so many times. -/
def Dev.homeNextN : Nat → Dev → Dev
  | 0, d => d
  | fuel + 1, d =>
    match d.coh.waiting.findIdx? d.homeFree with
    | none => d
    | some i => match d.coh.waiting[i]? with
      | none => d
      | some m => ((d.modCoh fun c => { c with waiting := c.waiting.eraseIdx i }).homeStart m).homeNextN fuel

/-- Every waiting request that may start does so (R355). -/
def Dev.homeNext (d : Dev) : Dev := d.homeNextN d.coh.waiting.length

/-- R358: a WB or EVICT applied to a free line from the owner that its entry names. -/
def Dev.wbApply (l a : Nat) (ws : Option (List Word)) (d : Dev) : Dev :=
  let d := d.dirLook l
  let e := d.dirE l
  if e.st = 2 && e.owner = a then
    let d := match ws with
      | some ws => d.dirtyWrite a l ws
      | none => d
    (d.setDir l default).cohTo (a / 128) { code := 0x15, agent := a, addr := d.fullAddr (l * 16) }
  else d.cohStray

/-- R356: the transaction closes once it awaits nothing. -/
def Dev.homeClose (l : Nat) (d : Dev) : Dev :=
  match d.txn l with
  | none => d
  | some t =>
    if t.done && t.waits.isEmpty && !t.cack then
      let d := (d.setDir l t.next).setTxn l none
      let d := match t.early with
        | some (a, ws) => d.wbApply l a ws
        | none => d
      d.homeNext
    else d

/-- R357, step 4, once every SRSP is in: the request is performed, unless it is void, and the line closes when it can. -/
def Dev.homeAdvance (l : Nat) (d : Dev) : Dev :=
  match d.txn l with
  | none => d
  | some t =>
    if t.done || !t.waits.isEmpty || (t.dirty && t.sdata.isNone) || (t.cross && t.owner.isSome && t.wb.isNone) then
      d.homeClose l
    else
      let m := t.req
      let d := match t.sdata with
        | some ws => d.dirtyWrite (t.owner.getD 0) l ws
        | none => d
      let crossed := t.cross && t.owner.isSome
      let d := if crossed then
          let d := match t.wb with
            | some (some ws) => d.dirtyWrite (t.owner.getD 0) l ws
            | _ => d
          d.cohTo ((t.owner.getD 0) / 128) { code := 0x15, agent := t.owner.getD 0, addr := d.fullAddr (l * 16) }
        else d
      let own := { (default : DirEnt) with st := 2, owner := m.agent }
      let shared := { (default : DirEnt) with st := 1, pkg := pkgBit (t.owner.getD 0) ||| pkgBit m.agent }
      let (e, d) :=
        if t.void then
          if t.fwd && m.code = 2 then ((d.makeDP l).dirE l, d.makeDP l)
          else ((if t.fwd && m.code = 1 then { shared with pkg := pkgBit (t.owner.getD 0) }
            else if m.code = 3 && !crossed then t.next else default), d)
        else if t.fwd && m.code = 1 then (shared, d)
        else if t.fwd && m.code = 2 then (own, d)
        else if t.fwd && m.code = 3 then (t.next, d)
        else
          let e0 := if m.code = 3 && !crossed then t.next else default
          (d.unrelay m).homePerform m e0
      -- A WB or EVICT that overtook the SRSP of an owner that kept its line is applied at the close.
      let early := if crossed then t.early else (t.wb.map fun w => (t.owner.getD 0, w)).orElse fun _ => t.early
      (d.setTxn l (some { t with
        done := true, cack := !t.void && !t.acked && m.cacks && !d.agentDead m.agent, next := e
        wb := none, early := early })).homeClose l

/-- R23, R50, R265, R347, R363: the kinds of request that a window accepts at its home. -/
def Dev.homeAccepts (d : Dev) (m : CMsg) (a : Nat) : Bool :=
  (m.code ≠ 5 || m.sub ≤ 5) && !d.imageWrite m a && !d.bankWrite m a && match winOf a with
    | .rstore => m.code ≠ 4
    | .hbm _ => m.code = 4 || m.code = 5 || m.code = 6 || m.code = 7 || m.code = 8 || m.code = 9
    | _ => false

/-- The answer code of a request. -/
def answerCode (m : CMsg) : Nat :=
  if m.code = 9 then 0x16 else if m.code = 7 || (m.code = 5 && m.sub = 0) then 0x13 else 0x18

/-- R23: a request that is an address error. -/
def Dev.homeError (m : CMsg) (d : Dev) : Dev :=
  let req := if d.ownAgent m.agent && !m.rt1 then m.agent % 128 else 0x7F
  let d := d.addrError req m.addr
  d.homeReply m (answerCode m) stADDR 0 ((maskWords m.mask).map fun _ => 0)

/-- R367, R375: LOCK_WR and UNLOCK. -/
def Dev.homeUnlock (m : CMsg) (d : Dev) : Dev :=
  let l := m.lineA / 16
  let e := d.dirE l
  if e.st = 4 && e.holder = m.agent && e.port = m.sub then
    let base : DirEnt := if e.wasDp then { (default : DirEnt) with st := 3, wmask := e.wmask } else default
    let (e', d) := if d.bankBusy m (l * 16) then (base, d.homeReply m 0x13 stBUSY 0 [])
      else let d := d.bankOpen m (l * 16)
      if m.code = 7 then
        (if e.wasDp then dpWrite base m.mask else base, (d.homeWrite (l * 16) m.mask m.ws).homeReply m 0x13 stOK 0 [])
      else (base, d)
    (d.setDir l e').homeNext
  else if m.code = 7 then d.homeReply m 0x13 stTIMEOUT 0 [] else d

/-- The windows that have no home: their reads and writes are performed by their own blocks (R21). -/
def plainWin : Win → Bool
  | .unitMem | .cluStore | .route | .cpMem | .tables | .regs => true
  | _ => false

/-- A request arrives at its home (R355 to R358, R376 step 6, R418 steps 4 and 5). -/
def Dev.homeArrive (m : CMsg) (d : Dev) : Dev :=
  let a := m.addr % 2 ^ 34
  if plainWin (winOf a) && (m.code == 4 || m.code == 9) then d.modCoh fun c => { c with plain := c.plain ++ [m] }
  else if !d.homeAccepts m a then d.homeError m
  else if d.hbmHeld a then d.modCoh fun c => { c with hbmHeld := c.hbmHeld ++ [m] }
  else if d.cohState = 3 && !d.ownAgent m.agent && !m.rt1 && winOf a = .rstore then
    d.homeReply m (answerCode m) stTIMEOUT 0 []
  else
    let enter := fun (d : Dev) =>
      if m.code = 7 || m.code = 8 then d.homeUnlock m
      else if d.homeFree m && !d.coh.waiting.any (fun w => w.lineA == m.lineA) then d.homeStart m
      else d.modCoh fun c => { c with waiting := c.waiting ++ [m] }
    match d.coh.leave with
    | some { heir := h, phase := ph, held := _ } =>
      if ph = 2 then d.modCoh fun c => { c with leave := c.leave.map fun l => { l with held := l.held ++ [m] } }
      else if ph = 3 then
        match h with
        | some h => (d.sendRt 1 h (m.wire 1 h)).2
        | none => d.homeReply m (answerCode m) stTIMEOUT 0 []
      else enter d
    | none => enter d

/-! ### Answers at a home -/

/-- SRSP from package `k` (R357, R359, R361). -/
def Dev.srspArrive (k l ans : Nat) (d : Dev) : Dev :=
  match d.txn l with
  | none => d.lateRsp
  | some t =>
    if !t.waits.contains k then d.lateRsp
    else
      let t := { t with
        waits := t.waits.filter (· != k)
        fwd := t.fwd || ans == 1 || (ans == 2 && t.req.code == 1)
        dirty := t.dirty || ans == 2
        cross := t.cross || ans == 3 }
      (d.setTxn l (some t)).homeAdvance l

/-- SDATA: a snooped owner's dirty words. -/
def Dev.sdataArrive (l : Nat) (ws : List Word) (d : Dev) : Dev :=
  match d.txn l with
  | none => d.lateRsp
  | some t => if t.done then d.lateRsp else (d.setTxn l (some { t with sdata := some ws })).homeAdvance l

/-- CACK from an agent. -/
def Dev.cackArrive (a l : Nat) (d : Dev) : Dev :=
  match d.txn l with
  | some t =>
    if t.cack && t.req.agent = a then (d.setTxn l (some { t with cack := false })).homeClose l
    else if t.req.agent = a && !t.done && t.req.cacks then
      -- The data went straight from the owner, whose SRSP is still to come.
      d.setTxn l (some { t with acked := true })
    else d.lateRsp
  | none => d.lateRsp

/-- R354: a write-back for line `l` need not wait: its line is free, or a write-back tracker is. -/
def Dev.wbFree (d : Dev) (l : Nat) : Bool := (d.txn l).isNone || decide (d.wbTrackers l < 32)

/-- A WB or EVICT arrives (R354, R355, R358, R361). -/
def Dev.wbArrive (a l : Nat) (ws : Option (List Word)) (d : Dev) : Dev :=
  match d.txn l with
  | none => (d.wbApply l a ws).homeNext
  | some t =>
    if !d.wbFree l then d.modCoh fun c => { c with wbWait := c.wbWait ++ [{
      code := if ws.isSome then 0x10 else 0x11, agent := a, addr := d.fullAddr (l * 16), ws := ws.getD [] }] }
    else if t.owner = some a && !t.done then (d.setTxn l (some { t with wb := some ws })).homeAdvance l
    else if t.req.agent = a || (t.done && t.next.owner = a) then d.setTxn l (some { t with early := some (a, ws) })
    else d.cohStray

/-! ### Requests of this package's agents -/

/-- A completed request handed on to its purpose. -/
def Dev.cohDone (o : COut) (st : Nat) (ws : List Word) (d : Dev) : Dev :=
  match o.who with
  | .nothing => d
  | .relay m => (d.homeReply m (answerCode m) st 0 ws).homeNext
  | _ => d.modCoh fun c => { c with done := c.done ++ [(o.who, o.m, st, ws)] }

/-- The lowest free TAG of an agent in a class. -/
def Dev.freeCohTag (d : Dev) (la : Nat) (pst : Bool) : Option Nat :=
  firstN 256 fun t => !d.coh.outs.any (COut.is pst la t)

/-- A request for the right to write that carries a unit's stores. -/
def CMsg.stores (m : CMsg) : Bool := m.code == 2 && !m.ws.isEmpty

/-- A request as a cluster cache that does not allocate sends it: reads by NA_RD, stores by WR_NC (R369, R375, R378). -/
def CMsg.plain (m : CMsg) : CMsg := { m with code := if m.stores then 9 else if m.code ≤ 2 then 3 else m.code }

/-- The message of a request: one for the right to write carries no words. -/
def CMsg.sent (m : CMsg) : CMsg := if m.code = 2 then { m with ws := [], mask := 0xFFFF } else m

/-- The cache of a cluster that is off, or stops allocating (R369, R418). -/
def Dev.cacheAway (d : Dev) (la : Nat) : Bool := isCache la && (d.coh.leave.isSome || d.fb (F.cohCache_OFF la))

/-- A request as local agent `la` issues it: an address here under the index in force, no allocation by a cache that is
away or of a line reached by Tweed address (R369, R376, R378, R418). -/
def Dev.cohForm (d : Dev) (la : Nat) (m : CMsg) : CMsg :=
  let m := { m with agent := d.agentOf la }
  let m := if d.cacheAway la then m.plain else m
  match d.target m.addr with
  | .here a => { m with addr := d.fullAddr a }
  | .tweed _ _ => { m.plain with rt1 := true }
  | _ => m

/-- A request issued by local agent `la`: false when the agent has no TAG free. -/
def Dev.cohIssue (who : CohWho) (la : Nat) (tag : Option Nat) (m : CMsg) (d : Dev) : Bool × Dev :=
  let m := d.cohForm la m
  match tag.orElse (fun _ => d.freeCohTag la (m.code == 9)) with
  | none => (false, d)
  | some t =>
    let m := { m with tag := t }
    let o : COut := ⟨m, who⟩
    let put := fun (d : Dev) => d.modCoh fun c => { c with outs := c.outs ++ [o] }
    (true, match d.target m.addr with
      | .here _ => (put d).cohTo d.myIdx m.sent
      | .remote k => (put d).cohTo k m.sent
      | .gone _ => (d.cohTimeout m.addr).cohDone o stTIMEOUT []
      | .tweed pkg a =>
        let (ok, d) := d.sendRt 1 pkg ({ m with addr := a }.wire 1 pkg)
        if ok then put d else (d.cohTimeout m.addr).cohDone o stTIMEOUT []
      | .err => (d.addrError la m.addr).cohDone o stADDR ((maskWords m.mask).map fun _ => 0))

/-- R265: a store here into a bank of the Canvas that its agent may not write, which no copy answers. -/
def Dev.bankBars (d : Dev) (m : CMsg) : Bool :=
  match d.target m.addr with
  | .here a => d.bankWrite m a
  | _ => false

/-- The copy that answers a request of a cache without a message (R349, R350). -/
def Dev.cacheHit (d : Dev) (la : Nat) (m : CMsg) : Option CLine :=
  if isCache la then
    (findLine (d.cacheOf la) (m.addr / 16)).filter fun x =>
      (m.code == 1 && decide (x.st ≤ 3)) || (m.code == 2 && decide (x.st ≤ 2) && !d.bankBars m)
  else none

/-- A request that the cache answers itself. -/
def Dev.cacheServe (who : CohWho) (la : Nat) (m : CMsg) (x : CLine) (d : Dev) : Dev :=
  if m.stores then (d.cacheStore la x.line m.mask m.ws).cohDone ⟨m, who⟩ stOK []
  else (d.modCache la (touchLine x.line)).cohDone ⟨m, who⟩ stOK x.ws

/-- R349: a cluster cache has a request out for the line. -/
def Dev.lineOut (d : Dev) (la l : Nat) : Bool :=
  isCache la && d.coh.outs.any fun o => o.m.agent == d.agentOf la && o.m.addr / 16 == l

/-- R349, R354: ways of the set of line `l` that hold lines or are reserved for lines that requests are out for. -/
def Dev.waysUsed (d : Dev) (la l : Nat) : Nat :=
  let set := d.cacheSet la l
  set.length + d.coh.outs.countP fun o => o.m.agent == d.agentOf la && decide (o.m.code ≤ 2)
    && o.m.addr / 16 % 64 == l % 64 && set.all fun x => x.line != o.m.addr / 16

/-- The request would fill a way, and its set has none left for it. -/
def Dev.noWay (d : Dev) (la : Nat) (m : CMsg) : Bool :=
  isCache la && decide (m.code ≤ 2) && decide (d.waysUsed la (m.addr / 16) ≥ 8)
    && (findLine (d.cacheOf la) (m.addr / 16)).isNone
    && match d.target m.addr with
      | .here _ | .remote _ => true
      | _ => false

/-- A request that need not wait: the cache answers it, or its agent has a TAG, its line and a way (R348, R349, R354). -/
def Dev.mayGo (d : Dev) (w : CWait) : Bool :=
  let m := d.cohForm w.la w.m
  (d.cacheHit w.la m).isSome
    || ((w.tag.isSome || (d.freeCohTag w.la (m.code == 9)).isSome) && !d.lineOut w.la (m.addr / 16) && !d.noWay w.la m)

/-- Such a request answered or issued. -/
def Dev.cohGo (w : CWait) (d : Dev) : Dev :=
  let m := d.cohForm w.la w.m
  match d.cacheHit w.la m with
  | some x => d.cacheServe w.who w.la m x
  | none => (d.cohIssue w.who w.la w.tag w.m).2

/-- A request of a local agent: answered or issued when it need not wait for anything, else kept until then. -/
def Dev.cohAsk (w : CWait) (d : Dev) : Dev :=
  if d.mayGo w && !d.coh.tagWait.any (fun x => x.la == w.la) then d.cohGo w
  else d.modCoh fun c => { c with tagWait := c.tagWait ++ [w] }

/-- A request under any free TAG. -/
def Dev.cohSend (who : CohWho) (la : Nat) (m : CMsg) (d : Dev) : Dev := d.cohAsk ⟨who, la, none, m⟩

/-- The least recently used line in the way of a waiting request: no way is free or about to be (R349). -/
def Dev.victim (d : Dev) (w : CWait) : Option (Nat × CLine) :=
  let m := d.cohForm w.la w.m
  let set := d.cacheSet w.la (m.addr / 16)
  let leaving := set.countP fun x => x.st == 4
  if !d.mayGo w && !d.lineOut w.la (m.addr / 16) && d.noWay w.la m && d.waysUsed w.la (m.addr / 16) - leaving ≥ 8 then
    (set.find? fun x => x.st != 4).map fun x => (w.la, x)
  else none

/-- The oldest waiting request that may go does so; else a line makes way for one. -/
def Dev.cohRetry (d : Dev) : Option Dev :=
  match d.coh.tagWait.find? d.mayGo with
  | some w => some ((d.modCoh fun c => { c with tagWait := c.tagWait.erase w }).cohGo w)
  | none => (d.coh.tagWait.findSome? d.victim).map fun (c, x) => d.cacheEvict c x

/-- The CACK of a cluster cache to the home of its line; a cache that is off is no caching agent (R369). -/
def Dev.sendCack (o : COut) (d : Dev) : Dev :=
  if o.m.cacks && !d.fb (F.cohCache_OFF (o.m.agent % 128)) then
    d.cohTo (o.m.addr / 2 ^ 34) { code := 0x14, agent := o.m.agent, addr := o.m.addr }
  else d

/-- DATA, CMP or PACK arrives at its requester (R357, step 5; R368). -/
def Dev.answerArrive (pst : Bool) (m : CMsg) (d : Dev) : Dev :=
  match d.coh.outs.findIdx? (COut.is pst (m.agent % 128) m.tag) with
  | none => d.lateRsp
  | some i => match d.coh.outs[i]? with
    | none => d
    | some o =>
      let d := d.modCoh fun c => { c with outs := c.outs.eraseIdx i }
      let d := if m.st = stTIMEOUT then d.cohTimeout o.m.addr else d
      let la := o.m.agent % 128
      let fill := m.grant ≠ 0 && isCache o.m.agent && (o.m.code = 1 || o.m.code = 2) && !d.fb (F.cohCache_OFF la)
      let d := if fill then d.cacheInstall la (o.m.addr / 16) m.grant m.ws else d
      let d := d.sendCack o
      -- R418, step 2: a line that arrives at a cache of a leaving package goes again at once.
      let drop := fun (d : Dev) => if d.coh.leave.isNone then d
        else each (findLine (d.cacheOf la) (o.m.addr / 16)).toList (Dev.cacheEvict la) d
      if !o.m.stores then (if fill then drop d else d).cohDone o m.st m.ws
      else if fill then (drop (d.cacheStore la (o.m.addr / 16) o.m.mask o.m.ws)).cohDone o stOK []
      -- R375, R418: no copy is granted, and the stores go by WR_NC.
      else if m.st = stOK || m.st = stPOISONED then d.cohAsk ⟨o.who, la, none, { o.m with code := 9 }⟩
      else d.cohDone o m.st []

/-- WBACK: the line leaves WBP (R361). -/
def Dev.wbackArrive (a l : Nat) (d : Dev) : Dev :=
  d.modCache (a % 128) fun ls => ls.filter fun x => !(x.line == l && x.st == 4)

/-! ### Delivery -/

/-- One message of this package's agents or from another package takes effect. -/
def Dev.cohDeliver (m : CMsg) (d : Dev) : Dev :=
  let l := m.addr % 2 ^ 34 / 16
  if m.code ≤ 9 then d.homeArrive m
  else if m.code ≤ 0x0E then d.snoopArrive m
  else match m.code with
    | 0x10 => d.wbArrive m.agent l (some m.ws)
    | 0x11 => d.wbArrive m.agent l none
    | 0x12 => d.srspArrive (m.agent / 128) l m.sub
    | 0x13 => d.answerArrive false m
    | 0x14 => d.cackArrive m.agent l
    | 0x15 => d.wbackArrive m.agent (m.addr / 16)
    | 0x16 => d.answerArrive true m
    | 0x18 => d.answerArrive false m
    | _ => d.sdataArrive l m.ws

/-- The messages inside this package delivered until none is left. -/
def Dev.cohRun : Nat → Dev → Dev
  | 0, d => d
  | fuel + 1, d =>
    match d.coh.inbox with
    | [] => match d.coh.wbWait.find? fun m => d.wbFree (m.addr % 2 ^ 34 / 16) with
      | none => d
      | some m => ((d.modCoh fun c => { c with wbWait := c.wbWait.erase m }).cohDeliver m).cohRun fuel
    | m :: ms => ((d.modCoh fun c => { c with inbox := ms }).cohDeliver m).cohRun fuel

end Sys2Proof.Machine
end

