-- ==== Sys2Proof/Machine/Epoch.lean ====
section
/-! DEFINITION. The epoch counter and its discipline (R112 to R132). -/

namespace Sys2Proof.Machine

/-- One CCLK_REF edge: the counter takes EPO_INC (R112). -/
def Dev.refEdge (d : Dev) : Dev := { d with epo := { d.epo with cnt := (d.epo.cnt + d.f F.epoInc_INC) % 2 ^ 101 } }

/-- One CCLK_REF edge that is a CCLK edge too. A step on an empty queue is such an edge (assumption 4). -/
def Dev.tick (d : Dev) : Dev :=
  let d := d.refEdge
  { d with epo := { d.epo with edges := d.epo.edges + 1, edgeCnt := d.epo.cnt, prevCnt := d.epo.edgeCnt } }

/-! ### Sources: 0 REF_A, 1 REF_B, 2 PTP (R122, R123) -/

/-- No source, as EPO_STAT codes it. -/
def noSrc : Nat := 7

/-- EPO_REFCFG and EPO_SLEW in force (R132). -/
def Dev.refcfg (d : Dev) : Word := d.epo.refOld.getD (d.reg R.epoRefcfg)
def Dev.slewcfg (d : Dev) : Word := d.epo.slewOld.getD (d.reg R.epoSlew)

/-- The enable bit of a source in an EPO_REFCFG word. -/
def srcEn (cfg : Word) (s : Nat) : Bool := bitOf cfg (29 - s)

/-- The rank of a source (R122). -/
def Dev.srcRank (d : Dev) (s : Nat) : Nat := bitsOf d.refcfg (35 - 2 * s) (34 - 2 * s)

/-- The source is enabled and valid (R123). -/
def Dev.srcUp (d : Dev) (s : Nat) : Bool := s < 3 && nbit (d.f F.epoStat_VALID) (2 - s) && srcEn d.refcfg s

/-- R122: `a` is better than `b`. -/
def Dev.better (d : Dev) (a b : Nat) : Bool :=
  d.srcRank a < d.srcRank b || (d.srcRank a == d.srcRank b && a < b)

/-- The best valid source that has not failed OFFSET and is not excluded (R122, R124). -/
def Dev.bestSrc (d : Dev) (excl : Nat) : Option Nat :=
  let ok := [0, 1, 2].filter fun s => d.srcUp s && !nbit d.epo.failed s && s != excl
  ok.find? fun s => ok.all fun t => t == s || d.better s t

def Dev.epoState (d : Dev) : Nat := d.f F.epoStat_STATE
def Dev.epoSel (d : Dev) : Nat := d.f F.epoStat_SEL
def Dev.epoCand (d : Dev) : Nat := d.f F.epoStat_CAND

/-- The residual set, RESID_NZ with it. -/
def Dev.setResid (r : Int) (d : Dev) : Dev :=
  ({ d with epo := { d.epo with resid := r } }).setF F.epoStat_RESID_NZ (bit (r != 0))

/-- A row of R126: the state, SEL and CAND it leads to, EVER_LOCKED at each entry to LOCKED, and event 0x200. The residual of
a slew within LOCKED goes where LOCKED is left (assumption 169). -/
def Dev.refGo (st sel cand : Nat) (d : Dev) : Dev :=
  let d := if st = 1 || st = 4 then d else d.setResid 0
  let d := if st = 1 then d.setF F.epoStat_EVER_LOCKED 1
    else { d with epo := { d.epo with lockedMs := 0, slewStart := false, slewLocked := false } }
  let d := { d with epo := { d.epo with stepPend := false } }
  let d := ((d.setF F.epoStat_STATE st).setF F.epoStat_SEL sel).setF F.epoStat_CAND cand
  d.event 0x200 0 (mkW [(2, 0, st), (5, 3, sel), (8, 6, cand)])

/-- HOLDOVER, or FREERUN while EVER_LOCKED = 0 (R126). -/
def Dev.refHold (d : Dev) : Dev := d.refGo (if d.fb F.epoStat_EVER_LOCKED then 2 else 0) d.epoSel noSrc

/-- R127: back to LOCKED on SEL, the phase to be removed by a slew within LOCKED. -/
def Dev.refReturn (d : Dev) : Dev :=
  let d := d.refGo 1 d.epoSel noSrc
  { d with epo := { d.epo with slewStart := true, qLost := false } }

/-- SEL counts as valid for the rows of R126: it is up and has not failed OFFSET. -/
def Dev.selUp (d : Dev) : Bool := d.srcUp d.epoSel && !nbit d.epo.failed d.epoSel

/-- The next candidate after one is lost or fails (R126). -/
def Dev.refNext (excl : Nat) (d : Dev) : Dev :=
  let sel := d.epoSel
  let b := d.bestSrc excl
  if d.selUp then
    match b with
    | some s => if d.better s sel then d.refGo 3 sel s else d.refReturn
    | none => d.refReturn
  else match b with
    | some s => d.refGo 3 sel s
    | none => d.refHold

/-- R126, R127 applied to the sources as they stand: at most one row. -/
def Dev.refRow (d : Dev) : Dev :=
  let sel := d.epoSel
  let cand := d.epoCand
  match d.epoState with
  | 1 =>
    if !d.selUp then
      match d.bestSrc sel with
      | some s => { (d.refGo 3 sel s) with epo := { (d.refGo 3 sel s).epo with qLost := true } }
      | none => d.refHold
    else match d.bestSrc noSrc with
      | some s => if s != sel && d.better s sel then
          { (d.refGo 3 sel s) with epo := { (d.refGo 3 sel s).epo with qLost := false } } else d
      | none => d
  | 3 =>
    if d.epo.qLost && d.selUp then d.refReturn
    else if !d.srcUp cand || nbit d.epo.failed cand then d.refNext cand
    else match d.bestSrc sel with
      | some s => if s != cand && d.better s cand then d.refGo 3 sel s else d
      | none => d
  | 4 => if d.srcUp cand then d else (d.setResid 0).refNext cand
  | _ =>
    match d.bestSrc noSrc with
    | some s => { (d.refGo 3 sel s) with epo := { (d.refGo 3 sel s).epo with qLost := false } }
    | none => d

/-- The rows of R126 applied until none applies. -/
def Dev.refEval (d : Dev) : Dev := forN 4 (fun _ d => d.refRow) d

/-- A source becomes lost (R123): its VALID bit, its OFFSET failure forgotten (R124), event 0x201. -/
def Dev.srcLose (s reason : Nat) (d : Dev) : Dev :=
  if nbit (d.f F.epoStat_VALID) (2 - s) then
    let d := d.setF F.epoStat_VALID (setNbit (d.f F.epoStat_VALID) (2 - s) false)
    let d := { d with epo := { d.epo with failed := setNbit d.epo.failed s false } }
    d.event 0x201 0 (mkW [(2, 0, s), (7, 4, reason)])
  else d

/-- SOURCE_LOST (R123, R126). -/
def execSourceLost (s : Fin 3) (reason : Fin 16) : State → R := lift fun d => (d.srcLose s reason).refEval

/-- SOURCE_RETURN (R123, R126 to R128): a disabled source stays lost. -/
def execSourceReturn (s : Fin 3) : State → R :=
  lift fun d =>
    if srcEn d.refcfg s then (d.setF F.epoStat_VALID (setNbit (d.f F.epoStat_VALID) (2 - s) true)).refEval else d

/-- R130: a JESD204C link, a Fiuth-borne input or a loop-input stream is enabled. -/
def Dev.streamsOn (d : Dev) : Bool :=
  (List.range 16).any (fun l => d.f (F.felStat_STATE l) != 0)
    || d.regs.any (fun p => 0x13000 ≤ p.1 && p.1 < 0x14000 && p.1 % 4 == 0 && d.fb (F.ingFchCfg_RUN ((p.1 - 0x13000) / 4)))
    || (List.range 16).any (fun k => d.fb (F.loopInCfg_EN k) && d.fb (F.loopInCfg_STREAM k))

/-- Event 0x203: a Velvet slew begins with a difference in ep (R129). -/
def Dev.slewEvent (delta : Int) (d : Dev) : Dev := d.event 0x203 0 (toW (sTo 36 (satS 36 delta).1))

/-- R124, R129: CAND, which has qualified with the difference `delta`, fails OFFSET, or SLEW begins. -/
def Dev.candSlew (delta : Int) (d : Dev) : Dev :=
  let cand := d.epoCand
  if delta.natAbs > epOf (Nat.min 1000000 (Nat.max 1 (bitsOf d.slewcfg 19 0))) 1000000 then
    let d := { d with epo := { d.epo with failed := setNbit d.epo.failed cand true } }
    (d.event 0x201 0 (mkW [(2, 0, cand), (7, 4, 5)])).refNext cand
  else
    -- A QUALIFY that a lost CAND leads back to is none that SEL's loss led to (R127).
    let d := { d with epo := { d.epo with qLost := false } }
    ((d.refGo 4 d.epoSel cand).setResid (delta * 65536)).slewEvent delta

/-- CAND_QUALIFIES (R124, R129, R130). -/
def Dev.candQualifies (t : Nat) (d : Dev) : Dev :=
  if d.epoState != 3 || !d.srcUp d.epoCand then d
  else if !d.fb F.epoStat_EVER_LOCKED && !d.streamsOn then { d with epo := { d.epo with stepPend := true } }
  else d.candSlew (sdiff 72 t d.now)

/-- CAND_QUALIFIES. -/
def execCandQualifies (t : Epoch) : State → R := lift (Dev.candQualifies t.toNat)

/-- EPO_ORIGIN, 48 bits. -/
def Dev.origin (d : Dev) : Nat := d.f F.epoOriginHi_ORIGIN * 2 ^ 36 + d.f F.epoOriginLo_ORIGIN

/-- LEAP_ANNOUNCE (R117): only the selected reference announces. -/
def Dev.leapAnnounce (s dir dayEnd : Nat) (d : Dev) : Dev :=
  if d.epoSel != s || !d.srcUp s then d
  else
    let d := d.setF F.epoTai_LEAP_PEND dir
    { d with epo := { d.epo with leapAt := if dir = 0 then none else some dayEnd } }

/-- LEAP_ANNOUNCE. -/
def execLeapAnnounce (s : Fin 3) (dir : Fin 3) (dayEnd : BitVec 36) : State → R :=
  lift (Dev.leapAnnounce s dir dayEnd.toNat)

/-- TAI_UTC_CHANGE (R117): at the second that ends the announced UTC day. -/
def Dev.taiUtcChange (d : Dev) : Dev :=
  match d.epo.leapAt with
  | some s =>
    if notEarlier 36 d.nowSec s then
      let v := (d.f F.epoTai_TAI_UTC + (if d.f F.epoTai_LEAP_PEND = 1 then 1 else 511)) % 512
      let d := (d.setF F.epoTai_TAI_UTC v).setF F.epoTai_LEAP_PEND 0
      ({ d with epo := { d.epo with leapAt := none } }).event 0x204 0 (toW v)
    else d
  | none => d

/-- TAI_UTC_CHANGE. -/
def execTaiUtcChange : State → R := lift Dev.taiUtcChange

/-- WHOLE_EPOCH_SECOND (R117): a host write of TAI_UTC takes effect. -/
def execWholeEpochSecond : State → R :=
  lift fun d => match d.epo.taiPend with
    | some v => { (d.setF F.epoTai_TAI_UTC v) with epo := { d.epo with taiPend := none } }
    | none => d

/-! ### The update (R127 to R132) -/

/-- The nominal increment (R112). -/
def nominalInc : Nat := 0x55E63B88C

/-- R114: an increment held within 200 ppm of nominal. -/
def clampInc (x : Nat) : Nat :=
  let tol := nominalInc * 200 / 1000000
  if x < nominalInc - tol then nominalInc - tol else if x > nominalInc + tol then nominalInc + tol else x

/-- R132: a waiting write of EPO_REFCFG or EPO_SLEW takes effect, and a source it disables is lost. -/
def Dev.refApply (d : Dev) : Dev :=
  let old := d.refcfg
  let wrote := d.epo.refOld.isSome
  let d := { d with epo := { d.epo with refOld := none, slewOld := none } }
  if wrote then
    let d := { d with epo := { d.epo with failed := 0 } }
    forN 3 (fun s d => if srcEn old s && !srcEn d.refcfg s then d.srcLose s 6 else d) d
  else d

/-- One step of a slew: the residual toward zero by RATE x 10^-12 s (R129). -/
def slewStep (rate : Nat) (r : Int) : Int :=
  let rate := Nat.min 50000 (Nat.max 1 rate)
  let st := roundHe (rate * 2 ^ 52 : Nat) (10 ^ 12)
  if r.natAbs ≤ st.toNat then 0 else if r < 0 then r + st else r - st

/-- The slew's part of an update (R127, R129): a slew within LOCKED begins, or the residual moves; at zero SLEW ends. -/
def Dev.slewUpdate (t : Nat) (d : Dev) : Dev :=
  if d.epoState = 1 && d.epo.slewStart then
    let delta := sdiff 72 t d.now
    let d := { d with epo := { d.epo with slewStart := false, slewLocked := true } }
    (d.setResid (delta * 65536)).slewEvent delta
  else if d.epoState = 4 || d.epo.slewLocked then
    let d := d.setResid (slewStep (bitsOf d.slewcfg 35 20) d.epo.resid)
    if d.epo.resid != 0 then d
    else if d.epoState = 4 then d.refGo 1 d.epoCand noSrc
    else { d with epo := { d.epo with slewLocked := false } }
  else d

/-- R125, R131: the increment of holdover: that of the OCXO with its learned offset, else the frozen mean frequency; before
any update in LOCKED the increment stays (assumption 8). -/
def Dev.holdInc (d : Dev) : Nat :=
  if d.fb F.epoStat_OCXO_OK then
    ((Config.ocxoInc d.free : Int) - roundHe d.epo.ocxos.sum d.epo.ocxos.length).toNat
  else if d.epo.freqs.isEmpty then d.f F.epoInc_INC
  else (roundHe d.epo.freqs.sum d.epo.freqs.length).toNat

/-- R125, R131: EPO_INC after the update, within 200 ppm of nominal: the loop's while a source is tracked, else that of
holdover; nominal in FREERUN without the OCXO. -/
def Dev.incUpdate (d : Dev) : Dev :=
  let st := d.epoState
  let inc :=
    if st = 1 || st = 4 || (st = 3 && d.srcUp d.epoSel) then Config.loopInc d.free
    else if st = 0 && !d.fb F.epoStat_OCXO_OK then nominalInc
    else d.holdInc
  { (d.setF F.epoInc_INC (clampInc inc)) with free := d.free + 1 }

/-- R131: an update in LOCKED adds to both holdover windows; OCXO_OK sets once they cover a full 60 s, which are 60,000
updates. The OCXO is measured only while EN_OCXO is 1, and OCXO_OK never clears (assumptions 127, 139). -/
def Dev.ocxoUpdate (d : Dev) : Dev :=
  if d.epoState = 1 then
    let en := bitOf d.refcfg 26
    let n := d.epo.lockedMs + 1
    let ofs := (Config.ocxoInc d.free : Int) - d.f F.epoInc_INC
    let d := { d with
      epo := { d.epo with
        lockedMs := n
        freqs := (Config.loopFreq d.free :: d.epo.freqs).take 60000
        ocxos := if en then (ofs :: d.epo.ocxos).take 60000 else d.epo.ocxos }
      free := d.free + 1 }
    if n ≥ 60000 && d.epo.ocxos.length ≥ 60000 then d.setF F.epoStat_OCXO_OK 1 else d
  else d

/-- DISCIPLINE_UPDATE, once per millisecond (R114, R126 to R132). -/
def execDisciplineUpdate (t : Epoch) : State → R :=
  lift fun d => ((((d.refApply.refEval).slewUpdate t.toNat).refEval).incUpdate).ocxoUpdate

/-- EPOCH_GET, opcode 0x200: both words of one edge. -/
def execEpochGet (n : Mbx) : State → R :=
  lift (Dev.takeCmd n 0x200 (· == 0) fun d => d.reply n stOK (epWords d.now ++ [d.reg R.epoStat]))

end Sys2Proof.Machine
end

