-- ==== Sys2Proof/Machine/Fiu.lean ====
section
/-! DEFINITION. The Fiuth bus as TM9 drives and controls it: its own cycles, arbitration, interrupts, side-band signals,
insertion and removal (R281 to R308, R330 to R334, R381 to R389). -/

namespace Sys2Proof.Machine

/-- STAT.STATE set. -/
def Dev.setFpState (p st : Nat) (d : Dev) : Dev := d.setF (F.fiuStat_STATE p) st

/-- TM9's requester code on the port (R293, R306). -/
def Dev.myCode (d : Dev) (p : Nat) : Nat := if d.fpState p = 2 then 16 else (d.fp p).mySlot

/-! ### Error counters (R283 to R286) -/

/-- R306, R307: the port answers no header: it is OFF, or will be, and the header is not of the edge of the write of EN. -/
def Dev.fpDeaf (d : Dev) (p : Nat) : Bool :=
  let x := d.fp p
  d.fpState p = 0 || (x.closing && x.offEdge != some d.epo.edges)

/-- A class 19 error with its event's code and detail. -/
def Dev.fiuError (p code : Nat) (det : Word) (d : Dev) : Dev := d.error 19 1 p 0 code det

/-- A parity error: 1 in a header, 0 in data. -/
def Dev.fiuPar (p hdr : Nat) (d : Dev) : Dev :=
  (d.incEv (F.fiuErrcnt_PAR p) 1 0x701 p (fun _ => toW hdr)).fiuError p 0x701 (toW hdr)

/-- A protocol error of a cycle. -/
def Dev.fiuProto (p cmd : Nat) (d : Dev) : Dev :=
  (d.incEv (F.fiuErrcnt_PROTO p) 1 0x702 p (fun _ => toW cmd)).fiuError p 0x702 (toW cmd)

/-- A cycle of TM9's without answer. -/
def Dev.fiuNoAns (p : Nat) (addr : Word) (d : Dev) : Dev :=
  (d.incEv (F.fiuErrcnt_NOANS p) 1 0x700 p (fun _ => addr)).fiuError p 0x700 addr

/-- An UNLOCK of the line of an address, for port `p` (R290, R367). -/
def Dev.sendUnlock (p addr : Nat) (d : Dev) : Dev :=
  let m : CMsg := { code := 8, agent := d.agentOf 66, sub := p, addr := addr }
  match d.target addr with
  | .here a => (d.cohTo d.myIdx { m with addr := d.fullAddr a }).cohRun 65536
  | .remote k => d.cohTo k m
  | .tweed pkg a => (d.sendRt 1 pkg ({ m with addr := a }.wire 1 pkg)).2
  | _ => d

/-- The 40-bit address of an inbound access: a Tweed address of a locked pair names this package. -/
def Dev.inAddr (d : Dev) (lys : Nat) (tweed : Bool) : Nat :=
  if tweed then d.fullAddr (0x200000000 + lys % 2 ^ 22) else lys

/-- The lock that a port holds as slave of a locked pair released at its target, its tag freed. -/
def Dev.brgUnlock (p : Nat) (d : Dev) : Dev :=
  each ((d.fp p).tags) (fun (t, r) d => match r with
    | some r =>
      if r.ans = 5 then
        (d.modFp p fun x => { x with tags := mset x.tags t none }).sendUnlock p (d.inAddr r.lys r.tweed)
      else d
    | none => d) d

/-- R290: a lock that TM9 holds as slave or controller ends without its write. -/
def Dev.lockBreak (p : Nat) (d : Dev) : Dev :=
  match (d.fp p).lock with
  | some (_, addr, _) =>
    (((d.modFp p fun x => { x with lock := none, granted := none }).brgUnlock p).setF
      (F.fiuStat_LOCK_BRK p) 1).event 0x707 p addr
  | none => d

/-- R297, R302: handshakes that TM9 holds as slave are abandoned; their tags wait for their completions. A write that
waits for room stands as far as it was accepted. -/
def Dev.slaveAbandon (p : Nat) (d : Dev) : Dev :=
  (d.modFp p fun x => { x with
    lock := none, granted := none, held := none
    tags := x.tags.map fun t => (t.1, t.2.map fun r =>
      if r.ans = 0 || r.ans = 3 then { r with ans := 4 } else if r.ans = 6 then { r with ans := 7 } else r) }).brgUnlock p

/-! ### Width and damaged words (R317, R318) -/

/-- R317, WIDTH 2: nonet k becomes nonet 3 - k. -/
def swapNonets (w : Word) : Word :=
  mkW [(35, 27, bitsOf w 8 0), (26, 18, bitsOf w 17 9), (17, 9, bitsOf w 26 18), (8, 0, bitsOf w 35 27)]

/-- R317: a word toward Fiuth, or an undamaged one toward Lysith. -/
def widthW (width : Nat) (w : Word) : Word :=
  if width = 1 then toW (bitsOf w 31 0) else if width = 2 then swapNonets w else w

/-- R317, R318: a word read on Fiuth, toward Lysith. -/
def widthIn (width : Nat) (x : Word × Bool) : Word := if x.2 then putBits x.1 35 32 2 else widthW width x.1

/-! ### Messages (R330 to R334) -/

/-- A source bit of BRG_MSG. -/
def Dev.msgOn (d : Dev) (p src : Nat) : Bool := nbit (d.f (F.brgMsg_SRC p)) src

/-- Places of the message queue taken: the vector of an IACK on the bus has one (assumption 152). -/
def FiuPort.msgFill (x : FiuPort) (kind : Nat) : Nat :=
  x.msgs.length + bit (kind != 1 && x.cur.any fun o => o.cmd == 8)

/-- R330, R331: a message of a kind; a full queue drops it (R334). -/
def Dev.brgMessage (p kind code lvl level vec ep : Nat) (d : Dev) : Dev :=
  if (d.fp p).msgFill kind ≥ 16 then d.inc (F.brgMsg_MSG_DROP p) 1
  else
    let m0 := mkW [(23, 20, kind), (19, 18, p), (17, 13, code), (12, 12, lvl), (11, 9, level), (7, 0, vec)]
    d.modFp p fun x => { x with msgs := x.msgs ++ [⟨m0.toNat, ep, x.posted.map (·.num)⟩] }

/-- R330: a vector taken by IACK. -/
def Dev.vectorMsg (p slot level vec : Nat) (d : Dev) : Dev :=
  if d.msgOn p level then d.brgMessage p 1 slot 0 level vec d.now else d.inc (F.brgMsg_MSG_DROP p) 1

/-! ### Slots (R303 to R305) -/

/-- Event 0x704. -/
def Dev.slotEvent (p s reason : Nat) (d : Dev) : Dev := d.event 0x704 p (mkW [(7, 4, s), (3, 0, reason)])

/-- Bit `s` of every IRQ_MAP cleared. -/
def Dev.clearMaps (p s : Nat) (d : Dev) : Dev :=
  forN 8 (fun l d => d.setF (F.fiuIrqMap_SLOTS p l) (setNbit (d.f (F.fiuIrqMap_SLOTS p l)) s false)) d

/-- DEF_OUT kept. -/
def Dev.showDef (p : Nat) (d : Dev) : Dev := d.setF (F.fiuStat_DEF_OUT p) (d.fp p).deferred.length

/-! ### Own cycles -/

/-- An own cycle queued. -/
def Dev.ownPush (p : Nat) (o : Own) (d : Dev) : Dev := d.modFp p fun x => x.enter o

/-- Own cycles withdrawn, wherever they wait. -/
def FiuPort.without (f : Own → Bool) (x : FiuPort) : FiuPort :=
  { x with queue := x.queue.filter (!f ·), outer := x.outer.filter (!f ·), wait := x.wait.filter (!f ·) }

/-- The words driven behind a cycle's header: the count word of a block cycle (R289), then its data. -/
def Own.drives (o : Own) : List (Word × Bool) :=
  (if o.cmd = 3 || o.cmd = 4 then [(toW (o.cnt - 1), false)] else []) ++ o.ws

/-- The header of the next own cycle driven (R284 to R289, R293). -/
def Dev.ownStart (p : Nat) (d : Dev) : Dev :=
  let x := d.fp p
  match x.pick with
  | none => d
  | some i => match x.queue[i]? with
    | none => d
    | some o =>
      let d := d.modFp p fun x => { x with
        queue := x.queue.eraseIdx i, cur := some o, granted := none, lastCmd := o.cmd, late := false, lockReq := none }
      d.emit (.fiuth p (d.myCode p) o.cmd o.addr o.drives)

/-- The slot that a cycle of TM9's is addressed to: of a geographic cycle, of an IACK, of a REPLY to a module (R293). -/
def Own.slot (o : Own) : Option Nat :=
  if o.cmd = 8 || o.cmd = 10 || o.cmd = 11 then some (bitsOf o.addr 35 32)
  else if o.cmd = 9 && bitsOf o.addr 12 8 < 16 then some (bitsOf o.addr 12 8) else none

/-- A geographic read or write of a slot. -/
def geoCycle (write : Bool) (slot off : Nat) (w : Word) (o : Owner) : Own :=
  { cmd := if write then 11 else 10, addr := mkW [(35, 32, slot), (11, 0, off)], cnt := 1
    ws := if write then [(w, false)] else [], k := 0, got := [], retries := 0, owner := o }

/-- R303, step 4: GEO_WRITE of CTL with BUS_EN = 1; `ctl`: its bits 4:1. -/
def Dev.admitCycle (p slot ctl : Nat) (mbx : Option Nat) (d : Dev) : Dev :=
  d.ownPush p (geoCycle true slot 2 (mkW [(4, 1, ctl), (0, 0, 1)]) (.admitSlot slot mbx))

/-- R328: a posted error: a class 16 error, and the log when it is free. -/
def Dev.postedErr (dir port src reason addr : Nat) (d : Dev) : Dev :=
  let det := mkW [(4, 4, dir), (3, 0, reason)]
  let d := d.error 16 1 port 0 0x710 det
  if d.fb F.brgPerrInfo_VALID then d.inc F.brgPerrInfo_OVF 1
  else
    let d := ((((d.setF F.brgPerrInfo_VALID 1).setF F.brgPerrInfo_DIR dir).setF F.brgPerrInfo_PORT port).setF
      F.brgPerrInfo_SRC src).setF F.brgPerrInfo_REASON reason
    ((d.setF F.brgPerrLo_ADDR addr).setF F.brgPerrHi_ADDR (addr / 2 ^ 36)).event 0x710 port det

/-- R321, R323: an inbound read's data never reached its master. -/
def Dev.readLost (p src reason : Nat) (isReg : Bool) (d : Dev) : Dev :=
  let ev := fun (r : Nat) (d : Dev) => d.event 0x711 p (mkW [(8, 4, src), (3, 0, r)])
  let d := if reason = 0 then d else ev reason d
  if isReg then ev 4 (d.inc (F.brgPortCnt_RD_LOST p) 1) else d

/-- The tag of an inbound read freed (R319). -/
def Dev.freeTag (p t : Nat) (d : Dev) : Dev := d.modFp p fun x => { x with tags := mset x.tags t none }

/-! ### FIU_ACCESS (R326, R327) -/

/-- The FIU_ACCESS of a mailbox. -/
def Dev.fiuAcc (d : Dev) (n : Nat) : Option FiuAcc := mget d.acc n

/-- The FIU_ACCESS of a mailbox, if it is still the one of this number (R327). -/
def Dev.accOf (d : Dev) (n id : Nat) : Option FiuAcc := (d.fiuAcc n).filter fun a => a.id == id

/-- The cycle is of the FIU_ACCESS of this number of a mailbox. -/
def Own.ofAcc (n id : Nat) (o : Own) : Bool :=
  match o.owner with
  | .access m k _ => m == n && k == id
  | _ => false

/-- Cycles without those that follow another of the same route run: a run fails once (R327). -/
def oncePerRun : List Own → List Own
  | [] => []
  | o :: os => o :: (oncePerRun os).filter fun q => match o.owner with
    | .route _ _ _ _ => q.owner != o.owner
    | _ => true

/-- The status of an access. -/
def FiuAcc.status (a : FiuAcc) : Nat := if a.failed then stTIMEOUT else if a.poisoned then stPOISONED else stOK

/-- The words of an access, in order. -/
def FiuAcc.words (a : FiuAcc) : List Word :=
  if a.write || a.failed then [] else (List.range a.cnt).map fun i => mget a.got i

/-- Every cycle of an access has ended: its answer, or, when it was deferred, event 0x714 and its result held under key
16 + n until the next deferred access of the mailbox. -/
def Dev.accDone (n : Nat) (a : FiuAcc) (d : Dev) : Dev :=
  if a.deferred then
    ({ d with acc := mset (mset d.acc n none) (16 + n) (some a) }).event 0x714 (n * 256 + a.seq)
      (mkW [(35, 28, a.status), (6, 0, a.words.length)])
  else ({ d with acc := mset d.acc n none }).finish n a.status a.words

/-- The cycles of an access not yet started withdrawn. -/
def Dev.accWithdraw (n id p : Nat) (d : Dev) : Dev := d.modFp p (FiuPort.without (Own.ofAcc n id))

/-- Words that a cycle of an access brought (R316, R317). -/
def FiuAcc.take (a : FiuAcc) (ofs : Nat) (got : List (Word × Bool)) : FiuAcc :=
  { a with
    got := got.zipIdx.foldl (fun m (x, i) => mset m (ofs + i) (widthIn a.width x)) a.got
    poisoned := a.poisoned || got.any (·.2) }

/-- A cycle of an access ended: its words, or its failure. -/
def Dev.accEnd (n id ofs : Nat) (ok : Bool) (got : List (Word × Bool)) (d : Dev) : Dev :=
  match d.accOf n id with
  | none => d
  | some a =>
    let a := a.take ofs got
    if !ok then
      -- R327: the remaining words of the run are discarded.
      let inFlight := (d.fp a.port).deferred.countP fun r => r.own.ofAcc n id
      let a := { a with failed := true, left := inFlight }
      let d := { (d.accWithdraw n id a.port) with acc := mset d.acc n (some a) }
      if inFlight = 0 then d.accDone n a else d
    else
      let a := { a with left := a.left - 1 }
      let d := { d with acc := mset d.acc n (some a) }
      if a.left = 0 then d.accDone n a else d

/-! ### The end of an own cycle -/

/-- The REPLY of an inbound read is on its way. -/
def FiuPort.replying (x : FiuPort) (t : Nat) : Bool := x.own.any fun o => o.owner == .reply t

/-- R305: the reads that a lost slot issued and TM9 deferred: their data goes nowhere, and a tag is free once its completion
is there. -/
def Dev.dropDeferred (p s : Nat) (d : Dev) : Dev :=
  each (d.fp p).tags (fun (t, r) d => match r with
    | some r =>
      if r.src = s && r.ans = 1 && !(d.fp p).replying t then
        let d := d.readLost p s 2 r.isReg
        if r.data.isSome then d.freeTag p t
        else d.modFp p fun x => { x with tags := mset x.tags t (some { r with ans := 4 }) }
      else d
    | none => d) d

/-- R305: a slot lost. -/
def Dev.slotLost (p s : Nat) (d : Dev) : Dev :=
  if !d.fb (F.fiuMod_PRESENT p s) then d
  else
    let reads := (d.fp p).deferred.filter (fun r => r.src == s)
    let d := ((d.setF (F.fiuMod_PRESENT p s) 0).setF (F.fiuMod_EN p s) 0).clearMaps p s
    let d := d.modFp p fun x => { x with
      deferred := x.deferred.filter (fun r => r.src != s), noAns := mset x.noAns s 0 }
    let d := each reads (fun r d => match r.own.owner with
      | .access n id ofs => d.accEnd n id ofs false []
      | _ => d) (d.showDef p)
    (d.dropDeferred p s).slotEvent p s 3

/-- What the end of a cycle means to what it was for; `reason` codes a failure as BRG_PERR_INFO.REASON does. -/
def Dev.ownEnd (p : Nat) (o : Own) (ok : Bool) (reason : Nat) (d : Dev) : Dev :=
  let w := (o.got.headD (0, false)).1
  let bad := (o.got.headD (0, false)).2
  match o.owner with
  | .reply t =>
    match mget (d.fp p).tags t with
    | some r => (if ok then d else d.readLost p r.src 3 r.isReg).freeTag p t
    | none => d
  | .iack level slot =>
    if ok then (d.modFp p fun x => { x with
        served := mset x.served level (some slot), pass := mset x.pass level 0 }).vectorMsg p slot level (bitsOf w 7 0)
    else d.modFp p fun x => { x with served := mset x.served level (some slot), pass := mmod x.pass level (· + 1) }
  | .presence slot none =>
    if ok && !bad then d.ownPush p (geoCycle false slot 1 0 (.presence slot (some w))) else d
  | .presence slot (some id) =>
    if ok && !bad then
      let d := (((((d.setF (F.fiuMod_PRESENT p slot) 1).setF (F.fiuMod_ID p slot) (bitsOf id 19 0)).setF
        (F.fiuMod_DEF_OK p slot) (bitsOf w 0 0)).setF (F.fiuMod_RTY_OK p slot) (bitsOf w 1 1)).setF
        (F.fiuMod_DEFERS p slot) (bitsOf w 2 2)).setF (F.fiuMod_MASTER p slot) (bitsOf w 3 3)
      let d := (d.modFp p fun x => { x with represent := x.represent.filter (· != slot) }).slotEvent p slot 1
      if d.fb (F.fiuCfg_AUTO_ADMIT p) then d.admitCycle p slot 0 none else d
    else d
  | .admitSlot slot mbx =>
    let d := if ok then (d.setF (F.fiuMod_EN p slot) 1).slotEvent p slot 4 else d
    match mbx with
    | some n => d.finish n (if ok then stOK else stTIMEOUT) []
    | none => d
  | .poll slot => if ok then d else d.slotLost p slot
  | .geo n write =>
    if ok then d.finish n stOK [if write then 0 else if bad then putBits w 35 32 2 else w] else d.finish n stTIMEOUT [0]
  | .access n id ofs => d.accEnd n id ofs ok o.got
  | .remove slot =>
    if d.fb (F.fiuMod_PRESENT p slot) then (d.setF (F.fiuMod_PRESENT p slot) 0).slotEvent p slot 2 else d
  | .route win run head start =>
    if ok then d
    else
      let d := d.modFp p (FiuPort.without fun q => q.owner == .route win run head start)
      (d.bklDropRun (264 + p) run).postedErr 1 p win reason (o.addr.toNat + o.k)

/-- R305: two consecutive cycles addressed to a slot without answer lose it. -/
def Dev.slotAnswered (p : Nat) (o : Own) (answered : Bool) (d : Dev) : Dev :=
  match o.slot with
  | none => d
  | some s =>
    let d := d.modFp p fun x => { x with noAns := mset x.noAns s (if answered then 0 else mget x.noAns s + 1) }
    if mget (d.fp p).noAns s ≥ 2 then d.slotLost p s else d

/-- The cycle on the bus leaves it. -/
def Dev.ownOff (p : Nat) (d : Dev) : Dev := d.modFp p fun x => { x with cur := none }

/-- The cycle on the bus fails. -/
def Dev.ownFail (p reason : Nat) (d : Dev) : Dev :=
  match (d.fp p).cur with
  | none => d
  | some o => ((d.ownOff p).slotAnswered p o (reason ≠ 4)).ownEnd p o false reason

/-- The remainder of a cycle from its word `k`, for the repeat of R294: a cycle of one word is a READ or a WRITE (R326), a
REPLY's header gives the words that remain (R293). -/
def Own.rest (o : Own) : Own :=
  let n := o.cnt - o.k
  { o with
    cmd := if n = 1 && (o.cmd = 3 || o.cmd = 4) then o.cmd - 2 else o.cmd
    addr := if o.cmd = 9 then putBits o.addr 23 18 (n - 1) else o.addr + toW o.k
    ws := o.ws.drop o.k, cnt := n, k := 0, got := []
    owner := match o.owner with
      | .access m id ofs => .access m id (ofs + o.k)
      | x => x }

/-- R285: the answer ACCEPT to the word in progress of an own cycle. -/
def Dev.ownAccept (p : Nat) (b : BusWord) (o : Own) (d : Dev) : Dev :=
  let rd := o.isRead || o.cmd = 8 || o.cmd = 10
  let d := if rd && b.bad then d.fiuPar p 0 else d
  let o := { o with k := o.k + 1, got := if rd then o.got ++ [(b.w, b.bad)] else o.got }
  if o.k ≥ o.cnt then ((d.ownOff p).slotAnswered p o true).ownEnd p o true 0
  else d.modFp p fun x => { x with cur := some o }

/-- R294: the answer RETRY: the words before it stand; after RTY_MAX retries the access fails. -/
def Dev.ownRetry (p : Nat) (o : Own) (d : Dev) : Dev :=
  let d := d.inc (F.fiuErrcnt_REJ p) 1
  if o.retries ≥ d.f (F.fiuCfg_RTY_MAX p) then d.ownFail p 5
  else
    let d := (d.ownOff p).slotAnswered p o true
    let d := match o.owner with
      | .access n id ofs => match d.accOf n id with
        | some a => { d with acc := mset d.acc n (some (a.take ofs o.got)) }
        | none => d
      | _ => d
    d.modFp p fun x => { x with wait := x.wait ++ [{ o.rest with retries := o.retries + 1, waited := 0 }] }

/-- R292, R294: the answer DEFER of agent `src` to word 0 of a read. -/
def Dev.ownDefer (p src tag : Nat) (o : Own) (d : Dev) : Dev :=
  let d := ((d.ownOff p).modFp p fun x => { x with deferred := x.deferred ++ [⟨src, tag, o⟩] }).showDef p
  match o.owner with
  | .access n id _ => match d.accOf n id with
    | some a =>
      if a.deferred then d
      else
        ({ d with acc := mset (mset d.acc (16 + n) none) n (some { a with deferred := true }) }).finish n stDEFERRED []
    | none => d
  | _ => d

/-- A cycle of TM9's or of another master's, or a handshake that TM9 holds as slave, is under way. -/
def FiuPort.busy (x : FiuPort) : Bool :=
  x.cur.isSome || x.other.isSome || x.held.isSome || x.tags.any fun t => match t.2 with
    | some r => r.ans == 0 || r.ans == 3 || r.ans == 6
    | none => false

/-- TM9 asserts F_HALT (R300, R302); it drives nothing in OFF and MONITOR (R306). -/
def Dev.haltOwn (d : Dev) (p : Nat) : Bool :=
  d.fpState p ≥ 2 && (d.fb (F.fiuCfg_HALT p) || (d.fp p).segReset.isSome)

/-- R300: the sampled level of F_HALT; a change raises event 0x703 and makes a message (R330). -/
def Dev.haltLevel (p : Nat) (lv : Bool) (d : Dev) : Dev :=
  if d.fb (F.fiuStat_HALT_IN p) == lv then d
  else
    let d := (d.setF (F.fiuStat_HALT_IN p) (bit lv)).event 0x703 p (toW (bit lv))
    let d := if lv then d.modFp p fun x => { x with granted := none } else d
    if d.msgOn p 9 then d.brgMessage p 3 16 (bit lv) 0 0 d.now else d

/-- The line after a change of TM9's own assertion. -/
def Dev.haltRefresh (p : Nat) (d : Dev) : Dev :=
  let h := d.haltOwn p
  if h = (d.fp p).haltOut then d
  else ((d.modFp p fun x => { x with haltOut := h }).emit (.fiuLine p 0 (bit h))).haltLevel p ((d.fp p).haltExt || h)

/-- ROLE, MYSLOT and NO_RST as CFG holds them. -/
def Dev.cfgRole (d : Dev) (p : Nat) : Bool × Nat × Bool :=
  (d.fb (F.fiuCfg_ROLE p), d.f (F.fiuCfg_MYSLOT p), d.fb (F.fiuCfg_NO_RST p))

/-- The port leaves OFF with the role and values of the last write of EN from 0 to 1, or at reset release those held. -/
def Dev.portOn (p : Nat) (d : Dev) : Dev :=
  let (role, slot, noRst) := ((d.fp p).latch).getD (d.cfgRole p)
  let d := d.modFp p fun x => { x with
    role := role, mySlot := slot, noRst := noRst, latch := none, ctl := 0, late := false }
  (d.setFpState p (if role then 3 else 1)).haltRefresh p

/-- Every deferred read of the port fails with TIMEOUT (R302, R306). -/
def Dev.failDeferred (p : Nat) (d : Dev) : Dev :=
  let rs := (d.fp p).deferred
  let d := (d.modFp p fun x => { x with deferred := [] }).showDef p
  each rs (fun r d => d.ownEnd p r.own false 2) d

/-- The port enters OFF: every output is released, deferred reads and waiting accesses fail with TIMEOUT, and so does a
segment reset (assumption 154). -/
def Dev.portOff (p : Nat) (d : Dev) : Dev :=
  let x := d.fp p
  let d := d.modFp p fun x => { x with
    queue := [], outer := [], cur := none, wait := [], granted := none, waits := [], lock := none, lockReq := none
    late := false, closing := false, segReset := none, rstOut := false, represent := [], other := none }
  let d := each (oncePerRun (x.cur.toList ++ x.queue ++ x.wait ++ x.outer)) (fun o d => d.ownEnd p o false 2) (d.slaveAbandon p)
  let d := ((d.failDeferred p).setFpState p 0).haltRefresh p
  let d := if x.rstOut then d.emit (.fiuLine p 1 0) else d
  let d := match x.segReset with
    | some (some n) => d.finish n stTIMEOUT []
    | _ => d
  if d.fb (F.fiuCfg_EN p) then d.portOn p else d

/-- What waited for a started cycle to end: F_RST of a segment reset (R302), the entry to OFF, which follows the edge of the
write of EN (R306, R307). -/
def Dev.portIdle (p : Nat) (d : Dev) : Dev :=
  let x := d.fp p
  if x.busy then d
  else
    let d := if x.segReset.isSome && !x.rstOut then
        (d.modFp p fun x => { x with rstOut := true }).emit (.fiuLine p 1 1)
      else d
    if x.closing && x.offEdge != some d.epo.edges then d.portOff p else d

/-- A step on an empty queue: an edge, and after it the entry to OFF of a port whose EN was written 0 before (R307). -/
def Dev.idleEdge (d : Dev) : Dev :=
  let d := d.tick
  if (List.range 4).any fun p => (d.fp p).closing then forN 4 Dev.portIdle d else d

/-- R285, R286, R290: an answer to a cycle of another master: one that is overdue or not of the table counts as a protocol
error; ACCEPT to a LOCK_READ takes the lock; a cycle ends with its last word, or with another answer. -/
def Dev.otherAnswer (p : Nat) (a : BusAnswer) (d : Dev) : Dev :=
  let x := d.fp p
  let acc := match a with
    | .accept _ => true
    | _ => false
  if x.late then d.fiuProto p x.lastCmd
  else
    let d := d.modFp p fun x => { x with
      other := if acc then x.other.bind fun n => if n ≤ 1 then none else some (n - 1) else none
      lockReq := none, lock := if acc then (x.lockReq.map fun l => (l.1, l.2, false)).or x.lock else x.lock }
    if a = .invalid && d.fpState p = 2 then d.fiuProto p x.lastCmd else d

/-- SLAVE_ANSWER (R285, R286, R290, R292, R294, R299, R326, R327). -/
def Dev.slaveAnswer (p : Nat) (a : BusAnswer) (d : Dev) : Dev :=
  let bad := fun (o : Own) (d : Dev) =>
    ((if d.fpState p = 2 then d.fiuProto p o.cmd else d).inc (F.fiuErrcnt_REJ p) 1).ownFail p 3
  match (d.fp p).cur with
  | none => d.otherAnswer p a
  | some o => match a with
    | .accept b => d.ownAccept p b o
    | .reject => (d.inc (F.fiuErrcnt_REJ p) 1).ownFail p 3
    | .retry => d.ownRetry p o
    | .defer s t => if o.isRead && o.k = 0 then d.ownDefer p s t.toNat o else bad o d
    | .invalid => bad o d

/-- SLAVE_ANSWER. -/
def execSlaveAnswer (p : Fin 4) (ans : BusAnswer) : State → R := lift fun d => (d.slaveAnswer p ans).portIdle p

/-- ANSWER_TIMEOUT (R286, R305): of TM9's own cycle, or of another master's, whose LOCK_READ takes no lock. -/
def execAnswerTimeout (p : Fin 4) : State → R :=
  lift fun d =>
    let d := d.modFp p fun x => { x with late := true, lockReq := none, other := none }
    match (d.fp p).cur with
    | none => d.portIdle p
    | some o => ((d.fiuNoAns p o.addr).ownFail p 4).portIdle p

/-- RETRY_WAIT_EXPIRY (R294): the cycle that has waited longest waits for the bus again, ahead of the others of its
class. -/
def execRetryWaitExpiry (p : Fin 4) : State → R :=
  lift fun d => match (d.fp p).wait with
    | [] => d
    | o :: os => d.modFp p fun x => { x with wait := os, queue := o :: x.queue }

/-! ### Deferred reads of TM9 as master (R293, R294) -/

/-- A header sampled: the grant is used, and a lock that its LOCK_WRITE has not ended is broken (R290). -/
def Dev.headerSeen (p cmd : Nat) (d : Dev) : Dev :=
  (d.lockBreak p).modFp p fun x => { x with granted := none, lastCmd := cmd, late := false, lockReq := none, other := none }

/-- A deferred read ends. -/
def Dev.defEnd (p i : Nat) (r : DefRd) (ok : Bool) (got : List (Word × Bool)) (d : Dev) : Dev :=
  let d := (d.modFp p fun x => { x with deferred := x.deferred.eraseIdx i }).showDef p
  d.ownEnd p { r.own with got := got } ok 2

/-- REPLY (R293): a REPLY cycle for this requester: the words of a tag it holds are taken; otherwise REJECT. -/
def Dev.replyCycle (p : Nat) (hdr : BusWord) (ds : List BusWord) (d : Dev) : Dev :=
  let h := hdr.w
  let st := d.fpState p
  let rej := fun (d : Dev) => d.emit (.fiuAns p 1 0 [])
  if (st ≠ 2 && st ≠ 4) || d.fpDeaf p || bitsOf h 12 8 ≠ d.myCode p then d
  else
    let d := d.headerSeen p 9
    if hdr.bad then rej (d.fiuPar p 1)
    else match (d.fp p).deferred.findIdx? (fun r => r.tag == bitsOf h 7 0 && r.src == bitsOf h 17 13) with
      | none => rej d
      | some i => match (d.fp p).deferred[i]? with
        | none => rej d
        | some r =>
          if bitOf h 24 then (d.emit (.fiuAns p 0 0 [])).defEnd p i r false []
          else
            let d := each ds (fun b d => if b.bad then d.fiuPar p 0 else d) (d.emit (.fiuAns p 0 0 []))
            d.defEnd p i r true (ds.map fun b => (b.w, b.bad))

/-- REPLY. -/
def execReply (p : Fin 4) (hdr : BusWord) (ds : List BusWord) : State → R := lift (Dev.replyCycle p hdr ds)

/-- DEFER_TIMEOUT (R294). -/
def execDeferTimeout (p : Fin 4) (src : Fin 17) (tag : Byte) : State → R :=
  lift fun d => match (d.fp p).deferred.findIdx? (fun r => r.tag == tag.toNat && r.src == src.val) with
    | none => d
    | some i => match (d.fp p).deferred[i]? with
      | none => d
      | some r => (d.event 0x705 p (mkW [(12, 8, src.val), (7, 0, tag.toNat)])).defEnd p i r false []

/-! ### Twill on a Fiuth segment (R383 to R390) -/

/-- The wait of a requester: of TM9 the largest of its own cycles (R385). -/
def FiuPort.waitOf (x : FiuPort) (c : Nat) : Nat :=
  if c = 16 then (x.queue.map (·.waited)).foldl Nat.max 0 else (mget x.waits c).getD 0

/-- Every requester of a decision but the one granted has waited once more; TM9 presents at most four cycles (R384, R385). -/
def FiuPort.waitMore (rs : List Nat) (c : Option Nat) (x : FiuPort) : FiuPort :=
  { x with
    waits := rs.foldl (fun m r => if r = 16 then m else mset m r (if c = some r then none else some ((mget m r).getD 0 + 1))) x.waits
    queue := if rs.contains 16 then x.queue.zipIdx.map fun (o, i) =>
        if i < 4 && !(c = some 16 && x.pick = some i) then { o with waited := o.waited + 1 } else o
      else x.queue }

/-- The requester of largest wait, then lowest code. -/
def FiuPort.oldest (x : FiuPort) (rs : List Nat) : Option Nat :=
  rs.find? fun c => rs.all fun e => x.waitOf e < x.waitOf c || (x.waitOf e == x.waitOf c && c ≤ e)

/-- R386: one decision among the requesting codes: the grant, and whether it was an aged one. -/
def Dev.twillPick (d : Dev) (p : Nat) (rs : List Nat) : Option (Nat × Bool) :=
  let x := d.fp p
  let mw := d.f (F.fiuTwlCfg_MAXWAIT p)
  let aged := rs.filter fun c => mw ≠ 0 && x.waitOf c ≥ mw
  match x.oldest aged with
  | some c => some (c, true)
  | none =>
    let s := d.f (F.fiuTwlStat_PTR p)
    let own := d.f (F.fiuTwlSlot_REQ p s)
    if !d.fb (F.fiuTwlSlot_FREE p s) && rs.contains own then some (own, false)
    else (x.oldest rs).map (·, false)

/-- LEN in force (R390). -/
def Dev.twillLen (d : Dev) (p : Nat) : Nat := ((d.fp p).lenOld.getD (d.f (F.fiuTwlCfg_LEN_M1 p))) + 1

/-- R386, R390: PTR moved on; a waiting LEN takes effect where PTR would be 0. -/
def Dev.twillStep (p : Nat) (d : Dev) : Dev :=
  let ptr := (d.f (F.fiuTwlStat_PTR p) + 1) % d.twillLen p
  let d := if ptr = 0 then d.modFp p fun x => { x with lenOld := none } else d
  d.setF (F.fiuTwlStat_PTR p) ptr

/-- The instance as event codes give it: kind 3. -/
def twlInst (p : Nat) : Nat := 192 + p

/-- R387: the slot that a decision reads names no requester of the kind. -/
def Dev.fiuBadSlot (p : Nat) (d : Dev) : Dev :=
  let s := d.f (F.fiuTwlStat_PTR p)
  if !d.fb (F.fiuTwlSlot_FREE p s) && d.f (F.fiuTwlSlot_REQ p s) > 16 then d.setF (F.fiuTwlStat_BAD_SLOT p) 1 else d

/-- The grant of a decision counted (R386). -/
def Dev.twillCount (p c : Nat) (aged : Bool) (d : Dev) : Dev :=
  let x := d.fp p
  let w := if c = 16 then ((x.pick.bind (x.queue[·]?)).map (·.waited)).getD 0 else x.waitOf c
  let d := if aged then d.incEv (F.fiuTwlCnt_AGED p) 1 0x811 (twlInst p) (fun _ => toW c) else d
  (d.inc (F.fiuTwlGnt_COUNT p c) 1).maxF (F.fiuTwlReq_MAX_WAIT p c) (Nat.min w 0xFFF)

/-- TWL_REQ.PEND of every requester after a decision that granted `c`. -/
def Dev.twillShow (p : Nat) (c : Option Nat) (d : Dev) : Dev :=
  forN 17 (fun r d => d.setF (F.fiuTwlReq_PEND p r)
    (if r = 16 then Nat.min 4 ((d.fp p).queue.length - bit (c == some 16)) else bit ((mget (d.fp p).waits r).isSome))) d

/-- A decision of a Fiuth segment (R296, R383 to R388). Withdrawn requests leave the pending queue (R385). -/
def Dev.grantDecision (p breq : Nat) (d : Dev) : Dev :=
  let d := d.modFp p FiuPort.refill
  let x := d.fp p
  if d.fpState p ≠ 2 || d.fb (F.fiuStat_HALT_IN p) || x.cur.isSome || x.granted.isSome || x.lock.isSome
      || x.segReset.isSome || x.closing then d
  else
    let rs := (List.range 16).filter (fun s => nbit breq s && d.fb (F.fiuMod_EN p s))
      ++ (if x.pick.isSome then [16] else [])
    let d := d.modFp p fun x => { x with waits := x.waits.filter (fun w => rs.contains w.1) }
    let d := if x.queue.countP (fun o => o.waited ≥ 1) ≥ 4 then d.inc (F.fiuTwlReq_STALL p 16) 1 else d
    let d := d.fiuBadSlot p
    let g := d.twillPick p rs
    let d := match g with
      | some (c, aged) => d.twillCount p c aged
      | none => d
    let d := (((d.modFp p (FiuPort.waitMore rs (g.map (·.1)))).twillShow p (g.map (·.1))).twillStep p)
    match g with
    | none => d
    | some (c, _) =>
      if c = 16 then d.ownStart p
      else (d.modFp p fun x => { x with granted := some c }).emit (.fiuLine p 3 c)

/-- R297, R389: the slot granted has withdrawn: a dead cycle. -/
def Dev.fiuDead (p : Nat) (d : Dev) : Dev :=
  match (d.fp p).granted with
  | none => d
  | some c =>
    let d := d.modFp p fun x => { x with granted := none, waits := mset x.waits c none }
    d.incEv (F.fiuTwlCnt_DEAD p) 1 0x810 (twlInst p) (fun _ => toW c)

/-- TENURE_TIMEOUT (R297): no handshake progress for 128 F_CLK: the grant goes, a handshake that TM9 holds as slave is
abandoned, a cycle of TM9's fails with TIMEOUT (assumption 155); the controller counts a protocol error. -/
def execTenureTimeout (p : Fin 4) : State → R :=
  lift fun d =>
    if d.fpState p = 0 then d
    else
      let cmd := (d.fp p).lastCmd
      let d := ((d.modFp p fun x => { x with granted := none, other := none }).slaveAbandon p).ownFail p 2
      (if d.fpState p = 2 then d.fiuProto p cmd else d).portIdle p

/-- MEMBER_PORT_GRANT (R306): the pending header is issued; none while F_HALT is asserted (R300). -/
def execMemberPortGrant (p : Fin 4) : State → R :=
  lift fun d =>
    if d.fpState p = 4 && !d.fb (F.fiuStat_HALT_IN p) && (d.fp p).cur.isNone && !(d.fp p).closing then
      ((d.lockBreak p).modFp p FiuPort.refill).ownStart p
    else d

/-- Handshakes of a cycle of another master's: a block cycle's count word, which no command shows, is free (assumption
182); a REPLY's header gives its words, none behind one that failed (R289, R293). -/
def Dev.otherWords (c : Nat) (addr : Word) (d : Dev) : Nat × Dev :=
  if c = 3 || c = 4 then let (v, d) := d.fresh; (v % 64 + 2, d)
  else if c = 9 then (if bitOf addr 24 then 1 else bitsOf addr 23 18 + 1, d)
  else (1, d)

/-- A started cycle of another master's on a segment that TM9 controls or is a module of. -/
def Dev.otherStart (p c : Nat) (addr : Word) (d : Dev) : Dev :=
  if 2 ≤ d.fpState p && d.fpState p ≤ 4 then
    let (n, d) := d.otherWords c addr
    d.modFp p fun x => { x with other := some n }
  else d

/-- HEADER_ON_SEGMENT (R283, R284, R290): a header of a cycle not addressed to TM9. A controller port checks it; the LOCK_WRITE
of the pair ends a lock of another slave's. -/
def execHeaderOnSegment (p : Fin 4) (src : Fin 17) (cmd : BitVec 4) (addr : BusWord) : State → R :=
  lift fun d =>
    if d.fpDeaf p then d
    else
      let c := cmd.toNat
      let ctl := d.fpState p = 2
      let d := if c = 6 && !addr.bad && (d.fp p).lock = some (src.val, addr.w, false) then
          d.modFp p fun x => { x with lock := none }
        else d
      let d := d.headerSeen p c
      if ctl && addr.bad then ((d.emit (.fiuAns p 1 0 [])).fiuPar p 1).portIdle p
      else if ctl && c ≥ 12 then ((d.emit (.fiuAns p 1 0 [])).fiuProto p c).portIdle p
      else
        let d := d.otherStart p c addr.w
        if ctl && c = 5 then d.modFp p fun x => { x with lockReq := some (src.val, addr.w) } else d

/-- LOCK_WINDOW_EXPIRY (R290): no LOCK_WRITE within 64 F_CLK. -/
def execLockWindowExpiry (p : Fin 4) : State → R := lift (Dev.lockBreak p)

/-! ### Interrupts (R299) -/

/-- The slots of a level's map, the one after the slot served last first. -/
def Dev.irqOrder (d : Dev) (p l : Nat) : List Nat :=
  let m := (List.range 16).filter fun s => nbit (d.f (F.fiuIrqMap_SLOTS p l)) s
  match mget (d.fp p).served l with
  | some s => m.filter (s < ·) ++ m.filter (· ≤ s)
  | none => m

/-- An IACK is waiting or under way. -/
def FiuPort.iacking (x : FiuPort) : Bool := x.own.any fun o => o.cmd == 8

/-- IRQ_SERVICE (R299, R334): the sampled levels; a full pass without ACCEPT is stray. -/
def Dev.irqService (p irq : Nat) (d : Dev) : Dev :=
  let d := d.setF (F.fiuStat_IRQ_IN p) irq
  let x := d.fp p
  let d := d.modFp p fun x => { x with pass := x.pass.filter (fun q => nbit irq q.1) }
  if d.fpState p ≠ 2 then d
  else match [7, 6, 5, 4, 3, 2, 1, 0].find? (fun l =>
      nbit irq l && d.f (F.fiuIrqMap_SLOTS p l) ≠ 0 && !nbit x.holdoff l) with
    | none => d
    | some l =>
      let ord := d.irqOrder p l
      if mget x.pass l ≥ ord.length then
        ((d.modFp p fun x => { x with pass := mset x.pass l 0, holdoff := setNbit x.holdoff l true }).setF
          (F.fiuStat_STRAY p) 1).event 0x708 p (toW l)
      else if x.iacking || x.msgs.length ≥ 16 || x.nFill ≥ 16 || x.closing then d
      else
        let s := ord.headD 0
        d.ownPush p { cmd := 8, addr := mkW [(35, 32, s), (2, 0, l)], cnt := 1, ws := [], k := 0, got := []
                      retries := 0, owner := .iack l s }

/-- IRQ_SERVICE. -/
def execIrqService (p : Fin 4) (irq : BitVec 8) : State → R := lift (Dev.irqService p irq.toNat)

/-- STRAY_HOLDOFF_EXPIRY (R299). -/
def execStrayHoldoffExpiry (p : Fin 4) (level : Fin 8) : State → R :=
  lift (Dev.modFp p fun x => { x with holdoff := setNbit x.holdoff level.val false })

/-! ### Side-band signals (R300 to R302) -/

/-- HALT_CHANGE (R300): the level that others drive; TM9's own assertion holds the line too. -/
def execHaltChange (p : Fin 4) (level : Bool) : State → R :=
  lift fun d => (d.modFp p fun x => { x with haltExt := level }).haltLevel p (level || d.haltOwn p)

/-- SYNC_PERIODIC (R301). -/
def execSyncPeriodic (p : Fin 4) : State → R :=
  lift fun d =>
    let per := Nat.min 1000 (Nat.max 1 (d.f (F.fiuSyncCfg_PERIOD p)))
    if d.fpState p = 2 && d.f (F.fiuSyncCfg_MODE p) = 1 && d.now % 2 ^ 36 * 1000 / 2 ^ 36 % per = 0 then
      d.emit (.fiuLine p 2 1) else d

/-- A write of CTL (R301): SYNC_PULSE = 1 pulses F_SYNC in MODE 2. -/
def Dev.syncPulse (p : Nat) (w : Word) (d : Dev) : Dev :=
  if bitOf w 0 && d.fpState p = 2 && d.f (F.fiuSyncCfg_MODE p) = 2 then d.emit (.fiuLine p 2 1) else d

/-- SYNC_PULSE. -/
def execSyncPulse (_ : Path) (p : Fin 4) (w : Word) : State → R := lift (Dev.syncPulse p w)

/-- SYNC_EDGE (R301, R330). -/
def execSyncEdge (p : Fin 4) : State → R :=
  lift fun d =>
    if d.fpState p = 0 then d
    else
      let d := (d.setF (F.fiuSyncTsLo_FRAC p) (d.now % 2 ^ 36)).setF (F.fiuSyncTsHi_SEC p) d.nowSec
      if d.msgOn p 8 then d.brgMessage p 2 16 0 0 0 d.now else d

/-- RST_SAMPLED (R302, R330): the cycle in progress is abandoned; a port in MEMBER makes a message. TM9 as a module re-presents:
its CTL is zero after the reset (R298, R303). -/
def execRstSampled (p : Fin 4) : State → R :=
  lift fun d =>
    let was := d.fpState p
    let d := (((d.ownFail p 2).slaveAbandon p).modFp p fun x => { x with other := none }).portIdle p
    let d := if was = 4 && d.msgOn p 10 then d.brgMessage p 4 16 0 0 0 d.now else d
    if d.fpState p = 3 || d.fpState p = 4 then (d.modFp p fun x => { x with ctl := 0 }).setFpState p 3 else d

/-- R302: a segment reset begins: F_HALT, and F_RST once no started cycle is under way. -/
def Dev.segResetStart (p : Nat) (mbx : Option Nat) (d : Dev) : Dev :=
  ((d.modFp p fun x => { x with segReset := some mbx }).haltRefresh p).portIdle p

/-- SEG_RESET_DONE (R302): F_RST has been asserted for 1,000 F_CLK. -/
def Dev.segResetDone (p : Nat) (d : Dev) : Dev :=
  match (d.fp p).segReset, (d.fp p).rstOut with
  | some mbx, true =>
    let d := (d.modFp p fun x => { x with
      segReset := none, rstOut := false
      represent := (List.range 16).filter fun s => d.fb (F.fiuMod_PRESENT p s) }).emit (.fiuLine p 1 0)
    let d := (d.haltRefresh p).failDeferred p
    let d := forN 16 (fun s d => d.setF (F.fiuMod_EN p s) 0) d
    let d := forN 8 (fun l d => d.setF (F.fiuIrqMap_SLOTS p l) 0) d
    match mbx with
    | some n => d.finish n stOK []
    | none => d
  | _, _ => d

/-- SEG_RESET_DONE. -/
def execSegResetDone (p : Fin 4) : State → R := lift (Dev.segResetDone p)

/-- FIU_SEG_RESET, opcode 0x702, class L (R302). -/
def Dev.fiuSegReset (n : Nat) (d : Dev) : Dev :=
  let p := (d.arg n 1).toNat
  if p > 3 || d.fpState p ≠ 2 then d.reply n stBAD_ARG []
  else if (d.fp p).segReset.isSome then d.reply n stBUSY []
  else (d.segResetStart p (some n)).hold n

/-- FIU_SEG_RESET. -/
def execFiuSegReset (n : Mbx) : State → R := lift (Dev.takeCmd n 0x702 (· == 1) (Dev.fiuSegReset n))

/-! ### Insertion, removal, polling (R303 to R305) -/

/-- The presence reads of a slot that is not present, or re-presents after a reset (R302), begin, unless they are under way. -/
def Dev.presence (p s : Nat) (d : Dev) : Dev :=
  let mine := fun (o : Own) => match o.owner with
    | .presence t _ => t == s
    | _ => false
  let x := d.fp p
  if d.fpState p ≠ 2 || (d.fb (F.fiuMod_PRESENT p s) && !x.represent.contains s) || x.own.any mine then d
  else d.ownPush p (geoCycle false s 0 0 (.presence s none))

/-- MODULE_PRESENCE (R303, step 2). -/
def execModulePresence (p : Fin 4) (slot : Fin 16) : State → R := lift (Dev.presence p slot)

/-- PRESENCE_RETRY (R303, step 3). -/
def execPresenceRetry (p : Fin 4) (slot : Fin 16) : State → R := lift (Dev.presence p slot)

/-- SLOT_POLL (R305): GEO_READ of ID of every present slot; `slot` is the one whose turn it is. -/
def execSlotPoll (p : Fin 4) (slot : Fin 16) : State → R :=
  lift fun d =>
    if d.fpState p = 2 && d.fb (F.fiuMod_PRESENT p slot) then d.ownPush p (geoCycle false slot 0 0 (.poll slot)) else d

/-- FIU_SLOT_ADMIT, opcode 0x700 (R303, step 4). -/
def Dev.fiuSlotAdmit (n : Nat) (d : Dev) : Dev :=
  let a := d.arg n 1
  let p := bitsOf a 9 8
  let s := bitsOf a 7 4
  if bitsOf a 35 10 ≠ 0 || d.fpState p ≠ 2 || !d.fb (F.fiuMod_PRESENT p s) || d.fb (F.fiuMod_EN p s) then
    d.reply n stBAD_ARG []
  else (d.admitCycle p s (bitsOf a 3 0) (some n)).hold n

/-- FIU_SLOT_ADMIT. -/
def execFiuSlotAdmit (n : Mbx) : State → R := lift (Dev.takeCmd n 0x700 (· == 1) (Dev.fiuSlotAdmit n))

/-- FIU_SLOT_REMOVE, opcode 0x701, class C (R304, step 1). -/
def Dev.fiuSlotRemove (n : Nat) (d : Dev) : Dev :=
  let a := d.arg n 1
  let p := bitsOf a 9 8
  let s := bitsOf a 7 4
  if bitsOf a 35 10 ≠ 0 || bitsOf a 3 0 ≠ 0 || d.fpState p ≠ 2 || !d.fb (F.fiuMod_PRESENT p s) then
    d.reply n stBAD_ARG []
  else
    let d := ((d.setF (F.fiuMod_EN p s) 0).clearMaps p s).modFp p fun x => { x with
      removing := if x.removing.contains s then x.removing else x.removing ++ [s]
      granted := if x.granted = some s then none else x.granted }
    d.reply n stOK []

/-- FIU_SLOT_REMOVE. -/
def execFiuSlotRemove (n : Mbx) : State → R := lift (Dev.takeCmd n 0x701 (· == 1) (Dev.fiuSlotRemove n))

/-- SLOT_REMOVAL_COMPLETE (R304, steps 2 to 4): once no read to or from the slot is deferred, CTL = 0 is written; the end of
that cycle leaves the slot not present. -/
def execSlotRemovalComplete (p : Fin 4) (slot : Fin 16) : State → R :=
  lift fun d =>
    let x := d.fp p
    if !x.removing.contains slot.val || x.deferred.any (fun r => r.src == slot.val)
        || x.tags.any (fun t => match t.2 with
          | some r => r.src == slot.val && r.ans == 1
          | none => false) then d
    else
      let d := d.modFp p fun x => { x with removing := x.removing.filter (· != slot.val) }
      d.ownPush p (geoCycle true slot.val 2 0 (.remove slot.val))

/-- FIU_GEO, opcode 0x703: one geographic cycle. -/
def Dev.fiuGeo (n : Nat) (d : Dev) : Dev :=
  let a := d.arg n 1
  let p := bitsOf a 17 16
  let wr := bitOf a 35
  if bitsOf a 34 18 ≠ 0 || (!wr && (d.arg n 2).toNat ≠ 0) || d.fpState p ≠ 2 then d.reply n stBAD_ARG []
  else (d.ownPush p (geoCycle wr (bitsOf a 15 12) (bitsOf a 11 0) (d.arg n 2) (.geo n wr))).hold n

/-- FIU_GEO. -/
def execFiuGeo (n : Mbx) : State → R := lift (Dev.takeCmd n 0x703 (· == 2) (Dev.fiuGeo n))

/-! ### TM9 as a member module (R298, R306, R329) -/

/-- The port answers geographic cycles for `slot`. -/
def Dev.isMember (d : Dev) (p slot : Nat) : Bool :=
  (d.fpState p = 3 || d.fpState p = 4) && !d.fpDeaf p && (d.fp p).mySlot = slot

/-- A header of a cycle addressed to TM9 as a member: one of bad parity is refused (R283). -/
def Dev.memberHeader (p cmd : Nat) (bad : Bool) (f : Dev → Dev) (d : Dev) : Dev :=
  let d := d.headerSeen p cmd
  if bad then (d.fiuPar p 1).emit (.fiuAns p 1 0 []) else f d

/-- GEO_READ (R298): ID, CAP = 0xF, CTL; STATUS, whose content the spec does not give, is a free value. -/
def execGeoRead (p : Fin 4) (slot : Fin 16) (h : HdrOff) : State → R :=
  lift fun d =>
    if !d.isMember p slot then d
    else d.memberHeader p 10 h.bad fun d =>
      match h.off.toNat with
      | 0 => d.emit (.fiuAns p 0 0 [(toW Config.fiuId, false)])
      | 1 => d.emit (.fiuAns p 0 0 [(toW 0xF, false)])
      | 2 => d.emit (.fiuAns p 0 0 [(toW (d.fp p).ctl, false)])
      | 3 => let (v, d) := d.fresh; d.emit (.fiuAns p 0 0 [(toW v, false)])
      | _ => d.emit (.fiuAns p 0 0 [(0, false)])

/-- A word applied to the member's geographic space: CTL and with it BUS_EN (R298, R306). -/
def Dev.geoApply (p off : Nat) (w : Word) (d : Dev) : Dev :=
  if off ≠ 2 then d
  else (d.modFp p fun x => { x with ctl := bitsOf w 4 0 }).setFpState p (if bitOf w 0 then 4 else 3)

/-- GEO_WRITE (R283, R288, R298, R306). -/
def execGeoWrite (p : Fin 4) (slot : Fin 16) (h : HdrOff) (w : BusWord) : State → R :=
  lift fun d =>
    if !d.isMember p slot then d
    else d.memberHeader p 11 h.bad fun d =>
      if w.bad then (d.fiuPar p 0).emit (.fiuAns p 1 0 [])
      else (d.geoApply p h.off.toNat w.w).emit (.fiuAns p 0 0 [])

/-- BCAST_WRITE (R283, R291): applied by a member; F_REJ when the header or the word fails parity. -/
def execBcastWrite (p : Fin 4) (h : HdrOff) (w : BusWord) : State → R :=
  lift fun d =>
    if d.fpDeaf p then d
    else if d.fpState p = 1 || d.fpState p = 5 then d.headerSeen p 7
    else d.memberHeader p 7 h.bad fun d =>
      if d.fpState p = 2 then d
      else if w.bad then (d.fiuPar p 0).emit (.fiuAns p 1 0 []) else d.geoApply p h.off.toNat w.w

/-- IACK (R283, R329). -/
def execIack (p : Fin 4) (slot : Fin 16) (h : HdrLevel) : State → R :=
  lift fun d =>
    if d.fpState p ≠ 4 || !d.isMember p slot then d
    else d.memberHeader p 8 h.bad fun d =>
      if d.irqLine p = 2 ^ h.level.val then
        d.emit (.fiuAns p 0 0 [(mkW [(10, 8, d.memberIrq p), (7, 0, d.f F.brgCfg_MVEC)], false)])
      else d.emit (.fiuAns p 1 0 [])

/-! ### Enabling a port (R306) -/

/-- A write of FIU[p].CFG (R300, R306): a write of EN from 0 to 1 takes ROLE, MYSLOT and NO_RST; one of 0 closes a port that is
not OFF already. -/
def Dev.fiuCfgWrite (p : Nat) (w : Word) (d : Dev) : Dev :=
  let was := d.fb (F.fiuCfg_EN p)
  let d := d.setReg (R.fiuCfg p) (putBits w 2 0 0)
  let now := d.fb (F.fiuCfg_EN p)
  let d := d.haltRefresh p
  if !was && now then
    let d := d.modFp p fun x => { x with latch := some (d.cfgRole p) }
    if d.fpState p = 0 then d.portOn p else d
  else if was && !now && d.fpState p ≠ 0 then
    (d.modFp p fun x => { x with closing := true, offEdge := some d.epo.edges }).portIdle p
  else d

/-- FIU_PORT_EN_WRITE (R306). -/
def execFiuPortEnWrite (_ : Path) (p : Fin 4) (w : Word) : State → R := lift (Dev.fiuCfgWrite p w)

/-- MONITOR_END (R306): `seen`: another controller was found. -/
def execMonitorEnd (p : Fin 4) (seen : Bool) : State → R :=
  lift fun d =>
    if d.fpState p ≠ 1 then d
    else if seen then (((d.setFpState p 5).setF (F.fiuStat_CONFLICT p) 1).event 0x706 p 0).haltRefresh p
    else
      let d := (d.setFpState p 2).haltRefresh p
      let d := forN 16 (fun s d => (d.setF (F.fiuMod_PRESENT p s) 0).setF (F.fiuMod_EN p s) 0) d
      if (d.fp p).noRst then d else d.segResetStart p none

end Sys2Proof.Machine
end

