-- ==== Sys2Proof/Machine/Keep.lean ====
section
/-! DEFINITION. The keep store, its records and copies, and the black box (R444 to R452). -/

namespace Sys2Proof.Machine

/-- What an erased word of the keep store reads (R444). -/
def erasedW : Word := toW 0xFFFFFFFF

/-- A word of the keep store. -/
def KeepStore.rd (k : KeepStore) (a : Nat) : Word := mapGet (fun _ => erasedW) k.words a

/-- A word of the keep store programmed. -/
def KeepStore.wr (a : Nat) (w : Word) (k : KeepStore) : KeepStore :=
  { k with words := mapSet (fun _ => erasedW) k.words a w }

/-- A sector erased, its journal mark cleared (R450). -/
def KeepStore.erase (s : Nat) (k : KeepStore) : KeepStore :=
  { words := k.words.filter (fun p => p.1 / 1024 != s)
    bad := k.bad.filter (fun a => a / 1024 != s)
    pend := k.pend.filter (· != s) }

/-- R448: what the scan of a sector finds, record by record. -/
structure KsRec where
  type : Nat
  gen : Nat
  payload : List Word
  intact : Bool
deriving DecidableEq, Repr, Inhabited

/-- R447: the CHECK of the words of a record. -/
def ksCheck (ws : List Word) : Nat := ws.foldl (fun a w => (a + w.toNat) % 65536) 0

/-- R448: the scan of a sector from word `p`; the second part is where it ends. -/
def KeepStore.scan (k : KeepStore) (s : Nat) : Nat → Nat → List KsRec × Nat
  | 0, p => ([], p)
  | fuel + 1, p =>
    if p ≥ 1024 then ([], p)
    else
      let h := k.rd (s * 1024 + p)
      if h = erasedW || k.bad.contains (s * 1024 + p) then ([], p)
      else
        let len := bitsOf h 11 0
        if p + len + 1 ≥ 1024 then ([], 1024)
        else
          let ws := (List.range (len + 1)).map fun i => k.rd (s * 1024 + p + i)
          let c := k.rd (s * 1024 + p + len + 1)
          let bad := (List.range (len + 2)).any fun i => k.bad.contains (s * 1024 + p + i)
          let ok := bitsOf c 31 16 == 0x7E3C && bitsOf c 15 0 == ksCheck ws && !bad
          let (rs, e) := k.scan s fuel (p + len + 2)
          (⟨bitsOf h 31 24, bitsOf h 23 12, ws.drop 1, ok⟩ :: rs, e)

/-- R448, R450: the records of a sector; one marked ERASE_PEND scans as empty. -/
def KeepStore.sector (k : KeepStore) (s : Nat) : List KsRec × Nat :=
  if k.pend.contains s then ([], 1024) else k.scan s 512 0

/-- R445: the first sector of copy group `c` of the area of a type: factory below 0x10, else owner. -/
def copyBase (type c : Nat) : Nat := (if type < 0x10 then 0 else 12) + 4 * c

/-- R448: the records of a type in copy group `c`, in order. -/
def KeepStore.copyRecs (k : KeepStore) (type c : Nat) : List KsRec :=
  (List.range 4).flatMap fun i => (k.sector (copyBase type c + i)).1.filter (fun r => r.type == type)

/-- R448: the current record of a type in copy group `c`. -/
def KeepStore.copy (k : KeepStore) (type c : Nat) : Option KsRec :=
  ((k.copyRecs type c).filter (·.intact)).getLast?

/-- R449: the copy used and the OUTCOME. -/
structure KsChoice where
  outcome : Nat
  used : Option KsRec
  intact : Nat
deriving DecidableEq, Repr, Inhabited

/-- R449: two copies agree when GEN and payload are equal. -/
def ksAgree (a b : KsRec) : Bool := a.gen == b.gen && a.payload == b.payload

/-- R449. -/
def KeepStore.choose (k : KeepStore) (type : Nat) : KsChoice :=
  let cs := (List.range 3).map fun c => k.copy type c
  let ok := cs.filterMap id
  let mask := (List.range 3).foldl (fun m c => if (k.copy type c).isSome then m + 2 ^ c else m) 0
  let pair := ok.find? fun a => ok.countP (ksAgree a) ≥ 2
  let newest := ok.find? fun a => ok.countP (fun b => later 12 a.gen b.gen) + 1 == ok.length
  match ok with
  | [] =>
    if (List.range 3).any (fun c => !(k.copyRecs type c).isEmpty) then ⟨4, none, mask⟩ else ⟨5, none, mask⟩
  | [a] => ⟨3, some a, mask⟩
  | a :: _ =>
    if ok.length = 3 && ok.all (ksAgree a) then ⟨0, some a, mask⟩
    else match pair with
      | some p => ⟨1, some p, mask⟩
      | none => match newest with
        | some p => ⟨2, some p, mask⟩
        | none => ⟨4, none, mask⟩

/-- R449: outcomes 1 to 4 record a class 21 error and raise event 0xA20. -/
def Dev.ksReport (type : Nat) (c : KsChoice) (d : Dev) : Dev :=
  if 1 ≤ c.outcome && c.outcome ≤ 4 then
    let det := mkW [(10, 8, c.outcome), (7, 0, type)]
    (d.error 21 1 0 0 0xA20 det).event 0xA20 0 det
  else d

/-! ### Records written by the firmware -/

/-- R447: the words of a record. -/
def ksRecord (type gen : Nat) (pl : List Word) : List Word :=
  let ws := mkW [(31, 24, type), (23, 12, gen), (11, 0, pl.length)] :: pl
  ws ++ [mkW [(31, 16, 0x7E3C), (15, 0, ksCheck ws)]]

/-- Words programmed from an address on. -/
def KeepStore.wrs (a : Nat) (ws : List Word) (k : KeepStore) : KeepStore :=
  ws.zipIdx.foldl (fun k (w, i) => k.wr (a + i) w) k

/-- A record appended in the first of the sectors with room. -/
def KeepStore.append (secs : List Nat) (ws : List Word) (k : KeepStore) : KeepStore :=
  match secs.find? (fun s => (k.sector s).2 + ws.length ≤ 1024) with
  | some s => k.wrs (s * 1024 + (k.sector s).2) ws
  | none => k

/-- R448: a record of an owner type written into each owner copy group, one GEN later than the record in use. -/
def KeepStore.writeOwner (type : Nat) (pl : List Word) (k : KeepStore) : KeepStore :=
  let gen := ((k.choose type).used.map (fun r => (r.gen + 1) % 4096)).getD 0
  forN 3 (fun c k => k.append ((List.range 4).map (copyBase type c + ·)) (ksRecord type gen pl)) k

/-- The newest black-box record: its sector and GEN (R452). -/
def KeepStore.bbNewest (k : KeepStore) : Option (Nat × Nat) :=
  let lasts := (List.range 32).filterMap fun i =>
    (((k.sector (24 + i)).1.filter (fun r => r.type == 0x20)).getLast?).map fun r => (24 + i, r.gen)
  lasts.find? fun a => lasts.all fun b => b.1 == a.1 || !later 12 b.2 a.2

/-- The next sector of the ring. -/
def bbNext (s : Nat) : Nat := 24 + (s - 24 + 1) % 32

/-- R452: the next record finds no room in its sector and the one after it in use. -/
def KeepStore.bbErases (pl : List Word) (k : KeepStore) : Bool :=
  match k.bbNewest with
  | none => false
  | some (s, _) => decide ((k.sector s).2 + pl.length + 2 > 1024) && (k.sector (bbNext s)).2 != 0

/-- R452: one black-box record written into the next free space of sectors 24-55; a full ring first loses its oldest
sector. -/
def KeepStore.writeBb (pl : List Word) (k : KeepStore) : KeepStore :=
  match k.bbNewest with
  | none => k.append ((List.range 32).map (24 + ·)) (ksRecord 0x20 0 pl)
  | some (s, g) =>
    let ws := ksRecord 0x20 ((g + 1) % 4096) pl
    if (k.sector s).2 + ws.length ≤ 1024 then k.wrs (s * 1024 + (k.sector s).2) ws
    else
      let s' := bbNext s
      let k := if (k.sector s').2 = 0 then k else k.erase s'
      k.wrs (s' * 1024) ws

/-- Sectors that the writing of some records erases. -/
def KeepStore.bbEraseCount (k : KeepStore) : List (List Word) → Nat
  | [] => 0
  | pl :: pls => bit (k.bbErases pl) + (k.writeBb pl).bbEraseCount pls

/-- The two words of KS_PEND (R450). -/
def KeepStore.pendWord (k : KeepStore) (i : Nat) : Nat :=
  (List.range 32).foldl (fun v b => if k.pend.contains (i * 32 + b) then v + 2 ^ b else v) 0

/-- KS_PEND shows the marked sectors. -/
def Dev.ksPendShow (k : KeepStore) (d : Dev) : Dev :=
  (d.setF (F.ksPend_SECTORS 0) (k.pendWord 0)).setF (F.ksPend_SECTORS 1) (k.pendWord 1)

/-- `n` erases completed: KS_STAT counts them, their marks are gone. -/
def Dev.ksErased (n : Nat) (k : KeepStore) (d : Dev) : Dev :=
  if n = 0 then d else (d.inc F.ksStat_ERASES n).ksPendShow k

/-- The owed black-box records written, while the firmware runs and no keep-store operation does. -/
def flushBb (s : State) : State :=
  if s.dev.running && s.dev.err.ksOp.isNone then
    let k := each s.dev.bbOwed KeepStore.writeBb s.ks
    { s with ks := k, dev := { s.dev.ksErased (s.ks.bbEraseCount s.dev.bbOwed) k with bbOwed := [] } }
  else s

/-- A meaning that may leave black-box records to be written. -/
def liftBb (f : Dev → Dev) : State → R := gate fun s => flushBb { s with dev := f s.dev }

/-! ### The commands -/

/-- The keep store is occupied (R446, R453). -/
def Dev.ksBusy (d : Dev) : Bool := d.err.ksOp.isSome

/-- A keep-store operation begins: KS_STAT shows it. -/
def Dev.ksStart (op : KsOp) (code : Nat) (d : Dev) : Dev :=
  (({ d with err := { d.err with ksOp := some op, ksEdge := d.epo.edges + 1 } }).setF F.ksStat_BUSY 1).setF F.ksStat_OP code

/-- It ends. -/
def Dev.ksEnd (d : Dev) : Dev :=
  (({ d with err := { d.err with ksOp := none } }).setF F.ksStat_BUSY 0).setF F.ksStat_OP 0

/-- KS_READ, opcode 0xA10 (R444, R446). -/
def Dev.ksRead (n : Nat) (k : KeepStore) (d : Dev) : Dev :=
  let a := (d.arg n 1).toNat
  let c := (d.arg n 2).toNat
  if d.ksBusy then d.reply n stBUSY []
  else if a > 0xFFFF || c = 0 || c > 254 || a + c > 0x10000 then d.reply n stBAD_ARG []
  else
    let bad := (List.range c).any fun i => k.bad.contains (a + i)
    let d := if bad then d.error 21 1 0 0 0 0 else d
    d.reply n (if bad then stPOISONED else stOK) ((List.range c).map fun i => k.rd (a + i))

/-- KS_READ. -/
def execKsRead (n : Mbx) : State → R := liftRd fun _ k => Dev.takeCmd n 0xA10 (· == 2) (Dev.ksRead n k)

/-- The sector of a factory copy (R445). -/
def ksFactory (s : Nat) : Bool := s < 12

/-- KS_ERASE, opcode 0xA11 (R445, R446, R450): the sector is marked ERASE_PEND before the erase begins. -/
def Dev.ksErase (n : Nat) (d : Dev) : Dev :=
  let s := (d.arg n 1).toNat
  if d.ksBusy then d.reply n stBUSY []
  else if s > 63 then d.reply n stBAD_ARG []
  else if n = 14 || n = 15 || ksFactory s then d.reply n stLOCKED []
  else (d.ksStart (.erase n s) 1).hold n

/-- KS_ERASE. -/
def execKsErase (n : Mbx) : State → R := gate fun s =>
  let d := Dev.takeCmd n 0xA11 (· == 1) (Dev.ksErase n) s.dev
  match s.dev.err.ksOp, d.err.ksOp with
  | none, some (.erase _ sec) =>
    let new := !s.ks.pend.contains sec
    let ks := { s.ks with pend := if new then s.ks.pend ++ [sec] else s.ks.pend }
    { s with ks := ks, dev := { d with err := { d.err with ksNew := new } }.ksPendShow ks }
  | _, _ => { s with dev := d }

/-- KS_PROGRAM, opcode 0xA12 (R445, R446, R450). -/
def Dev.ksProgram (n : Nat) (k : KeepStore) (d : Dev) : Dev :=
  let a := (d.arg n 1).toNat
  let ws := (d.mb n).req.drop 2
  let s := a / 1024
  if d.ksBusy then d.reply n stBUSY []
  else if a > 0xFFFF || a % 1024 + ws.length > 1024 || ws.any (fun w => bitsOf w 35 32 ≠ 0) then d.reply n stBAD_ARG []
  else if n = 14 || n = 15 || ksFactory s then d.reply n stLOCKED []
  else if k.pend.contains s || (List.range ws.length).any (fun i => k.rd (a + i) != erasedW) then
    d.reply n stNOT_ERASED []
  else (d.ksStart (.program n a ws) 2).hold n

/-- KS_PROGRAM. -/
def execKsProgram (n : Mbx) : State → R :=
  liftRd fun _ k => Dev.takeCmd n 0xA12 (fun l => 2 ≤ l) (Dev.ksProgram n k)

/-- KS_RECORD, opcode 0xA13: the read begins. -/
def Dev.ksRecordStart (n : Nat) (d : Dev) : Dev :=
  let t := (d.arg n 1).toNat
  let f := (d.arg n 2).toNat
  if d.ksBusy then d.reply n stBUSY []
  else if t > 0xFF || t = 0x20 || t ≥ 0x80 || f > 1021 then d.reply n stBAD_ARG []
  else (d.ksStart (.record n t f) 3).hold n

/-- KS_RECORD. -/
def execKsRecord (n : Mbx) : State → R :=
  lift (Dev.takeCmd n 0xA13 (fun l => l == 1 || l == 2) (Dev.ksRecordStart n))

/-- KS_RECORD: its answer (R449). -/
def Dev.ksRecordAnswer (n t f : Nat) (k : KeepStore) (d : Dev) : Dev :=
  let c := k.choose t
  let d := d.ksReport t c
  let gen := (c.used.map (·.gen)).getD 0
  let pl := (c.used.map (·.payload)).getD []
  let hd := [mkW [(23, 21, c.outcome), (20, 18, c.intact), (11, 0, gen)], toW pl.length]
  if f > pl.length then d.finish n stBAD_ARG hd
  else d.finish n (if c.outcome = 4 then stCONFLICT else stOK) (hd ++ (pl.drop f).take 250)

/-- The operation in progress completes (R446, R450). -/
def ksFinish (s : State) : State :=
  match s.dev.err.ksOp with
  | some (.erase n sec) =>
    let k := s.ks.erase sec
    { s with ks := k, dev := (s.dev.ksEnd.ksErased 1 k).finish n stOK [] }
  | some (.program n a ws) => { s with ks := s.ks.wrs a ws, dev := s.dev.ksEnd.finish n stOK [] }
  | some (.record n t f) => { s with dev := s.dev.ksEnd.ksRecordAnswer n t f s.ks }
  | none => s

/-- KS_OPERATION_DONE: black-box records that waited for the operation follow it. -/
def execKsOperationDone : State → R := gate fun s => flushBb (ksFinish s)

/-- R451: a stop during a keep-store operation: the word in progress completes and the rest is abandoned (how many words
had been programmed is a free value), an erase stops with its sector still marked. -/
def ksInterrupt (s : State) : State :=
  match s.dev.err.ksOp with
  | some (.program _ a ws) =>
    let (k, d) := s.dev.fresh
    { s with ks := s.ks.wrs a (ws.take (1 + k % ws.length)), dev := d.ksEnd }
  | some _ => { s with dev := s.dev.ksEnd }
  | none => s

/-- R453: a thermal shutdown at the edge at which a keep-store command began: it returns BUSY and writes nothing. Else R451. -/
def ksShutdown (s : State) : State :=
  let e := s.dev.err
  if e.ksEdge = s.dev.epo.edges + 1 then
    match e.ksOp with
    | some (.erase n sec) =>
      let k := { s.ks with pend := if e.ksNew then s.ks.pend.filter (· != sec) else s.ks.pend }
      { s with ks := k, dev := (s.dev.ksEnd.ksPendShow k).finish n stBUSY [] }
    | some (.program n _ _) => { s with dev := s.dev.ksEnd.finish n stBUSY [] }
    | some (.record n _ _) => { s with dev := s.dev.ksEnd.finish n stBUSY [] }
    | none => s
  else ksInterrupt s

/-- R450: at ROM_INIT each marked sector shows in KS_PEND, and event 0xA21 names the lowest. -/
def Dev.ksShowPend (k : KeepStore) (d : Dev) : Dev :=
  let d := d.ksPendShow k
  match firstN 64 k.pend.contains with
  | some s => d.event 0xA21 0 (toW s)
  | none => d

end Sys2Proof.Machine
end

