-- ==== Sys2Proof/Machine/Flags.lean ====
section
/-! DEFINITION. The access types of R11, the reserved bits of R12, the block instances of R24 and the lock rule of R77 to
R81: what a write does to the fields of a register, and what a violation records. -/

namespace Sys2Proof.Machine

/-- A block of R24: base, stride, instances. -/
structure Block where
  base : Nat
  stride : Nat
  count : Nat
deriving DecidableEq, Repr

/-- The blocks of the register window (R24). -/
def blocks : List Block :=
  [⟨0x0, 0x1000, 1⟩, ⟨0x1000, 0x1000, 1⟩, ⟨0x2000, 0x2000, 1⟩, ⟨0x4000, 0x400, 4⟩, ⟨0x5000, 0x1000, 1⟩,
   ⟨0x6000, 0x1000, 1⟩, ⟨0x7000, 0x1000, 1⟩, ⟨0x8000, 0x1000, 1⟩, ⟨0x9000, 0x1000, 1⟩, ⟨0xA000, 0x1000, 1⟩,
   ⟨0xB000, 0x100, 16⟩, ⟨0xC000, 0x200, 16⟩, ⟨0xE000, 0x1000, 1⟩, ⟨0xF000, 0x1000, 1⟩, ⟨0x10000, 0x4000, 1⟩,
   ⟨0x14000, 0x400, 16⟩] ++
  [⟨0x18000, 0x2000, 1⟩, ⟨0x1A000, 0x800, 4⟩, ⟨0x1C000, 0x2000, 1⟩, ⟨0x1E000, 0x2000, 1⟩, ⟨0x20000, 0x800, 8⟩,
   ⟨0x24000, 0x4000, 1⟩, ⟨0x28000, 0x8000, 1⟩, ⟨0x30000, 0x800, 8⟩, ⟨0x40000, 0x1000, 64⟩, ⟨0x80000, 0x100, 1024⟩]

/-- The window offset of a register key: the HBM Twill keys lie at TOP 0x400, TOP_TWL_SEL at its offset (R392). -/
def offOfKey (k : Nat) : Nat :=
  if k < 0x800000 then k else if k < 0x900000 then 0x400 + k % 0x400 else 0x20

/-- The block instance that a window offset lies in: base of the instance and its index. -/
def instOf (off : Nat) : Option (Nat × Nat) :=
  blocks.findSome? fun b =>
    if b.base ≤ off ∧ off < b.base + b.stride * b.count then
      some (b.base + (off - b.base) / b.stride * b.stride, (off - b.base) / b.stride)
    else none

/-- R26, R24: the offset lies in the reserved, unbacked range (the MSI-X ranges are not in it). -/
def unbackedOff (off : Nat) : Bool := 0x0C0000 ≤ off && off < 0x7FE000

/-- The base of the block instance of a register key. -/
def lockBase (key : Nat) : Nat := ((instOf (offOfKey key)).map (·.1)).getD 0

/-- R78, R116: the LK fields of the register are locked: by its block instance, or EPO_ORIGIN by EVER_LOCKED. -/
def Dev.locked (d : Dev) (key : Nat) : Bool :=
  d.fb (F.blockLock_LOCK (lockBase key)) ||
    ((key == R.epoOriginLo || key == R.epoOriginHi) && d.fb F.epoStat_EVER_LOCKED)

/-- One field of a write: the new word so far and whether a violation was met (R11, R77, R78). -/
def writeField (locked : Bool) (old new : Word) (acc : Word × Bool) (f : FldRow) : Word × Bool :=
  let cur := bitsOf old f.hi f.lo
  let v := bitsOf new f.hi f.lo
  match f.acc with
  | .rw => (putBits acc.1 f.hi f.lo v, acc.2)
  | .ro => acc
  | .rc => acc
  | .wo => acc
  | .w1c => (putBits acc.1 f.hi f.lo (cur - (cur &&& v)), acc.2)
  | .w1 => if cur = f.reset then (putBits acc.1 f.hi f.lo v, acc.2) else (acc.1, acc.2 || v != cur)
  | .lk => if locked then (acc.1, acc.2 || v != cur) else (putBits acc.1 f.hi f.lo v, acc.2)

/-- A register's word after a write of `new`, and whether the write violates (R79). -/
def writeFields (locked : Bool) (fs : List FldRow) (old new : Word) : Word × Bool :=
  fs.foldl (writeField locked old new) (old, false)

/-- The fields of the register of a key: its table's, or those of BLOCK_LOCK; none at an unassigned offset (R26). -/
def fieldsOf (key : Nat) : List FldRow :=
  match lookupReg key with
  | some (r, _) => r.fields
  | none => if (instOf key).map (·.1 + 8) = some key then blockLockFields else []

/-- R79: a violating write recorded: LOCK_VIOL, VIOL_CNT, LAST_OFS and event 0x006. -/
def Dev.violation (p : Path) (key : Nat) (d : Dev) : Dev :=
  let off := offOfKey key
  let (base, i) := (instOf off).getD (0, 0)
  let d := ((d.setF (F.blockLock_LOCK_VIOL base) 1).inc (F.blockLock_VIOL_CNT base) 1).setF
    (F.blockLock_LAST_OFS base) (off - base)
  let d := { d with err := { d.err with violEdge := mset d.err.violEdge base (d.epo.edges + 1) } }
  d.event 0x006 i (mkW [(22, 0, off), (26, 24, pathCode p)])

/-- A write of a register by its fields' access types (R11, R79). -/
def Dev.writeByType (p : Path) (key : Nat) (w : Word) (d : Dev) : Dev :=
  let (w', viol) := writeFields (d.locked key) (fieldsOf key) (d.reg key) w
  let d := d.setReg key w'
  -- R80: a clear of LOCK_VIOL in the cycle of a violation leaves it set.
  let base := lockBase key
  let d := if offOfKey key = base + 8 && mget d.err.violEdge base == d.epo.edges + 1 then
      d.setF (F.blockLock_LOCK_VIOL base) 1
    else d
  if viol then d.violation p key else d

/-- The write would violate (R81). -/
def Dev.violates (d : Dev) (key : Nat) (w : Word) : Bool :=
  (writeFields (d.locked key) (fieldsOf key) (d.reg key) w).2

/-- R79: a write that another rule refuses as a whole is recorded as well where it would change a locked field. -/
def Dev.violationOnly (p : Path) (key : Nat) (w : Word) (d : Dev) : Dev := if d.violates key w then d.violation p key else d

/-- The word with its RC fields cleared (R11). -/
def clearRc (fs : List FldRow) (w : Word) : Word :=
  fs.foldl (fun w f => match f.acc with
    | .rc => putBits w f.hi f.lo 0
    | _ => w) w

/-- The word that a read of the fields gives: WO fields and reserved bits read zero (R11, R12). -/
def readMask (fs : List FldRow) (w : Word) : Word :=
  fs.foldl (fun a f => match f.acc with
    | .wo => a
    | _ => putBits a f.hi f.lo (bitsOf w f.hi f.lo)) 0

/-- REG_WRITE: the word that writes `value` where `mask` is 1 and leaves every other field as it is (W1C and WO fields
take 0 in unmasked bits). -/
def maskedWord (fs : List FldRow) (cur mask value : Word) : Word :=
  fs.foldl (fun a f =>
    let m := bitsOf mask f.hi f.lo
    let v := bitsOf value f.hi f.lo &&& m
    match f.acc with
    | .w1c => putBits a f.hi f.lo v
    | .wo => putBits a f.hi f.lo v
    | _ => putBits a f.hi f.lo (v ||| (bitsOf cur f.hi f.lo - (bitsOf cur f.hi f.lo &&& m)))) 0

/-- REG_WRITE: every field of the register is WO and none of its bits is masked in, so that no action fires. -/
def woUntouched (fs : List FldRow) (mask : Word) : Bool :=
  fs.all fun f => match f.acc with
    | .wo => bitsOf mask f.hi f.lo == 0
    | _ => false

end Sys2Proof.Machine
end

