-- ==== Sys2Proof/Machine/Queue.lean ====
section
/-! DEFINITION. Cluster-store queues (R84 to R111): placement, word and packet mode, parity, drop-remainder,
configuration, Tweed order. One command is one completed access, so the bank waits of R93 and R94 do not show
(assumption 13). -/

namespace Sys2Proof.Machine

/-- The pointer state of queue `q` of cluster `c`. -/
def Dev.qu (d : Dev) (c q : Nat) : Queue := mget d.queues (c * 128 + q)

/-- The pointer state changed. -/
def Dev.modQ (c q : Nat) (f : Queue → Queue) (d : Dev) : Dev := { d with queues := mmod d.queues (c * 128 + q) f }

/-- D of R92. -/
def Dev.qDepth (d : Dev) (c q : Nat) : Nat := 2 ^ d.f (F.cluQcfg_DEPTH c q)

/-- R92, R21: the local address of ring index `k`. -/
def Dev.qAddr (d : Dev) (c q k : Nat) : Nat :=
  let dep := d.f (F.cluQcfg_DEPTH c q)
  let base := d.f (F.cluQcfg_BASE c q)
  0x300400000 + 0x10000 * c + 0x8000 * (k % 2) + (base - base % 2 ^ (dep - 1)) + k / 2

/-- Packet mode (R97). -/
def Dev.qPkt (d : Dev) (c q : Nat) : Bool := d.fb (F.cluQcfg_MODE c q)

/-- Tweed order in force: ORDER in word mode (R109). -/
def Dev.qTweed (d : Dev) (c q : Nat) : Bool := d.fb (F.cluQcfg_ORDER c q) && !d.qPkt c q

/-- Words present. -/
def Dev.qCount (d : Dev) (c q : Nat) : Nat :=
  if d.qTweed c q then (List.range 8).foldl (fun a p => a + mget (d.qu c q).lvCnt p) 0 else (d.qu c q).ents.length

/-- R101: packets whose TAIL is present and whose HEAD is unread. -/
def Queue.pkts (u : Queue) : Nat :=
  u.ents.countP (fun e => e.kind == 2) - (if u.rdIn && u.abort.isNone && u.ents.any (fun e => e.kind == 2) then 1 else 0)

/-! ### Counters and their events (R108) -/

/-- Words lost (R96, R100, R111): LOST_WORDS and event 0x110. -/
def Dev.qLost (c q n : Nat) (d : Dev) : Dev :=
  if n = 0 then d else d.incEv (F.cluQlost_LOST_WORDS c q) n 0x110 c (fun v => mkW [(30, 7, v), (6, 0, q)])

/-- A malformed word or packet (R85, R97): MALFORMED, MALF_CNT and event 0x112. -/
def Dev.qMalf (c q : Nat) (d : Dev) : Dev :=
  (d.setF (F.cluQstat_MALFORMED c q) 1).incEv (F.cluQerrcnt_MALF_CNT c q) 1 0x112 c (fun _ => mkW [(6, 0, q)])

/-- R102: the word read at an address, POISON with bits 31:0 as stored when a half fails parity, and what the failure
records. -/
def Dev.qParRead (c q a : Nat) (d : Dev) : Word × Dev :=
  let w := d.rd a
  let bad := mget d.parBad a
  if bad = 0 then (w, d)
  else
    let det := mkW [(7, 7, bad / 2), (6, 0, q)]
    let d := (d.setF (F.cluQstat_PAR_ERR c q) 1).inc (F.cluQerrcnt_PAR_CNT c q) 1
    (putBits w 35 32 2, (d.event 0x111 c det).error 1 1 c 0 0x111 det)

/-- R424, class 4: uncorrectable pointer state met: the queue is disabled and enabled again, its words are lost. -/
def Dev.qCheck (c q : Nat) (d : Dev) : Dev :=
  if (d.qu c q).badPtr && d.fb (F.cluQcfg_EN c q) then
    ((d.qLost c q (d.qCount c q)).modQ c q fun _ => default).error 4 2 c 0 0 0
  else d

/-! ### Push -/

/-- A word stored at the write position of a FIFO ring. -/
def Dev.qStore (c q : Nat) (w : Word) (e : QEnt) (d : Dev) : Dev :=
  let u := d.qu c q
  let d := d.store (d.qAddr c q ((u.rd + u.ents.length) % d.qDepth c q)) w
  d.modQ c q (fun u => { u with ents := u.ents ++ [e] })

/-- The oldest `n` words taken off a FIFO ring. -/
def Dev.qAdvance (c q n : Nat) (d : Dev) : Dev :=
  let dep := d.qDepth c q
  d.modQ c q (fun u => { u with rd := (u.rd + n) % dep, ents := u.ents.drop n })

/-- Words from the read position through the end of the oldest packet, and whether that end is present. -/
def Queue.firstPkt (u : Queue) : Nat × Bool :=
  match u.ents.findIdx? (fun e => e.kind == 2) with
  | some i => (i + 1, true)
  | none => (u.ents.length, false)

/-- R100: the oldest whole packet discarded from a full queue. The argument of the ABORT is the number of words discarded
here: later words of the packet, discarded on arrival, do not add to it (assumption 133). -/
def Dev.qDiscardPkt (c q : Nat) (d : Dev) : Dev :=
  let u := d.qu c q
  let (n, ended) := u.firstPkt
  let d := d.qAdvance c q n
  let d := d.modQ c q (fun v => { v with
    abort := if u.rdIn && u.abort.isNone then some n else u.abort
    discArr := if ended then v.discArr else true })
  (d.qLost c q n).inc (F.cluQlost_LOST_PKTS c q) 1

/-- A word of packet mode stored, the oldest packet discarded first when D words are present; a word of the packet so
discarded is itself discarded and counted (R100, assumption 14). -/
def Dev.qStorePkt (c q : Nat) (w : Word) (e : QEnt) (d : Dev) : Dev :=
  if (d.qu c q).ents.length ≥ d.qDepth c q then
    let d := d.qDiscardPkt c q
    if (d.qu c q).discArr && e.kind != 1 then
      let d := d.qLost c q 1
      if e.kind = 2 then d.modQ c q (fun u => { u with discArr := false, wrOpen := false }) else d
    else (d.modQ c q (fun u => { u with discArr := false })).qStore c q w e
  else d.qStore c q w e

/-- A HEAD that begins a packet. -/
def Dev.qHead (c q : Nat) (w : Word) (ep : Option Nat) (d : Dev) : Dev :=
  (d.qStorePkt c q w { kind := 1, ep := ep }).modQ c q (fun u => { u with wrOpen := true })

/-- A word pushed in packet mode (R97, R100, R104). -/
def Dev.qPushPkt (c q : Nat) (w : Word) (ep : Option Nat) (d : Dev) : Dev :=
  let u := d.qu c q
  let t := tagOf w
  if u.dropping || u.discArr then
    if t = 3 then
      ((d.modQ c q (fun u => { u with dropping := false, discArr := false })).qMalf c q).qHead c q w ep
    else
      let d := if u.dropping then d.inc (F.cluQerrcnt_DROP_CNT c q) 1 else d.qLost c q 1
      if t = 4 then d.modQ c q (fun u => { u with dropping := false, discArr := false, wrOpen := false }) else d
  else if u.wrOpen then
    if t = 3 then
      ((d.qStorePkt c q (tagged 15 0x01000000) { kind := 2, ep := none }).qMalf c q).qHead c q w ep
    else if t = 4 then (d.qStorePkt c q w { kind := 2, ep := none }).modQ c q (fun u => { u with wrOpen := false })
    else d.qStorePkt c q w { kind := 0, ep := none }
  else if t = 3 then d.qHead c q w ep
  else d.qMalf c q

/-- An item pushed at level `p` of a Tweed-order queue (R109, R111). -/
def Dev.qPushLevel (c q p : Nat) (w : Word) (d : Dev) : Dev :=
  let lv := d.qDepth c q / 8
  let full := mget (d.qu c q).lvCnt p ≥ lv
  let d := if full then
      (d.modQ c q (fun u => { u with
        lvRd := mset u.lvRd p ((mget u.lvRd p + 1) % lv), lvCnt := mset u.lvCnt p (mget u.lvCnt p - 1) })).qLost c q 1
    else d
  let u := d.qu c q
  let d := d.store (d.qAddr c q (p * lv + (mget u.lvRd p + mget u.lvCnt p) % lv)) w
  d.modQ c q (fun u => { u with lvCnt := mset u.lvCnt p (mget u.lvCnt p + 1) })

/-! ### Drop-remainder (R104, R105) -/

/-- R104: a drop-remainder of an enabled queue: whether DROPPING was set, the words discarded, the state after. The level
rings of a Tweed-order queue start again at index 0, and a FIFO ring goes on behind the words dropped (assumption 131). -/
def Dev.qDropNow (c q : Nat) (d : Dev) : Bool × Nat × Dev :=
  let u := d.qu c q
  let count := fun n (d : Dev) => d.inc (F.cluQerrcnt_DROP_CNT c q) n
  if !d.qPkt c q then
    let n := d.qCount c q
    (false, n, count n (d.modQ c q (fun u => { u with
      rd := (u.rd + u.ents.length) % d.qDepth c q, ents := [], lvRd := [], lvCnt := [] })))
  else if u.abort.isSome || !u.rdIn then (false, 0, d)
  else
    let (n, ended) := u.firstPkt
    let d := count n (d.qAdvance c q n)
    (!ended, n, d.modQ c q (fun u => { u with rdIn := false, dropping := !ended }))

/-- What a drop-remainder of a full ring leaves for a write of its own edge (R105): `old` is the state before it. -/
def Dev.qNoteDrop (c q : Nat) (d old : Dev) : Dev :=
  let u := old.qu c q
  if u.ents.length < old.qDepth c q || u = d.qu c q then d
  else
    let t : DropTie := { edge := d.epo.edges + 1, before := u, after := d.qu c q, cnt := old.f (F.cluQerrcnt_DROP_CNT c q) }
    { d with qTie := mset d.qTie (c * 128 + q) t }

/-- R104: a drop-remainder. -/
def Dev.qDropRem (c q : Nat) (d : Dev) : Bool × Nat × Dev :=
  let d := d.qCheck c q
  if !d.fb (F.cluQcfg_EN c q) then (false, 0, d)
  else
    let (s, n, d') := d.qDropNow c q
    (s, n, d'.qNoteDrop c q d)

/-- A word that would be stored in the queue as it stands (R97, R100, R104). -/
def Queue.takes (u : Queue) (pkt : Bool) (w : Word) : Bool :=
  !pkt || tagOf w == 3 || (u.wrOpen && !u.dropping && !u.discArr)

/-- The response word of a drop-remainder: whether DROPPING was set, and the words discarded. -/
def dropWord (s : Bool) (k : Nat) : Word := mkW [(35, 35, bit s), (23, 0, Nat.min k 0xFFFFFF)]

/-- R105: a write in the cycle of a drop-remainder that found the queue full. The full-queue discard comes before the
drop-remainder, which is done again on what it leaves, its response with it; the write follows (assumption 132). -/
def Dev.qTied (c q : Nat) (w : Word) (d : Dev) : Dev :=
  let t := mget d.qTie (c * 128 + q)
  if t.edge ≠ d.epo.edges + 1 || d.qu c q ≠ t.after || !t.before.takes (d.qPkt c q) w then d
  else
    let d := (d.modQ c q fun _ => t.before).setF (F.cluQerrcnt_DROP_CNT c q) t.cnt
    let d := if d.qPkt c q then d.qDiscardPkt c q else (d.qAdvance c q 1).qLost c q 1
    let (s, k, d) := d.qDropNow c q
    match t.rsp with
    | some (n, old) => d.amendRsp n old [nth old 0, dropWord s k]
    | none => d

/-- A word stored in a queue of word mode in FIFO order; the oldest is discarded first from a full one (R96, R105). -/
def Dev.qPushFifo (c q : Nat) (w : Word) (e : QEnt) (d : Dev) : Dev :=
  let d := (d.qCheck c q).qTied c q w
  (if (d.qu c q).ents.length ≥ d.qDepth c q then (d.qAdvance c q 1).qLost c q 1 else d).qStore c q w e

/-- A word pushed into a queue: level `p` in Tweed order; `ep` is the exact epoch beside a HEAD (R85, R95 to R97, R106,
R109, R239). -/
def Dev.qPush (c q p : Nat) (w : Word) (ep : Option Nat) (d : Dev) : Dev :=
  let d := d.qCheck c q
  if !d.fb (F.cluQcfg_EN c q) then d
  else if tagOf w = 1 then d.qMalf c q
  else if d.qTweed c q then d.qPushLevel c q p w
  else if d.qPkt c q then (d.qTied c q w).qPushPkt c q w ep
  else d.qPushFifo c q w { kind := 0, ep := ep }

/-! ### Pop -/

/-- R98: the HEAD at the read position may be popped. -/
def Dev.qHeadReady (d : Dev) (c q : Nat) : Bool :=
  let (n, ended) := (d.qu c q).firstPkt
  let cut := d.f (F.cluQcfg_CUT c q)
  n > 0 && (ended || (cut != 0x1FFF && n - 1 ≥ cut))

/-- The oldest word popped off a FIFO ring, with what its pointer state records. -/
def Dev.qTake (c q : Nat) (d : Dev) : Word × QEnt × Dev :=
  let u := d.qu c q
  let (w, d) := d.qParRead c q (d.qAddr c q u.rd)
  (w, u.ents.headD default, d.qAdvance c q 1)

/-- A pop of a Tweed-order queue: the oldest item of the highest non-empty level, QTPRI loaded (R110). -/
def Dev.qPopLevel (c q : Nat) (d : Dev) : Word × Dev :=
  let u := d.qu c q
  let lv := d.qDepth c q / 8
  match [7, 6, 5, 4, 3, 2, 1, 0].find? (fun p => mget u.lvCnt p > 0) with
  | some p =>
    let (w, d) := d.qParRead c q (d.qAddr c q (p * lv + mget u.lvRd p))
    let d := d.modQ c q (fun u => { u with
      lvRd := mset u.lvRd p ((mget u.lvRd p + 1) % lv), lvCnt := mset u.lvCnt p (mget u.lvCnt p - 1) })
    (w, (d.setF (F.cluQtpri_VALID c q) 1).setF (F.cluQtpri_PRI c q) p)
  | none => (idleW, d.setF (F.cluQtpri_VALID c q) 0)

/-- A pop: the word, what the pointer state records of it (none for IDLE and ABORT), the state after (R95, R98 to R100,
R102, R110). -/
def Dev.qPop (c q : Nat) (d : Dev) : Word × Option QEnt × Dev :=
  let d := d.qCheck c q
  let u := d.qu c q
  if !d.fb (F.cluQcfg_EN c q) then
    -- R106, R110: a disabled Tweed-order queue is empty at every level.
    (idleW, none, if d.qTweed c q then d.setF (F.cluQtpri_VALID c q) 0 else d)
  else if d.qTweed c q then
    let (w, d) := d.qPopLevel c q
    (w, none, d)
  else if d.qPkt c q then
    match u.abort with
    | some n =>
      (tagged 15 (0x01000000 + Nat.min n 0xFFFFFF), none, d.modQ c q (fun u => { u with abort := none, rdIn := false }))
    | none =>
      if u.ents.isEmpty || (!u.rdIn && !d.qHeadReady c q) then (idleW, none, d)
      else
        let (w, e, d) := d.qTake c q
        (w, some e, d.modQ c q (fun u => { u with rdIn := if e.kind = 2 then false else true }))
  else if u.ents.isEmpty then (idleW, none, d)
  else
    let (w, e, d) := d.qTake c q
    (w, some e, d)

/-- The word `i` places behind the read position, read without popping (R209): IDLE where there is none. -/
def Dev.qPeek (c q i : Nat) (d : Dev) : Word × Dev :=
  let d := d.qCheck c q
  let u := d.qu c q
  if i < u.ents.length then d.qParRead c q (d.qAddr c q ((u.rd + i) % d.qDepth c q)) else (idleW, d)

/-! ### Configuration -/

/-- R106, R107 and the lock rule: a write of QCFG. -/
def Dev.qcfgWrite (p : Path) (c q : Nat) (w : Word) (d : Dev) : Dev :=
  let key := R.cluQcfg c q
  let cur := d.reg key
  let en := bitOf cur 35
  let dep := bitsOf w 32 28
  let change := bitsOf w 34 13 ≠ bitsOf cur 34 13
  let rej := (en && decide change) || dep < 4 || dep > 15 || (bitOf w 33 && dep < 7)
  let viol := d.violates key w
  let w' := if rej then putBits w 34 13 (bitsOf cur 34 13) else w
  let d := d.setReg key (writeFields (d.locked key) (fieldsOf key) cur w').1
  let d := if en ≠ bitOf w 35 then d.modQ c q (fun _ => default) else d
  let d := if viol then d.violation p key else d
  if rej then (d.setF (F.cluQstat_CFG_REJ c q) 1).event 0x113 c (mkW [(6, 0, q)]) else d

/-! ### The commands -/

/-- QPUSH (R85, R95 to R97, R100, R109). -/
def execQpush (_ : Path) (c : Fin 64) (q : Fin 128) (w : Word) : State → R := lift (Dev.qPush c q 0 w none)

/-- QTPUSH (R109, R111); in FIFO order it acts as QPUSH. -/
def execQtpush (_ : Path) (c : Fin 64) (q : Fin 128) (p : Fin 8) (w : Word) : State → R :=
  lift (Dev.qPush c q p w none)

/-- QPOP (R95, R98 to R103, R110). -/
def execQpop (p : Path) (c : Fin 64) (q : Fin 128) : State → R :=
  lift fun d => let (w, _, d) := d.qPop c q; d.emit (.readData p (R.cluQpop c q) w)

/-- QDROP (R104, R105). -/
def execQdrop (_ : Path) (c : Fin 64) (w : Word) : State → R := lift fun d => (d.qDropRem c (bitsOf w 6 0)).2.2

/-- QCFG_WRITE (R106, R107). -/
def execQcfgWrite (p : Path) (c : Fin 64) (q : Fin 128) (w : Word) : State → R := lift (Dev.qcfgWrite p c q w)

/-- QUEUE_DROP_REM, opcode 0x110 (R104). -/
def Dev.queueDropRem (n : Nat) (d : Dev) : Dev :=
  let a := d.arg n 1
  let c := bitsOf a 12 7
  let q := bitsOf a 6 0
  if bitsOf a 35 13 ≠ 0 || !d.fb (F.cluQcfg_EN c q) then d.reply n stBAD_ARG []
  else
    let (s, k, d) := d.qDropRem c q
    let w := dropWord s k
    let d := if k = 0 || (mget d.qTie (c * 128 + q)).edge ≠ d.epo.edges + 1 then d
      else { d with qTie := mmod d.qTie (c * 128 + q) fun t => { t with rsp := some (n, d.rspWords n stOK [w]) } }
    d.reply n stOK [w]

/-- QUEUE_DROP_REM. -/
def execQueueDropRem (n : Mbx) : State → R := lift (Dev.takeCmd n 0x110 (· == 1) (Dev.queueDropRem n))

end Sys2Proof.Machine
end

