-- ==== Sys2Proof/Machine/Egress.lean ====
section
/-! DEFINITION. Egresses: host stream queues, the backlog reserve and its chains, and the host link (R34, R310, R411 to
R416, R436 to R443). -/

namespace Sys2Proof.Machine

/-! ### Counters of the route memory (R339, R340) -/

/-- Packets or words counted in a field of RTE_CNT, with event 0x713 when it leaves zero: 1 DISCARD, 2 LOOP, 3 CLIP. -/
def Dev.rteCount (fl : Fld) (n reason : Nat) (d : Dev) : Dev :=
  if n = 0 then d else d.incEv fl n 0x713 0 (fun _ => toW reason)

/-- Packets discarded and counted. -/
def Dev.rteDiscard (n : Nat) (d : Dev) : Dev := d.rteCount F.rteCnt_DISCARD n 1

/-! ### Configuration space (R411) -/

/-- The capabilities of the endpoint: PCI Express, Power Management, MSI-X, and the extended ones Advanced Error Reporting,
Device Serial Number, Secondary PCI Express, Physical Layer 16.0 and 32.0 GT/s, Lane Margining, Data Link Feature. -/
def pciCaps : List Nat × List Nat := ([0x10, 0x01, 0x11], [0x01, 0x03, 0x19, 0x26, 0x2A, 0x27, 0x25])

/-- The Device Serial Number. -/
def Dev.pciDsn (d : Dev) : Nat := d.serial % 2 ^ 64

/-- An Unsupported Request: its status bit of Advanced Error Reporting, and a class 18 error (R411, R424; assumption 184). -/
def Dev.hostUr (d : Dev) : Dev :=
  (({ d with pci := { d.pci with aerUncor := setNbit d.pci.aerUncor 20 true } }).error 18 1 0 0 0 0).emit (.hostData true [])

/-! ### Host queues (R34, R414, R415) -/

/-- A host queue. -/
def Dev.hq (d : Dev) (q : Nat) : HostQ := mget d.pci.hq q

/-- A host queue changed. -/
def Dev.modHq (q : Nat) (f : HostQ → HostQ) (d : Dev) : Dev := { d with pci := { d.pci with hq := mmod d.pci.hq q f } }

/-- LOG2SZ in effect. -/
def Dev.hqLog (d : Dev) (q : Nat) : Nat :=
  let l := d.f (F.pciHqCfg_LOG2SZ q)
  if 4 ≤ l && l ≤ 16 then l else 16

/-- R423: the RD that a group of the present edge is tested against: the one before a write of this edge. -/
def Dev.hqRd (d : Dev) (q : Nat) : Nat :=
  let w := (d.hq q).rdWas
  if w.1 = d.epo.edges + 1 then w.2 else d.f (F.pciHqPtr_RD q)

/-- R414: the ring is full. -/
def Dev.ringFull (d : Dev) (q : Nat) : Bool :=
  (d.f (F.pciHqPtr_WR q) + 2 ^ 17 - d.hqRd q) % 2 ^ 17 == 2 ^ d.hqLog q

/-- R416: host queues are stalled by the state of the link or the function. -/
def Dev.hostStalled (d : Dev) : Bool := d.pci.stalled || d.pci.flr || d.fb F.pciStat_D3HOT

/-- The ring, or the pull buffer, takes no word now. -/
def Dev.hqFull (d : Dev) (q : Nat) : Bool :=
  if (d.hq q).push then d.ringFull q else (d.hq q).pull.length ≥ 1024

/-- A ring group of 16 words written into host memory (R414, R310). -/
def Dev.hqWrite (q : Nat) (ws : List Word) (d : Dev) : Dev :=
  let wr := d.f (F.pciHqPtr_WR q)
  let base := d.f (F.pciHqAddrHi_ADDR q) * 2 ^ 36 + d.f (F.pciHqAddrLo_ADDR q)
  let d := (d.emit (.hostWrite (base + wr % 2 ^ d.hqLog q * 72) ws)).setF (F.pciHqPtr_WR q) (wr + 1)
  if d.fb (F.pciHqCfg_IRQ_EN q) then d.sendMsix (d.f (F.pciHqCfg_VEC q)) else d

/-- One whole group written, when there is one and room for it. -/
def Dev.hqPumpOne (q : Nat) (d : Dev) : Dev :=
  let x := d.hq q
  if x.grp.length < 16 || d.ringFull q || d.hostStalled || x.hold then d
  else (d.modHq q fun x => { x with grp := x.grp.drop 16 }).hqWrite q (x.grp.take 16)

/-- Every whole group that has room is written. -/
def Dev.hqPump (q : Nat) (d : Dev) : Dev := forN ((d.hq q).grp.length / 16) (fun _ d => d.hqPumpOne q) d

/-- R423: a write of PTR.RD: groups go by it from the next edge on. -/
def Dev.hqPtrWrite (p : Path) (q : Nat) (w : Word) (d : Dev) : Dev :=
  let rd := d.hqRd q
  (d.writeByType p (R.pciHqPtr q) w).modHq q fun x => { x with rdWas := (d.epo.edges + 1, rd) }

/-- The groups that waited for a write of PTR.RD at the edge that ends. -/
def Dev.hqEdge (d : Dev) : Dev :=
  each ((d.pci.hq.filter fun x => x.2.rdWas.1 == d.epo.edges).map (·.1)) Dev.hqPump d

/-- The stall of R416 has ended: a queue with a chain and EN = 0 after a reset of the function stays stalled; whole groups
that came in the meantime are written. -/
def Dev.hostResume (d : Dev) : Dev :=
  if d.hostStalled then d
  else
    let held := d.err.chains.filter fun x => d.pci.reset && x.1 < 256 && !x.2.pkts.isEmpty && !d.fb (F.pciHqCfg_EN x.1)
    let d := each (held.map (·.1)) (fun q d => d.modHq q fun x => { x with hold := true })
      { d with pci := { d.pci with reset := false } }
    each (d.pci.hq.map (·.1)) Dev.hqPump d

/-- R415: a changed PUSH takes effect at a packet boundary, or, with a full pull buffer that nobody may read any more, at
once: the rest of the packet follows its held words into the ring. -/
def Dev.hqBoundary (q : Nat) (d : Dev) : Dev :=
  let x := d.hq q
  let p := d.fb (F.pciHqCfg_PUSH q)
  if (x.inPkt && !(p && decide (x.pull.length ≥ 1024))) || x.push == p then d
  else if p then (d.modHq q fun x => { x with push := true, grp := x.grp ++ x.pull, pull := [] }).hqPump q
  else d.modHq q fun x => { x with push := false, pull := x.grp ++ x.pull, grp := [] }

/-- A word enters the host queue; `last`: it ends a packet. -/
def Dev.hqPut (q : Nat) (w : Word) (last : Bool) (d : Dev) : Dev :=
  let d := d.modHq q fun x => if x.push then { x with grp := x.grp ++ [w], inPkt := !last }
    else { x with pull := x.pull ++ [w], inPkt := !last }
  (if (d.hq q).push then d.hqPump q else d).hqBoundary q

/-- Packets of which words stand in a list of held words. -/
def pktsIn : Bool → List Word → Nat
  | _, [] => 0
  | inP, w :: ws =>
    let t := tagOf w
    if t = 3 then 1 + pktsIn true ws
    else if t = 4 then (if inP then 0 else 1) + pktsIn false ws
    else if t = 15 && bitsOf w 31 24 = 0 then pktsIn inP ws
    else (if inP then 0 else 1) + pktsIn true ws

/-- FLUSH_TIMEOUT (R414): a partial group padded with ESCAPE NOP words and written, unless the queue is stalled. -/
def Dev.flushTimeout (q : Nat) (d : Dev) : Dev :=
  let x := d.hq q
  if !x.push || x.grp.isEmpty || x.grp.length ≥ 16 || d.ringFull q || d.hostStalled || x.hold then d
  else (d.modHq q fun x => { x with grp := [] }).hqWrite q
    (x.grp ++ List.replicate (16 - x.grp.length) (tagged 15 0))

/-- FLUSH_TIMEOUT. -/
def execFlushTimeout (q : Fin 256) : State → R := lift (Dev.flushTimeout q)

/-- A word popped from the pull buffer; IDLE when it is empty. -/
def Dev.hqPop (q : Nat) (d : Dev) : Word × Dev :=
  match (d.hq q).pull with
  | w :: ws => (w, d.modHq q fun x => { x with pull := ws })
  | [] => (idleW, d)

/-- BAR4_READ (R34, R415): whole groups popped in order, packed. A read beyond the aperture's rules is an Unsupported
Request. -/
def Dev.bar4Read (q off len : Nat) (d : Dev) : Dev :=
  if off % 72 ≠ 0 || len % 72 ≠ 0 then (d.inc F.pciBarErr_ALIGN_CNT 1).hostUr
  else
    let closed := d.fb (F.pciHqCfg_PUSH q) || !d.fb (F.pciHqCfg_EN q)
    let (ws, d) := (List.range (len / 72 * 16)).foldl (fun (ws, d) _ =>
      if closed then (ws ++ [idleW], d) else let (w, d) := d.hqPop q; (ws ++ [w], d)) (([] : List Word), d)
    d.emit (.hostData false (packBytes ws))

/-- BAR4_READ. -/
def execBar4Read (q : Fin 256) (off : BitVec 22) (len : Fin 4097) : State → R := lift (Dev.bar4Read q off.toNat len)

/-- BAR4_WRITE (R34): an Unsupported Request. -/
def execBar4Write (_ : Fin 256) (_ : BitVec 22) : State → R :=
  lift fun d => (d.inc F.pciBarErr_ALIGN_CNT 1).hostUr

/-! ### Stalls (R437) -/

/-- Words in the outbound posted buffer of a Fiuth port (R335). -/
def Dev.postedFill (d : Dev) (p : Nat) : Nat := (d.fp p).pFill

/-- Posted writes wait for room at a Fiuth port. -/
def Dev.postedWaits (d : Dev) (p : Nat) : Bool := (d.fp p).outer.any Own.isPosted

/-- What an egress waits for is missing: PKT credit for what waits, or room in the posted buffer. -/
def Dev.egWaits (d : Dev) (e : Nat) : Bool :=
  if 256 ≤ e && e < 264 then
    let x := d.port (e - 256)
    mget x.credit 5 == 0 || (x.txq.find? fun m => m.cls == 5).any fun m => !x.canSend m
  else if 264 ≤ e && e < 268 then d.postedFill (e - 264) ≥ 1024 || d.postedWaits (e - 264)
  else false

/-- R437: the egress is stalled. -/
def Dev.egStalled (d : Dev) (e : Nat) : Bool :=
  if e < 256 then d.hostStalled || (d.hq e).hold || d.hqFull e
  else if e < 264 then !d.portUp (e - 256) || (d.port (e - 256)).recovering || ((d.chain e).stalled && d.egWaits e)
  else if e < 268 then
    !(d.fpState (e - 264) == 2 || d.fpState (e - 264) == 4) || ((d.chain e).stalled && d.egWaits e)
  else true

/-- The wait of an egress has ended: credit was granted, or room made; another must last WAIT ns anew. -/
def Dev.egFlow (e : Nat) (d : Dev) : Dev :=
  if (d.chain e).stalled && !d.egWaits e then d.modChain e fun c => { c with stalled := false } else d

/-- The segments of stream packets of this package gathered packet by packet: whether it is the rest of one, its HEAD, its
destination, its words (R438). -/
def gatherSegs : List Msg → List (Bool × Word × Bool × Nat × List Word)
  | [] => []
  | m :: ms =>
    let h1 := nth m.ws 1
    let (hd, srt) := m.head.getD (0, false)
    let one := (!bitOf h1 17, hd, srt, bitsOf (nth m.ws 0) 23 8, m.ws.drop 3)
    if bitOf h1 16 then one :: gatherSegs ms
    else match gatherSegs ms with
      | (true, _, _, _, ws) :: rest => (one.1, hd, srt, one.2.2.2.1, m.ws.drop 3 ++ ws) :: rest
      | rest => one :: rest

/-- R438: what waits on a Lysith port of the packets of this package goes to the chain. -/
def Dev.spillLys (n : Nat) (d : Dev) : Dev :=
  let q := (d.port n).txq
  let d := d.modPort n fun x => { x with txq := q.filter fun m => m.head.isNone }
  each (gatherSegs (q.filter fun m => m.head.isSome)) (fun (cont, hd, srt, dest, ws) d =>
    d.bklAppend (256 + n) { BklPkt.mk0 hd dest with src := d.pkgId, srt := srt, cont := cont } ws) d

/-! ### Write runs on Fiuth (R315, R326) -/

/-- Words of a cycle that begins at a Fiuth address with `left` words of the run to come. -/
def cycleLen (block : Bool) (addr left : Nat) : Nat :=
  if block then Nat.min left (Nat.min 64 (256 - addr % 256)) else Nat.min left 1

/-- R326: a run from an address cut into cycles: word offset and length of each. -/
def cutRun (block : Bool) (addr : Nat) : Nat → Nat → Nat → List (Nat × Nat)
  | 0, _, _ => []
  | fuel + 1, ofs, left =>
    if left = 0 then []
    else
      let n := cycleLen block (addr + ofs) left
      (ofs, n) :: cutRun block addr fuel (ofs + n) (left - n)

/-- The Fiuth address of an offset of an outbound window. -/
def Dev.owinAddr (d : Dev) (w ofs : Nat) : Nat := d.f (F.brgOwinBase_BASE w) + ofs

/-- The command of a cycle of a run. -/
def runCmd (write : Bool) (n : Nat) : Nat := if write then (if n = 1 then 2 else 4) else (if n = 1 then 1 else 3)

/-- The destination of a chained packet that leaves by Fiuth: window and offset in one number. -/
def fiuDest (w ofs : Nat) : Nat := w * 2 ^ 26 + ofs

/-- Cycles of run `run` that write words from offset `ofs` of window `w`: the words beyond LIMIT are discarded and counted,
and the posted-error log records them (R315, R339). -/
def Dev.fiuCycles (w ofs run : Nat) (head : Word) (ws : List Word) (d : Dev) : Dev :=
  let p := d.f (F.brgOwinCfg_PORT w)
  let lim := d.f (F.brgOwinCfg_LIMIT w)
  let fit := Nat.min ws.length (lim + 1 - ofs)
  let clip := ws.length - fit
  let width := d.f (F.brgOwinCfg_WIDTH w)
  let base := d.owinAddr w ofs
  let d := each (cutRun (d.fb (F.brgOwinCfg_BLOCK w)) base fit 0 fit) (fun (o, n) d =>
    d.ownPush p { cmd := runCmd true n, addr := toW (base + o), cnt := n
                  ws := ((ws.drop o).take n).map fun x => (widthW width x, false)
                  k := 0, got := [], retries := 0, owner := .route w run head base }) d
  if clip = 0 then d
  else (d.rteCount F.rteCnt_CLIP clip 3).postedErr 1 p w 6 (d.owinAddr w (ofs + fit))

/-- A new run of a port. -/
def Dev.newRun (p : Nat) (d : Dev) : Nat × Dev := ((d.fp p).runs, d.modFp p fun x => { x with runs := x.runs + 1 })

/-- A packet written as a run toward a window (R339). A window with EN = 0 takes no packet (assumption 27). -/
def Dev.sendFiu (dest : Nat) (head : Word) (ws : List Word) (d : Dev) : Dev :=
  let w := dest / 2 ^ 26 % 16
  if d.fb (F.brgOwinCfg_EN w) then
    let (run, d) := d.newRun (d.f (F.brgOwinCfg_PORT w))
    d.fiuCycles w (dest % 2 ^ 26) run head ws
  else d.rteDiscard 1

/-- The egress of a window. -/
def Dev.fiuEgress (d : Dev) (w : Nat) : Nat := 264 + d.f (F.brgOwinCfg_PORT w)

/-- Cycles of one run at the head of a list: window, run, HEAD, start, Fiuth address of the first, words; and the rest. -/
def takeRun : List Own → Option (Nat × Nat × Word × Nat × Nat × List Word)
  | [] => none
  | o :: os => match o.owner with
    | .route w run head start =>
      let mine := (o :: os).filter fun q => q.owner == o.owner
      some (w, run, head, start, o.addr.toNat, mine.flatMap fun q => q.ws.map (·.1))
    | _ => takeRun os

/-- R438: the cycles of a run that wait for room in the posted buffer of a Fiuth port go to the chain. -/
def Dev.spillFiu (p : Nat) (d : Dev) : Dev :=
  match takeRun (d.fp p).outer with
  | none => d
  | some (w, run, head, start, addr, ws) =>
    let d := d.modFp p fun x => { x with outer := x.outer.filter fun o => o.owner != .route w run head start }
    let ofs := addr - d.owinAddr w 0
    d.bklAppend (264 + p) { BklPkt.mk0 head (fiuDest w ofs) with bare := true, cont := addr != start, run := some run }
      (ws.map (widthW (d.f (F.brgOwinCfg_WIDTH w))))

/-- EGRESS_STALL (R437, R438): a Lysith or Fiuth egress has waited WAIT ns: what it still holds of packets begins its chain.
The other stalls follow from the state. -/
def execEgressStall (e : Fin 269) : State → R :=
  liftBb fun d =>
    if d.egWaits e then
      let d := d.modChain e fun c => { c with stalled := true }
      if e.val < 264 then d.spillLys (e - 256) else d.spillFiu (e - 264)
    else d

/-- ERR_BKL_EGR.STATE: 0 direct, 1 spilling, 2 draining. -/
def Dev.egState (d : Dev) (e : Nat) : Nat := if d.chainEmpty e then 0 else if d.egStalled e then 1 else 2

/-! ### Delivery -/

/-- Words delivered to a host queue until it is full; the words that remain. -/
def Dev.hqDeliver (q : Nat) : List Word → Dev → List Word × Dev
  | [], d => ([], d)
  | w :: ws, d => if d.hqFull q then (w :: ws, d) else (d.hqPut q w ws.isEmpty).hqDeliver q ws

/-- A packet sent to a host queue (R339, R415, R438). -/
def Dev.sendHost (q : Nat) (ws : List Word) (d : Dev) : Dev :=
  let p := BklPkt.mk0 (ws.headD 0) 0
  if !d.fb (F.pciHqCfg_EN q) && !d.hostStalled && !(d.hq q).hold then d.rteDiscard 1
  else if !d.chainEmpty q || d.egStalled q then d.bklAppend q p ws
  else
    let (rest, d) := d.hqDeliver q ws
    if rest.isEmpty then d else d.bklAppend q { p with cont := true } rest

/-- What a chained packet carries on Lysith beside its words. -/
def BklPkt.info (p : BklPkt) : PktInfo :=
  { src := p.src, kind := p.kind, head := if p.kind = 0 then some (p.head, p.srt) else none }

/-- A packet, or the rest of one, sent to a package through a Lysith port (R339, R400, R438). One that is no stream packet
has no chain there. -/
def Dev.sendLys (n : Nat) (p : BklPkt) (ws : List Word) (d : Dev) : Dev :=
  let e := 256 + n
  if p.kind = 0 && (!d.chainEmpty e || d.egStalled e) then d.bklAppend e p ws
  else d.sendAll n (p.info.msgs 1 p.dest p.cont ws)

/-- A packet sent by the system route table; unreachable, it is held at egress 268 (R405, R437). -/
def Dev.sendSrt (p : BklPkt) (ws : List Word) (d : Dev) : Dev :=
  match d.routeOf 1 p.dest with
  | some n => (d.reached 1 p.dest).sendLys n { p with srt := true } ws
  | none => (d.unreach 1 p.dest).bklAppend 268 { p with srt := true } ws

/-- A stream packet of this package toward another. -/
def Dev.ownPkt (d : Dev) (dest : Nat) (ws : List Word) : BklPkt := { BklPkt.mk0 (ws.headD 0) dest with src := d.pkgId }

/-! ### Draining (R439 to R441) -/

/-- One packet of a chain drained toward a host queue, as far as it accepts; true when all of it went. -/
def Dev.drainHost (q : Nat) (p : BklPkt) (d : Dev) : Bool × Dev :=
  let (ws, d) := d.bklOut p
  let (rest, d) := d.hqDeliver q ws
  (rest.isEmpty, d.bklTake q ws.length (ws.length - rest.length))

/-- One segment of a chained packet sent by a Lysith port, when the port sends it at once; true when it went. A discarded
continuation becomes an ABORT (R442). -/
def Dev.drainLys (n : Nat) (p : BklPkt) (d : Dev) : Bool × Dev :=
  let x := d.port n
  let (ws, d') := d.bklOut p
  let m := p.info.seg 1 p.dest (!p.cont && !p.begun) (decide (ws.length ≤ 31)) (ws.take 31)
  if d.linkOpen n && x.canSend m && !x.txq.any (fun m => m.cls == 5) && decide (x.unacked.length < 512) then
    (true, (d'.sendOn n m).bklTake (256 + n) ws.length 31)
  else (false, d)

/-- Words that the next cycle of a run from offset `ofs` of window `w` takes; none: it is beyond LIMIT. -/
def Dev.nextCycle (d : Dev) (w ofs left : Nat) : Option Nat :=
  let fit := Nat.min left (d.f (F.brgOwinCfg_LIMIT w) + 1 - ofs)
  if fit = 0 then none else some (cycleLen (d.fb (F.brgOwinCfg_BLOCK w)) (d.owinAddr w ofs) fit)

/-- One cycle of a chained packet put into the posted buffer of a Fiuth port, when there is room for it; true when it went. -/
def Dev.drainFiu (e : Nat) (p : BklPkt) (d : Dev) : Bool × Dev :=
  let w := p.dest / 2 ^ 26 % 16
  let ofs := p.dest % 2 ^ 26
  let (ws, d') := d.bklOut p
  if !d.fb (F.brgOwinCfg_EN w) then (true, (d.rteDiscard 1).bklPopPkt e)
  else
    let k := (d.nextCycle w ofs ws.length).getD ws.length
    let fits := (d.nextCycle w ofs ws.length).isNone
      || (decide (d.postedFill (e - 264) + k ≤ 1024) && !d.postedWaits (e - 264))
    if !fits then (false, d)
    else
      let (run, d) := match p.run with
        | some r => (r, d')
        | none => d'.newRun (e - 264)
      let d := d.modChain e fun c => { c with pkts := match c.pkts with
        | q :: qs => { q with run := some run, dest := fiuDest w (ofs + k) } :: qs
        | [] => [] }
      (true, (d.fiuCycles w ofs run p.head (ws.take k)).bklTake e ws.length k)

/-- One step of a drain: as much of the oldest packet as its egress accepts at a time. -/
def Dev.drainOne (e : Nat) (d : Dev) : Bool × Dev :=
  match (d.chain e).pkts with
  | [] => (false, d)
  | p :: _ =>
    if d.egStalled e || d.bklHeld p then (false, d)
    else if e < 256 then (if d.fb (F.pciHqCfg_EN e) then d.drainHost e p else (false, d))
    else if e < 264 then d.drainLys (e - 256) p
    else d.drainFiu e p

/-- The chain drains while its egress accepts (R439). -/
def Dev.drainN (e : Nat) : Nat → Dev → Dev
  | 0, d => d
  | fuel + 1, d =>
    let (go, d) := d.drainOne e
    if go then d.drainN e fuel else d

/-- A chain drained: a word at a time is the slowest. -/
def Dev.drain (e : Nat) (d : Dev) : Dev :=
  let d := d.egFlow e
  d.drainN e ((d.chain e).pkts.foldl (fun a p => a + p.words + 1) 1)

/-- Packet `i` of a chain leaves it and is sent afresh by the system route table. -/
def Dev.resendPkt (e i : Nat) (p : BklPkt) (d : Dev) : Dev :=
  let (ws, d) := d.bklOut p
  let d := ((d.modChain e fun c => { c with pkts := c.pkts.eraseIdx i }).bklTrim e []).bklEmptied e
  d.sendSrt { p with spans := [], cont := p.cont || p.begun, begun := false, abort := none } ws

/-- The last `r` packets of a chain that `go` names sent afresh, in order; the others stay (R440, R406). -/
def Dev.resendLast (e : Nat) (go : Dev → BklPkt → Bool) : Nat → Dev → Dev
  | 0, d => d
  | r + 1, d =>
    let ps := (d.chain e).pkts
    let i := ps.length - (r + 1)
    d |> (match ps[i]? with
      | some p => if go d p && !d.bklHeld p then Dev.resendPkt e i p else id
      | none => id) |>.resendLast e go r

/-- The packets of a chain that `go` names sent afresh. -/
def Dev.resendPkts (e : Nat) (go : Dev → BklPkt → Bool) (d : Dev) : Dev := d.resendLast e go (d.chain e).pkts.length

/-- R440: egress 268 drained: each packet that is routable now joins its egress. -/
def Dev.drainUnrouted (d : Dev) : Dev := d.resendPkts 268 fun d p => (d.routeOf 1 p.dest).isSome

/-- R406: the chained packets of a Lysith port that is DOWN which the system route table sends elsewhere now. -/
def Dev.resendAlt (n : Nat) (d : Dev) : Dev := d.resendPkts (256 + n) fun d p => p.srt && d.routeOf 1 p.dest ≠ some n

/-- BACKLOG_DRAIN (R439): the chain of an egress drains while it accepts. -/
def execBacklogDrain (e : Fin 269) : State → R :=
  liftBb fun d =>
    let d := if e.val < 256 then d.hqPump e else d
    if e.val = 268 then d.drainUnrouted else d.drain e

/-! ### The host link (R412 to R416) -/

/-- Event 0x904. -/
def Dev.pciEvent (code : Nat) (d : Dev) : Dev :=
  d.event 0x904 0 (mkW [(2, 0, code), (6, 3, d.f F.pciStat_SPEED)])

/-- R416: responses of mailboxes 0-7 are discarded, while their commands complete. -/
def Dev.dropHostRsp (d : Dev) : Dev :=
  forN 8 (fun n d => d.modMb n fun m => { m with rsp := [], discard := m.busy }) d

/-- R416: what FLR, PERST# and hot reset reset: PCI_BAR2_CTL, the PCI_HQ registers, MSI-X table and PBA, and the words
that host queues hold; a queue with a chain stays stalled until its EN is written 1. -/
def Dev.hostReset (d : Dev) : Dev :=
  let d := { d with regs := d.regs.filter fun p =>
    p.1 != R.pciBar2Ctl && !(decide (R.pciHqCfg 0 ≤ p.1) && decide (p.1 < R.pciHqCfg 0 + 1024)) }
  let d := { d with pci := { d.pci with msix := [], pba := [], fmask := false, nibble := none, reset := true } }
  let lost := d.pci.hq.foldl (fun a x => a + pktsIn false (x.2.pull ++ x.2.grp)) 0
  let held := d.err.chains.filter fun x => x.1 < 256 && !x.2.pkts.isEmpty
  let d := { d with pci := { d.pci with hq := [] } }
  (each (held.map (·.1)) (fun q d => d.modHq q fun x => { x with hold := true }) d).rteDiscard lost

/-- DL_DOWN (R416). -/
def execDlDown : State → R :=
  lift fun d =>
    let d := (d.setF F.pciStat_LINK_UP 0).inc F.pciStat_DOWN_CNT 1
    ({ d with pci := { d.pci with stalled := true } }).dropHostRsp.pciEvent 0

/-- DL_UP (R416): the speed code and the width of PCI_STAT; the stall of a link down, hot reset or PERST# ends. -/
def execDlUp (speed : Fin 8) (width : Fin 32) : State → R :=
  lift fun d =>
    let d := ((d.setF F.pciStat_LINK_UP 1).setF F.pciStat_SPEED speed).setF F.pciStat_WIDTH width
    (({ d with pci := { d.pci with stalled := false } }).pciEvent 1).hostResume

/-- HOT_RESET (R416). -/
def execHotReset : State → R :=
  lift fun d => (({ d with pci := { d.pci with stalled := true } }).dropHostRsp.hostReset).pciEvent 3

/-- PERST_ASSERT (R412, R416). -/
def execPerstAssert : State → R :=
  lift fun d =>
    (({ d with pci := { d.pci with stalled := true, perst := true, cfgOk := false } }).dropHostRsp.hostReset).pciEvent 4

/-- PERST_DEASSERT (R412): the 20 ms of retry status begin. -/
def execPerstDeassert : State → R := lift fun d => { d with pci := { d.pci with perst := false, cfgOk := false } }

/-- CRS_END (R412): PERST# is released and the dies are paired. -/
def execCrsEnd : State → R :=
  lift fun d => if d.pci.perst || d.f F.cpBoot_STATE = 0 then d else { d with pci := { d.pci with cfgOk := true } }

/-- FLR (R416). -/
def execFlr : State → R :=
  lift fun d =>
    let d := d.inc F.pciStat_FLR_CNT 1
    (({ d with pci := { d.pci with flr := true } }).dropHostRsp.hostReset).pciEvent 2

/-- FLR_COMPLETE (R416). -/
def execFlrComplete : State → R := 
  lift fun d => ({ d with pci := { d.pci with flr := false } }).hostResume

/-- D3HOT_ENTRY (R416). -/
def execD3hotEntry : State → R := lift fun d => (d.setF F.pciStat_D3HOT 1).pciEvent 5

/-- D0_ENTRY (R416). -/
def execD0Entry : State → R := lift fun d => ((d.setF F.pciStat_D3HOT 0).pciEvent 6).hostResume

/-- R416: EN written 1 ends the hold; a continuation at the head of the chain is discarded first. -/
def Dev.hqRelease (q : Nat) (d : Dev) : Dev :=
  if !(d.hq q).hold then d
  else
    let d := d.modHq q fun x => { x with hold := false }
    match (d.chain q).pkts with
    | p :: _ => if p.cont || p.begun then (d.bklPopPkt q).rteDiscard 1 else d
    | [] => d

/-- PCI_HQ_CFG_WRITE (R415, R416). -/
def Dev.hqCfgWrite (p : Path) (q : Nat) (w : Word) (d : Dev) : Dev :=
  let d := (d.writeByType p (R.pciHqCfg q) w).hqBoundary q
  if bitOf w 35 then d.hqRelease q else d

/-- PCI_HQ_CFG_WRITE. -/
def execPciHqCfgWrite (p : Path) (q : Fin 256) (w : Word) : State → R := lift (Dev.hqCfgWrite p q w)

/-- A pending message of vector `v` sent, when nothing masks it and the link takes it. -/
def Dev.msixRelease (v : Nat) (d : Dev) : Dev :=
  let e := mget d.pci.msix v
  if mget d.pci.pba v && e.unmasked && !d.pci.fmask && !d.fb F.pciStat_D3HOT && d.fb F.pciStat_LINK_UP && !d.pci.flr then
    ({ d with pci := { d.pci with pba := mset d.pci.pba v false } }).emit (.msix v e.addr e.data)
  else d

/-- MSIX_UNMASK (R413): the mask bit of an entry cleared, or the function mask set or cleared. -/
def execMsixUnmask (v : MaskWrite) : State → R :=
  lift fun d => match v with
    | .entry v => ({ d with pci := { d.pci with
        msix := mmod d.pci.msix v.val fun e => { e with unmasked := true } } }).msixRelease v.val
    | .function mask => each (d.pci.pba.map (·.1)) Dev.msixRelease { d with pci := { d.pci with fmask := mask } }

/-- BKL_INFO, opcode 0xA20: the counters that it answers stay as they are; RC clears on a register read (assumption 166). -/
def Dev.bklInfo (n : Nat) (d : Dev) : Dev :=
  let e := (d.arg n 1).toNat
  if e > 268 then d.reply n stBAD_ARG []
  else d.reply n stOK [d.reg R.errBklStat, putBits (d.reg (R.errBklEgr e)) 35 34 (d.egState e),
    toW (d.chain e).pkts.length]

/-- BKL_INFO. -/
def execBklInfo (n : Mbx) : State → R := lift (Dev.takeCmd n 0xA20 (· == 1) (Dev.bklInfo n))

end Sys2Proof.Machine
end

