-- ==== Sys2Proof/Machine/Tree.lean ====
section
/-! DEFINITION. Control messages, and the system tree of R410 (R399, R409, R410). The words of CTRL messages, and the way of
TREE messages within a domain, follow assumption 29. -/

namespace Sys2Proof.Machine

/-! ### Control messages -/

/-- A 72-bit serial in two words. -/
def serialWords (s : Nat) : List Word := [toW (s / 2 ^ 36), toW s]

/-- A CTRL message: 0 HELLO, 1 MAP, 2 DEAD, 3 DOWN, 4 RESYNC, 5 TREE (R399). -/
def ctrlMsg (rt dest sub mask : Nat) (ws : List Word) : Msg := mkMsg 0x17 rt dest 0 0 sub 0 mask 0 ws

/-- A CTRL message to a live member. -/
def Dev.ctrlTo (k sub : Nat) (ws : List Word) (d : Dev) : Dev := (d.sendRt 0 k (ctrlMsg 0 k sub 0 ws)).2

/-- Ports that are up and not in trunk role (R371). -/
def Dev.meshPorts (d : Dev) : List Nat := (List.range 8).filter fun n => d.portUp n && !d.fb (F.lnkCfg_TRUNK n)

/-- A link-local CTRL message. -/
def Dev.ctrlPort (n sub mask : Nat) (ws : List Word) (d : Dev) : Dev := d.sendOn n (ctrlMsg 2 0 sub mask ws)

/-- A list in pieces of at most `n`. -/
def chunksOf {α : Type} (n : Nat) : Nat → List α → List (List α)
  | 0, _ => []
  | fuel + 1, xs => if xs.length ≤ n then [xs] else xs.take n :: chunksOf n fuel (xs.drop n)

/-! ### Trunk links -/

/-- Trunk ports that are up. -/
def Dev.trunkPorts (d : Dev) : List Nat := [6, 7].filter fun n => d.portUp n && d.fb (F.lnkCfg_TRUNK n)

/-- This package is a member that another leads. -/
def Dev.treeLed (d : Dev) : Bool := d.cohState == 2 && d.f F.cohStat_LEADER != d.myIdx

/-- This package acts in the tree: its firmware runs, it has an ID, and it leads its domain or is a domain of one. -/
def Dev.treeActs (d : Dev) : Bool := d.running && d.fb F.topPkg_ASSIGNED && d.cohState ≠ 1 && !d.treeLed

/-- A trunk link of member `k`. -/
def linkKey (k n : Nat) : Nat := k * 8 + n

/-- The tree changed. -/
def Dev.modTree (f : Tree → Tree) (d : Dev) : Dev := d.modCoh fun c => { c with tree := f c.tree }

/-- The words of a body. -/
def bodyWords : TreeBody → List Word
  | .announce l r ds => 0 :: (serialWords l.toNat ++ serialWords r.toNat ++ [toW ds])
  | .subtree first ss ids =>
    mkW [(35, 35, bit first), (3, 0, 1)] :: (ss.zip ids).flatMap fun (s, i) => serialWords s.toNat ++ [toW i.toNat]
  | .full first r ss ids => mkW [(35, 35, bit first), (19, 4, r.toNat), (3, 0, 2)]
      :: (ss.zip ids).flatMap fun (s, i) => serialWords s.toNat ++ [toW i.toNat]
  | .fill ids ws => mkW [(3, 0, 3)] :: (ids.zip ws).flatMap fun (i, w) => [toW i.toNat, w]
  | .linkUp up => [mkW [(35, 35, bit up), (3, 0, 4)]]

/-- The word that gives the way of a message. -/
def viaWord : TreeVia → Word
  | .link => 0
  | .up k n => mkW [(11, 9, n), (8, 3, k), (2, 0, 1)]
  | .out n => mkW [(11, 9, n), (2, 0, 2)]
  | .member => mkW [(2, 0, 3)]

/-- The words of a TREE message. -/
def treeWords (m : TreeMsg) : List Word := viaWord m.via :: bodyWords m.body

/-- The way that a word gives. -/
def treeViaOf (w : Word) : TreeVia :=
  match bitsOf w 2 0 with
  | 0 => .link
  | 1 => .up (Fin.ofNat 64 (bitsOf w 8 3)) (Fin.ofNat 8 (bitsOf w 11 9))
  | 2 => .out (Fin.ofNat 8 (bitsOf w 11 9))
  | _ => .member

/-- Serials and IDs in words. -/
def treePairs (ws : List Word) : List (BitVec 72 × BitVec 16) :=
  ((chunksOf 3 16 ws).filter fun c => c.length == 3).map fun c =>
    (BitVec.ofNat 72 ((nth c 0).toNat * 2 ^ 36 + (nth c 1).toNat), BitVec.ofNat 16 (nth c 2).toNat)

/-- The body that words give. -/
def treeBodyOf (b : List Word) : TreeBody :=
  let h := nth b 0
  let w := fun i => (nth b i).toNat
  let ps := treePairs (b.drop 1)
  match bitsOf h 3 0 with
  | 0 => .announce (BitVec.ofNat 72 (w 1 * 2 ^ 36 + w 2)) (BitVec.ofNat 72 (w 3 * 2 ^ 36 + w 4)) (w 5)
  | 1 => .subtree (bitOf h 35) (ps.map (·.1)) (ps.map (·.2))
  | 2 => .full (bitOf h 35) (BitVec.ofNat 16 (bitsOf h 19 4)) (ps.map (·.1)) (ps.map (·.2))
  | 3 =>
    let es := (chunksOf 2 16 (b.drop 1)).filter fun c => c.length == 2
    .fill (es.map fun c => BitVec.ofNat 16 (nth c 0).toNat) (es.map fun c => nth c 1)
  | _ => .linkUp (bitOf h 35)

/-- A body sent on a trunk link: by a port of this package, or by the member that owns the link (R410, step 1). -/
def Dev.treeTo (key : Nat) (b : TreeBody) (d : Dev) : Dev :=
  if key / 8 = d.myIdx then d.ctrlPort (key % 8) 5 0 (treeWords ⟨.link, b⟩)
  else d.ctrlTo (key / 8) 5 (treeWords ⟨.out (Fin.ofNat 8 (key % 8)), b⟩)

/-- A list of identities sent in messages of bounded length; `f` gives the body of each. -/
def Dev.treeListTo (f : Bool → List (BitVec 72) → List (BitVec 16) → TreeBody) (l : List (Nat × Nat)) (send : TreeBody → Dev → Dev)
    (d : Dev) : Dev :=
  each (chunksOf 8 8192 l).zipIdx (fun (c, i) d =>
    send (f (i == 0) (c.map fun x => BitVec.ofNat 72 x.1) (c.map fun x => BitVec.ofNat 16 x.2)) d) d

/-! ### What a leader knows -/

/-- This package and the members of its domain, with their serials; one without an ID takes no part (R409). Another member's
ID reads 0 while it has none (assumption 185). -/
def Dev.treeOwn (d : Dev) : List (Nat × Nat) :=
  if d.cohState = 2 then (List.range 64).filterMap fun k =>
    if d.fb (F.cohMap_VALID k) && !d.fb (F.cohMap_DEAD k) && (k == d.myIdx || d.f (F.cohMap_PKG_ID k) != 0) then
      some (mget d.coh.serials k, d.f (F.cohMap_PKG_ID k)) else none
  else [(d.serial, d.pkgId)]

/-- R410: of the packages that report one ID, the one with the lowest serial stays. -/
def treeKeep (l : List (Nat × Nat)) : List (Nat × Nat) :=
  l.eraseDups.filter fun x => l.all fun y => y.2 != x.2 || x.1 ≤ y.1

/-- This leader's subtree. -/
def Dev.treeAll (d : Dev) : List (Nat × Nat) := treeKeep (d.treeOwn ++ (d.coh.tree.below.map (·.2)).flatten)

/-- R410: the best announcement: lowest root, then fewest hops, then lowest leader, then lowest serial of the package that
owns the link, then the lower port. -/
def Dev.treeBest (d : Dev) : Nat × Nat × Option Nat :=
  let ser := fun key => if key / 8 = d.myIdx then d.serial else mget d.coh.serials (key / 8)
  let cs := d.coh.tree.heard.filterMap fun (key, x) =>
    x.bind fun (l, r, ds) => if r < d.serial && ds < 64 then some (key, [r, ds, l, ser key, key % 8]) else none
  match cs.find? fun a => cs.all fun b => !decide (b.2 < a.2) with
  | some (key, v) => (nth0 v 0, nth0 v 1 + 1, some key)
  | none => (d.serial, 0, none)
where
  /-- An element of a list of numbers. -/
  nth0 (l : List Nat) (i : Nat) : Nat := l.getD i 0

/-! ### Filling the system route table (R404, R410 step 5) -/

/-- The link that leads to an ID: the one below which it was reported, else the uplink. -/
def Dev.treeLink (d : Dev) (id : Nat) : Option Nat :=
  match d.coh.tree.below.find? fun b => b.2.any fun x => x.2 == id with
  | some (key, _) => some key
  | none => d.coh.tree.uplink

/-- Another link of the same member toward the same leader. -/
def Dev.treeAlt (d : Dev) (key : Nat) : Option Nat :=
  let ldr := fun k => (mget d.coh.tree.heard k).map (·.1)
  d.coh.tree.links.find? fun k => k != key && k / 8 == key / 8 && (ldr k).isSome && ldr k == ldr key

/-- The SRT entry of an ID at member `k`: a member's ID by DRT; else the port of its link at the member that owns it, with a
second link as ALT, and the way toward that member at the others. -/
def Dev.treeEntry (d : Dev) (k id : Nat) : Word :=
  let own := if d.cohState = 2 then firstN 64 fun j =>
      d.fb (F.cohMap_VALID j) && !d.fb (F.cohMap_DEAD j) && d.f (F.cohMap_PKG_ID j) == id else none
  match own with
  | some j => mkW [(35, 34, 3), (33, 28, j)]
  | none => match d.treeLink id with
    | none => 0
    | some key =>
      if key / 8 = k then match d.treeAlt key with
        | some a => mkW [(35, 35, 1), (27, 25, key % 8), (24, 24, 1), (23, 21, a % 8)]
        | none => mkW [(35, 35, 1), (27, 25, key % 8)]
      else mkW [(35, 34, 3), (33, 28, key / 8)]

/-- SRT entries written by the firmware of this package; what they make routable goes (R440). -/
def Dev.srtFill (es : List (Nat × Word)) (d : Dev) : Dev :=
  (each es (fun (i, w) d => d.wr (srtTab + i % 65536) w) d).drainUnrouted

/-- R410, step 5: the entries of some IDs written at every member; an ID that the tree lost gets an empty one. -/
def Dev.treeFill (was : List (Nat × Nat)) (d : Dev) : Dev :=
  let now := (d.treeAll ++ d.coh.tree.ids).map (·.2)
  let ids := (now ++ was.map (·.2)).eraseDups
  let es := fun k => ids.map fun i => (i, if now.contains i then d.treeEntry k i else 0)
  let d' := d.srtFill ((es d.myIdx).filter fun e => e.1 != d.pkgId)
  if d.cohState = 2 then
    each d.others (fun k d => each (chunksOf 12 8192 (es k)) (fun c d =>
      d.ctrlTo k 5 (treeWords ⟨.member, .fill (c.map fun e => BitVec.ofNat 16 e.1) (c.map (·.2))⟩)) d) d'
  else d'

/-! ### The exchange -/

/-- R410: this package reports an ID that one with a lower serial holds: it is left out of the tree. -/
def Dev.treeDup (l : List (Nat × Nat)) (d : Dev) : Dev :=
  if d.fb F.topPkg_ASSIGNED && !d.fb F.topPkg_DUP && l.any fun x => x.2 == d.pkgId && x.1 != d.serial then
    (d.setF F.topPkg_DUP 1).event 0x906 0 (toW d.pkgId)
  else d

/-- The full list passed on: to the links below which packages were reported, and to the members; the entries filled. -/
def Dev.treeDown (root : Nat) (was : List (Nat × Nat)) (d : Dev) : Dev :=
  let l := d.coh.tree.ids
  let f := fun first ss ids => TreeBody.full first (BitVec.ofNat 16 root) ss ids
  let d := (d.treeDup l).treeFill was
  let d := each (d.coh.tree.below.map (·.1)) (fun key d => d.treeListTo f l (Dev.treeTo key)) d
  if d.cohState = 2 then
    each d.others (fun k d => d.treeListTo f l (fun b d => d.ctrlTo k 5 (treeWords ⟨.member, b⟩))) d
  else d

/-- R410, step 4: the subtree reported to the uplink; the root completes the tree: event 0x905. -/
def Dev.treeUp (d : Dev) : Dev :=
  let l := d.treeAll
  match d.coh.tree.uplink with
  | some key => (d.treeFill d.coh.tree.ids).treeListTo .subtree l (Dev.treeTo key)
  | none =>
    let was := d.coh.tree.ids
    ((d.modTree fun t => { t with ids := l }).treeDown d.pkgId was).event 0x905 0
      (mkW [(32, 16, l.length), (15, 0, d.pkgId)])

/-- This leader's announcement (R410, step 1). -/
def Dev.treeWord (d : Dev) : TreeBody :=
  .announce (BitVec.ofNat 72 d.serial) (BitVec.ofNat 72 d.coh.tree.root) d.coh.tree.dist

/-- R410, steps 1 to 4, after a change of what was heard on link `key`: a new root, distance or uplink is announced on every
link, and the old uplink loses the report; a worse announcement is answered. -/
def Dev.treeChange (key : Nat) (d : Dev) : Dev :=
  let t := d.coh.tree
  let b := d.treeBest
  let d := d.modTree fun t => { t with root := b.1, dist := b.2.1, uplink := b.2.2 }
  if b = (t.root, t.dist, t.uplink) then
    match mget d.coh.tree.heard key with
    | some (_, r, _) => if b.1 < r then d.treeTo key d.treeWord else if b.2.2 = some key then d.treeUp else d
    | none => d
  else
    let d := each d.coh.tree.links (fun k d => d.treeTo k d.treeWord) d
    let d := match t.uplink with
      | some k => if b.2.2 ≠ some k && d.coh.tree.links.contains k then d.treeTo k (.subtree true [] []) else d
      | none => d
    d.treeUp

/-- A trunk link came up, or was lost with all that was heard on it. -/
def Dev.treeLinkGo (key : Nat) (up : Bool) (d : Dev) : Dev :=
  let d := d.modTree fun t => { t with
    links := (t.links.filter (· != key)) ++ (if up then [key] else [])
    heard := mset t.heard key none
    below := t.below.filter fun b => b.1 != key }
  if up then d.treeTo key d.treeWord else
    let d' := d.treeChange key
    if d'.coh.tree.uplink = d.coh.tree.uplink then d'.treeUp else d'

/-- A TREE body that a leader takes from a trunk link (R410). -/
def Dev.treeTake (key : Nat) (b : TreeBody) (d : Dev) : Dev :=
  match b with
  | .announce l r ds =>
    let d := d.modTree fun t => { t with
      links := if t.links.contains key then t.links else t.links ++ [key]
      heard := mset t.heard key (some (l.toNat, r.toNat, ds)) }
    d.treeChange key
  | .subtree first ss ids =>
    let l := (ss.zip ids).map fun (s, i) => (s.toNat, i.toNat)
    let was := d.coh.tree.below
    let d := d.modTree fun t => { t with
      below := (t.below.filter fun b => b.1 != key) ++ [(key, (if first then [] else mget was key) ++ l)] }
    (d.modTree fun t => { t with below := t.below.filter fun b => !b.2.isEmpty }).treeUp
  | .full first root ss ids =>
    if d.coh.tree.uplink = some key then
      let l := (ss.zip ids).map fun (s, i) => (s.toNat, i.toNat)
      let was := d.coh.tree.ids
      (d.modTree fun t => { t with ids := (if first then [] else was) ++ l }).treeDown root.toNat was
    else d
  | .fill _ _ => d
  | .linkUp up => d.treeLinkGo key up

/-- R410: the exchange begins at a leader or a domain of one with what it knows itself; a member that another leads reports
its trunk links. What the table held of an earlier tree goes. -/
def Dev.treeStart (d : Dev) : Dev :=
  if d.treeLed then
    each d.trunkPorts (fun n d => d.ctrlTo (d.f F.cohStat_LEADER) 5
      (treeWords ⟨.up (Fin.ofNat 64 d.myIdx) (Fin.ofNat 8 n), .linkUp true⟩)) d
  else if !d.treeActs then d
  else
    let ls := d.trunkPorts.map (linkKey d.myIdx)
    let was := d.coh.tree.ids ++ (d.coh.tree.below.map (·.2)).flatten
    let d := (d.modTree fun _ => { (default : Tree) with links := ls, root := d.serial }).treeFill was
    let d := each ls (fun k d => d.treeTo k d.treeWord) d
    if ls.isEmpty then d.treeUp else d

/-- R410: the members changed: links of packages that left are gone, and the subtree is reported anew. -/
def Dev.treeRefresh (d : Dev) : Dev :=
  if !d.treeActs || d.cohState ≠ 2 then d
  else
    let live := fun key => key / 8 == d.myIdx || d.others.contains (key / 8)
    let gone := d.coh.tree.links.filter fun k => !live k
    (each gone (fun k d => d.treeLinkGo k false) d).treeUp

/-- R410: the members changed, or the leader, which was `led`. -/
def Dev.treeAfter (led : Nat) (d : Dev) : Dev := if d.f F.cohStat_LEADER = led then d.treeRefresh else d.treeStart

/-- R395, R410: a trunk port of this package went up or down. -/
def Dev.treePort (n : Nat) (up : Bool) (d : Dev) : Dev :=
  if !d.fb (F.lnkCfg_TRUNK n) then d
  else if d.treeLed then d.ctrlTo (d.f F.cohStat_LEADER) 5
    (treeWords ⟨.up (Fin.ofNat 64 d.myIdx) (Fin.ofNat 8 n), .linkUp up⟩)
  else if d.treeActs then d.treeLinkGo (linkKey d.myIdx n) up
  else d

/-- TREE (R410). -/
def Dev.treeArrive (n : Nat) (m : TreeMsg) (d : Dev) : Dev :=
  match m.via with
  | .link =>
    if d.treeLed then d.ctrlTo (d.f F.cohStat_LEADER) 5
      (treeWords ⟨.up (Fin.ofNat 64 d.myIdx) (Fin.ofNat 8 n), m.body⟩)
    else if d.treeActs then d.treeTake (linkKey d.myIdx n) m.body
    else d
  | .up k p => if d.treeActs then d.treeTake (linkKey k p) m.body else d
  | .out p => if d.treeLed && d.trunkPorts.contains p.val then d.ctrlPort p 5 0 (treeWords ⟨.link, m.body⟩) else d
  | .member =>
    if !d.treeLed then d
    else match m.body with
      | .full _ _ ss ids => d.treeDup ((ss.zip ids).map fun (s, i) => (s.toNat, i.toNat))
      | .fill ids ws => d.srtFill (((ids.map (·.toNat)).zip ws).filter fun e => !(d.fb F.topPkg_ASSIGNED && e.1 == d.pkgId))
      | _ => d

end Sys2Proof.Machine
end

