-- ==== Sys2Proof/Machine/Boot.lean ====
section
/-! DEFINITION. Boot, image delivery and checks, fuses, warm restart and halt (R47 to R61, R82, R83, R499). -/

namespace Sys2Proof.Machine

/-- CP_BOOT.STATE. -/
def Dev.bootState (d : Dev) : Nat := d.f F.cpBoot_STATE

/-- CP_BOOT.STATE set. -/
def Dev.setBoot (st : Nat) (d : Dev) : Dev := d.setF F.cpBoot_STATE st

/-! ### General commands -/

/-- PING, opcode 0x001. -/
def execPing (n : Mbx) : State → R :=
  lift (Dev.takeCmd n 0x001 (· == 0) fun d => d.reply n stOK [d.reg R.cpBoot])

/-- GET_INFO, opcode 0x002. -/
def Dev.getInfo (n : Nat) (d : Dev) : Dev :=
  d.reply n stOK (epWords d.serial ++
    [mkW [(16, 16, d.f F.topPkg_ASSIGNED), (15, 0, d.pkgId)], d.reg R.cpBoot, d.reg R.cpDebug])

/-- GET_INFO. -/
def execGetInfo (n : Mbx) : State → R := lift (Dev.takeCmd n 0x002 (· == 0) (Dev.getInfo n))

/-! ### The loader (R49 to R53) -/

/-- The loader's state changed. -/
def Dev.modLoader (f : Loader → Loader) (d : Dev) : Dev := { d with cp := { d.cp with loader := f d.cp.loader } }

/-- The source of mailbox `n` as CP_BOOT.SOURCE codes it (R49). -/
def Dev.srcOfMbx (d : Dev) (n : Nat) : Nat := d.pathOf n + 1

/-- The claim ends and the boot ROM waits for an image again. -/
def Dev.releaseClaim (d : Dev) : Dev :=
  let d := d.modLoader (fun l => { l with claim := 0, len := 0, staged := 0, chunked := false, verify := none })
  d.setBoot 2

/-- LAST_FAIL and event 0x002 (R49, R53). -/
def Dev.imgRejected (code : Nat) (d : Dev) : Dev :=
  ((d.setF F.cpBoot_LAST_FAIL code).releaseClaim).event 0x002 0 (toW code)

/-- IMG_BEGIN, opcode 0x010 (R49). -/
def Dev.imgBegin (n : Nat) (d : Dev) : Dev :=
  let l := (d.arg n 1).toNat
  let src := d.srcOfMbx n
  let c := d.cp.loader.claim
  if c ≠ 0 && c ≠ src then d.reply n stBUSY []
  else if l < 56 || l > 1864128 then d.reply n stBAD_ARG []
  else
    let port := match (d.mb n).origin with
      | .link p => p.val
      | .lysith _ p => p.val
      | _ => 0
    let d := d.modLoader (fun x => { x with claim := src, len := l, staged := 0, chunked := false })
    (((d.setF F.cpBoot_SOURCE src).setF F.cpBoot_LYS_PORT port).setBoot 3).reply n stOK []

/-- IMG_BEGIN. -/
def execImgBegin (n : Mbx) : State → R := lift (Dev.takeCmd n 0x010 (· == 1) (Dev.imgBegin n))

/-- No claim, or another source's (R49). -/
def Dev.claimNot (d : Dev) (n : Nat) : Bool := d.cp.loader.claim ≠ d.srcOfMbx n

/-- IMG_CHUNK, opcode 0x011 (R50, R51). One that carries no image word has a length the command does not allow (R498): BAD_ARG
without a body (assumption 135). -/
def Dev.imgChunk (n : Nat) (d : Dev) : Dev :=
  let ws := (d.mb n).req.drop 2
  let l := d.cp.loader
  if d.claimNot n then d.reply n stBUSY []
  else if (d.arg n 1).toNat ≠ l.staged || l.staged + ws.length > l.len then d.reply n stBAD_ARG [toW l.staged]
  else
    let d := d.wrs l.staged ws
    let d := d.modLoader (fun x => { x with staged := x.staged + ws.length, chunked := true })
    d.reply n stOK [toW d.cp.loader.staged]

/-- IMG_CHUNK. -/
def execImgChunk (n : Mbx) : State → R := lift (Dev.takeCmd n 0x011 (fun l => 2 ≤ l) (Dev.imgChunk n))

/-- IMG_BOOT, opcode 0x012: VERIFY begins; VERIFY_DONE ends it (R47, R53). -/
def Dev.imgBoot (n : Nat) (d : Dev) : Dev :=
  if d.claimNot n then d.reply n stBUSY []
  else ((d.modLoader (fun x => { x with verify := some n })).setBoot 4).hold n

/-- IMG_BOOT. -/
def execImgBoot (n : Mbx) : State → R := lift (Dev.takeCmd n 0x012 (· == 0) (Dev.imgBoot n))

/-- IMG_ABORT, opcode 0x013 (R49). -/
def Dev.imgAbort (n : Nat) (d : Dev) : Dev :=
  if d.claimNot n then d.reply n stBUSY [] else (d.imgRejected 0x0A).reply n stOK []

/-- IMG_ABORT. -/
def execImgAbort (n : Mbx) : State → R := lift (Dev.takeCmd n 0x013 (· == 0) (Dev.imgAbort n))

/-- IMG_CLAIM_TIMEOUT (R49): 1 s without an IMG_CHUNK. -/
def execImgClaimTimeout : State → R :=
  lift fun d => if d.cp.loader.claim ≠ 0 && d.cp.loader.verify.isNone then d.imgRejected 0x09 else d

/-! ### Image checks (R54 to R59) -/

/-- A segment descriptor (R56). -/
structure Seg where
  dest : Nat
  kind : Nat
  len : Nat
  ofs : Nat
deriving DecidableEq, Repr, Inhabited

/-- Descriptor `i` of the image in the retained-image area. -/
def Dev.imgSeg (d : Dev) (i : Nat) : Seg :=
  let a := 28 + 3 * i
  ⟨bitsOf (d.rd a) 33 0, bitsOf (d.rd (a + 1)) 35 32, bitsOf (d.rd (a + 1)) 20 0, bitsOf (d.rd (a + 2)) 20 0⟩

/-- All descriptors. -/
def Dev.imgSegs (d : Dev) : List Seg := (List.range (bitsOf (d.rd 3) 35 24)).map d.imgSeg

/-- R56: the DEST range of a KIND: first word and one past the last. -/
def segRange (kind : Nat) : Nat × Nat :=
  match kind with
  | 0 => (0x300A00000, 0x300A80000)
  | 1 => (0, 0x1000)
  | 2 => (0x300A80000, 0x300AC0000)
  | _ => (0x300800000, 0x300A00000)

/-- R56: a descriptor bit outside the fields is set. -/
def Dev.segBits (d : Dev) (i : Nat) : Bool :=
  let a := 28 + 3 * i
  bitsOf (d.rd a) 35 34 ≠ 0 || bitsOf (d.rd (a + 1)) 31 21 ≠ 0 || bitsOf (d.rd (a + 2)) 35 21 ≠ 0

/-- R59, SEGMENT: a segment on its own fails for an image of `l` words and `s` segments. -/
def segBad (l s : Nat) (g : Seg) : Bool :=
  g.kind > 4 || (g.kind = 4 && g.dest ≠ 0)
    || (g.kind < 4 && g.len ≠ 0 && (g.dest < (segRange g.kind).1 || g.dest + g.len > (segRange g.kind).2))
    || g.ofs < 28 + 3 * s || g.ofs + g.len > l - 24

/-- R59, SEGMENT: two segments overlap in destination. -/
def segOverlap (a b : Seg) : Bool :=
  a.kind < 4 && b.kind < 4 && ((a.kind == 1) == (b.kind == 1)) && a.dest < b.dest + b.len && b.dest < a.dest + a.len
    && a.len ≠ 0 && b.len ≠ 0

/-- Some pair of the list overlaps. -/
def anyOverlap : List Seg → Bool
  | [] => false
  | g :: gs => gs.any (segOverlap g) || anyOverlap gs

/-- The bytes of a byte string carried under R55. -/
def Dev.imgBytes (d : Dev) (a n : Nat) : List Byte := (d.rds a n).flatMap nonetBytes

/-- R59: the first check of the staged image that fails, or 0. -/
def Dev.imgCheck (fz : Fuses) (d : Dev) : Nat :=
  let l := d.cp.loader.len
  let s := bitsOf (d.rd 3) 35 24
  let key := d.imgBytes 4 24
  let sig := d.imgBytes (l - 24) 24
  let stored := if fz.owner then fz.hash else Config.nuntolyHash
  if d.rd 0 ≠ toW 0x07E4D3909 then 0x01
  else if bitsOf (d.rd 1) 35 24 ≠ 1 || bitsOf (d.rd 1) 23 12 ≠ 0 || bitsOf (d.rd 2) 35 21 ≠ 0
      || bitsOf (d.rd 3) 23 19 ≠ 0 || s = 0 || s > 64 then 0x02
  else if bitsOf (d.rd 2) 20 0 ≠ l || (d.cp.loader.chunked && d.cp.loader.staged < l) then 0x03
  else if (d.rds 4 24).any nonetBad || (d.rds (l - 24) 24).any nonetBad then 0x04
  else if sha384 key ≠ stored then 0x05
  else if !ecdsaVerify (ofBe (key.take 48)) (ofBe (key.drop 48)) (sha384 (packBytes (padGroup (d.rds 0 (l - 24)))))
      (ofBe (sig.take 48)) (ofBe (sig.drop 48)) then 0x06
  else if (List.range s).any d.segBits || d.imgSegs.any (segBad l s) || anyOverlap d.imgSegs
      || !(d.imgSegs.any fun g => g.kind == 0 && g.dest ≤ 0x300A00000 + bitsOf (d.rd 3) 18 0
            && 0x300A00000 + bitsOf (d.rd 3) 18 0 < g.dest + g.len) then 0x07
  else if (List.range l).any (fun i => (d.rdP i).2) then 0x08
  else 0

/-- A segment copied to its destination (R56). -/
def Dev.copySeg (g : Seg) (d : Dev) : Dev :=
  let ws := d.rds g.ofs g.len
  match g.kind with
  | 1 => forN 1024 (fun u d => d.wrs (0x300000000 + u * 0x1000 + g.dest) ws) d
  | 4 => d
  | _ => d.wrs g.dest ws

/-- R429: the error-queue entries that no firmware has copied yet go into the log. -/
def Dev.copyErrs (d : Dev) : Dev :=
  let q := d.err.queue
  let d := each (q.drop (q.length - d.cp.errUncopied)) Dev.logErr d
  { d with cp := { d.cp with errUncopied := 0 } }

/-- R47 step 6: the segments are copied and the CP starts; R452's records for a stop or a halt before. What the
tables make routable goes (R440), and the firmware takes part in the system tree (R410). -/
def Dev.startImage (fz : Fuses) (n : Nat) (d : Dev) : Dev :=
  let gen := bitsOf (d.rd 1) 11 0
  let src := d.cp.loader.claim
  let l := d.cp.loader.len
  let d := (each d.imgSegs Dev.copySeg d).drainUnrouted
  let d := d.modLoader (fun x => { x with claim := 0, len := 0, staged := 0, chunked := false, verify := none, retLen := l })
  let d := (((d.setF F.cpBoot_LAST_FAIL 0).setF F.cpBoot_GEN gen).setF F.cpBoot_VENDOR_KEY (bit (!fz.owner))).setBoot 5
  let d := d.copyErrs.event 0x003 0 (mkW [(11, 0, gen), (14, 12, src)])
  let d := if d.f F.errStop_CAUSE ≠ 0 then (d.oweBb (d.f F.errStop_CAUSE)).setF F.errStop_CAUSE 0 else d
  let d := if d.cp.bbHalt then { d.oweBbFree with cp := { d.oweBbFree.cp with bbHalt := false } } else d
  (d.finish n stOK [0]).treeStart

/-- VERIFY_DONE (R47, R53, R57 to R59). -/
def Dev.verifyDone (fz : Fuses) (d : Dev) : Dev :=
  match d.cp.loader.verify with
  | none => d
  | some n =>
    let c := d.imgCheck fz
    if c = 0 then d.startImage fz n else (d.imgRejected c).finish n stBAD_ARG [toW c]

/-- VERIFY_DONE. -/
def execVerifyDone : State → R := gate fun s => flushBb { s with dev := s.dev.verifyDone s.fuses }

/-! ### Fuses (R60, R61) -/

/-- OWNER_FUSE, opcode 0x018: accepted on mailbox 0 only. -/
def Dev.ownerFuse (n : Nat) (d : Dev) : Dev :=
  if n ≠ 0 then d.reply n stLOCKED []
  else if d.arg n 13 ≠ toW 0x2795C9C52 || (List.range 12).any (fun i => nonetBad (d.arg n (i + 1))) then
    d.reply n stBAD_ARG []
  else if d.fb F.cpDebug_FUSE_OWNER then d.reply n stLOCKED []
  else (d.setF F.cpDebug_FUSE_OWNER 1).reply n stOK []

/-- The hash that an OWNER_FUSE request carries (R55). -/
def Dev.fuseHash (d : Dev) (n : Nat) : Nat := ofBe ((List.range 12).flatMap fun i => nonetBytes (d.arg n (i + 1)))

/-- The owner fuse programmed once: it is never changed afterwards (R60). -/
def Fuses.program (h : Nat) (z : Fuses) : Fuses := if z.owner then z else { z with owner := true, hash := h }

/-- OWNER_FUSE. -/
def execOwnerFuse (n : Mbx) : State → R := gate fun s =>
  let d := Dev.takeCmd n 0x018 (· == 13) (Dev.ownerFuse n) s.dev
  let burn := !s.dev.fb F.cpDebug_FUSE_OWNER && d.fb F.cpDebug_FUSE_OWNER
  { s with dev := d, fuses := if burn then s.fuses.program (s.dev.fuseHash n) else s.fuses }

/-- The CP debug port is open: the debug lock is not in force (R61). -/
def Dev.debugOpen (d : Dev) : Bool := !d.fb F.cpDebug_LOCK

/-- What a TAP instruction selects (R61): under the lock every one but IDCODE selects BYPASS. -/
inductive Tap where
  | idcode | bypass
  | other (code : Nat)
deriving DecidableEq, Repr

/-- The instruction that test access performs in place of the one given (R61). -/
def Dev.tapSelect (d : Dev) (t : Tap) : Tap :=
  match t with
  | .other c => if d.debugOpen then .other c else .bypass
  | t => t

/-- DEBUG_FUSE, opcode 0x019: accepted on mailbox 0 only, LOCKED on any other (assumption 137); CP_DEBUG.LOCK sets at
once. -/
def Dev.debugFuse (n : Nat) (d : Dev) : Dev :=
  if n ≠ 0 then d.reply n stLOCKED []
  else if d.arg n 1 ≠ toW 0x221088E4C then d.reply n stBAD_ARG []
  else if d.fb F.cpDebug_FUSE_DEBUG then d.reply n stLOCKED []
  else ((d.setF F.cpDebug_FUSE_DEBUG 1).setF F.cpDebug_LOCK 1).reply n stOK []

/-- DEBUG_FUSE. -/
def execDebugFuse (n : Mbx) : State → R := gate fun s =>
  let d := Dev.takeCmd n 0x019 (· == 1) (Dev.debugFuse n) s.dev
  let burn := !s.dev.fb F.cpDebug_FUSE_DEBUG && d.fb F.cpDebug_FUSE_DEBUG
  { s with dev := d, fuses := if burn then { s.fuses with debug := true } else s.fuses }

/-! ### Boot steps (R47) -/

/-- ROM_INIT_DONE: ports trained; WAIT_IMAGE and event 0x001 (R47). -/
def execRomInitDone : State → R :=
  lift fun d => if d.bootState = 1 then (d.setBoot 2).event 0x001 0 0 else d

/-! ### Warm restart, halt and reboot (R82, R83, R499) -/

/-- R83: CCLK edges in 1 s. -/
def edgesPerSec : Nat := 1600000000

/-- Warm restarts begun within the last second. -/
def Dev.recentWarm (d : Dev) : Nat := d.cp.warm.countP fun e => d.epo.edges < e + edgesPerSec

/-- The keep-store operation in progress answers nobody any more: its command has been answered otherwise. -/
def Dev.orphanKs (d : Dev) : Dev :=
  match d.err.ksOp with
  | some (.erase _ s) => { d with err := { d.err with ksOp := some (.erase 99 s) } }
  | some (.program _ a ws) => { d with err := { d.err with ksOp := some (.program 99 a ws) } }
  | some (.record _ t f) => { d with err := { d.err with ksOp := some (.record 99 t f) } }
  | none => d

/-- The keep-store operation's mailbox. -/
def Dev.ksMbx (d : Dev) : Option Nat :=
  match d.err.ksOp with
  | some (.erase n _) => some n
  | some (.program n _ _) => some n
  | some (.record n _ _) => some n
  | none => none

/-- A taken command answered before its work ends: the work answers nobody any more. -/
def Dev.endCmd (n st : Nat) (d : Dev) : Dev :=
  let d := if d.ksMbx = some n then d.orphanKs else d
  d.finish n st []

/-- Every command taken answered with a status, and every doorbelled one by hardware with another. -/
def Dev.answerAll (stTaken stWaiting : Nat) (d : Dev) : Dev :=
  let taken := d.cp.executing
  let waiting := d.cp.doorbells
  let d := each taken (fun n d => d.endCmd n stTaken) d
  let d := { d with cp := { d.cp with executing := [], doorbells := [], interrupted := none } }
  each waiting (fun n d => d.hwAnswer n stWaiting) d

/-- R83: the CP halts: event 0x005, the command executing answered TIMEOUT, every waiting one BUSY. -/
def Dev.cpHalt (count : Nat) (d : Dev) : Dev :=
  let d := { (d.setBoot 7) with cp := { d.cp with bbHalt := true, atEntry := false } }
  let d := match d.cp.interrupted with
    | some (n, _) => d.endCmd n stTIMEOUT
    | none => d
  (d.answerAll stTIMEOUT stBUSY).event 0x005 0 (toW (Nat.min count 255))

/-- Firmware executes, in RUNNING or after its start in step 3 of a warm restart (R82). -/
def Dev.fwExecutes (d : Dev) : Bool := d.running || (d.bootState == 6 && d.cp.atEntry)

/-- R82, R83: a trigger while firmware executes: a warm restart, or a halt when it would be the third within 1 s. -/
def Dev.warmTrigger (d : Dev) : Dev :=
  if !d.fwExecutes then d
  else if d.recentWarm ≥ 2 then d.cpHalt d.recentWarm
  else
    let intr := match d.cp.interrupted with
      | some x => some x
      | none => d.cp.executing.head?.map fun n => (n, d.seqOf n)
    let d := (d.setBoot 6).inc F.cpBoot_WARM_CNT 1
    { d with cp := { d.cp with interrupted := intr, atEntry := false, warm := d.epo.edges :: d.cp.warm.take 2 } }

/-- CP_WDT_EXPIRY (R82, R83): the watchdog counts only while firmware executes. -/
def execCpWdtExpiry : State → R :=
  lift fun d => if d.fwExecutes then (d.error 13 2 0 0 0 0).warmTrigger else d

/-- CP_FATAL_EXCEPTION (R82, R83): recorded in class 13 in every state. -/
def execCpFatalException : State → R := lift fun d => (d.error 13 2 0 0 0 0).warmTrigger

/-- CP_MEMORY_UE (R82, R83): word `a` of CP memory, recorded in class 12. -/
def execCpMemoryUe (a : BitVec 19) : State → R :=
  lift fun d => (d.memError 12 2 (0x300A00000 + a.toNat)).warmTrigger

/-- RELOAD_DONE: step 2 of R82: the KIND 0 segments are copied from the retained image, or the CP halts when that fails
ECC (R83). -/
def execReloadDone : State → R :=
  lift fun d =>
    if d.bootState ≠ 6 || d.cp.atEntry then d
    else if (List.range d.cp.loader.retLen).any (fun i => (d.rdP i).2) then d.cpHalt d.recentWarm
    else
      let d := each (d.imgSegs.filter (fun g => g.kind == 0)) Dev.copySeg d
      { d with cp := { d.cp with atEntry := true } }

/-- R430: the hardware error queue drained into the log. -/
def Dev.drainErrQ (d : Dev) : Dev :=
  let d := d.copyErrs
  { d with err := { d.err with queue := [], rd := 0 } }

/-- WARM_RESTART_DONE: step 4 of R82, the log's GAP and drain (R430), and event 0xA02 (R431). -/
def Dev.warmDone (d : Dev) : Dev :=
  if d.bootState ≠ 6 || !d.cp.atEntry then d
  else
    let intr := d.cp.interrupted
    let us := (d.epo.edges - d.cp.warm.headD 0) / 1600
    let d := { (d.setBoot 5) with cp := { d.cp with atEntry := false, interrupted := none, gap := true } }
    let d := each d.cp.executing (fun n d => d.endCmd n stTIMEOUT) d
    let det := match intr with
      | some (n, q) => mkW [(15, 12, n), (7, 0, q), (16, 16, 1)]
      | none => 0
    (((d.event 0x004 0 det).settle).drainErrQ).event 0xA02 0 (mkW [(35, 32, 5), (17, 0, Nat.min us 0x3FFFF)])

/-- WARM_RESTART_DONE. -/
def execWarmRestartDone : State → R := lift fun d => (d.warmDone).serveUnknown 16

/-- R499: a write of 1 to CP_CTL.REBOOT. From PAIRING or ROM_INIT too the CP goes to WAIT_IMAGE at once, and the steps of
R47 that were still to come are not made up for (assumption 136). -/
def Dev.reboot (d : Dev) : Dev :=
  let d := { d with cp := { d.cp with atEntry := false } }
  (d.releaseClaim.answerAll stTIMEOUT stTIMEOUT).event 0x001 0 0

/-- REBOOT (R499). -/
def execReboot (_ : Path) (w : Word) : State → R := lift fun d => if bitOf w 0 then d.reboot else d

end Sys2Proof.Machine
end

