-- ==== Sys2Proof/Machine/Tie.lean ====
section
/-! DEFINITION. What a command of the present CCLK edge did, kept so that another command of the same edge that wins over it
can take it back (R149, R225, R250; assumption 171). What came between the two stays. -/

namespace Sys2Proof.Machine

/-- A value taken back: as it was before, unless something else has changed it since. -/
def undo3 {α : Type} [DecidableEq α] (before after now : α) : α := if now = after then before else now

/-- A map taken back key by key. -/
def undoMap {α : Type} [DecidableEq α] (dflt : Nat → α) (before after now : SMap α) : SMap α :=
  ((before ++ after).map (·.1)).foldl (fun m k =>
    mapSet dflt m k (undo3 (mapGet dflt before k) (mapGet dflt after k) (mapGet dflt m k))) now

/-- The same for a map whose unlisted entries are the default value. -/
def undoM {α : Type} [DecidableEq α] [Inhabited α] (before after now : SMap α) : SMap α :=
  undoMap (fun _ => default) before after now

/-- What was appended to a list taken back. -/
def undoList {α : Type} [DecidableEq α] (before after now : List α) : List α :=
  if now = after then before else now.filter fun x => before.contains x || !after.contains x

/-- A history taken back; what was driven since stays. -/
def undoTail {α : Type} [DecidableEq α] (before after now : List α) : List α :=
  if after.isPrefixOf now then before ++ now.drop after.length else now

/-- The block as a snapshot. -/
def Dev.snap (d : Dev) : Snap :=
  { regs := d.regs, mem := d.mem, uncorr := d.uncorr, parBad := d.parBad, staged := d.staged, out := d.out, cp := d.cp
    mbx := d.mbx, queues := d.queues, qTie := d.qTie, epo := d.epo, sch := d.sch, err := d.err, lnk := d.lnk, pci := d.pci
    unreached := d.unreached, bbOwed := d.bbOwed, ing := d.ing, tsk := d.tsk, fiu := d.fiu, acc := d.acc, rte := d.rte
    pwr := d.pwr, cap := d.cap, coh := d.coh, cal := d.cal, calTie := d.calTie }

/-- The events of a mailbox taken back; its buffers stay as they are. -/
def undoMbx (b a n : Mailbox) : Mailbox := { n with evts := undoList b.evts a.evts n.evts, evtRd := undo3 b.evtRd a.evtRd n.evtRd }

/-- Mailboxes taken back. -/
def undoMbxs (b a n : SMap Mailbox) : SMap Mailbox :=
  forN 16 (fun k m => mset m k (undoMbx (mget b k) (mget a k) (mget m k))) n

/-- The event counter and the log taken back. -/
def undoCp (b a n : Cp) : Cp :=
  { n with
    evtSeq := undo3 b.evtSeq a.evtSeq n.evtSeq, log := undoList b.log a.log n.log, logSeq := undo3 b.logSeq a.logSeq n.logSeq
    logLost := undo3 b.logLost a.logLost n.logLost, lastSeq := undo3 b.lastSeq a.lastSeq n.lastSeq
    gap := undo3 b.gap a.gap n.gap, errUncopied := undo3 b.errUncopied a.errUncopied n.errUncopied
    executing := undo3 b.executing a.executing n.executing, doorbells := undo3 b.doorbells a.doorbells n.doorbells }

/-- The actions counted at an edge. -/
def schCountAt (edge : Nat) (s : Sch) : Nat := if s.edge = edge then s.count else 0

/-- Pins taken back one by one. -/
def undoPins (b a n : Nat) : Nat :=
  forN 16 (fun k v => setNbit v k (undo3 (nbit b k) (nbit a k) (nbit v k))) n

/-- The scheduler taken back. -/
def undoSch (b a n : Sch) : Sch :=
  { ents := undoM b.ents a.ents n.ents, edge := n.edge
    count := n.count - (schCountAt a.edge a - schCountAt a.edge b), pins := undoPins b.pins a.pins n.pins
    fall := undoM b.fall a.fall n.fall, reach := undoM b.reach a.reach n.reach, enc := undoM b.enc a.enc n.enc
    ssi := undoM b.ssi a.ssi n.ssi }

/-- Ingest, tasks and capture taken back. -/
def undoIng (b a n : Ing) : Ing :=
  { n with fel := undoM b.fel a.fel n.fel, fch := undoM b.fch a.fch n.fch, inp := undoM b.inp a.inp n.inp }
def undoTsk (b a n : Tsk) : Tsk :=
  { n with
    src := undoM b.src a.src n.src, beams := undoM b.beams a.beams n.beams, units := undoM b.units a.units n.units
    gen := undoM b.gen a.gen n.gen, done := undoM b.done a.done n.done }
def undoTrg (b a n : Trg) : Trg :=
  { pend := undoList b.pend a.pend n.pend, cut := undo3 b.cut a.cut n.cut, recs := undoList b.recs a.recs n.recs
    ofs := undo3 b.ofs a.ofs n.ofs, dcnt := undo3 b.dcnt a.dcnt n.dcnt, missed := undo3 b.missed a.missed n.missed
    skipped := undo3 b.skipped a.skipped n.skipped, disarm := undo3 b.disarm a.disarm n.disarm
    stop := undo3 b.stop a.stop n.stop, postEdge := undo3 b.postEdge a.postEdge n.postEdge
    arrs := undo3 b.arrs a.arrs n.arrs, arrEdge := undo3 b.arrEdge a.arrEdge n.arrEdge }
def undoCap (b a n : Cap) : Cap :=
  { chan := undoM b.chan a.chan n.chan
    trg := forN 16 (fun k m => mset m k (undoTrg (mget b.trg k) (mget a.trg k) (mget m k))) n.trg
    dmk := undoList b.dmk a.dmk n.dmk, tick := undo3 b.tick a.tick n.tick, tickEdge := n.tickEdge }

/-- A list without its newest element that passes a test. -/
def dropNewest {α : Type} (p : α → Bool) (l : List α) : List α := (l.reverse.eraseP p).reverse

/-- A message is of an event. -/
def msgOf (x : Nat × Nat × Nat × Word) (msg : List Word) : Bool :=
  bitsOf (msg.headD 0) 35 12 == x.1 * 4096 + x.2.1 && msg.drop 1 == epWords x.2.2.1 ++ [x.2.2.2]

/-- An event of this edge taken back: from the events that wait for the end of their command, else every copy of it of which
no word has been read. Its sequence number is not given again (assumption 171). -/
def Dev.unEvent (x : Nat × Nat × Nat × Word) (d : Dev) : Dev :=
  if d.cp.raised.contains x then { d with cp := { d.cp with raised := d.cp.raised.erase x } }
  else
    let d := forN 16 (fun n d => d.modMb n fun m =>
      let read := Nat.min 1 m.evtRd
      { m with evts := m.evts.take read ++ dropNewest (msgOf x) (m.evts.drop read) }) d
    { d with cp := { d.cp with log := dropNewest (fun e => e.1 == 0 && msgOf x e.2) d.cp.log } }

/-- What lies between two snapshots taken back from the block as it is now. -/
def Dev.undo (b a : Snap) (d : Dev) : Dev :=
  each (a.cp.raised.diff b.cp.raised) Dev.unEvent { d with
    regs := undoMap regDflt b.regs a.regs d.regs, mem := undoMap (fun _ => 0) b.mem a.mem d.mem
    uncorr := undoM b.uncorr a.uncorr d.uncorr, parBad := undoM b.parBad a.parBad d.parBad
    staged := undoM b.staged a.staged d.staged, out := undoTail b.out a.out d.out, cp := undoCp b.cp a.cp d.cp
    mbx := undoMbxs b.mbx a.mbx d.mbx, queues := undoM b.queues a.queues d.queues, qTie := undoM b.qTie a.qTie d.qTie
    epo := undo3 b.epo a.epo d.epo, sch := undoSch b.sch a.sch d.sch, err := undo3 b.err a.err d.err
    lnk := undoM b.lnk a.lnk d.lnk, pci := undo3 b.pci a.pci d.pci, unreached := undo3 b.unreached a.unreached d.unreached
    bbOwed := undo3 b.bbOwed a.bbOwed d.bbOwed, ing := undoIng b.ing a.ing d.ing, tsk := undoTsk b.tsk a.tsk d.tsk
    fiu := undoM b.fiu a.fiu d.fiu, acc := undoM b.acc a.acc d.acc, rte := undo3 b.rte a.rte d.rte
    pwr := undo3 b.pwr a.pwr d.pwr, cap := undoCap b.cap a.cap d.cap, coh := undo3 b.coh a.coh d.coh
    cal := undo3 b.cal a.cal d.cal, calTie := undo3 b.calTie a.calTie d.calTie }

/-- What a command did noted, where it did anything that `has` tells; notes of earlier edges go. -/
def Dev.note (kind idx : Nat) (has : Bool) (d old : Dev) : Dev :=
  if has then
    { d with ties := { kind := kind, idx := idx, edge := d.epo.edges + 1, before := old.snap, after := d.snap } ::
      d.ties.filter fun t => t.edge == d.epo.edges + 1 }
  else d

/-- The note of the present edge for a kind and an index, the newest. -/
def Dev.tieOf (d : Dev) (kind idx : Nat) : Option Tie :=
  d.ties.find? fun t => t.kind == kind && t.idx == idx && t.edge == d.epo.edges + 1

/-- It taken back, with its note; nothing where there is none. -/
def Dev.untie (kind idx : Nat) (d : Dev) : Dev :=
  match d.tieOf kind idx with
  | some t => { d.undo t.before t.after with ties := d.ties.erase t }
  | none => d

/-- Every note of the present edge for a kind and an index taken back, the newest first. -/
def Dev.untieAll (kind idx : Nat) (d : Dev) : Dev :=
  let mine := fun (t : Tie) => t.kind == kind && t.idx == idx && t.edge == d.epo.edges + 1
  { each (d.ties.filter mine) (fun t d => d.undo t.before t.after) d with ties := d.ties.filter fun t => !mine t }

/-- A meaning that another command of the same edge may win over: what it did is noted where `has` finds a change. -/
def tied (kind idx : Nat) (has : Dev → Dev → Bool) (m : State → R) (s : State) : R :=
  match m s with
  | .next t => .next { t with dev := t.dev.note kind idx (has s.dev t.dev) s.dev }
  | r => r

end Sys2Proof.Machine
end

