-- ==== Sys2Proof/Machine/Sched.lean ====
section
/-! DEFINITION. The scheduler, its pins and the encoder axes (R133 to R151). -/

namespace Sys2Proof.Machine

/-! ### Entries (R138, R139) -/

/-- Local address of word `i` of entry `e`. -/
def schAddr (e i : Nat) : Nat := schTab + e * 8 + i

/-- Word W`i` of entry `e`. -/
def Dev.schW (d : Dev) (e i : Nat) : Word := d.rd (schAddr e i)

/-- What the scheduler keeps of entry `e`. -/
def Dev.schE (d : Dev) (e : Nat) : SchEnt := mget d.sch.ents e

/-- The entry's hidden part changed. -/
def Dev.modSch (e : Nat) (f : SchEnt → SchEnt) (d : Dev) : Dev :=
  { d with sch := { d.sch with ents := mmod d.sch.ents e f } }

def Dev.schAction (d : Dev) (e : Nat) : Nat := bitsOf (d.schW e 0) 35 32
def Dev.schAxis (d : Dev) (e : Nat) : Nat := bitsOf (d.schW e 0) 31 29
def Dev.schDir (d : Dev) (e : Nat) : Bool := bitOf (d.schW e 0) 28
def Dev.schGen (d : Dev) (e : Nat) : Nat := bitsOf (d.schW e 0) 24 17
def Dev.schCount (d : Dev) (e : Nat) : Nat := bitsOf (d.schW e 0) 15 0
def Dev.schArg (d : Dev) (e i : Nat) : Word := d.schW e (5 + i)

/-- The period of an entry. -/
def Dev.schPeriod (d : Dev) (e : Nat) : Nat := bitsOf (d.schW e 3) 11 0 * 2 ^ 36 + (d.schW e 4).toNat

/-- R146: the target of occurrence `j`: an epoch on axis 0, a position on axes 1-4. -/
def Dev.schTarget (d : Dev) (e j : Nat) : Nat :=
  if d.schAxis e = 0 then ((d.schW e 1).toNat * 2 ^ 36 + (d.schW e 2).toNat + j * d.schPeriod e) % 2 ^ 72
  else ((d.schW e 2).toNat + j * d.schPeriod e) % 2 ^ 36

/-- The STATE field of W0 written (R139). The spec does not say when it reads 2 (issuing): the model goes from armed to
issued within one command and never shows it (assumption 140). -/
def Dev.setSchState (e st : Nat) (d : Dev) : Dev := d.store (schAddr e 0) (putBits (d.schW e 0) 26 25 st)

/-- The entry is freed; its GEN stays in the table. -/
def Dev.schFree (e : Nat) (d : Dev) : Dev := (d.setSchState e 0).modSch e (fun _ => default)

/-- R150: a completion, event 0x210. -/
def Dev.schDone (e st : Nat) (late final : Bool) (occ : Nat) (d : Dev) : Dev :=
  d.event 0x210 e (mkW [(35, 28, st), (27, 27, bit late), (26, 26, bit final), (25, 18, d.schGen e),
    (15, 0, Nat.min occ 0xFFFF)])

/-! ### Pins (R140, R142, R147) -/

/-- A pin driven at a fine delay: an edge goes out where the level changes. -/
def Dev.drivePin (pin : Nat) (lv : Bool) (dl : Nat) (d : Dev) : Dev :=
  if nbit d.sch.pins pin == lv then d
  else ({ d with sch := { d.sch with pins := setNbit d.sch.pins pin lv } }).emit (.pin pin lv dl)

/-- The last edge of a pin taken out of what goes outward. -/
def dropPinOut (pin : Nat) (l : List Out) : List Out :=
  (l.reverse.eraseP fun o => match o with
    | .pin p _ _ => p == pin
    | _ => false).reverse

/-- The pin's level as it was before the actions of this edge; the edge that they drove does not go out. -/
def Dev.pinUndo (pin : Nat) (was : Bool) (d : Dev) : Dev :=
  if nbit d.sch.pins pin == was then d
  else { d with sch := { d.sch with pins := setNbit d.sch.pins pin was }, out := dropPinOut pin d.out }

/-- A pin action of entry `e`: it cancels the falling edge of a pulse in progress and sets its own. Of the actions that
reach one pin at one edge, that of the highest index decides (R147). -/
def Dev.pinAct (e pin : Nat) (lv : Bool) (dl : Nat) (fall : Option Nat) (d : Dev) : Dev :=
  let x := mget d.sch.reach pin
  let same := x.1 == d.epo.edges + 1
  if same && e < x.2.1 then d
  else
    let was := if same then x.2.2 else nbit d.sch.pins pin
    let d := if same then d.pinUndo pin was else d
    ({ d with sch := { d.sch with
      fall := mset d.sch.fall pin fall, reach := mset d.sch.reach pin (d.epo.edges + 1, e, was) } }).drivePin pin lv dl

/-- The 101-bit counter now, and at the next edge. -/
def Dev.nextCnt (d : Dev) : Nat := (d.epo.cnt + d.f F.epoInc_INC) % 2 ^ 101

/-- An epoch as a value of the 101-bit counter, which R142's placement within ±4 ps takes the edges' epochs from. -/
def fullEp (t : Nat) : Nat := 2 ^ 29 * t

/-- R142: the fine delay at this edge of a target given as a value of the 101-bit counter. -/
def Dev.fineDelay (d : Dev) (t : Nat) : Nat :=
  let diff := (t + 2 ^ 101 - d.epo.cnt % 2 ^ 101) % 2 ^ 101
  if diff ≥ 2 ^ 100 then 0 else Nat.min 127 (roundHe (diff * 10 ^ 12 : Nat) (8 * 2 ^ 65)).toNat

/-- R142: the target lies before this edge. -/
def Dev.pinLate (d : Dev) (t : Nat) : Bool := later 101 d.epo.cnt t

/-- R142: this edge is the last whose epoch is not later than the target, or a later one. -/
def Dev.pinDue (d : Dev) (t : Nat) : Bool := later 101 d.nextCnt t || d.pinLate t

/-- PULSE_FALLING_EDGE (R142, R147). -/
def execPulseFallingEdge (pin : Fin 16) : State → R :=
  lift fun d => match mget d.sch.fall pin.val with
    | some t => if d.pinDue t then
        ({ d with sch := { d.sch with fall := mset d.sch.fall pin.val none } }).drivePin pin false
          (if d.pinLate t then 0 else d.fineDelay t)
      else d
    | none => d

/-! ### Issue (R141 to R150) -/

/-- R141: the epoch of the edge before this one was already due, so that this edge is later than the one selected. -/
def Dev.wasDue (d : Dev) (t : Nat) : Bool :=
  let prev := d.epo.prevCnt / 2 ^ 29
  d.epo.edges > 0 && d.epo.stepEdge != some d.epo.edges && notEarlier 72 prev t

/-- The epoch from which a non-pin occurrence with target `t` is due: t - H (R141). -/
def Dev.dueFrom (d : Dev) (t : Nat) : Nat := (t + 2 ^ 72 - d.f F.epoInc_INC / 2 ^ 30) % 2 ^ 72

/-- The next occurrence of entry `e` may issue at this edge, and whether it would be late (R141 to R146): one issues per
edge. -/
def Dev.schDue (d : Dev) (e : Nat) (pin : Bool) : Option Bool :=
  let x := d.schE e
  if !x.live || x.last == some d.epo.edges then none
  else if d.schAxis e ≠ 0 then
    if x.crossed = 0 then none else some (!(x.onTime && x.crossEdge == d.epo.edges) || x.deferred.isSome)
  else
    let t := d.schTarget e x.issued
    if x.late then some true
    else if pin then (if d.pinDue (fullEp t) then some (d.pinLate (fullEp t)) else none)
    else if notEarlier 72 d.now (d.dueFrom t) then some (d.wasDue (d.dueFrom t) || x.deferred.isSome)
    else none

/-- Non-pin actions issued at this edge (R148). -/
def Dev.issuedHere (d : Dev) : Nat := if d.sch.edge = d.epo.edges then d.sch.count else 0

/-- The action of the entry is a pin action; SYSREF is one for R142 and R147 (R157), and outside the limit of R148 with the
others (assumption 170). -/
def Dev.schPin (d : Dev) (e : Nat) : Bool := 1 ≤ d.schAction e && d.schAction e ≤ 3

/-- R147, R148: entry `a` issues before entry `b` at one edge: deferred occurrences first, those of the earliest edge first,
then by index. -/
def Dev.schBefore (d : Dev) (a b : Nat) : Bool :=
  match (d.schE a).deferred, (d.schE b).deferred with
  | some x, some y => decide (x < y) || (x == y && decide (a < b))
  | some _, none => true
  | none, some _ => false
  | none, none => decide (a < b)

/-- R147, R148: it is the turn of entry `e`: no entry that comes before it has still to issue at this edge. Past the limit
of 16 only pin actions do. -/
def Dev.schTurn (d : Dev) (e : Nat) : Bool :=
  d.sch.ents.all fun p => p.1 == e || !d.schBefore p.1 e || (d.schDue p.1 (d.schPin p.1)).isNone
    || (!d.schPin p.1 && decide (d.issuedHere ≥ 16))

/-- R148: the occurrence is deferred, counted once. -/
def Dev.schDefer (e : Nat) (d : Dev) : Dev :=
  if (d.schE e).deferred.isSome then d
  else (d.modSch e (fun x => { x with deferred := some d.epo.edges })).incEv F.schStat_CONGEST_CNT 1 0x211 0 toW

/-- After an occurrence: its completion, and the entry freed after its last one (R143, R146, R150). -/
def Dev.schAfter (e st : Nat) (late : Bool) (d : Dev) : Dev :=
  let d := if late then d.inc F.schStat_LATE_CNT 1 else d
  let occ := (d.schE e).issued + 1
  let d := d.modSch e (fun x => { x with
    issued := occ, deferred := none, late := false, crossed := x.crossed - 1, onTime := false, last := some d.epo.edges })
  let final := d.schCount e != 0 && decide (occ ≥ d.schCount e)
  let d := if final || bitOf (d.schW e 0) 27 then d.schDone e st late final occ else d
  if final then d.schFree e else d

/-- R424 class 15: a table word of the entry is uncorrectable: the entry is freed and completes POISONED. -/
def Dev.schPoisoned (d : Dev) (e : Nat) : Option Nat :=
  (firstN 8 fun i => mget d.uncorr (schAddr e i)).map (schAddr e)

/-- Entry `e` issues its next occurrence of the action `code` at this edge, if it is due and its turn (assumption 141):
`act late d` performs it and answers its status. -/
def Dev.schIssue (e code : Nat) (pin : Bool) (act : Bool → Dev → Nat × Dev) (d : Dev) : Dev :=
  if d.schAction e ≠ code then d
  else match d.schDue e pin with
    | none => d
    | some late =>
      match d.schPoisoned e with
      | some a => ((d.memError 15 1 a).schDone e stPOISONED false true (d.schE e).issued).schFree e
      | none =>
        if !pin && d.issuedHere ≥ 16 then d.schDefer e
        else if !d.schTurn e then d
        else
          let d := if pin then d
            else { d with sch := { d.sch with edge := d.epo.edges, count := d.issuedHere + 1 } }
          let (st, d) := act late d
          d.schAfter e st late

/-- A meaning that issues entry `e`: a cancel of the same edge wins over it (R149). -/
def issueOf (e : Nat) : (State → R) → State → R :=
  tied 0 e fun old d => (old.schE e).issued != (d.schE e).issued || (old.schE e).live != (d.schE e).live

/-- NOP (R140): completion only. -/
def execNop (e : Fin 4096) : State → R := issueOf e (lift (Dev.schIssue e 0 false fun _ d => (stOK, d)))

/-- The fine delay of an occurrence of pin entry `e` (R142). -/
def Dev.pinDelay (d : Dev) (e : Nat) (late : Bool) : Nat :=
  if late || d.schAxis e ≠ 0 then 0 else d.fineDelay (fullEp (d.schTarget e (d.schE e).issued))

/-- The epoch at which the pin edge of an occurrence is placed (R142), as a value of the 101-bit counter. -/
def Dev.pinEpoch (d : Dev) (e : Nat) (late : Bool) : Nat :=
  if late || d.schAxis e ≠ 0 then d.epo.cnt else fullEp (d.schTarget e (d.schE e).issued)

/-- PIN_SET (R140, R142, R147). -/
def execPinSet (e : Fin 4096) : State → R :=
  issueOf e (lift (Dev.schIssue e 1 true fun late d =>
    (stOK, d.pinAct e (bitsOf (d.schArg e 0) 3 0) (bitOf (d.schArg e 0) 8) (d.pinDelay e late) none)))

/-- PIN_PULSE (R140, R142, R147). -/
def execPinPulse (e : Fin 4096) : State → R :=
  issueOf e (lift (Dev.schIssue e 2 true fun late d =>
    let fall := (d.pinEpoch e late + fullEp (d.schArg e 1).toNat) % 2 ^ 101
    (stOK, d.pinAct e (bitsOf (d.schArg e 0) 3 0) true (d.pinDelay e late) (some fall))))

/-- EVENT (R140): event 0x212 with ARG0. -/
def execEvent (e : Fin 4096) : State → R :=
  issueOf e (lift (Dev.schIssue e 9 false fun _ d => (stOK, d.event 0x212 0 (d.schArg e 0))))

/-! ### SCHED_ADD, SCHED_CANCEL (R138 to R149) -/

/-- R139, R140: the entry is refused with BAD_ARG. Bits of ARG0 to ARG2 that the entry's action does not list are ignored
(assumption 142): R140 names the cases of BAD_ARG, and these bits are none of them. -/
def schBadArg (w : Nat → Word) : Bool :=
  let act := bitsOf (w 0) 35 32
  let axis := bitsOf (w 0) 31 29
  let count := bitsOf (w 0) 15 0
  let period := bitsOf (w 3) 11 0 * 2 ^ 36 + (w 4).toNat
  let width := (w 6).toNat
  bitsOf (w 0) 26 16 ≠ 0 || axis > 4 || act > 9 || bitsOf (w 3) 35 12 ≠ 0
    || (axis ≠ 0 && (w 1).toNat ≠ 0)
    || (count ≠ 1 && period = 0)
    || (count ≠ 1 && axis = 0 && period < 0x1000)
    || (act = 2 && count ≠ 1 && period ≤ width)
    || (act = 2 && width < 0x100)
    || (axis ≠ 0 && bitsOf (w 3) 11 0 ≠ 0)

/-- SCH_CFG.GRACE in ep (R144). -/
def Dev.graceEp (d : Dev) : Nat := epOf (Nat.min 1000 (d.f F.schCfg_GRACE)) 1000000

/-- R144: what the epoch now makes of a target: none PAST, else whether it issues with LATE. -/
def Dev.graceTest (d : Dev) (t : Nat) : Option Bool :=
  if notEarlier 72 t d.now then some false
  else if earlier 72 t d.now && d.f F.schCfg_GRACE ≠ 0 && (d.now + 2 ^ 72 - t) % 2 ^ 72 ≤ d.graceEp then some true
  else none

/-- The lowest free entry (R138). -/
def Dev.schFreeIdx (d : Dev) : Option Nat := firstN 4096 fun e => !(d.schE e).live

/-- An entry committed at index `e` (R138): a late one issues at the next edge (R144). -/
def Dev.schCommit (e : Nat) (w : Nat → Word) (late : Bool) (d : Dev) : Dev :=
  let gen := (d.schGen e + 1) % 256
  let w0 := putBits (putBits (w 0) 26 25 1) 24 17 gen
  let d := forN 8 (fun i d => d.store (schAddr e i) (if i = 0 then w0 else w i)) d
  d.modSch e (fun _ => { (default : SchEnt) with live := true, late := late, last := if late then some d.epo.edges else none })

/-- The handle of entry `e` (R138). -/
def Dev.schHandle (d : Dev) (e : Nat) : Word := mkW [(19, 12, d.schGen e), (11, 0, e)]

/-- SCHED_ADD, opcode 0x210 (R138 to R144). -/
def Dev.schedAdd (n : Nat) (d : Dev) : Dev :=
  let w := fun i => d.arg n (i + 1)
  if schBadArg w then d.reply n stBAD_ARG []
  else
    let g := if bitsOf (w 0) 31 29 ≠ 0 then some false
      else d.graceTest ((w 1).toNat * 2 ^ 36 + (w 2).toNat)
    match g with
    | none => d.reply n stPAST []
    | some late =>
      match d.schFreeIdx with
      | none => d.reply n stNO_RESOURCE []
      | some e =>
        let d := d.schCommit e w late
        d.reply n stOK [d.schHandle e]

/-- SCHED_ADD. -/
def execSchedAdd (n : Mbx) : State → R := lift (Dev.takeCmd n 0x210 (· == 8) (Dev.schedAdd n))

/-- R149: an entry cancelled: its final completion, and it is freed. -/
def Dev.schCancel (e : Nat) (d : Dev) : Dev :=
  (d.schDone e stCANCELLED false true (d.schE e).issued).schFree e

/-- The block without the issue of entry `e` at this edge, if there was one and the entry stands as it left it. -/
def Dev.unissued (e : Nat) (d : Dev) : Dev :=
  if (d.tieOf 0 e).any fun t => mget t.after.sch.ents e == d.schE e then d.untie 0 e else d

/-- SCHED_CANCEL, opcode 0x211 (R149). It wins over an issue of its own edge: that occurrence is taken back. -/
def Dev.schedCancel (n : Nat) (d : Dev) : Dev :=
  let a := d.arg n 1
  let e := bitsOf a 11 0
  let old := d.unissued e
  let occ := (old.schE e).issued
  if bitsOf a 35 20 ≠ 0 || !(old.schE e).live || old.schGen e != bitsOf a 19 12 then d.reply n stBAD_ARG []
  else (old.schCancel e).reply n stOK [toW (Nat.min occ 0xFFFF)]

/-- SCHED_CANCEL. -/
def execSchedCancel (n : Mbx) : State → R := lift (Dev.takeCmd n 0x211 (· == 1) (Dev.schedCancel n))

/-! ### First lock (R130, R151) -/

/-- R151: an armed axis 0 entry tested again against the new epoch; an occurrence deferred by R148 stays deferred, so that it
issues with LATE even where its target is ahead again (assumption 172). -/
def Dev.schRetest (e : Nat) (d : Dev) : Dev :=
  let x := d.schE e
  if !x.live || d.schAxis e ≠ 0 then d
  else match d.graceTest (d.schTarget e x.issued) with
    | some false => d.modSch e (fun x => { x with late := false })
    | some true => d.modSch e (fun x => { x with late := true })
    | none => (d.schDone e stPAST false true x.issued).schFree e

/-- FIRST_LOCK_STEP (R114, R115, R130, R151): `t` is the candidate's time code in seconds. With a stream enabled since CAND
qualified, TM9 slews. Event 0x202 takes its number before every event that carries the new time (R114; assumption 52). -/
def Dev.firstLockStep (t : Nat) (d : Dev) : Dev :=
  if !d.epo.stepPend || d.epoState ≠ 3 || d.fb F.epoStat_EVER_LOCKED then d
  else
    let cand := d.epoCand
    let tai := if cand < 2 then t + d.f F.epoTai_TAI_UTC else t
    let sec := (tai + 2 ^ 48 - d.origin % 2 ^ 48) % 2 ^ 36
    if d.streamsOn then ({ d with epo := { d.epo with stepPend := false } }).candSlew (sdiff 72 (sec * 2 ^ 36) d.now)
    else
      let d := d.setNow (sec * 2 ^ 36)
      let d := { d with epo := { d.epo with stepEdge := some d.epo.edges } }
      let d := (d.event 0x202 0 (toW sec)).settle.refGo 1 cand noSrc
      forN 4096 (fun e d => if (d.sch.ents.any fun p => p.1 == e) then d.schRetest e else d) d

/-- FIRST_LOCK_STEP. -/
def execFirstLockStep (t : BitVec 48) : State → R := lift (Dev.firstLockStep t.toNat)

/-! ### Axes (R133 to R137, R145, R146) -/

/-- R145, R146: how many successive occurrences from target `t` a change of position crosses; `p` is the period. -/
def crossCount (dir : Bool) (prev new t p : Nat) : Nat :=
  let a := if dir then (prev + 2 ^ 36 - t) % 2 ^ 36 else (t + 2 ^ 36 - prev) % 2 ^ 36
  let j := if dir then (t + 2 ^ 36 - new) % 2 ^ 36 else (new + 2 ^ 36 - t) % 2 ^ 36
  if a = 0 || a ≥ 2 ^ 35 || j ≥ 2 ^ 35 then 0
  else if p = 0 then 1
  else if dir then Nat.min ((a - 1) / p) ((2 ^ 35 - 1 - j) / p) + 1
  else Nat.min (j / p) ((2 ^ 35 - 1 - a) / p) + 1

/-- R145: entry `e` of axis `ax` tested against a change of POS. -/
def Dev.schCross (ax prev new e : Nat) (d : Dev) : Dev :=
  let x := d.schE e
  if !x.live || d.schAxis e ≠ ax then d
  else
    let left := if d.schCount e = 0 then 2 ^ 36 else d.schCount e - x.issued - x.crossed
    let k := Nat.min left (crossCount (d.schDir e) prev new (d.schTarget e (x.issued + x.crossed)) (d.schPeriod e))
    if k = 0 then d
    else d.modSch e (fun x => { x with
      crossed := x.crossed + k
      crossEdge := if x.crossed = 0 then d.epo.edges else x.crossEdge
      onTime := if x.crossed = 0 then true else x.onTime })

/-- A new position of axis `a` (0-3 for axes 1-4): POS, and the crossings it makes. -/
def Dev.setPos (a v : Nat) (d : Dev) : Dev :=
  let prev := d.f (F.axsPos_POS a)
  let d := d.setF (F.axsPos_POS a) v
  each (d.sch.ents.map (·.1)) (Dev.schCross (a + 1) prev (v % 2 ^ 36)) d

/-- AXS_POS_WRITE (R137). -/
def execAxsPosWrite (_ : Path) (a : Fin 4) (w : Word) : State → R := lift (Dev.setPos a w.toNat)

/-- R134, R136: an axis fault: ERR_CNT and event 0x220 with the axis. -/
def Dev.axisFault (a reason : Nat) (d : Dev) : Dev :=
  (d.inc (F.axsStat_ERR_CNT a) 1).event 0x220 (a + 1) (toW reason)

/-- QUAD_EDGE (R134): `x`, `y` are the accepted levels of ENCa_A and ENCa_B. -/
def Dev.quadEdge (a : Nat) (x y : Bool) (d : Dev) : Dev :=
  let last := mget d.sch.enc a
  let la := nbit last 1
  let lb := nbit last 0
  let d := { d with sch := { d.sch with enc := mset d.sch.enc a (2 * bit x + bit y) } }
  let pos := d.f (F.axsPos_POS a)
  if d.f (F.axsCfg_MODE a) ≠ 1 then d
  else if x != la && y != lb then (d.setF (F.axsStat_ILLEGAL a) 1).axisFault a 1
  else if x != la then d.setPos a (if x != y then pos + 1 else pos + 2 ^ 36 - 1)
  else if y != lb then d.setPos a (if x == y then pos + 1 else pos + 2 ^ 36 - 1)
  else d

/-- QUAD_EDGE. -/
def execQuadEdge (a : Fin 4) (lvA lvB : Bool) : State → R := lift (Dev.quadEdge a lvA lvB)

/-- INDEX_EDGE (R135): a rising edge of ENCa_Z. -/
def Dev.indexEdge (a : Nat) (d : Dev) : Dev :=
  let mode := d.f (F.axsCfg_MODE a)
  let idx := d.f (F.axsCfg_IDX a)
  if (mode = 1 || mode = 2) && (idx = 1 || idx = 2) then
    let d := (d.setPos a 0).setF (F.axsStat_IDX_SEEN a) 1
    if idx = 1 then d.setF (F.axsCfg_IDX a) 0 else d
  else d

/-- INDEX_EDGE. -/
def execIndexEdge (a : Fin 4) : State → R := lift (Dev.indexEdge a)

/-- SSI_FRAME_START (R136). -/
def execSsiFrameStart (a : Fin 4) : State → R :=
  lift fun d => if d.f (F.axsCfg_MODE a) = 2 then
    { d with sch := { d.sch with ssi := mset d.sch.ssi a.val true } } else d

/-- The binary value of a Gray code of at most 36 bits. -/
def grayDecode (g : Nat) : Nat := (List.range 36).foldl (fun b i => b ^^^ (g >>> i)) 0

/-- SSI_FRAME_DONE (R133, R136): an axis that is not in SSI mode holds POS. BITS = 0, outside its range of 1 to 36, reads a
frame of no bits, whose value is 0 (assumption 55). -/
def Dev.ssiDone (a : Nat) (bits : Word) (hs he : Bool) (d : Dev) : Dev :=
  if !mget d.sch.ssi a || d.f (F.axsCfg_MODE a) ≠ 2 then d
  else
    let d := { d with sch := { d.sch with ssi := mset d.sch.ssi a false } }
    if !(hs && he) then (d.setF (F.axsStat_FRAME_ERR a) 1).axisFault a 2
    else
      let v := bits.toNat % 2 ^ Nat.min 36 (d.f (F.axsCfg_BITS a))
      d.setPos a (if d.fb (F.axsCfg_GRAY a) then grayDecode v else v)

/-- SSI_FRAME_DONE. -/
def execSsiFrameDone (a : Fin 4) (bits : Word) (highStart highEnd : Bool) : State → R :=
  lift (Dev.ssiDone a bits highStart highEnd)

end Sys2Proof.Machine
end

