-- ==== Sys2Proof/Machine/Ingest.lean ====
section
/-! DEFINITION. Front-end ingest: JESD204C links, Fiuth-borne inputs, supply droop (R152 to R176). -/

namespace Sys2Proof.Machine

/-! ### Exact epochs -/

/-- num / den rounded up. -/
def ceilQ (num : Int) (den : Nat) : Int := -((-num) / (den : Int))

/-- An integer of ep as a 72-bit epoch. -/
def ep72 (x : Int) : Nat := (x % 2 ^ 72).toNat

/-! ### Sources (R178, R185, R205) -/

/-- A source's record. -/
def Dev.source (d : Dev) (k : Nat) : Source := mget d.tsk.src k

/-- A source's record changed. -/
def Dev.modSource (k : Nat) (f : Source → Source) (d : Dev) : Dev :=
  { d with tsk := { d.tsk with src := mmod d.tsk.src k f } }

/-- An input's slots. -/
def Dev.inp (d : Dev) (i : Nat) : Inp := mget d.ing.inp i

/-- An input's slots changed. -/
def Dev.modInp (i : Nat) (f : Inp → Inp) (d : Dev) : Dev := { d with ing := { d.ing with inp := mmod d.ing.inp i f } }

/-- E(n) of an input, in ep, as a fraction's numerator. -/
def Inp.num (x : Inp) (n : Nat) : Int := x.a + (n * x.st : Nat)

/-- E(n) rounded half to even (R158, R169). -/
def Inp.at (x : Inp) (n : Nat) : Nat := ep72 (roundHe (x.num n) x.den)

/-- Table switches that wait for slots of a step that has not begun (R205). -/
def keptSwitches (m : SMap StepRun) : SMap StepRun :=
  m.foldl (fun a (c, r) => mset a c { (default : StepRun) with switches := if r.begun = 0 then r.switches else [] }) []

/-- An input starts at its slot 0: a new recipe takes effect, every step begins at its first block, and the model registers
begin at zero (assumption 176). -/
def Dev.startInput (i : Nat) (x : Inp) (d : Dev) : Dev :=
  let d := { d with ing := { d.ing with inp := mset d.ing.inp i x } }
  d.modSource i fun s => { s with
    recipe := s.next.getD s.recipe, next := none, steps := keptSwitches s.steps, dm := [], pm := []
    cancelAt := none, cancelled := 0 }

/-! ### Links (R152 to R168) -/

/-- What the registers of a link say (R152, R155). -/
structure LinkCfg where
  m : Nat
  s : Nat
  np : Nat
  n : Nat
  cs : Nat
  e : Nat
  iq : Bool
  base : Nat
  rbd : Nat
  fs : Nat
  ofs : Int
  lanes : List Nat
deriving DecidableEq, Repr, Inhabited

/-- The configuration of link `l`; `np` is 0 for the refused code. -/
def Dev.linkCfg (d : Dev) (l : Nat) : LinkCfg :=
  { m := d.f (F.felCfg0_M_M1 l) + 1
    s := d.f (F.felCfg0_S_M1 l) + 1
    np := [8, 12, 16, 0].getD (d.f (F.felCfg0_NP l)) 0
    n := d.f (F.felCfg0_N_M1 l) + 1
    cs := d.f (F.felCfg0_CS l)
    e := d.f (F.felCfg1_E_M1 l) + 1
    iq := d.fb (F.felCfg1_IQ l)
    base := d.f (F.felCfg1_CH_BASE l)
    rbd := d.f (F.felCfg1_RBD l)
    fs := d.f (F.felRate_FS l)
    ofs := sOf 36 (d.f (F.felTxOfs_OFS l))
    lanes := (List.range 16).filter fun j => nbit (d.f (F.felCfg0_LANES l)) j }

/-- L. -/
def LinkCfg.l (c : LinkCfg) : Nat := c.lanes.length

/-- F, when whole (R152). -/
def LinkCfg.f (c : LinkCfg) : Nat := c.m * c.s * c.np / (8 * c.l)

/-- P: samples of every converter in one EMB (R158). -/
def LinkCfg.p (c : LinkCfg) : Nat := 256 * c.e * c.s / c.f

/-- Inputs of the link (R155). -/
def LinkCfg.inputs (c : LinkCfg) : List Nat := (List.range (if c.iq then c.m / 2 else c.m)).map (c.base + ·)

/-- A link of the block. -/
def Dev.fel (d : Dev) (l : Nat) : Fel := mget d.ing.fel l

/-- A link changed. -/
def Dev.modFel (l : Nat) (f : Fel → Fel) (d : Dev) : Dev := { d with ing := { d.ing with fel := mmod d.ing.fel l f } }

/-- A lane changed. -/
def Dev.modLane (l j : Nat) (f : FelLane → FelLane) (d : Dev) : Dev :=
  d.modFel l fun x => { x with lanes := mmod x.lanes j f }

/-- STATE of a link. -/
def Dev.felState (d : Dev) (l : Nat) : Nat := d.f (F.felStat_STATE l)

/-- An input of the link that is enabled. -/
def Dev.liveInputs (d : Dev) (l : Nat) : List Nat := (d.linkCfg l).inputs.filter fun i => d.fb (F.ingChCfg_EN i)

/-- k_i (R160). -/
def Dev.skewK (d : Dev) (i fs : Nat) : Nat := (roundHe (d.f (F.ingChSkew_SKEW i) * fs : Nat) (2 ^ 36)).toNat

/-- R153: an input that lies in the range of a link not DOWN, with that link. -/
def Dev.linkOf (d : Dev) (i : Nat) : Option Nat :=
  firstN 16 fun l => d.felState l ≠ 0 && (d.linkCfg l).inputs.contains i

/-- The package lane number of lane bit `j`. -/
def pkgLane (l j : Nat) : Nat := l / 8 * 16 + j

/-- The detail of event 0x300: the status of a completion, and STATE. -/
def felDetail (status st : Nat) : Word := mkW [(35, 28, status), (1, 0, st)]

/-- STATE set, with event 0x300 and the status of a completion. -/
def Dev.felGo (l st status : Nat) (d : Dev) : Dev :=
  (d.setF (F.felStat_STATE l) st).event 0x300 l (felDetail status st)

/-- Nothing of the link delivers any more. -/
def Dev.felQuiet (l : Nat) (d : Dev) : Dev :=
  let d := d.setF (F.felStat_LANES_UP l) 0
  let d := forN 16 (fun j d => d.setF (F.felLane_UP l j) 0) d
  d.modFel l (fun _ => default)

/-- The link goes DOWN. -/
def Dev.felDown (l status : Nat) (d : Dev) : Dev := (d.felQuiet l).felGo l 0 status

/-- LINK_START has completed at this edge with a status (R168). -/
def Dev.felFin (l status : Nat) (d : Dev) : Dev := d.modFel l fun x => { x with fin := some (d.epo.edges, status) }

/-- Two ranges of inputs share one. -/
def overlapIn (a b : LinkCfg) : Bool := a.inputs.any b.inputs.contains

/-- R152, LINK_START: the reason code of the first check that fails in ascending order of the codes, or none (assumption 173). -/
def Dev.linkReason (l : Nat) (d : Dev) : Option Nat :=
  let c := d.linkCfg l
  let others := (List.range 16).filter fun k => k ≠ l && d.felState k ≠ 0
  let live := c.inputs.filter fun i => i < 4096 && d.fb (F.ingChCfg_EN i)
  let bits := c.m * c.s * c.np
  let rate := c.m * c.np * c.fs * 66
  let srcA := d.f (F.felCfg1_SR_SRC l)
  if c.l = 0 || others.any (fun k => k / 8 == l / 8 && (d.linkCfg k).lanes.any c.lanes.contains) then some 1
  else if c.np = 0 || c.cs = 3 || c.n + c.cs > c.np then some 2
  else if bits % (8 * c.l) ≠ 0 || c.f < 1 || c.f > 256 || 256 * c.e % c.f ≠ 0 then some 3
  else if rate < 6000000000 * 64 * c.l || rate > 32500000000 * 64 * c.l then some 4
  else if c.iq && c.m % 2 = 1 then some 5
  else if c.inputs.any (4095 < ·) || others.any (fun k => overlapIn (d.linkCfg k) c) then some 6
  else if live.any (fun i => d.f (F.ingChCfg_CLU i) / 32 ≠ l / 8) then some 7
  else if live.any (fun i => d.f (F.ingChSkew_SKEW i) ≥ 2 ^ 35 || d.skewK i c.fs > 65535) then some 8
  else if srcA ≥ 2 || (srcA = 0 && d.f (F.felCfg1_SR_PIN l) ≥ 4) then some 9
  else if c.rbd * c.fs * c.f < 256 * c.s * 1000000000 then some 10
  else none

/-- LINK_START, opcode 0x300, class C (R152 to R154, R159). -/
def Dev.linkStart (n : Nat) (d : Dev) : Dev :=
  let l := (d.arg n 1).toNat
  if l > 15 then d.reply n stBAD_ARG [0]
  else if d.felState l ≠ 0 then d.reply n stBUSY [0]
  else match d.linkReason l with
    | some r => d.reply n stBAD_ARG [toW r]
    | none => ((d.modFel l (fun _ => default)).reply n stOK [0]).felGo l 1 0

/-- LINK_START. -/
def execLinkStart (n : Mbx) : State → R := lift (Dev.takeCmd n 0x300 (· == 1) (Dev.linkStart n))

/-- LINK_LANE_LOCK (R159, step 3): every lane of the starting link holds sync-header and EMB lock. -/
def execLinkLaneLock (l : Fin 16) : State → R :=
  lift fun d =>
    if d.felState l ≠ 1 then d
    else
      let js := (d.linkCfg l).lanes
      let d := each js (fun j d => (d.modLane l j (fun x => { x with lock := true })).setF (F.felLane_UP l j) 1) d
      (d.setF (F.felStat_LANES_UP l) (d.f (F.felCfg0_LANES l))).felGo l 2 0

/-- LINK_SYNC_TIMEOUT (R159, step 2). -/
def execLinkSyncTimeout (l : Fin 16) : State → R :=
  lift fun d => if d.felState l = 1 then (d.felDown l stTIMEOUT).felFin l stTIMEOUT else d

/-- SYSREF_WAIT_TIMEOUT (R159, step 4). -/
def execSysrefWaitTimeout (l : Fin 16) : State → R :=
  lift fun d => if d.felState l = 2 && (d.fel l).esr.isNone then (d.felDown l stTIMEOUT).felFin l stTIMEOUT else d

/-- rel(k) x fs, as an integer of ep per fs (R158). -/
def Dev.relNum (d : Dev) (l k : Nat) : Int :=
  let c := d.linkCfg l
  (((d.fel l).esr.getD 0 : Int) + c.ofs + epOf c.rbd 1000000000) * c.fs + (k * c.p * 2 ^ 36 : Nat)

/-- L(k) x fs (R158). -/
def Dev.startNum (d : Dev) (l k : Nat) : Int :=
  let c := d.linkCfg l
  (((d.fel l).esr.getD 0 : Int) + c.ofs) * c.fs + (k * c.p * 2 ^ 36 : Nat)

/-- The first epoch not earlier than rel(k). -/
def Dev.relEp (d : Dev) (l k : Nat) : Nat := ep72 (ceilQ (d.relNum l k) (d.linkCfg l).fs)

/-- R159, step 5: k0 for a captured E_sr. -/
def LinkCfg.k0 (c : LinkCfg) : Nat :=
  (ceilQ (((epOf 2 1000000 : Nat) - c.ofs - (epOf c.rbd 1000000000 : Nat)) * c.fs) (c.p * 2 ^ 36)).toNat

/-- A SYSREF edge of link `l` at epoch `e`: captured (R157, R159), or checked against the grid (R166). -/
def Dev.sysrefAt (l e : Nat) (d : Dev) : Dev :=
  let c := d.linkCfg l
  let st := d.felState l
  match (d.fel l).esr with
  | none =>
    if st = 2 then d.modFel l fun x => { x with esr := some e, k0 := c.k0, next := c.k0 } else d
  | some es =>
    if (st = 2 || st = 3) && d.fb (F.felCfg1_SR_MON l) then
      let diff := sdiff 72 e es * (c.fs : Int)
      let per := c.p * 2 ^ 36
      let off := diff - roundHe diff per * per
      if 2 * off.natAbs ≤ 2 ^ 36 then d
      else (d.setF (F.felStat_SR_PHASE_ERR l) 1).event 0x304 l (toW (sTo 36 (satS 36 (roundHe off c.fs)).1))
    else d

/-- SYSREF_EDGE (R157, R158, R166). -/
def execSysrefEdge (l : Fin 16) (e : Epoch) : State → R := lift (Dev.sysrefAt l e.toNat)

/-- R157: links whose external SYSREF is TRIG_IN `pin`. -/
def Dev.sysrefLinks (d : Dev) (pin : Nat) : List Nat :=
  (List.range 16).filter fun l => d.felState l ≠ 0 && d.f (F.felCfg1_SR_SRC l) = 1 && d.f (F.felCfg1_SR_PIN l) = pin

/-- SYSREF (R140, R142, R147, R157): a pulse of 64 CCLK on the SYNC_OUT pins of the masked links with internal SYSREF;
E_sr is the entry's target. On axes 1 to 4, whose target is a position, it is the epoch now (assumption 143). It is not among the
16 actions of R148 (assumption 170). -/
def Dev.sysrefAct (e : Nat) (late : Bool) (d : Dev) : Nat × Dev :=
  let ls := (List.range 16).filter fun l =>
    nbit (bitsOf (d.schArg e 0) 15 0) l && d.f (F.felCfg1_SR_SRC l) = 0 && d.f (F.felCfg1_SR_PIN l) ≤ 3
  let at' := d.pinEpoch e late
  let esr := if d.schAxis e = 0 then d.schTarget e (d.schE e).issued else d.now
  let fall := (at' + 64 * d.f F.epoInc_INC) % 2 ^ 101
  let dl := d.pinDelay e late
  (stOK, each ls (fun l d => (d.pinAct e (8 + d.f (F.felCfg1_SR_PIN l)) true dl (some fall)).sysrefAt l esr) d)

/-- SYSREF. -/
def execSysref (e : Fin 4096) : State → R := issueOf e (lift (Dev.schIssue e 3 true (Dev.sysrefAct e)))

/-- LINK_RUN (R159, step 5; R160): at rel(k0) every enabled input gets its slot 0. -/
def Dev.linkRun (l : Nat) (d : Dev) : Dev :=
  let x := d.fel l
  let c := d.linkCfg l
  if d.felState l ≠ 2 || x.esr.isNone || !notEarlier 72 d.now (d.relEp l x.k0) then d
  else
    let d := each (d.liveInputs l) (fun i d =>
      let k := d.skewK i c.fs
      d.startInput i { a := d.startNum l x.k0, st := 2 ^ 36, den := c.fs, slots := 0
                       res := (d.f (F.ingChSkew_SKEW i) * c.fs : Nat) - (k * 2 ^ 36 : Nat) }) d
    let d := (d.setF (F.felSlotLo_SLOT l) 0).setF (F.felSlotHi_SLOT l) 0
    (d.felGo l 3 0).felFin l stOK

/-- LINK_RUN. -/
def execLinkRun (l : Fin 16) : State → R := lift (Dev.linkRun l)

/-! ### Lanes (R162 to R165, R175) -/

/-- A lane of a link. -/
def Dev.lane (d : Dev) (l j : Nat) : FelLane := mget (d.fel l).lanes j

/-- The lane delivers. -/
def Dev.laneUp (d : Dev) (l j : Nat) : Bool := d.fb (F.felLane_UP l j)

/-- A lane is lost (R163): it delivers nothing of what it holds. Reasons 1 and 2 lose its lock. -/
def Dev.laneLose (l j reason : Nat) (d : Dev) : Dev :=
  if !d.laneUp l j then d
  else
    let d := (d.setF (F.felLane_UP l j) 0).setF (F.felLane_LOST_RSN l j) reason
    let d := d.setF (F.felStat_LANES_UP l) (setNbit (d.f (F.felStat_LANES_UP l)) j false)
    let next := (d.fel l).next
    let d := d.modLane l j fun x => { x with
      buf := [], lateRun := 0, markRun := 0, good := none, lostFrom := next
      lock := if reason ≤ 2 then false else x.lock }
    d.event 0x302 l (mkW [(10, 8, reason), (4, 0, pkgLane l j)])

/-- INVALID_SYNC_HEADERS (R163): 16 invalid sync headers within 64 blocks. -/
def execInvalidSyncHeaders (l : Fin 16) (j : Fin 16) : State → R :=
  lift fun d => if d.felState l ≥ 2 && nbit (d.f (F.felCfg0_LANES l)) j then d.laneLose l j 1 else d

/-- LANE_LOCK_REGAINED (R165). -/
def execLaneLockRegained (l : Fin 16) (j : Fin 16) : State → R :=
  lift fun d =>
    if d.felState l ≥ 2 && nbit (d.f (F.felCfg0_LANES l)) j then d.modLane l j (fun x => { x with lock := true }) else d

/-- R165: an EMB of a lost lane arrived within the window: the second in succession makes the lane rejoin. The EMBs
missed run from the first not delivered through that second one (assumption 175). -/
def Dev.laneGood (l j k : Nat) (d : Dev) : Dev :=
  let x := d.lane l j
  if x.good.map (· + 1) == some k then
    let d := d.modLane l j fun x => { x with good := none, start := k + 1, buf := [] }
    let d := (d.setF (F.felLane_UP l j) 1).setF (F.felStat_LANES_UP l)
      (setNbit (d.f (F.felStat_LANES_UP l)) j true)
    d.event 0x303 l (mkW [(35, 12, Nat.min (k + 1 - x.lostFrom) 0xFFFFFF), (4, 0, pkgLane l j)])
  else d.modLane l j fun x => { x with good := some k }

/-- LAT of a lane (R162): arrival - L(k), saturating; a value below zero is one the register cannot hold, and free
(assumption 17). -/
def Dev.laneLat (l j k arr : Nat) (d : Dev) : Dev :=
  let c := d.linkCfg l
  let start := roundHe (d.startNum l k) c.fs
  let lat := sdiff 72 arr (ep72 start)
  if lat < 0 then let (v, d) := d.fresh; d.setF (F.felLane_LAT l j) (v % 2 ^ 24)
  else d.setF (F.felLane_LAT l j) (Nat.min lat.toNat 0xFFFFFF)

/-- The markers of a lane that delivers (R163): two absent in succession lose it. -/
def Dev.laneMark (l j : Nat) (marker : Bool) (d : Dev) : Dev :=
  if !d.laneUp l j then d
  else if !marker && (d.lane l j).markRun + 1 ≥ 2 then d.laneLose l j 2
  else d.modLane l j fun x => { x with markRun := if marker then 0 else x.markRun + 1 }

/-- EMB `k` of a lane that delivers came before the link's first release, EMB k0: two late in succession lose the lane (R163).
Later ones are judged at their release. -/
def Dev.laneEarlyLate (l j k : Nat) (late : Bool) (d : Dev) : Dev :=
  if !d.laneUp l j || (d.fel l).k0 ≤ k then d
  else if late && (d.lane l j).lateRun + 1 ≥ 2 then d.laneLose l j 3
  else d.modLane l j fun x => { x with lateRun := if late then x.lateRun + 1 else 0 }

/-- EMB_ARRIVAL (R162 to R165). Before E_sr is captured no EMB has a number or a window: its CRC failures count and its marker
is judged. -/
def Dev.embArrival (l j k arr : Nat) (crcBad : List (Fin 4)) (marker : Bool) (octets : List Byte) (d : Dev) : Dev :=
  let c := d.linkCfg l
  let x := d.lane l j
  if d.felState l < 2 || !nbit (d.f (F.felCfg0_LANES l)) j then d
  else
    let d := if x.lock then
        each crcBad (fun _ d => d.incEv (F.felLane_CRC_CNT l j) 1 0x301 l (fun _ => toW (pkgLane l j))) d
      else d
    if (d.fel l).esr.isNone then d.laneMark l j marker
    else
      let d := d.laneLat l j k arr
      let rel := d.relNum l k
      let late := later 72 arr (ep72 (rel / (c.fs : Int)))
      -- R163: earlier than rel(k) by more than 8 multiblocks of 256 x S / F samples.
      let early := earlier 72 arr (ep72 (ceilQ (rel * c.f - (8 * 256 * c.s * 2 ^ 36 : Nat)) (c.fs * c.f)))
      if !d.laneUp l j then
        if x.lock && marker && !late && !early then d.laneGood l j k
        else d.modLane l j fun x => { x with good := none }
      else if early then d.laneLose l j 4
      else
        let d := (d.laneMark l j marker).laneEarlyLate l j k late
        let emb : Emb := { k := k, late := late, whole := marker, octets := octets
                           crc := crcBad.foldl (fun m b => setNbit m b true) 0 }
        if !d.laneUp l j then d
        else d.modLane l j fun x => { x with buf := if k < (d.fel l).next then x.buf else x.buf ++ [emb] }

/-- EMB_ARRIVAL. -/
def execEmbArrival (l : Fin 16) (j : Fin 16) (k : Nat) (arr : Epoch) (crcBad : List (Fin 4)) (marker : Bool)
    (octets : List Byte) : State → R := lift (Dev.embArrival l j k arr.toNat crcBad marker octets)

/-! ### Release (R155, R156, R160, R161, R167) -/

/-- The sample word of converter `m`, sample `s` of frame `f` of an EMB: 0 whole, 1 CRC failed, 2 not delivered; and
its N' bits. Octets of a frame follow each other over the lanes, F to a lane (assumption 18). -/
def LinkCfg.sample (c : LinkCfg) (embs : List (Option Emb)) (f m s : Nat) : Nat × Nat :=
  let b := (m * c.s + s) * c.np
  let os := (List.range ((b + c.np - 1) / 8 + 1 - b / 8)).map (b / 8 + ·)
  let look := fun o => match (embs.getD (o / c.f) none) with
    | none => (2, 0)
    | some e =>
      let pos := f * c.f + o % c.f
      (bit (nbit e.crc (pos / 256)), (e.octets.getD pos 0).toNat)
  let st := os.foldl (fun a o => Nat.max a (look o).1) 0
  let v := os.foldl (fun a o => a * 256 + (look o).2) 0
  let drop := 8 * (b / 8 + os.length) - (b + c.np)
  (st, v / 2 ^ drop % 2 ^ c.np)

/-- The sample and the control bits of an N'-bit word. -/
def LinkCfg.split (c : LinkCfg) (v : Nat) : Nat × Nat := (v / 2 ^ (c.np - c.n), v / 2 ^ (c.np - c.n - c.cs) % 2 ^ c.cs)

/-- R156, R161: the ingest word of the link's input number `i` at sample `p` of an EMB; `poison` is CS_POISON. -/
def LinkCfg.word (c : LinkCfg) (embs : List (Option Emb)) (i p poison : Nat) : Word :=
  let one := fun m => c.sample embs (p / c.s) m (p % c.s)
  let mk := fun (st ctl pl : Nat) =>
    if st = 2 then tagged 7 0 else tagged (if st = 1 || ctl &&& poison ≠ 0 then 2 else 0) pl
  if c.iq then
    let (s1, v1) := one (2 * i)
    let (s2, v2) := one (2 * i + 1)
    let (a1, c1) := c.split v1
    let (a2, c2) := c.split v2
    mk (Nat.max s1 s2) (c1 ||| c2) (a1 * 2 ^ (32 - c.n) + a2 * 2 ^ (16 - c.n))
  else
    let (st, v) := one i
    let (a, ctl) := c.split v
    mk st ctl (a * 2 ^ (32 - c.n) + ctl)

/-- R167, R204: the EPOCH mark before slot `n` of input `i` whose number is a multiple of 1,024, the MARK words whose
epoch the slot's is the first not earlier than, then the slot's word, into a queue; of a Tweed-order queue into level 0
(assumption 168). -/
def Dev.pushSlot (i c q n : Nat) (w : Word) (d : Dev) : Dev :=
  let e := (d.inp i).at n
  let d := if n % 1024 = 0 then d.qPush c q 0 (tagged 5 (shortEpoch e)) none else d
  let (now, later) := (d.inp i).marks.partition fun m => notEarlier 72 e m.1
  let d := if now.isEmpty then d else
    each now (fun m d => d.qPush c q 0 (tagged 6 m.2) none) (d.modInp i fun x => { x with marks := later })
  d.qPush c q 0 w none

/-- The slot of input `i` (number `idx` of its link) at sample `p` of EMB `k`, if it is one. -/
def Dev.releaseSlot (l k i idx : Nat) (embs : List (Option Emb)) (p : Nat) (d : Dev) : Dev :=
  let c := d.linkCfg l
  let x := d.fel l
  let g := k * c.p + p
  let n0 := x.k0 * c.p + d.skewK i c.fs
  let n := g - n0
  if g < n0 || (x.stopAt.map (fun s => decide (s ≤ n))).getD false then d
  else
    let w := c.word embs idx p (d.f (F.ingChCfg_CS_POISON i))
    let st := (if c.iq then [2 * idx, 2 * idx + 1] else [idx]).foldl
      (fun a m => Nat.max a (c.sample embs (p / c.s) m (p % c.s)).1) 0
    let d := if st = 2 then d.inc (F.felCnt_FILL_CNT l) 1
      else if st = 1 then d.inc (F.felCnt_POISON_CNT l) 1 else d
    let d := d.pushSlot i (d.f (F.ingChCfg_CLU i)) (d.f (F.ingChCfg_QUEUE i)) n w
    d.modInp i fun y => { y with slots := n + 1 }

/-- R163: lane `j` judged at the release of EMB `k`: the EMB it delivers, and two late ones lose it. -/
def Dev.laneTake (l k j : Nat) (d : Dev) : Option Emb × Dev :=
  let x := d.lane l j
  if !d.laneUp l j || k < x.start then
    (none, d.modLane l j fun x => { x with buf := x.buf.filter (fun e => k < e.k) })
  else
    let e := x.buf.find? fun e => e.k == k
    let late := match e with
      | some e => e.late
      | none => true
    let d := d.modLane l j fun x => { x with
      buf := x.buf.filter (fun e => k < e.k), lateRun := if late then x.lateRun + 1 else 0 }
    if late then (none, if x.lateRun + 1 ≥ 2 then d.laneLose l j 3 else d)
    else (e.filter (·.whole), d)

/-- R168: the link has released every slot before its stop. -/
def Dev.felStopped (d : Dev) (l : Nat) : Bool :=
  match (d.fel l).stopAt with
  | none => false
  | some s => (d.liveInputs l).all (fun i => (d.inp i).slots ≥ s)

/-- EMB_RELEASE (R155 to R163, R167, R168). FEL.SLOT counts the slots of an input without SKEW (assumption 174). -/
def Dev.embRelease (l : Nat) (d : Dev) : Dev :=
  let k := (d.fel l).next
  let c := d.linkCfg l
  if d.felState l ≠ 3 || !notEarlier 72 d.now (d.relEp l k) then d
  else
    let (embs, d) := c.lanes.foldl (fun (es, d) j => let (e, d) := d.laneTake l k j; (es ++ [e], d)) ([], d)
    let d := each (c.inputs.zipIdx) (fun (i, idx) d =>
      if d.fb (F.ingChCfg_EN i) then forN c.p (fun p d => d.releaseSlot l k i idx embs p) d else d) d
    let d := d.modFel l fun x => { x with next := k + 1 }
    let n := (k + 1 - (d.fel l).k0) * c.p
    let n := match (d.fel l).stopAt with
      | some s => Nat.min n s
      | none => n
    let d := (d.setF (F.felSlotLo_SLOT l) n).setF (F.felSlotHi_SLOT l) (n / 2 ^ 36)
    if d.felStopped l then d.felDown l 0 else d

/-- EMB_RELEASE. -/
def execEmbRelease (l : Fin 16) : State → R := lift (Dev.embRelease l)

/-- The least multiple of 1,024 not below `n`. -/
def up1024 (n : Nat) : Nat := (n + 1023) / 1024 * 1024

/-- The status of a LINK_START that completed at this very edge: LINK_STOP of the same cycle wins (R168). -/
def Dev.felJust (d : Dev) (l : Nat) : Option Nat :=
  match (d.fel l).fin with
  | some (e, st) => if e = d.epo.edges then some st else none
  | none => none

/-- LINK_STOP, opcode 0x301 (R168). -/
def Dev.linkStop (n : Nat) (d : Dev) : Dev :=
  let l := (d.arg n 1).toNat
  let st := d.felState l
  if l > 15 then d.reply n stBAD_ARG []
  else match d.felJust l with
    | some status =>
      let d := (d.reply n stOK []).amendEvent 0x300 l (felDetail status st) (felDetail stCANCELLED 0)
      (d.felQuiet l).setF (F.felStat_STATE l) 0
    | none =>
      if st = 0 then d.reply n stBAD_ARG []
      else
        let d := d.reply n stOK []
        if st ≠ 3 then d.felDown l stCANCELLED
        else
          let most := (d.liveInputs l).foldl (fun a i => Nat.max a (d.inp i).slots) 0
          let d := d.modFel l fun x => { x with stopAt := some (x.stopAt.getD (up1024 most)) }
          if d.felStopped l then d.felDown l 0 else d

/-- LINK_STOP. -/
def execLinkStop (n : Mbx) : State → R := lift (Dev.takeCmd n 0x301 (· == 1) (Dev.linkStop n))

/-! ### Fiuth-borne inputs (R169 to R173) -/

/-- A Fiuth-borne input. -/
def Dev.fch (d : Dev) (k : Nat) : Fch := mget d.ing.fch k

/-- RUN of a Fiuth-borne input. -/
def Dev.fchRun (d : Dev) (k : Nat) : Bool := d.fb (F.ingFchCfg_RUN k)

/-- A count of CNT, with event 0x308 when its field leaves zero (R173). -/
def Dev.fchCount (k : Nat) (fl : Fld) (n reason : Nat) (d : Dev) : Dev := d.incEv fl n 0x308 k (fun _ => toW reason)

/-- The next slot released with a word; at the boundary of FCH_STOP the input ends (R173). -/
def Dev.fchRelease (k : Nat) (w : Word) (d : Dev) : Dev :=
  if !d.fchRun k then d
  else
    let n := (d.fch k).next
    let d := d.pushSlot (4096 + k) (d.f (F.ingFchCfg_CLU k)) (d.f (F.ingFchCfg_QUEUE k)) n w
    let d := d.modInp (4096 + k) fun y => { y with slots := n + 1 }
    let d := { d with ing := { d.ing with fch := mmod d.ing.fch k fun x => { x with next := n + 1 } } }
    if (d.fch k).stopAt = some (n + 1) then d.setF (F.ingFchCfg_RUN k) 0 else d

/-- D(x) has come for the next slot (R173). -/
def Dev.fchDue (d : Dev) (k : Nat) : Bool :=
  let x := d.inp (4096 + k)
  let lat := epOf (d.f (F.ingFchCfg_LATENCY k)) 1000000
  d.fchRun k && notEarlier 72 d.now (ep72 (ceilQ (x.num (d.fch k).next + (lat * x.den : Nat)) x.den))

/-- The next slot released as FILL at its deadline (R173). -/
def Dev.fchFill (k : Nat) (d : Dev) : Dev :=
  if d.fchDue k then
    let d := (d.fchRelease k (tagged 7 0)).fchCount k (F.ingFchCnt_FILL k) 1 1
    { d with ing := { d.ing with fch := mmod d.ing.fch k fun x => { x with dueEdge := some d.epo.edges } } }
  else d

/-- Every slot whose deadline has come released as FILL, at most `n` of them. -/
def Dev.fchFills (k n : Nat) (d : Dev) : Dev := forN n (fun _ d => d.fchFill k) d

/-- FCH_WORD in FMT 0 (R170, R171). -/
def Dev.fchSeq (k : Nat) (w : Word) (d : Dev) : Dev :=
  let x := d.fch k
  let dd := (bitsOf w 35 24 + 8192 - (x.seq0 + x.next) % 4096) % 4096
  let y := d.inp (4096 + k)
  if dd ≥ 2048 then d.fchCount k (F.ingFchCnt_LATE k) 1 2
  else if later 72 (ep72 (ceilQ (y.num (x.next + dd)) y.den)) d.now then d.fchCount k (F.ingFchCnt_AHEAD k) 1 3
  else
    let before := x.next
    let d := forN dd (fun _ d => d.fchRelease k (tagged 7 0)) d
    let filled := (d.fch k).next - before
    let d := if filled = 0 then d else d.fchCount k (F.ingFchCnt_FILL k) filled 1
    d.fchRelease k (tagged 0 (bitsOf w 23 0 * 256))

/-- FCH_WORD in FMT 1 (R172): `overdue`: the deadline of the slot the word was for has come at this edge (R173). One word is
lost to it; the next one is for the next slot. -/
def Dev.fchTagged (k : Nat) (overdue : Bool) (w : Word) (d : Dev) : Dev :=
  let t := tagOf w
  if t = 0 || t = 2 || t = 7 || (8 ≤ t && t ≤ 14) then
    if overdue then
      let d := { d with ing := { d.ing with fch := mmod d.ing.fch k fun x => { x with dueEdge := none } } }
      d.fchCount k (F.ingFchCnt_LATE k) 1 2
    else d.fchRelease k (if t ≥ 8 then tagged 2 (payload w) else w)
  else d.fchCount k (F.ingFchCnt_MALF k) 1 4

/-- A word written to the ingest page of input 4096 + `k` (R169 to R173). -/
def Dev.fchWord (k : Nat) (w : Word) (d : Dev) : Dev :=
  if !d.fchRun k then d.fchCount k (F.ingFchCnt_MALF k) 1 4
  else
    let due := d.fchDue k || (d.fch k).dueEdge == some d.epo.edges
    let d := d.fchFills k 4096
    if d.fb (F.ingFchCfg_FMT k) then d.fchTagged k due w else d.fchSeq k w

/-- FCH_WORD. -/
def execFchWord (k : Fin 1024) (w : Word) : State → R := lift (Dev.fchWord k w)

/-- FCH_DEADLINE (R173). -/
def execFchDeadline (k : Fin 1024) : State → R := lift (Dev.fchFill k)

/-- FCH_START, opcode 0x302 (R169). -/
def Dev.fchStart (n : Nat) (d : Dev) : Dev :=
  let k := (d.arg n 1).toNat
  let t0 := (d.arg n 2).toNat * 2 ^ 36 + (d.arg n 3).toNat
  let rate := d.f (F.ingFchRate_RATE k)
  let lat := epOf (d.f (F.ingFchCfg_LATENCY k)) 1000000
  if k > 1023 || d.fchRun k || rate = 0 || rate > 10000000000 || bitsOf (d.arg n 4) 35 12 ≠ 0 then
    d.reply n stBAD_ARG []
  else if earlier 72 t0 d.now && (d.now + 2 ^ 72 - t0) % 2 ^ 72 > lat then d.reply n stPAST []
  else
    let d := d.setF (F.ingFchCfg_RUN k) 1
    let x : Fch := ⟨t0, bitsOf (d.arg n 4) 11 0, 0, none, none⟩
    let d := { d with ing := { d.ing with fch := mset d.ing.fch k x } }
    (d.startInput (4096 + k) { a := (t0 * rate : Nat), st := 1000 * 2 ^ 36, den := rate, res := 0, slots := 0 }).reply
      n stOK []

/-- FCH_START. -/
def execFchStart (n : Mbx) : State → R := lift (Dev.takeCmd n 0x302 (· == 4) (Dev.fchStart n))

/-- FCH_STOP, opcode 0x303 (R173). -/
def Dev.fchStop (n : Nat) (d : Dev) : Dev :=
  let k := (d.arg n 1).toNat
  if k > 1023 || !d.fchRun k then d.reply n stBAD_ARG []
  else
    let d := d.reply n stOK []
    let x := d.fch k
    let s := x.stopAt.getD (up1024 x.next)
    let d := { d with ing := { d.ing with fch := mset d.ing.fch k ({ x with stopAt := some s } : Fch) } }
    if s = x.next then d.setF (F.ingFchCfg_RUN k) 0 else d.fchFills k 1024

/-- FCH_STOP. -/
def execFchStop (n : Mbx) : State → R := lift (Dev.takeCmd n 0x303 (· == 1) (Dev.fchStop n))

/-- An input runs: an enabled input of a link in RUN, or a Fiuth-borne input with RUN = 1. -/
def Dev.inputRuns (d : Dev) (i : Nat) : Bool :=
  if i < 4096 then
    d.fb (F.ingChCfg_EN i) && (List.range 16).any fun l => d.felState l == 3 && (d.linkCfg l).inputs.contains i
  else i < 5120 && d.fchRun (i - 4096)

/-- ING_ANCHOR, opcode 0x304. -/
def Dev.ingAnchor (n : Nat) (d : Dev) : Dev :=
  let i := (d.arg n 1).toNat
  if i > 5119 || !d.inputRuns i then d.reply n stBAD_ARG []
  else
    let x := d.inp i
    d.reply n stOK (epWords (x.at 0) ++
      [toW (sTo 36 (roundHe x.res x.den)), toW (x.slots / 2 ^ 36), toW x.slots])

/-- ING_ANCHOR. -/
def execIngAnchor (n : Mbx) : State → R := lift (Dev.takeCmd n 0x304 (· == 1) (Dev.ingAnchor n))

/-! ### Droop (R174, R175) -/

/-- R175: an EMB of a lane buffer overrun by a stretch. -/
def Dev.laneOverrun (l j : Nat) (d : Dev) : Dev :=
  let d := d.modLane l j fun x => { x with buf := match x.buf with
    | e :: es => { e with whole := false } :: es
    | [] => [] }
  (d.setF (F.felStat_OVF l) 1).event 0x306 l (toW (pkgLane l j))

/-- R175: once more than 400 ns of the last 2 µs are stretched, whether the oldest EMB of a lane buffer is overrun is a
free value (assumption 19). -/
def Dev.droopOverrun (d : Dev) : Dev :=
  if d.ing.win.length ≤ 640 then d
  else forN 16 (fun l d => each (d.linkCfg l).lanes (fun j d =>
    if d.felState l = 3 && ((d.lane l j).buf.head?.map (·.whole)).getD false then
      let (v, d) := d.fresh
      if v % 2 = 1 then d.laneOverrun l j else d
    else d) d) d

/-- DROOP_STRETCH (R113, R174): at a CCLK_REF edge the detector of a rail reads `mv` millivolt; below ING_DROOP.THRESH the
CCLK cycle in progress is extended by that period. The epoch counts it. -/
def execDroopStretch (r : RailLevel) : State → R :=
  lift fun d =>
    if r.mv.toNat ≥ d.f F.ingDroop_THRESH then d
    else
      let d := d.refEdge
      let d := if d.ing.stretch = 0 then d.inc F.ingStat_STRETCH_CNT 1 else d
      let n := d.ing.stretched + 1
      let now := d.epo.edges + n
      let d := { d with ing := { d.ing with
        stretch := d.ing.stretch + 1, stretched := n, win := now :: d.ing.win.filter (fun e => now < e + 3200) } }
      d.droopOverrun

/-- STRETCH_END (R174): MAX_STRETCH, and LONG_CNT with event 0x307 for a stretch over 64 periods. -/
def execStretchEnd : State → R :=
  lift fun d =>
    let n := d.ing.stretch
    let d := { d with ing := { d.ing with stretch := 0 } }
    let d := d.maxF F.ingStat_MAX_STRETCH (Nat.min n 0x3FF)
    if n > 64 then (d.inc F.ingStat_LONG_CNT 1).event 0x307 0 (toW n) else d

end Sys2Proof.Machine
end

