-- ==== Sys2Proof/Machine/Chain.lean ====
section
/-! DEFINITION. The arithmetic of the recipe steps (R177 to R203): functions of input words, parameters and carried
words alone (R179). Each answers how many values it saturated (R181). -/

namespace Sys2Proof.Machine

/-! ### Tags (R84, R86) -/

/-- The word occupies a slot (R84). -/
def slotTag (t : Nat) : Bool := t == 0 || t == 2 || t == 7 || (8 ≤ t && t ≤ 14)

/-- A slot's tag, a reserved one as POISON (R15). -/
def normTag (t : Nat) : Nat := if t = 0 then 0 else if t = 7 then 7 else 2

/-- The slot occupies a slot. -/
def Item.slot (x : Item) : Bool := slotTag x.tag

/-- R86: the tag of an output from the tags of its inputs. -/
def outTag (ts : List Nat) : Nat := if ts.all (· == 0) then 0 else if ts.all (· == 7) then 7 else 2

/-- The parts of a c18 word; a FILL input is taken as zero (R86). -/
def Item.i (x : Item) : Int := if x.tag = 7 then 0 else sOf 18 (bitsOf x.w 35 18)
def Item.q (x : Item) : Int := if x.tag = 7 then 0 else sOf 18 (bitsOf x.w 17 0)

/-- A c18 word. -/
def c18 (i q : Int) : Word := mkW [(35, 18, sTo 18 i), (17, 0, sTo 18 q)]

/-- A slot of DATA with value zero, what stands before slot 0 (R178). -/
def zeroItem : Item := ⟨0, 0⟩

/-- An output slot: FILL carries zero (R86). -/
def mkItem (t : Nat) (w : Word) : Item := if t = 7 then ⟨7, 0⟩ else ⟨t, w⟩

/-! ### Cosine and sine (R190) -/

/-- π in units of 2^-160, from its expansion. -/
def piFix : Nat := 4591442807048218921384805199743311128454155024418

/-- Terms of the alternating series of sine (first = x) or cosine (first = 1), in units of 2^-160. -/
def trigSeries (x2 : Int) : Nat → Nat → Int → Int
  | 0, _, _ => 0
  | fuel + 1, k, t => t + trigSeries x2 fuel (k + 2) (-(t * x2 / 2 ^ 160) / ((k + 1) * (k + 2) : Nat))

/-- 2 π m / 2^20 in units of 2^-160. -/
def angleFix (m : Nat) : Int := (2 * piFix * m / 2 ^ 20 : Nat)

/-- 131,071 cos and 131,071 sin of 2 π m / 2^20 for m at most 2^18 / 2, rounded. -/
def cosSmall (m : Nat) : Int :=
  let x := angleFix m
  roundHe (131071 * trigSeries (x * x / 2 ^ 160) 40 0 (2 ^ 160)) (2 ^ 160)
def sinSmall (m : Nat) : Int :=
  let x := angleFix m
  roundHe (131071 * trigSeries (x * x / 2 ^ 160) 40 1 x) (2 ^ 160)

/-- Cosine in the first quadrant, m at most 2^18. -/
def cosQuad (m : Nat) : Int := if m ≤ 2 ^ 17 then cosSmall m else sinSmall (2 ^ 18 - m)

/-- C(m) of R190. -/
def cosTab (m : Nat) : Int :=
  let m := m % 2 ^ 20
  if m ≤ 2 ^ 18 then cosQuad m
  else if m ≤ 2 ^ 19 then -cosQuad (2 ^ 19 - m)
  else if m ≤ 3 * 2 ^ 18 then -cosQuad (m - 2 ^ 19)
  else cosQuad (2 ^ 20 - m)

/-- S(m) of R190: the cosine a quarter turn before. -/
def sinTab (m : Nat) : Int := cosTab (m + 3 * 2 ^ 18)

/-! ### UNPACK (R183) -/

/-- The Canvas values of a slot (R182); whether a word that UNPACK, DELAY or ROTATE takes them from read POISONED (R365). -/
structure Canvas where
  off : Word
  gain : Int
  delay : Int
  phase : Nat
  badU : Bool := false
  badD : Bool := false
  badR : Bool := false
deriving DecidableEq, Repr, Inhabited

/-- The identity values (R182). -/
def Canvas.ident : Canvas := { off := 0, gain := 2 ^ 34, delay := 0, phase := 0 }

/-- The tag of an output of inputs of tag `t` and words that came POISONED or not, which are a POISON input (R86, R365). -/
def badTag (bad : Bool) (t : Nat) : Nat := if bad then 2 else t

/-- The x values of an ingest word in a MODE, with the values that saturated: what OFF and GAIN act on. -/
def unpackX (mode : Nat) (w : Word) : Int × Int × Nat :=
  let p := payload w
  if mode = 0 then (sOf 16 (p / 2 ^ 16) * 4, 0, 0)
  else if mode = 1 then (sOf 16 (p / 2 ^ 16) * 4, sOf 16 p * 4, 0)
  else let (x, c) := satS 18 (shrHe (sOf 24 (p / 256)) 6); (x, 0, bit c)

/-- UNPACK of one slot. -/
def unpackSlot (mode : Nat) (cv : Canvas) (w : Word) : Item × Nat :=
  let t := badTag cv.badU (normTag (tagOf w))
  if t = 7 then (⟨7, 0⟩, 0)
  else
    let (xi, xq, s1) := if normTag (tagOf w) = 7 then (0, 0, 0) else unpackX mode w
    let y := fun x off => satS 18 (shrHe ((x - off) * cv.gain) 34)
    let (yi, ci) := y xi (sOf 18 (bitsOf cv.off 35 18))
    let (yq, cq) := y xq (sOf 18 (bitsOf cv.off 17 0))
    let real := mode ≠ 1
    (⟨t, c18 yi (if real then 0 else yq)⟩, s1 + bit (ci || (!decide real && cq)))

/-! ### DELAY (R184, R186 to R188) -/

/-- R184: one advance of a set of model registers. -/
def advance : List Nat → List Nat
  | a :: b :: r => (a + b) % 2 ^ 128 :: advance (b :: r)
  | r => r

/-- R187: the integer offset, the phase, and the clamp: 0 none, 1 low, 2 high. -/
def delayQP (delta : Int) (dlyMax : Nat) : Nat × Nat × Nat :=
  let p : Int := shrHe (delta % (2 ^ 96 : Int)) 89
  let q : Int := if p = 128 then delta / (2 ^ 96 : Int) + 1 else delta / (2 ^ 96 : Int)
  let p : Int := if p = 128 then 0 else p
  if q < 0 then (0, 0, 1)
  else if q > (dlyMax : Int) then (dlyMax, 0, 2)
  else (q.toNat, p.toNat, 0)

/-- R188: one output slot from its 16 inputs and the taps of its phase; `bad`: a table word read POISONED (R365). -/
def delaySlot (h : Nat → Int) (bad : Bool) (xs : List Item) : Item × Nat :=
  let t := badTag bad (outTag (xs.map fun x => normTag x.tag))
  if t = 7 then (⟨7, 0⟩, 0)
  else
    let acc := fun (f : Item → Int) => (xs.zipIdx.map fun (x, k) => h k * f x).foldl (· + ·) 0
    let (yi, ci) := satS 18 (shrHe (acc Item.i) 17)
    let (yq, cq) := satS 18 (shrHe (acc Item.q) 17)
    (⟨t, c18 yi yq⟩, bit (ci || cq))

/-- Tap `t` of a word pair table: an even index in bits 35:18, an odd one in bits 17:0. -/
def tapOf (tab : Nat → Word) (k : Nat) : Int :=
  let w := tab (k / 2)
  sOf 18 (if k % 2 = 0 then bitsOf w 35 18 else bitsOf w 17 0)

/-! ### ROTATE (R190, R191) -/

/-- R190: m of a phase register and CAL_PHASE. -/
def rotM (p0 calPhase : Nat) : Nat :=
  let theta := (p0 + calPhase * 2 ^ 92) % 2 ^ 128
  (shrHe (theta : Nat) 108).toNat % 2 ^ 20

/-- x times e^(-j 2 π m / 2^20), before narrowing. -/
def rotate (xi xq : Int) (m : Nat) : Int × Int :=
  (xi * cosTab m + xq * sinTab m, xq * cosTab m - xi * sinTab m)

/-- ROTATE of one slot; `bad`: a Canvas word read POISONED (R365). -/
def rotSlot (m : Nat) (bad : Bool) (x : Item) : Item × Nat :=
  if badTag bad x.tag = 7 then (⟨7, 0⟩, 0)
  else
    let (zi, zq) := rotate x.i x.q m
    let (yi, ci) := satS 18 (shrHe zi 17)
    let (yq, cq) := satS 18 (shrHe zq 17)
    (⟨badTag bad x.tag, c18 yi yq⟩, bit (ci || cq))

/-! ### FILTER (R192 to R194) -/

/-- The low `n` bits of `k`, reversed. -/
def bitrev (k n : Nat) : Nat := (List.range n).foldl (fun a i => a * 2 + k / 2 ^ i % 2) 0

/-- A complex value of the transform. -/
abbrev Cpx := Int × Int

/-- A value of the transform's array. -/
def cget (a : List Cpx) (i : Nat) : Cpx := a.getD i (0, 0)

/-- R193: one butterfly of stage `s` at `b + r`; the count of saturated complex values grows. -/
def butterfly (lk s h sc b r : Nat) (a : List Cpx × Nat) : List Cpx × Nat :=
  let (p, q) := (cget a.1 (b + r), cget a.1 (b + r + h))
  let u : Cpx := (p.1 + q.1, p.2 + q.2)
  let m := r * 2 ^ s * 2 ^ 20 / 2 ^ lk
  let z := rotate (p.1 - q.1) (p.2 - q.2) m
  let n := fun (x : Int) (k : Nat) => satS 18 (shrHe x k)
  let c := fun (x : Cpx) (k : Nat) => (((n x.1 k).1, (n x.2 k).1), bit ((n x.1 k).2 || (n x.2 k).2))
  let (v, c1) := c u sc
  let (w, c2) := c z (17 + sc)
  ((a.1.set (b + r) v).set (b + r + h) w, a.2 + c1 + c2)

/-- R193: the transform, in its bit-reversed order. -/
def fft (lk scale : Nat) (v : List Cpx) : List Cpx × Nat :=
  (List.range lk).foldl (fun a s =>
    let h := 2 ^ lk / 2 ^ (s + 1)
    let sc := bit (nbit scale s)
    (List.range (2 ^ s)).foldl (fun a i =>
      (List.range h).foldl (fun a r => butterfly lk s h sc (i * 2 * h) r a) a) a) (v, 0)

/-- R192 to R194: one frame: `win` are the 16 K slots of its window, oldest first; `h` the prototype. Kept sub-channels
and saturated values. -/
def filterFrame (lk scale first cnt : Nat) (h : Nat → Int) (bad : Bool) (win : List Item) : List Item × Nat :=
  let k := 2 ^ lk
  let t := badTag bad (outTag (win.map fun x => normTag x.tag))
  if t = 7 then (List.replicate cnt ⟨7, 0⟩, 0)
  else
    let wa := win.toArray
    let part := fun (f : Item → Int) (r : Nat) =>
      satS 18 (shrHe ((List.range 16).foldl (fun a b => a + h (b * k + r) * f (wa.getD ((15 - b) * k + r) zeroItem)) 0) 17)
    let vs := (List.range k).map fun r => (part Item.i r, part Item.q r)
    let s0 := vs.countP fun v => v.1.2 || v.2.2
    let (a, s1) := fft lk scale (vs.map fun v => (v.1.1, v.2.1))
    let out := (List.range cnt).map fun i =>
      let x := cget a (bitrev (first + i) lk)
      (⟨t, c18 x.1 x.2⟩ : Item)
    (out, s0 + s1)

/-! ### REDUCE (R196, R199) -/

/-- R196: the partial sum of one slot over its members (each a slot and its weight): pI, pQ and fl as words, and
whether they saturated. -/
def partialSum (rshift : Nat) (ms : List (Item × Int × Int)) : Word × Word × Word × Nat :=
  let a := ms.foldl (fun (a : Int × Int) (x, wi, wq) => (a.1 + (x.i * wi - x.q * wq), a.2 + (x.i * wq + x.q * wi))) (0, 0)
  let (pi, ci) := satS 36 (shrHe a.1 rshift)
  let (pq, cq) := satS 36 (shrHe a.2 rshift)
  let nf := ms.countP fun m => m.1.tag == 7
  let np := ms.countP fun m => normTag m.1.tag == 2
  (toW (sTo 36 pi), toW (sTo 36 pq), toW (nf * 2 ^ 18 + np), bit (ci || cq))

/-- R199: a beam slot from its three words; `bad`: one read POISONED, or the block is incomplete (R230). -/
def beamSlot (oshift nMemb : Nat) (bad : Bool) (si sq fl : Word) : Item × Nat :=
  let nf := fl.toNat / 2 ^ 18
  let np := fl.toNat % 2 ^ 18
  let t := if bad then 2 else if nf = nMemb then 7 else if nf = 0 && np = 0 then 0 else 2
  if t = 7 then (⟨7, 0⟩, 0)
  else
    let (yi, ci) := satS 18 (shrHe (sOf 36 si.toNat) oshift)
    let (yq, cq) := satS 18 (shrHe (sOf 36 sq.toNat) oshift)
    (⟨t, c18 yi yq⟩, bit (ci || cq))

/-! ### DETECT (R200) -/

/-- DETECT of one window. -/
def detectSlot (dshift : Nat) (xs : List Item) : Item × Nat :=
  let t := outTag (xs.map fun x => normTag x.tag)
  if t = 7 then (⟨7, 0⟩, 0)
  else
    let acc := xs.foldl (fun a x => a + x.i * x.i + x.q * x.q) 0
    let (o, c) := satU 32 (shrHe acc dshift)
    (⟨t, toW o.toNat⟩, bit c)

/-! ### PACK (R201 to R203) -/

/-- R202: the payload of a slot. -/
def packPayload (fmt : Nat) (x : Item) : Nat × Nat :=
  if x.tag = 7 then (0, 0)
  else if fmt = 1 then (bitsOf x.w 31 0, 0)
  else
    let (i, ci) := satS 16 (shrHe x.i 2)
    let (q, cq) := satS 16 (shrHe x.q 2)
    (sTo 16 i * 2 ^ 16 + sTo 16 q, bit (ci || cq))

/-- A MARK word. -/
def markW (w : Word) : Word := tagged 6 (payload w)

/-- R201 to R203: packet `r` of an endpoint: its items (slots, and MARK words before the slot they precede), the rounded
epoch of its first slot. -/
def packPacket (ep fmt r e : Nat) (xs : List Item) : List OutW × Nat :=
  let slots := xs.filter Item.slot
  let body := xs.map fun x => if x.slot then
    let (p, c) := packPayload fmt x
    (({ w := tagged x.tag p, side := 0, ep := none } : OutW), c)
    else ({ w := markW x.w, side := 0, ep := none }, 0)
  let np := slots.countP fun x => x.tag == 2
  let nf := slots.countP fun x => x.tag == 7
  let head : OutW := { w := tagged 3 (ep * 2 ^ 12 + r % 4096), side := 0, ep := some e }
  let mark : OutW := { w := tagged 5 (shortEpoch e), side := 0, ep := none }
  let tail : OutW := { w := tagged 4 (np * 2 ^ 21 + nf * 2 ^ 10 + (slots.length - 1)), side := 0, ep := none }
  (head :: mark :: body.map (·.1) ++ [tail], body.foldl (fun a b => a + b.2) 0)

end Sys2Proof.Machine
end

