-- ==== Sys2Proof/Machine/Power.lean ====
section
/-! DEFINITION. Power, reset, thermal sensors and loop channels (R47, R280, R454 to R474). -/

namespace Sys2Proof.Machine

/-- The power state changed. -/
def Dev.modPwr (f : Pwr → Pwr) (d : Dev) : Dev := { d with pwr := f d.pwr }

/-! ### Reset (R457, R461, R462) -/

/-- R462: the registers that the Muslin domain keeps. -/
def muslinRegs : List Fld :=
  [F.errStop_CAUSE, F.errStop_SEC, F.cpDebug_FUSE_OWNER, F.cpDebug_FUSE_DEBUG, F.pwrStat_WAKE_SRC] ++
  (List.range 8).map F.pwrMuslin_DATA

/-- The block in reset: everything at its reset value but the Muslin domain, a CP halt whose record is owed (R452; assumption
188), and what the model itself keeps; the Fiuth lines that it asserted are released. -/
def Dev.toReset (d : Dev) : Dev :=
  let d := forN 4 Dev.fiuRelease d
  let p := d.pwr
  let z : Dev := { (default : Dev) with
    free := d.free, out := d.out, cp := { (default : Cp) with bbHalt := d.cp.bbHalt }
    pwr := { (default : Pwr) with railOff := p.railOff, held := true, wake := p.wake, src := p.src } }
  muslinRegs.foldl (fun z fl => z.setF fl (d.f fl)) z

/-- RAIL_EN driven. -/
def Dev.railEn (on : Bool) (d : Dev) : Dev := (d.modPwr fun p => { p with railOff := !on }).emit (.railEn on)

/-- R473: the failure level of output `k`, in nA. -/
def Dev.failLevel (d : Dev) (k : Nat) : Nat := if d.fb (F.loopOutCfg_FAIL_HI k) then 21500000 else 3500000

/-- R473: every loop output at its failure level. -/
def Dev.loopsFail (d : Dev) : Dev := forN 16 (fun k d => d.emit (.drive 1 k (d.failLevel k))) d

/-- R468: TM9 supplies the loop of input `k` from VLOOP. -/
def Dev.loopSupplied (d : Dev) (k : Nat) : Bool := d.fb (F.loopInCfg_EN k) && d.fb (F.loopInCfg_POWERED k)

/-- R461, step 4: Fiuth lines released, event, trigger, sync and cal pins low, loop outputs to their failure level; no loop
input is supplied any more. -/
def Dev.quiet (d : Dev) : Dev :=
  let d := forN 4 Dev.fiuRelease d
  let d := forN 16 (fun pin d => d.drivePin pin false 0) d
  let d := forN 16 (fun k d => if d.loopSupplied k then d.emit (.loopSupply k false) else d) d
  d.loopsFail

/-- ERR_STOP latched (R451, R458, R461, R467). -/
def Dev.stopCause (cause : Nat) (d : Dev) : Dev :=
  (d.setF F.errStop_CAUSE cause).setF F.errStop_SEC d.nowSec

/-- VAON_APPLIED (R455, R473): TM9 is in reset, its loop outputs at their failure level, and RAIL_EN goes high. -/
def execVaonApplied (s : State) : R :=
  let d := { s.dev with cp := { s.dev.cp with bbHalt := false } }.toReset
  .next { s with dev := (d.loopsFail.modPwr fun p => { p with src := 2 }).railEn true }

/-- RESET_RELEASE (R47, R306, R395, R457): boot begins; enabled Fiuth ports monitor their segment, enabled Lysith ports
train; the loop outputs, not enabled, drive nothing (R459, R473). -/
def Dev.resetRelease (d : Dev) : Dev :=
  if d.pwr.railOff || !(d.pwr.held || d.bootState = 0) then d
  else
    let src := d.pwr.src
    let d := d.toReset.modPwr fun p => { p with held := false, src := 0 }
    let d := if src = 0 then d else d.setF F.pwrStat_WAKE_SRC src
    let d := forN 16 (fun k d => d.emit (.drive 1 k 0)) d
    let d := forN 4 (fun p d => if d.fb (F.fiuCfg_EN p) then d.portOn p else d) d
    forN 8 (fun n d => if d.fb (F.lnkCfg_EN n) then (d.setF (F.lnkStat_STATE n) 1).emit (.training n (d.ownPeer n)) else d) d

/-- RESET_RELEASE. -/
def execResetRelease (s : State) : R := .next { s with dev := s.dev.resetRelease }

/-- RST_N_ASSERTED (R457, R473): TM9 is held in reset. -/
def execRstNAsserted (s : State) : R :=
  if s.dev.pwr.held then .next s
  else
    let s := ksInterrupt s
    .next { s with dev := s.dev.quiet.toReset }

/-- DIE_PAIRING_DONE (R47, R280, R409, R448 to R450): ROM_INIT reads fuses, identity, trims, package ID and journal. -/
def Dev.pairingDone (z : Fuses) (k : KeepStore) (d : Dev) : Dev :=
  if d.bootState ≠ 0 then d
  else
    let d := ((d.setBoot 1).setF F.cpDebug_FUSE_OWNER (bit z.owner)).setF F.cpDebug_FUSE_DEBUG (bit z.debug)
    let d := if z.debug then d.setF F.cpDebug_LOCK 1 else d
    let d := each [0x01, 0x02, 0x03, 0x10] (fun t d => d.ksReport t (k.choose t)) d
    let pl := fun (t : Nat) => (k.choose t).used.map (·.payload)
    let d := { d with serial := ((pl 0x01).map fun ws => Config.serialOf ws % 2 ^ 72).getD 0 }
    let trim := fun (i : Nat) => ((pl 0x02).map fun ws => Config.sensorTrim ws i).getD 0
    let d := forN 8 (fun i d => d.modPwr fun p => { p with
      fact := mset p.fact i (trim i), trim := mset p.trim i (trim i) }) d
    let d := match pl 0x10 with
      | some ws => (d.setF F.topPkg_ID (bitsOf (nth ws 0) 15 0)).setF F.topPkg_ASSIGNED 1
      | none => d
    d.ksShowPend k

/-- DIE_PAIRING_DONE. -/
def execDiePairingDone : State → R := liftRd Dev.pairingDone

/-! ### Stops and standby (R451, R458, R461, R463, R467) -/

/-- The block goes into reset for a cause: its pins, RAIL_EN (low unless `rail`), and what Muslin keeps. The stop is noted for
another of the same edge (R474). -/
def Dev.stop (cause : Nat) (rail : Bool) (d : Dev) : Dev :=
  let x : StopTie := { cause := cause, hot := d.pwr.hot, trim := d.pwr.trim }
  let d := (d.stopCause cause).quiet
  (if rail then d else d.railEn false).toReset.modPwr fun p => { p with stopNow := some x }

/-- The stop of this edge while TM9 is held. -/
def Dev.stopCauseNow (d : Dev) : Nat := if d.pwr.held then (d.pwr.stopNow.map (·.cause)).getD 0 else 0

/-- R474: a stop of this edge gives way to one of another cause. -/
def Dev.restop (cause : Nat) (d : Dev) : Dev :=
  (d.setF F.errStop_CAUSE cause).modPwr fun p => { p with stopNow := p.stopNow.map fun x => { x with cause := cause } }

/-- SUPPLY_LOSS (R451, R458): the rails' recovery will release reset with WAKE_SRC 3. It wins over a standby step of its edge
(R474). -/
def execSupplyLoss (s : State) : R :=
  if s.dev.stopCauseNow = 3 then
    .next { s with dev := ((s.dev.restop 2).modPwr fun p => { p with src := 3 }).railEn true }
  else gate (fun s =>
    let d := (s.dev.error 22 3 0 0 0 0).settle
    let s := ksInterrupt { s with dev := d }
    { s with dev := (s.dev.stop 2 true).modPwr fun p => { p with src := 3 } }) s

/-- PWR_STANDBY, opcode 0xB00 (R461). -/
def Dev.pwrStandby (n : Nat) (d : Dev) : Dev :=
  let busy := fun (r : Nat) (d : Dev) => d.reply n stBUSY [toW r]
  if (List.range 16).any (fun l => d.felState l ≠ 0) then busy 1 d
  else if (List.range 1024).any d.fchRun then busy 2 d
  else if d.f F.cohStat_STATE = 2 then busy 3 d
  else (d.modPwr fun p => { p with standby := true }).reply n stOK []

/-- PWR_STANDBY. -/
def execPwrStandby (n : Mbx) : State → R := lift (Dev.takeCmd n 0xB00 (· == 0) (Dev.pwrStandby n))

/-- STANDBY_ENTRY (R461): event 0xB01, a running keep-store operation completes and no other starts, then the stop with cause
3. -/
def execStandbyEntry : State → R := gate fun s =>
  if !s.dev.pwr.standby then s
  else
    let s := ksFinish { s with dev := s.dev.event 0xB01 0 0 }
    { s with dev := s.dev.settle.stop 3 false }

/-- WAKE_REQUEST (R463): latched while TM9 is in standby, stopped, or on its way there; ignored in the second after a thermal
shutdown (R467). -/
def execWakeRequest (s : State) : R :=
  .next { s with dev := if (s.dev.pwr.railOff || s.dev.pwr.standby) && s.dev.pwr.cool = 0 then s.dev.modPwr fun p => { p with wake := true }
    else s.dev }

/-- WAKE_RAIL_ENABLE (R463): RAIL_EN goes high for a latched request. -/
def execWakeRailEnable (s : State) : R :=
  .next { s with dev := if s.dev.pwr.railOff && s.dev.pwr.wake then
      (s.dev.modPwr fun p => { p with wake := false, src := 1 }).railEn true
    else s.dev }

/-! ### Rails (R458, R460, R477) -/

/-- R477: the warning band and the power-good threshold of rail `r`, in mV. -/
def railBand (r : Nat) : Nat × Nat × Nat :=
  if r < 8 then (720, 780, 650) else
  [(770, 830, 720), (880, 920, 830), (1170, 1230, 1100), (1070, 1130, 1020), (385, 415, 360), (1740, 1860, 1620),
   (1740, 1860, 1620), (2400, 2600, 2250)].getD (r - 8) (0, 0, 0)

/-- One rail's reading: MV, CUR, PG, and a warning when the rail is outside its band and power-good (R458). -/
def Dev.railSample (r mv cur : Nat) (d : Dev) : Dev :=
  let (lo, hi, pg) := railBand r
  let d := (d.setF (F.pwrRail_MV r) mv).setF (F.pwrRail_CUR r) cur
  let d := d.setF F.pwrStat_PG (setNbit (d.f F.pwrStat_PG) r (decide (mv > pg)))
  if mv > pg && (mv < lo || mv > hi) && !nbit (d.f F.pwrStat_RAIL_WARN) r then
    let det := mkW [(3, 0, r), (15, 4, mv)]
    let d := d.setF F.pwrStat_RAIL_WARN (setNbit (d.f F.pwrStat_RAIL_WARN) r true)
    (d.error 22 0 0 0 0xB00 det).event 0xB00 0 det
  else d

/-- RAIL_MONITOR_SAMPLE (R458, R460). PWR_TOTAL is the sum in 100 mW; how it is rounded is a free value
(assumption 26). -/
def Dev.railMonitor (mv : List (BitVec 12)) (cur : List (BitVec 16)) (d : Dev) : Dev :=
  let v := fun r => (mv.getD r 0).toNat
  let c := fun r => (cur.getD r 0).toNat
  let d := forN 16 (fun r d => d.railSample r (v r) (c r)) d
  let sum := (List.range 16).foldl (fun a r => a + v r * c r) 0
  let (x, d) := d.fresh
  d.setF F.pwrTotal_P (sum / 10000 + (if sum % 10000 = 0 then 0 else x % 2))

/-- RAIL_MONITOR_SAMPLE. -/
def execRailMonitorSample (mv : List (BitVec 12)) (cur : List (BitVec 16)) : State → R := lift (Dev.railMonitor mv cur)

/-! ### Sensors (R464 to R467) -/

/-- The signed reading of sensor 0-9, or of HBM stack `i` - 10. -/
def Dev.temp (d : Dev) (i : Nat) : Int :=
  sOf 12 (if i < 10 then d.f (F.thmSens_TEMP i) else d.f (F.thmHbm_TEMP (i - 10)))

/-- R465: the WARN flag from all readings; event 0xB10 and a class 22 error on its rising edge. -/
def Dev.warnEval (i : Nat) (t : Int) (d : Dev) : Dev :=
  let warn := sOf 12 (d.f F.thmCfg_WARN)
  let hyst : Int := d.f F.thmCfg_HYST
  if t ≥ warn then
    if d.fb F.thmStat_WARN then d
    else
      let det := toW (sTo 12 t)
      (((d.setF F.thmStat_WARN 1).inc F.thmCnt_WARN_CNT 1).error 22 0 i 0 0xB10 det).event 0xB10 i det
  else if (List.range 12).all (fun j => decide (d.temp j < warn - hyst)) then d.setF F.thmStat_WARN 0
  else d

/-- R465: the COLD flag; event 0xB13 and a class 22 error when it sets. -/
def Dev.coldEval (i : Nat) (t : Int) (d : Dev) : Dev :=
  if t < -640 then
    if d.fb F.thmStat_COLD then d
    else
      let det := toW (sTo 12 t)
      ((d.setF F.thmStat_COLD 1).error 22 0 i 0 0xB13 det).event 0xB13 i det
  else if (List.range 10).all (fun j => decide (d.temp j ≥ -640)) then d.setF F.thmStat_COLD 0
  else d

/-- A reading of sensor or stack `i`, a region sensor's trimmed (R13, R280, R464). -/
def Dev.sensorRead (i raw : Nat) (d : Dev) : Int × Dev :=
  let t := (satS 12 (sOf 12 raw + (if i < 8 then mget d.pwr.trim i else 0))).1
  if i < 10 then
    let d := d.setF (F.thmSens_TEMP i) (sTo 12 t)
    let was := match mget d.pwr.maxWas i with
      | some (e, m) => if e = d.epo.edges then m else d.f (F.thmSens_MAX i)
      | none => d.f (F.thmSens_MAX i)
    (t, if t > sOf 12 was then
        (d.setF (F.thmSens_MAX i) (sTo 12 t)).modPwr fun p => { p with maxWas := mset p.maxWas i none }
      else d)
  else (t, d.setF (F.thmHbm_TEMP (i - 10)) (sTo 12 t))

/-- SENSOR_CONVERSION (R464, R465, R467): `true`: the second reading in succession at or above SHUTDOWN. -/
def Dev.sensorConv (i raw : Nat) (d : Dev) : Bool × Dev :=
  let (t, d) := d.sensorRead i raw
  let d := d.warnEval i t
  if i ≥ 10 then (false, d)
  else
    let d := d.coldEval i t
    let was := mget d.pwr.hot i
    let hot := decide (t ≥ 0x730)
    (was && hot, d.modPwr fun p => { p with hot := mset p.hot i hot })

/-- R467: WAKE_N is ignored for 1 s. -/
def Dev.coolDown (d : Dev) : Dev := d.modPwr fun p => { p with cool := edgesPerSec }

/-- R474: the second conversion at or above SHUTDOWN at the edge of another stop: a thermal shutdown. -/
def Dev.lateShutdown (i raw : Nat) (d : Dev) : Dev :=
  match d.pwr.stopNow with
  | some x =>
    let t := (satS 12 (sOf 12 raw + (if i < 8 then mget x.trim i else 0))).1
    if i < 10 && mget x.hot i && decide (t ≥ 0x730) then
      (((d.restop 1).modPwr fun p => { p with src := 0 }).railEn false).coolDown
    else d
  | none => d

/-- SENSOR_CONVERSION. -/
def execSensorConversion (i : Fin 12) (t : BitVec 12) (s : State) : R :=
  if s.dev.stopCauseNow ≥ 2 then .next { s with dev := s.dev.lateShutdown i t.toNat }
  else gate (fun s =>
    let (shut, d) := s.dev.sensorConv i t.toNat
    if shut then
      let det := toW (bitsOf (d.reg (R.thmSens i)) 11 0)
      let d := ((d.error 22 3 i 0 0xB12 det).event 0xB12 i det).settle
      let s := ksShutdown { s with dev := d }
      { s with dev := (s.dev.stop 1 false).coolDown }
    else { s with dev := d }) s

/-- One edge of CCLK while TM9 is held in reset. -/
def Dev.heldTick (d : Dev) : Dev := d.modPwr fun p => { p with cool := p.cool - 1, stopNow := none }

/-- STEP_r (R466). -/
def Dev.thrStep (d : Dev) (r : Nat) : Nat := d.f F.thmStat_STEP / 2 ^ (3 * r) % 8

/-- R474: THM_CFG as a throttle tick uses it: a write of its edge does not count. -/
def Dev.thmCfg (d : Dev) : Word :=
  match d.pwr.thmOld with
  | some (e, w) => if e = d.epo.edges + 1 then w else d.reg R.thmCfg
  | none => d.reg R.thmCfg

/-- A field of a register's word. -/
def Fld.of (fl : Fld) (w : Word) : Nat := bitsOf w fl.hi fl.lo

/-- One region's step (R466). -/
def Dev.throttleOne (r : Nat) (d : Dev) : Dev :=
  let s := d.thrStep r
  let t := d.temp r
  let thr := sOf 12 (F.thmCfg_THROTTLE.of d.thmCfg)
  let hyst : Int := F.thmCfg_HYST.of d.thmCfg
  let s' := if t ≥ thr && s < 4 then s + 1 else if t < thr - hyst && s > 0 then s - 1 else s
  let d := if s > 0 then d.inc F.thmCnt_THR_MS 10 else d
  if s' = s then d
  else
    let v := d.f F.thmStat_STEP
    let d := (d.setF F.thmStat_STEP (v - s * 2 ^ (3 * r) + s' * 2 ^ (3 * r))).inc F.thmCnt_STEP_CNT 1
    let det := mkW [(14, 12, s'), (2, 0, r)]
    (d.error 22 2 r 0 0xB11 det).event 0xB11 r det

/-- THROTTLE_UPDATE (R466). -/
def execThrottleUpdate : State → R := lift fun d => forN 8 Dev.throttleOne d

/-- R280: one region sensor against its die's reference diode (sensors 8 and 9). -/
def Dev.trimOne (i : Nat) (d : Dev) : Dev :=
  let diff := d.temp i - d.temp (8 + i / 4)
  let old := mget d.pwr.trim i
  let fact := mget d.pwr.fact i
  let want := if diff > 0 then old - 1 else if diff < 0 then old + 1 else old
  if want = old then d
  else if (want - fact).natAbs > 64 then d
  else
    let d := (d.modPwr fun p => { p with trim := mset p.trim i want }).inc F.calTrim_TRIM_STEPS 1
    if (want - fact).natAbs = 64 then d.event 0x604 0 (toW i) else d

/-- TRIM_UPDATE (R280), once per second. -/
def execTrimUpdate : State → R := lift fun d => forN 8 Dev.trimOne d

/-! ### Loop inputs (R468 to R470) -/

/-- round_he(x × GAIN × 2^-17) + OFS, saturated to u25 (R468, R471). -/
def loopScale (x gain ofs : Nat) : Nat :=
  (satU 25 (shrHe (x * gain : Nat) 17 + sOf 18 ofs)).1.toNat

/-- R469: the class of a current in nA. -/
def loopClass (i : Nat) : Nat :=
  if i ≤ 3600000 then 3 else if i < 3800000 then 1 else if i ≤ 20500000 then 0 else if i < 21000000 then 2 else 4

/-- A loop input's stream changed. -/
def Dev.modLoopIn (k : Nat) (f : LoopIn → LoopIn) (d : Dev) : Dev :=
  d.modPwr fun p => { p with loopIn := mmod p.loopIn k f }

/-- R470: EN of a loop input set, or cleared: its stream begins at the next whole epoch second. -/
def Dev.loopInEnable (k : Nat) (on : Bool) (d : Dev) : Dev :=
  d.modLoopIn k fun x => { (default : LoopIn) with
    pkts := x.pkts, sec := if on then some ((d.nowSec + 1) % 2 ^ 36) else none }

/-- A write of LOOP_IN[k].CFG: EN begins or ends its stream; the supply of its loop follows POWERED (R468, R470). -/
def Dev.loopInCfgWrite (p : Path) (k : Nat) (w : Word) (d : Dev) : Dev :=
  let was := d.fb (F.loopInCfg_EN k)
  let sup := d.loopSupplied k
  let d := d.writeByType p (R.loopInCfg k) w
  let on := d.fb (F.loopInCfg_EN k)
  let d := if was = on then d else d.loopInEnable k on
  if d.loopSupplied k = sup then d else d.emit (.loopSupply k (d.loopSupplied k))

/-- The epoch of slot `n` of a loop stream: its second + `n` ms (R10, R470). -/
def loopSlotEp (sec n : Nat) : Nat := (sec * 2 ^ 36 + epOf n 1000) % 2 ^ 72

/-- R470: a sample is the next slot, from slot 0 on. While STREAM is 1 it joins the packet of its number, all of whose slots the
stream has (assumption 181); a whole packet goes to the route memory, or is discarded while the fixed block is released
(R39). -/
def Dev.loopSlot (k cls i : Nat) (d : Dev) : Dev :=
  let x := mget d.pwr.loopIn k
  match x.sec with
  | none => d
  | some sec =>
    if earlier 72 d.now (loopSlotEp sec x.n) && x.n = 0 then d
    else
      let plen := 2 ^ d.f (F.loopInCfg_LOG2P k)
      let joins := d.fb (F.loopInCfg_STREAM k) && (x.n % plen == 0 || x.n % plen == x.held.length)
      let before := if x.n % plen = 0 then [] else x.held
      let held := if joins then before ++ [tagged (if cls ≥ 3 then 2 else 0) i] else []
      if held.length < plen then d.modLoopIn k fun x => { x with n := x.n + 1, held := held }
      else
        let n0 := x.n + 1 - held.length
        let e := loopSlotEp sec n0
        let items := held.map fun w => (⟨tagOf w, toW (payload w)⟩ : Item)
        let ws := (packPacket (0xFFC00 + k) 1 (n0 / held.length) e items).1.map (·.w)
        let fixed := d.fb F.rteGen_FIXED
        let d := d.modLoopIn k fun x => { x with
          n := x.n + 1, held := [], pkts := if fixed then x.pkts ++ [⟨ws, some e⟩] else x.pkts }
        if fixed then d else d.rteDiscard 1

/-- LOOP_IN_SAMPLE (R468 to R470). -/
def Dev.loopInSample (k raw : Nat) (d : Dev) : Dev :=
  if !d.fb (F.loopInCfg_EN k) then d
  else
    let i := loopScale raw (d.f (F.loopInTrim_GAIN k)) (d.f (F.loopInTrim_OFS k))
    let cls := loopClass i
    let was := d.f (F.loopInVal_CLASS k)
    let d := (d.setF (F.loopInVal_I k) i).setF (F.loopInVal_CLASS k) cls
    let d := if cls = was || cls = 0 then d
      else if cls ≤ 2 then d.inc (F.loopInCnt_RANGE k) 1
      else (d.inc (F.loopInCnt_FAIL k) 1).event 0xB20 k (toW cls)
    d.loopSlot k cls i

/-- LOOP_IN_SAMPLE. -/
def execLoopInSample (k : Fin 16) (raw : BitVec 25) : State → R := lift (Dev.loopInSample k raw.toNat)

/-! ### Loop outputs (R471 to R473) -/

/-- A loop output changed. -/
def Dev.modLoopOut (k : Nat) (f : LoopOut → LoopOut) (d : Dev) : Dev :=
  d.modPwr fun p => { p with loopOut := mmod p.loopOut k f }

/-- I_cmd (R471). -/
def Dev.loopCmd (d : Dev) (k : Nat) : Nat :=
  loopScale (mget d.pwr.loopOut k).set (d.f (F.loopOutTrim_GAIN k)) (d.f (F.loopOutTrim_OFS k))

/-- What output `k` drives, in nA (R459, R471, R473). -/
def Dev.loopLevel (d : Dev) (k : Nat) : Nat :=
  if (mget d.pwr.loopOut k).fail then d.failLevel k else if d.fb (F.loopOutCfg_EN k) then d.loopCmd k else 0

/-- It driven where it changes. -/
def Dev.loopDrive (k : Nat) (d : Dev) : Dev :=
  let i := d.loopLevel k
  if i = (mget d.pwr.loopOut k).level then d
  else (d.modLoopOut k fun x => { x with level := i }).emit (.drive 1 k i)

/-- A write of LOOP_OUT[k].CFG. An output loses its state while EN is 0 and begins with the SET that its register holds
(R459, R471). -/
def Dev.loopOutCfgWrite (p : Path) (k : Nat) (w : Word) (d : Dev) : Dev :=
  let was := d.fb (F.loopOutCfg_EN k)
  let d := d.writeByType p (R.loopOutCfg k) w
  let d := if d.fb (F.loopOutCfg_EN k) = was then d
    else d.modLoopOut k fun x => { (default : LoopOut) with
      set := d.f (F.loopOutSet_SET k), level := x.level, fail := x.fail, setEdge := x.setEdge }
  d.loopDrive k

/-- LOOP_SET_WRITE (R471, R473): the setpoint waits for the next millisecond; FAILSAFE clears. A watchdog expiry of the same
edge does not happen (R474). -/
def Dev.loopSetWrite (p : Path) (k : Nat) (w : Word) (d : Dev) : Dev :=
  let d := if (d.tieOf 4 k).isSome then
      ((d.untie 4 k).modLoopOut k fun x => { x with fail := false }).loopDrive k
    else d
  let d := (d.writeByType p (R.loopOutSet k) w).setF (F.loopOutAct_FAILSAFE k) 0
  d.modLoopOut k fun x => { x with pend := some (bitsOf w 24 0), setEdge := d.epo.edges + 1 }

/-- LOOP_SET_WRITE. -/
def execLoopSetWrite (p : Path) (k : Fin 16) (w : Word) : State → R := lift (Dev.loopSetWrite p k w)

/-- A run of readings that meet a condition. -/
def runOf (c : Bool) (n : Nat) : Nat := if c then n + 1 else 0

/-- R472: the flags of an output from its measured current. -/
def Dev.loopJudge (k cur : Nat) (d : Dev) : Dev :=
  let cmd := d.loopCmd k
  let d := d.modLoopOut k fun x => { x with
    low := runOf (decide (cur + 50000 < cmd)) x.low
    isOpen := runOf (decide (cur < 100000) && decide (cmd ≥ 1000000)) x.isOpen
    good := runOf (decide (cur ≤ cmd + 20000) && decide (cmd ≤ cur + 20000)) x.good }
  let x := mget d.pwr.loopOut k
  let d := if x.low ≥ 10 && !d.fb (F.loopOutAct_COMPLIANCE k) then
      ((d.setF (F.loopOutAct_COMPLIANCE k) 1).setF (F.loopOutAct_COMP_SEEN k) 1).event 0xB21 k (toW 1)
    else d
  let d := if x.isOpen ≥ 10 && !d.fb (F.loopOutAct_OPEN k) then
      (d.setF (F.loopOutAct_OPEN k) 1).event 0xB21 k (toW 2)
    else d
  if x.good ≥ 10 then (d.setF (F.loopOutAct_COMPLIANCE k) 0).setF (F.loopOutAct_OPEN k) 0 else d

/-- LOOP_OUT_SAMPLE (R471, R472): `cur` in nA, `vloop` in 10 mV. -/
def Dev.loopOutSample (k cur vloop : Nat) (d : Dev) : Dev :=
  let was := d.f F.loopStat_VLOOP
  let d := d.setF F.loopStat_VLOOP vloop
  let d := if vloop < 1800 && was ≥ 1800 then (d.setF F.loopStat_VLOOP_LOW 1).event 0xB23 0 (toW vloop) else d
  if !d.fb (F.loopOutCfg_EN k) then d
  else
    let x := mget d.pwr.loopOut k
    let d := match x.pend with
      | some v => (d.modLoopOut k fun x => { x with pend := none, set := v, fail := false }).loopDrive k
      | none => d
    (d.setF (F.loopOutAct_I k) cur).loopJudge k cur

/-- LOOP_OUT_SAMPLE. -/
def execLoopOutSample (k : Fin 16) (cur : BitVec 25) (vloop : BitVec 12) : State → R :=
  lift (Dev.loopOutSample k cur.toNat vloop.toNat)

/-- LOOP_WATCHDOG_EXPIRY (R473): the output drives its failure level; a write of SET at this edge wins (R474). -/
def Dev.loopExpiry (k : Nat) (d : Dev) : Dev :=
  if d.f (F.loopOutCfg_WDOG k) = 0 || (mget d.pwr.loopOut k).setEdge = d.epo.edges + 1 then d
  else
    let d := d.modLoopOut k fun x => { x with fail := true }
    ((d.setF (F.loopOutAct_FAILSAFE k) 1).event 0xB22 k 0).loopDrive k

/-- LOOP_WATCHDOG_EXPIRY. -/
def execLoopWatchdogExpiry (k : Fin 16) : State → R :=
  tied 4 k (fun old d => !old.fb (F.loopOutAct_FAILSAFE k) && d.fb (F.loopOutAct_FAILSAFE k)) (lift (Dev.loopExpiry k))

/-- LOOP_GET, opcode 0xB01. -/
def execLoopGet (n : Mbx) : State → R :=
  lift (Dev.takeCmd n 0xB01 (· == 0) fun d => d.reply n stOK
    ((List.range 16).map (fun k => d.reg (R.loopInVal k)) ++ (List.range 16).map (fun k => d.reg (R.loopOutAct k)) ++
      [d.reg R.loopStat]))

end Sys2Proof.Machine
end

