-- ==== Sys2Proof/Machine/Capture.lean ====
section
/-! DEFINITION. Capture channels, trigger engines, records, measurements and the Damask mask test (R235 to R262). -/

namespace Sys2Proof.Machine

/-! ### The channel table (R236, R237, R240) -/

/-- Local address of word C`i` of a channel. -/
def capAddr (ch i : Nat) : Nat := 0x300AA0000 + ch * 8 + i

/-- Word C`i` of a channel. -/
def Dev.capW (d : Dev) (ch i : Nat) : Word := d.rd (capAddr ch i)

def Dev.capEn (d : Dev) (ch : Nat) : Bool := bitOf (d.capW ch 0) 35
def Dev.capLen (d : Dev) (ch : Nat) : Nat := 2 ^ bitsOf (d.capW ch 0) 34 30
def Dev.capPlen (d : Dev) (ch : Nat) : Nat := 2 ^ bitsOf (d.capW ch 0) 29 26
def Dev.capBase (d : Dev) (ch : Nat) : Nat := bitsOf (d.capW ch 1) 33 0

/-- PER in units of 2^-36 ep. -/
def Dev.capPer (d : Dev) (ch : Nat) : Nat := (d.capW ch 2).toNat * 2 ^ 36 + (d.capW ch 3).toNat

/-- Slots captured. -/
def Dev.capSlots (d : Dev) (ch : Nat) : Nat := (d.capW ch 4).toNat * 2 ^ 36 + (d.capW ch 5).toNat

/-- round_he(m × PER). -/
def Dev.perRound (d : Dev) (ch m : Nat) : Nat := (roundHe (m * d.capPer ch : Nat) (2 ^ 36)).toNat

/-- What a channel keeps beside its table. -/
def Dev.chan (d : Dev) (ch : Nat) : CapChan := mget d.cap.chan ch

/-- It changed. -/
def Dev.modChan (ch : Nat) (f : CapChan → CapChan) (d : Dev) : Dev :=
  { d with cap := { d.cap with chan := mmod d.cap.chan ch f } }

/-- A count of C6: GAP_PKTS (hi) or DROP_PKTS, saturating. -/
def Dev.capCount (ch n : Nat) (gap : Bool) (d : Dev) : Dev :=
  let w := d.capW ch 6
  let (hi, lo) := if gap then (35, 18) else (17, 0)
  d.store (capAddr ch 6) (putBits w hi lo (satAdd 0x3FFFF (bitsOf w hi lo) n))

/-- Where the epoch of block `b` stands (R237). -/
def Dev.blkAddr (d : Dev) (ch b : Nat) : Nat := d.capBase ch + d.capLen ch + 2 * (b % (d.capLen ch / 1024))

/-- E_blk(b) of a present block (R240). -/
def Dev.blkEpoch (d : Dev) (ch b : Nat) : Nat :=
  let newest := (d.capSlots ch - 1) / 1024
  if b + d.capLen ch / 1024 ≤ newest then (d.chan ch).oldEp
  else (d.rd (d.blkAddr ch b)).toNat * 2 ^ 36 + (d.rd (d.blkAddr ch b + 1)).toNat

/-- E_c(n), a slot not yet received by the same rule. -/
def Dev.slotEpoch (d : Dev) (ch n : Nat) : Nat :=
  let newest := (d.capSlots ch - 1) / 1024
  let b := n / 1024
  let e := if b ≤ newest then d.blkEpoch ch b else d.blkEpoch ch newest + (b - newest) * d.perRound ch 1024
  (e + d.perRound ch (n % 1024)) % 2 ^ 72

/-- The oldest slot present. -/
def Dev.oldest (d : Dev) (ch : Nat) : Nat := d.capSlots ch - d.capLen ch

/-- The least `m` up to 1,024 with round_he(m × PER) at or past `x`: the least with m × PER at or past x - 1/2, or the next
where that is a tie that rounds down. -/
def Dev.perCeil (d : Dev) (ch x : Nat) : Nat :=
  if x = 0 then 0
  else
    let m := (ceilQ ((2 * x - 1 : Nat) * 2 ^ 35 : Int) (Nat.max 1 (d.capPer ch))).toNat
    Nat.min 1024 (if x ≤ d.perRound ch m then m else m + 1)

/-- The first slot of block `b`, none before the oldest present, whose epoch is not earlier than `e`; past the block where it
has none. -/
def Dev.slotIn (d : Dev) (ch e b : Nat) : Nat :=
  let at0 := d.blkEpoch ch b
  Nat.max (d.oldest ch) (b * 1024 + d.perCeil ch (if notEarlier 72 e at0 then (e + 2 ^ 72 - at0) % 2 ^ 72 else 0))

/-- R244, R251: the first slot whose epoch is not earlier than `e`, in the lowest block that has one, or among the slots to
come; the channel holds a slot. -/
def Dev.firstSlot (d : Dev) (ch e : Nat) : Nat :=
  let newest := (d.capSlots ch - 1) / 1024
  let b0 := d.oldest ch / 1024
  match firstN (newest + 1 - b0) fun k => decide (d.slotIn ch e (b0 + k) < (b0 + k + 1) * 1024) with
  | some k => d.slotIn ch e (b0 + k)
  | none =>
    let x := (e + 2 ^ 72 - d.blkEpoch ch newest) % 2 ^ 72
    let per := Nat.max 1 (d.perRound ch 1024)
    let j := (x - d.perRound ch 1023 + per - 1) / per
    (newest + j) * 1024 + d.perCeil ch (x - j * per)

/-- A word of the ring: a POISONED one with tag POISON. -/
def Dev.ringWord (d : Dev) (ch n : Nat) : Word :=
  let (w, bad) := d.rdP (d.capBase ch + n % d.capLen ch)
  if bad then putBits w 35 32 2 else w

/-! ### Engines: registers and state -/

/-- A trigger engine. -/
def Dev.trg (d : Dev) (n : Nat) : Trg := mget d.cap.trg n

/-- STATE. -/
def Dev.trgState (d : Dev) (n : Nat) : Nat := d.f (F.trgStat_STATE n)

def Dev.trgPost (d : Dev) (n : Nat) : Nat := d.f (F.trgSpan_POST_M1 n) + 1
def Dev.trgPre (d : Dev) (n : Nat) : Nat := d.f (F.trgSpan_PRE n)
def Dev.trgG (d : Dev) (n : Nat) : Nat := d.f (F.trgGroup_COUNT_M1 n) + 1
def Dev.trgFirst (d : Dev) (n : Nat) : Nat := d.f (F.trgGroup_FIRST n)
def Dev.trgWatch (d : Dev) (n : Nat) : Nat := d.f (F.trgGroup_WATCH n)
def Dev.recLen (d : Dev) (n : Nat) : Nat := d.f (F.trgRecLen_LEN n)

/-- Trailer words. -/
def Dev.trailerLen (d : Dev) (n : Nat) : Nat := if d.fb (F.trgCfg_KIND n) then 3 else 16

/-- R247: W_max. -/
def Dev.wMax (d : Dev) (n : Nat) : Nat := 1 + 10 + d.trgG n * (d.trgPre n + d.trgPost n) + d.trailerLen n + 1

/-- R256: the fill of a record buffer of `len` words: from the start of its oldest record through the end of its newest
reservation. -/
def Trg.fill (x : Trg) (len : Nat) : Nat :=
  match x.recs.head?, x.recs.getLast? with
  | some a, some b => (b.ofs + len - a.ofs) % len + b.len
  | _, _ => 0

/-- The fields of STAT that show the engine. -/
def Dev.trgShow (n : Nat) (d : Dev) : Dev :=
  let x := d.trg n
  (d.setF (F.trgStat_PEND n) x.pend.length).setF (F.trgStat_FILL_PM n) (x.fill (d.recLen n) * 1000 / d.recLen n)

/-- An engine changed. -/
def Dev.modTrg (n : Nat) (f : Trg → Trg) (d : Dev) : Dev :=
  ({ d with cap := { d.cap with trg := mmod d.cap.trg n f } }).trgShow n

/-- A change of STATE (R241). -/
def Dev.trgGo (n st : Nat) (d : Dev) : Dev :=
  if d.trgState n = st then d else (d.setF (F.trgStat_STATE n) st).event 0x500 n (toW st)

/-! ### Fields (R243) -/

/-- The field value of a slot payload. -/
def fieldVal (code : Nat) (w : Word) : Int :=
  let p := payload w
  let i := sOf 16 (p / 2 ^ 16)
  let q := sOf 16 p
  match code with
  | 0 => i
  | 1 => q
  | 2 => i * i + q * q
  | 3 => p
  | 4 => sOf 32 p
  | _ => (sOf 32 p).natAbs

/-- A 32-bit threshold or limit in the field's format. -/
def fieldThr (code v : Nat) : Int := if code = 0 || code = 1 || code = 4 then sOf 32 v else (v % 2 ^ 32 : Nat)

/-! ### Conditions (R242) -/

/-- R242: value condition `k` of engine `n` fires on a slot; `prev` is the slot before it. -/
def Dev.condFires (d : Dev) (n k : Nat) (prev : Option Word) (w : Word) : Bool :=
  let ty := d.f (F.trgCond_TYPE n k)
  let fc := d.f (F.trgCond_FIELD n k)
  let thr := fieldThr fc (d.f (F.trgThr_THR n k))
  let t := normTag (tagOf w)
  let v := fieldVal fc w
  let pv := prev.bind fun u => if tagOf u = 0 then some (fieldVal fc u) else none
  if ty = 5 then
    (t == 2 && nbit (d.f (F.trgCond_TAGS n k)) 0) || (t == 7 && nbit (d.f (F.trgCond_TAGS n k)) 1)
  else if t ≠ 0 then false
  else match ty with
    | 1 => decide (v > thr)
    | 2 => decide (v < thr)
    | 3 => (pv.map fun u => decide (u ≤ thr) && decide (v > thr)).getD false
    | 4 => (pv.map fun u => decide (u ≥ thr) && decide (v < thr)).getD false
    | _ => false

/-- The mask of the value conditions that fire. -/
def Dev.condMask (d : Dev) (n : Nat) (prev : Option Word) (w : Word) : Nat :=
  (List.range 8).foldl (fun m k => if d.condFires n k prev w then m + 2 ^ k else m) 0

/-- The mask of an engine's epoch conditions of a type; PIN with its pin. -/
def Dev.epochMask (d : Dev) (n ty : Nat) (pin : Nat) : Nat :=
  (List.range 8).foldl (fun m k =>
    if d.f (F.trgCond_TYPE n k) = ty && (ty ≠ 6 || d.f (F.trgCond_PIN n k) = pin) then m + 2 ^ k else m) 0

/-! ### Records (R246, R247, R251, R254) -/

/-- R248: a missed trigger with its reason; `e` is the epoch of its slot. -/
def Dev.trgMiss (n reason e : Nat) (d : Dev) : Dev :=
  let d := (d.inc (F.trgCnt_MISSED n) 1).modTrg n fun x => { x with missed := x.missed + 1 }
  let d := (d.setF (F.trgMissEpLo_FRAC n) e).setF (F.trgMissEpHi_SEC n) (e / 2 ^ 36)
  d.event 0x501 n (mkW [(35, 32, reason), (31, 0, shortEpoch e)])

/-- The slots of a channel from `a` to `b` that are present now. -/
def Dev.cutCol (d : Dev) (ch a b : Nat) : CutCol :=
  let have' := Nat.max a (Nat.min b (d.capSlots ch))
  ⟨ch, have', b, (List.range (have' - a)).map fun i => d.ringWord ch (a + i)⟩

/-- R246, R251: a record begins at slot `nt` of the watched channel. -/
def Dev.recBegin (n mask nt : Nat) (d : Dev) : Dev :=
  let et := d.slotEpoch (d.trgWatch n) nt
  let chs := (List.range (d.trgG n)).map (d.trgFirst n + ·)
  let at' := fun c => if d.capSlots c = 0 then 0 else if c = d.trgWatch n then nt else d.firstSlot c et
  let pa := chs.foldl (fun a c => Nat.min a (at' c - d.oldest c)) (d.trgPre n)
  let col := fun c => d.cutCol c (at' c - pa) (at' c + d.trgPost n)
  let num := d.f (F.trgRecnum_NEXT n)
  let w := d.trgWatch n
  let cut : Cut := {
    num := num, et := et, cause := mask, decim := d.f (F.trgStat_DECIM n), pre := pa, retrig := 0
    missed := (d.trg n).missed, skipped := (d.trg n).skipped
    cols := chs.map col, watch := if chs.contains w then none else some (col w) }
  let r : Rec := ⟨num, (d.trg n).ofs, d.wMax n, false, [], pa, 0, chs.length⟩
  let d := d.modTrg n fun x => { x with
    cut := some cut, recs := x.recs ++ [r], missed := 0, skipped := 0 }
  (d.setF (F.trgRecnum_NEXT n) (num + 1)).trgGo n 2

/-- R246, R257: a trigger in ARMED. -/
def Dev.trgArmed (n mask nt : Nat) (d : Dev) : Dev :=
  let dec := d.f (F.trgStat_DECIM n)
  let c := (d.trg n).dcnt
  let d := if dec > 0 then d.modTrg n fun x => { x with dcnt := (c + 1) % 2 ^ dec } else d
  if dec > 0 && c ≠ 0 then
    (d.inc (F.trgCnt_DEC_SKIP n) 1).modTrg n fun x => { x with skipped := x.skipped + 1 }
  else if d.recLen n < (d.trg n).fill (d.recLen n) + d.wMax n then d.trgMiss n 3 (d.slotEpoch (d.trgWatch n) nt)
  else d.recBegin n mask nt

/-- R249: REARM has ended at this edge: 74 CCLK edges after the one at which POST ended lie behind. A disarmed engine goes to
IDLE (assumption 144). -/
def Dev.rearmCatch (n : Nat) (d : Dev) : Dev :=
  if d.trgState n = 3 && decide ((d.trg n).postEdge + 75 ≤ d.epo.edges) then
    (d.modTrg n fun x => { x with disarm := false }).trgGo n (if (d.trg n).disarm then 0 else 1)
  else d

/-- A trigger on slot `nt` of the watched channel (R245, R246, R248). -/
def Dev.trigger (n mask nt : Nat) (d : Dev) : Dev :=
  match d.trgState n with
  | 1 => d.trgArmed n mask nt
  | 2 =>
    (d.inc (F.trgCnt_RETRIG n) 1).modTrg n fun x => { x with
      cut := x.cut.map fun c => { c with retrig := Nat.min 255 (c.retrig + 1) } }
  | 3 => d.trgMiss n 1 (d.slotEpoch (d.trgWatch n) nt)
  | _ => d

/-- The epoch of the slot of a trigger at `e` that is older than the ring: E_c by the epoch last overwritten where that block
holds it, else `e` itself, because the ring no longer holds the slot's epoch (assumption 145). -/
def Dev.goneEpoch (d : Dev) (ch e : Nat) : Nat :=
  let b := (d.chan ch).oldEp
  let x := (e + 2 ^ 72 - b) % 2 ^ 72
  if notEarlier 72 e b then (b + d.perRound ch (d.perCeil ch x)) % 2 ^ 72 else e

/-! ### Measurements and the mask test (R258 to R262) -/

/-- A MARK word of a class (R254). -/
def markC (cls v : Nat) : Word := tagged 6 (cls * 2 ^ 24 + v % 2 ^ 24)

/-- Both words of measurement `m`. -/
def measWords (m : Nat) (v : Int) : List Word :=
  let u := sTo 32 v
  [markC (0xA0 + 2 * m) (u / 2 ^ 16), markC (0xA1 + 2 * m) (u % 2 ^ 16)]

/-- The sum of values. -/
def sumI (xs : List Int) : Int := xs.foldl (· + ·) 0

/-- Rounded mean, 0 of none. -/
def meanI (xs : List Int) : Int := if xs.isEmpty then 0 else roundHe (sumI xs) xs.length

/-- R258, R259: the 16 trailer words from the watched channel's slots. -/
def measure (field mshift pa : Nat) (ws : List Word) : List Word :=
  let ps := (ws.zipIdx.filter fun x => tagOf x.1 == 0).map fun x => (x.2, fieldVal field x.1)
  let pre := (ps.filter fun x => x.1 < pa).map (·.2)
  let post := ps.filter fun x => x.1 ≥ pa
  let pv := post.map (·.2)
  let peak := (ps.map (·.2)).foldl (fun (a : Option Int) v => some (a.elim v (max · v))) none
  let pos := ((ps.find? fun x => some x.2 == peak).map (·.1)).getD 0xFFFFFFFF
  let base := meanI pre
  let area := (satS 32 (shrHe (sumI pv - pv.length * base) mshift)).1
  let rise := ((post.find? fun x => x.1 ≤ pos && decide (2 * (x.2 - base) ≥ peak.getD 0 - base)).map (·.1)).getD 0xFFFFFFFF
  let np := Nat.min 0xFFFF (ws.countP fun w => normTag (tagOf w) == 2)
  let nf := Nat.min 0xFFFF (ws.countP fun w => tagOf w == 7)
  measWords 0 (peak.getD 0) ++ measWords 1 pos ++ measWords 2 rise ++ measWords 3 base ++ measWords 4 (meanI pv) ++
    measWords 5 area ++ measWords 6 (np * 65536 + nf : Nat) ++ measWords 7 (ps.length : Nat)

/-- Local address of word `i` of Damask mask `m` (R260). -/
def dmkAddr (m i : Nat) : Nat := 0x300A90000 + m * 0x2000 + i

/-- The segments of a mask: first relative position, span, limits (R260). -/
def Dev.dmkSegs (d : Dev) (m : Nat) : List (Int × Nat × Nat × Nat) :=
  let start := sOf 36 (d.rd (dmkAddr m 1)).toNat
  ((List.range (bitsOf (d.rd (dmkAddr m 0)) 11 0)).foldl (fun (acc : List (Int × Nat × Nat × Nat) × Int) s =>
    let a := dmkAddr m (2 + 3 * s)
    let span := bitsOf (d.rd a) 15 0 + 1
    (acc.1 ++ [(acc.2, span, bitsOf (d.rd (a + 1)) 31 0, bitsOf (d.rd (a + 2)) 31 0)], acc.2 + span)) ([], start)).1

/-- R261: the violations of one channel's slots against a mask: (position, segment) in position order. -/
def dmkTest (field : Nat) (badViol : Bool) (segs : List (Int × Nat × Nat × Nat)) (pa : Nat) (ws : List Word) :
    List (Nat × Nat) :=
  ws.zipIdx.filterMap fun (w, p) =>
    let rel : Int := (p : Int) - pa
    match segs.zipIdx.find? fun (s, _) => decide (s.1 ≤ rel) && decide (rel < s.1 + s.2.1) with
    | none => none
    | some ((_, _, lo, hi), i) =>
      let t := normTag (tagOf w)
      let v := fieldVal field w
      if t = 0 then (if v < fieldThr field lo || v > fieldThr field hi then some (p, i) else none)
      else if badViol then some (p, i) else none

/-- R254: the header words H0 to H9. -/
def Dev.recHeader (d : Dev) (n : Nat) (c : Cut) : List Word :=
  let prim := (firstN 8 (nbit c.cause ·)).getD 0
  let sec := c.et / 2 ^ 36
  let fr := c.et % 2 ^ 36
  [markC 0x80 (n * 2 ^ 20 + c.num),
   markC 0x81 (c.cause * 2 ^ 16 + prim * 2 ^ 13 + c.decim * 2 ^ 10 + bit (c.pre < d.trgPre n) * 2 ^ 9 + c.retrig),
   markC 0x82 c.pre, markC 0x83 (d.trgPost n - 1), markC 0x84 (sec / 2 ^ 12),
   markC 0x85 (sec % 2 ^ 12 * 2 ^ 12 + fr / 2 ^ 24), markC 0x86 (fr % 2 ^ 24),
   markC 0x87 (bitsOf (d.capW (d.trgWatch n) 0) 19 0),
   markC 0x88 (Nat.min 0xFFF c.missed * 2 ^ 12 + Nat.min 0xFFF c.skipped),
   markC 0x89 (d.trgFirst n * 2 ^ 12 + (d.trgG n - 1))]

/-- A record changed. -/
def Dev.modRec (n num : Nat) (f : Rec → Rec) (d : Dev) : Dev :=
  d.modTrg n fun x => { x with recs := x.recs.map fun r => if r.num = num && !r.ready then f r else r }

/-- The words of a record stored in its buffer (R247): its trailer and TAIL are written. -/
def Dev.recStore (n : Nat) (r : Rec) (trailer : List Word) (d : Dev) : Dev :=
  let ws := r.body ++ trailer ++ [tagged 4 r.num]
  let d := ws.zipIdx.foldl (fun d (w, k) =>
    d.wr (d.f (F.trgRecBase_BASE n) + (r.ofs + k) % d.recLen n) w) d
  d.modRec n r.num fun r => { r with ready := true, len := ws.length, body := [] }

/-- The state after POST (R241, R250, R262). -/
def Dev.postExit (n : Nat) (d : Dev) : Dev :=
  let x := d.trg n
  let d := d.modTrg n fun x => { x with
    cut := none, disarm := false, stop := false, postEdge := d.epo.edges }
  if x.stop then d.trgGo n 4
  else if x.disarm || !d.fb (F.trgStat_CONT n) then d.trgGo n 0
  else d.trgGo n 3

/-- A column completed with FILL (R252). -/
def CutCol.full (c : CutCol) : List Word := c.ws ++ List.replicate (c.stop - c.next) (tagged 7 0)

/-- POST ends: the record is cut (R252, R254, R255, R261). -/
def Dev.postEnd (n : Nat) (d : Dev) : Dev :=
  match (d.trg n).cut with
  | none => d
  | some c =>
    let head := tagged 3 (d.f (F.trgRecEp_EP n) * 2 ^ 12 + c.num % 4096)
    let slots := c.cols.flatMap (·.full)
    let body := head :: d.recHeader n c ++ slots
    let len := body.length + d.trailerLen n + 1
    let rec' : Rec := { num := c.num, ofs := (d.trg n).ofs, len := d.wMax n, ready := false, body := body, pre := c.pre
                        npos := c.pre + d.trgPost n, nch := c.cols.length }
    let d := d.modRec n c.num fun _ => rec'
    let d := d.modTrg n fun x => { x with ofs := (x.ofs + len) % d.recLen n }
    let d :=
      if d.fb (F.trgCfg_KIND n) then { d with cap := { d.cap with dmk := d.cap.dmk ++ [(n, c.num)] } }
      else
        let w := c.watch.orElse fun _ => c.cols.find? fun k => k.ch == d.trgWatch n
        let ws := (w.map (·.full)).getD []
        d.recStore n rec' (measure (d.f (F.trgCfg_MFIELD n)) (d.f (F.trgCfg_MSHIFT n)) c.pre ws)
    d.postExit n

/-- DMK_STAT (R261). -/
def Dev.dmkShow (d : Dev) : Dev :=
  (d.setF F.dmkStat_QDEPTH (Nat.min 16 d.cap.dmk.length)).setF F.dmkStat_BUSY (bit (!d.cap.dmk.isEmpty))

/-- R252: POST of engine `n` ends when every group channel has its last post slot. -/
def Dev.postCheck (n : Nat) (d : Dev) : Dev :=
  match (d.trg n).cut with
  | some c => if c.cols.all (fun k => k.next ≥ k.stop) then (d.postEnd n).dmkShow else d
  | none => d

/-! ### Triggers of one edge (R245, R250, R256) -/

/-- The triggers that have arrived at this edge, by slot. -/
def Dev.trgNow (d : Dev) (n : Nat) : List Arrival :=
  if (d.trg n).arrEdge = d.epo.edges + 1 then (d.trg n).arrs else []

/-- What an engine does by or after a trigger of this edge, noted with it: CAP_DISARM of the edge takes it back. -/
def Dev.engNoted (n : Nat) (f : Dev → Dev) (d : Dev) : Dev := (f d).note 2 n true d
def Dev.engDo (n : Nat) (f : Dev → Dev) (d : Dev) : Dev := if (d.trgNow n).isEmpty then f d else d.engNoted n f

/-- R256: an engine at a tick. -/
def Dev.decimTick (n : Nat) (d : Dev) : Dev :=
  let x := d.trg n
  let pm := x.fill (d.recLen n) * 1000 / d.recLen n
  let dec := d.f (F.trgStat_DECIM n)
  let dec' := if pm > 750 && dec < 4 then dec + 1 else if pm < 250 && dec > 0 then dec - 1 else dec
  if dec' = dec then d
  else
    let d := (d.setF (F.trgStat_DECIM n) dec').modTrg n fun x => { x with dcnt := 0 }
    d.event 0x502 n (mkW [(12, 3, pm), (2, 0, dec')])

/-- It, noted: the tick acts after the triggers of its edge (R256). -/
def Dev.tickOne (n : Nat) (d : Dev) : Dev := (d.decimTick n).note 3 n true d

/-- A change to the triggers of this edge; a tick of the edge that has acted acts again after it (R256). -/
def Dev.retick (n : Nat) (f : Dev → Dev) (d : Dev) : Dev :=
  if d.cap.tickEdge = d.epo.edges + 1 then (f (d.untieAll 3 n)).tickOne n else f d

/-- Triggers of one edge in the order of their slots; those on one slot are one (R245). -/
def arrivalIn (a : Arrival) : List Arrival → List Arrival
  | [] => [a]
  | b :: bs =>
    if a.slot < b.slot then a :: b :: bs
    else if a.slot = b.slot && a.reason = b.reason && a.ep = b.ep then { b with mask := b.mask ||| a.mask } :: bs
    else b :: arrivalIn a bs

/-- A trigger takes effect. A record whose last post slots stand in the rings already is complete at once (R241, R252). -/
def Dev.takeArrival (n : Nat) (a : Arrival) (d : Dev) : Dev :=
  if a.reason = 0 then (d.trigger n a.mask a.slot).postCheck n else d.trgMiss n a.reason a.ep

/-- R245: a trigger arrives. One on a slot that does not lie behind those of the earlier ones of the edge is taken with them
anew, the lowest slot first. -/
def Dev.arrive (n : Nat) (a : Arrival) : Dev → Dev :=
  Dev.retick n fun d =>
    let old := d.trgNow n
    let all := arrivalIn a old
    let (todo, d) := if old.all fun b => b.slot < a.slot then ([a], d) else (all, d.untieAll 2 n)
    (each todo (fun a d => d.engNoted n (Dev.takeArrival n a)) d).modTrg n fun x =>
      { x with arrs := all, arrEdge := d.epo.edges + 1 }

/-- R244: an epoch trigger for the conditions of a mask. In a channel without a slot the slot of a trigger missed with reason
4 has no epoch yet, and `e` stands for it (assumption 145). -/
def Dev.epochTrigger (n mask e : Nat) (d : Dev) : Dev :=
  let d := d.rearmCatch n
  let st := d.trgState n
  let ch := d.trgWatch n
  let tot := d.capSlots ch
  if mask = 0 || st = 0 || st = 4 then d
  else
    let k := d.firstSlot ch e
    let o := d.oldest ch
    if tot > 0 && k < tot then
      if o > 0 && notEarlier 72 (d.slotEpoch ch (o - 1)) e then d.arrive n ⟨0, mask, 2, d.goneEpoch ch e⟩
      else d.arrive n ⟨k, mask, 0, 0⟩
    else if (d.trg n).pend.length ≥ 4 then d.arrive n ⟨k, mask, 4, if tot = 0 then e else d.slotEpoch ch k⟩
    else d.modTrg n fun x => { x with pend := x.pend ++ [(mask, e)] }

/-! ### The end of POST and of REARM, the test -/

/-- R252: E_t + POST x PER + TMO ms of the record being cut. -/
def Dev.postLimit (d : Dev) (n : Nat) : Nat :=
  let et := ((d.trg n).cut.map (·.et)).getD 0
  (et + d.perRound (d.trgWatch n) (d.trgPost n) + epOf (Nat.max 1 (d.f (F.trgCfg_TMO n))) 1000) % 2 ^ 72

/-- POST_TIMEOUT (R252). -/
def execPostTimeout (n : Fin 16) : State → R :=
  lift fun d => if notEarlier 72 d.now (d.postLimit n) then (d.postEnd n).dmkShow else d

/-- REARM_END (R249). -/
def execRearmEnd (n : Fin 16) : State → R := lift (Dev.rearmCatch n)

/-- DAMASK_TEST_DONE (R261, R262): the record at the front of the queue. With STOP set a violation takes the engine to STOPPED
from whatever state it is in; from POST once that ends. -/
def Dev.damaskDone (d : Dev) : Dev :=
  match d.cap.dmk with
  | [] => d
  | (n, num) :: rest =>
    let d := ({ d with cap := { d.cap with dmk := rest } }).dmkShow
    match (d.trg n).recs.find? (fun r => r.num == num && !r.ready) with
    | none => d
    | some r =>
      let m := d.f (F.trgCfg_MASK n)
      let m0 := d.rd (dmkAddr m 0)
      let segs := d.dmkSegs m
      let viols := (List.range r.nch).flatMap fun c =>
        (dmkTest (bitsOf m0 35 33) (bitOf m0 32) segs r.pre ((r.body.drop (11 + c * r.npos)).take r.npos)).map
          fun (p, s) => (c, p, s)
      let stop := d.fb (F.trgCfg_STOP n) && !viols.isEmpty
      let (c, p, s) := viols.headD (0xFFF, 0xFFFF, 0xFF)
      -- A position that its field does not hold is free (assumption 179).
      let (p, d) := if p < 0x10000 then (p, d) else let (v, d) := d.fresh; (v % 0x10000, d)
      let trailer := [markC 0xB0 (bit stop * 2 ^ 23 + Nat.min 0x7FFFFF viols.length),
        markC 0xB1 (Nat.min 0xFF s * 2 ^ 16 + p), markC 0xB2 c]
      let d := (d.inc F.dmkCnt_TESTED 1).recStore n r trailer
      let d := if viols.isEmpty then d else d.inc F.dmkCnt_FAILED 1
      if !stop then d
      else
        let d := if d.trgState n = 2 then d.modTrg n fun x => { x with stop := true }
          else d.trgGo n 4
        d.event 0x503 n (toW num)

/-- DAMASK_TEST_DONE. -/
def execDamaskTestDone : State → R := lift Dev.damaskDone

/-- DECIM_TICK (R256): a tick falls where epoch fraction bits 35:26 have changed since the last one. -/
def execDecimTick : State → R :=
  lift fun d =>
    let b := bitsOf (toW d.now) 35 26
    if b = d.cap.tick then d
    else forN 16 Dev.tickOne { d with cap := { d.cap with tick := b, tickEdge := d.epo.edges + 1 } }

/-! ### Slots entering a ring (R238 to R245) -/

/-- Engine `n` takes slot `k`, a word of the watched or a group channel. Epoch triggers resolve in every state; IDLE and
STOPPED ignore them (R241, R244). -/
def Dev.engineSlot (n ch k : Nat) (prev : Option Word) (w : Word) (d : Dev) : Dev :=
  let d := d.engDo n (Dev.modTrg n fun x => { x with cut := x.cut.map fun c =>
    let add := fun (q : CutCol) => if q.ch = ch && q.next = k && k < q.stop then
      { q with next := k + 1, ws := q.ws ++ [w] } else q
    { c with cols := c.cols.map add, watch := c.watch.map add } })
  let d := d.rearmCatch n
  let st := d.trgState n
  let d :=
    if d.trgWatch n = ch then
      let e := d.slotEpoch ch k
      let due := (d.trg n).pend.filter fun x => notEarlier 72 e x.2
      let mask := due.foldl (fun m x => m ||| x.1) (if st = 0 || st = 4 then 0 else d.condMask n prev w)
      let d := if due.isEmpty then d
        else d.modTrg n fun x => { x with pend := x.pend.filter fun y => !notEarlier 72 e y.2 }
      if mask = 0 || st = 0 || st = 4 then d else d.arrive n ⟨k, mask, 0, 0⟩
    else d
  d.engDo n (Dev.postCheck n)

/-- The engine reads channel `ch`. -/
def Dev.engineNames (d : Dev) (n ch : Nat) : Bool :=
  d.trgWatch n == ch || (decide (d.trgFirst n ≤ ch) && decide (ch < d.trgFirst n + d.trgG n))

/-- A slot stored in the ring of a channel, and shown to the engines. -/
def Dev.capSlot (ch : Nat) (w : Word) (d : Dev) : Dev :=
  let k := d.capSlots ch
  let prev := if k = 0 then none else some (d.ringWord ch (k - 1))
  let d := d.wr (d.capBase ch + k % d.capLen ch) w
  let d := (d.store (capAddr ch 5) (toW (k + 1))).store (capAddr ch 4) (toW ((k + 1) / 2 ^ 36))
  let ns := (List.range 16).filter fun n => (d.trgState n ≠ 0 || !(d.trg n).pend.isEmpty) && d.engineNames n ch
  each ns (fun n d => d.engineSlot n ch k prev w) d

/-- R240: the epoch words of the block that slot `k` starts: `carried`, or the block before's by rule. -/
def Dev.capBlock (ch : Nat) (carried : Option Nat) (d : Dev) : Dev :=
  let k := d.capSlots ch
  if k % 1024 ≠ 0 then d
  else
    let b := k / 1024
    let e := match carried with
      | some e => e
      | none => if b = 0 then d.now else (d.blkEpoch ch (b - 1) + d.perRound ch 1024) % 2 ^ 72
    let a := d.blkAddr ch b
    let old := (d.rd a).toNat * 2 ^ 36 + (d.rd (a + 1)).toNat
    let d := d.modChan ch fun x => { x with oldEp := old }
    (d.wr a (toW (e / 2 ^ 36))).wr (a + 1) (toW e)

/-- A packet position of a channel stored: its slots, or FILL for a missing packet. -/
def Dev.capPosition (ch : Nat) (carried : Option Nat) (slots : List Word) (d : Dev) : Dev :=
  let plen := d.capPlen ch
  let ws := slots.take plen ++ List.replicate (plen - slots.length) (tagged 7 0)
  each ws (Dev.capSlot ch) (d.capBlock ch carried)

/-- R238, R239: a packet delivered to a channel. -/
def Dev.capPacket (ch : Nat) (p : CapPkt) (d : Dev) : Dev :=
  let head := p.ws.headD 0
  let c := d.chan ch
  let poison := tagOf head ≠ 3
  let r := if poison then c.seq else bitsOf head 11 0
  let epOk := poison || bitsOf head 31 12 = bitsOf (d.capW ch 0) 19 0
  let plen := d.capPlen ch
  let slots := p.ws.drop 1 |>.filter fun w => slotTag (tagOf w)
  let take := fun (d : Dev) =>
    let d := d.capPosition ch p.ep slots
    let d := if slots.length = plen then d else d.capCount ch 1 false
    d.modChan ch fun x => { x with seq := (r + 1) % 4096, started := true }
  if !d.capEn ch then d
  else if !c.started then
    if !poison && epOk && r * plen % 1024 = 0 then take d else d
  else if !epOk then d.capCount ch 1 false
  else
    let g := (r + 4096 - c.seq) % 4096
    if g = 0 then take d
    else if g < 2048 then
      let d := forN g (fun _ d => d.capPosition ch none []) d
      take ((d.capCount ch g true).event 0x504 ch (toW g))
    else d.capCount ch 1 false

/-- CAPTURE_PACKET (R235, R238 to R245): the oldest packet delivered to the channel. -/
def Dev.capturePacket (ch : Nat) (d : Dev) : Dev :=
  match (d.chan ch).pend with
  | [] => d
  | p :: ps => (d.modChan ch fun x => { x with pend := ps }).capPacket ch p

/-- CAPTURE_PACKET. -/
def execCapturePacket (ch : Fin 4096) : State → R := lift (Dev.capturePacket ch)

/-! ### Epoch triggers -/

/-- An epoch trigger, and what its engine has come to by it. -/
def Dev.epochFire (n mask e : Nat) (d : Dev) : Dev := (d.epochTrigger n mask e).engDo n (Dev.postCheck n)

/-- TRIG_IN_EDGE (R157, R242): an edge at `e` on a pin. -/
def execTrigInEdge (pin : Fin 8) (e : Epoch) : State → R :=
  lift fun d =>
    let d := forN 16 (fun n d => d.epochFire n (d.epochMask n 6 pin) e.toNat) d
    each (d.sysrefLinks pin) (fun l d => d.sysrefAt l e.toNat) d

/-- TRIGGER (R140, R242): the masked engines, at the entry's target. -/
def Dev.triggerAct (e : Nat) (_ : Bool) (d : Dev) : Nat × Dev :=
  let mask := bitsOf (d.schArg e 0) 15 0
  let t := if d.schAxis e = 0 then d.schTarget e (d.schE e).issued else d.now
  (stOK, forN 16 (fun n d => if nbit mask n then d.epochFire n (d.epochMask n 7 0) t else d) d)

/-- TRIGGER. -/
def execTrigger (e : Fin 4096) : State → R := issueOf e (lift (Dev.schIssue e 7 false (Dev.triggerAct e)))

/-! ### Commands -/

/-- Two ranges of words overlap. -/
def rangesMeet (a la b lb : Nat) : Bool := a < b + lb && b < a + la && la > 0 && lb > 0

/-- A range lies within one HBM stack and above the retained-image area (R50, R237, R247). -/
def hbmRange (a len : Nat) : Bool :=
  0x200000 ≤ a && (a + len ≤ hbmWords || (0x100000000 ≤ a && a + len ≤ 0x100000000 + hbmWords))

/-- The words of a channel (R237). -/
def Dev.capWords (d : Dev) (ch : Nat) : Nat := d.capLen ch + d.capLen ch / 512

/-- A range meets the backlog reserve (R436). -/
def Dev.meetsBkl (d : Dev) (a len : Nat) : Bool :=
  rangesMeet a len (d.f F.errBklBase_BASE * 1024) (d.f F.errBklCfg_LEN * 1024)

/-- A range meets an enabled channel other than `skip`. -/
def Dev.meetsChan (d : Dev) (a len : Nat) (skip : Option Nat) : Bool :=
  (List.range 4096).any fun c => some c != skip && d.capEn c && rangesMeet a len (d.capBase c) (d.capWords c)

/-- A range meets the record buffer of an engine other than `skip` (R237, R247). -/
def Dev.meetsRec (d : Dev) (a len : Nat) (skip : Option Nat) : Bool :=
  (List.range 16).any fun n => some n != skip && rangesMeet a len (d.f (F.trgRecBase_BASE n)) (d.recLen n)

/-- CAP_CHAN_SET, opcode 0x500 (R236, R237). -/
def Dev.capChanSet (n : Nat) (d : Dev) : Dev :=
  let ch := (d.arg n 1).toNat
  let c := fun i => d.arg n (2 + i)
  let log := bitsOf (c 0) 34 30
  let base := bitsOf (c 1) 33 0
  let words := 2 ^ log + 2 ^ log / 512
  let named := (List.range 16).any fun t => d.trgState t ≠ 0 && d.engineNames t ch
  let changes := putBits (c 0) 35 35 0 ≠ putBits (d.capW ch 0) 35 35 0 || (List.range 4).any fun i =>
    i > 0 && c i != d.capW ch i
  let bad := log < 12 || log > 30 || bitsOf (c 0) 29 26 > 10 || bitsOf (c 0) 25 20 ≠ 0
    || ((c 2).toNat = 0 && (c 3).toNat = 0) || base % 16 ≠ 0 || bitsOf (c 1) 35 34 ≠ 0
    || !hbmRange base words || d.meetsChan base words (some ch) || d.meetsRec base words none || d.meetsBkl base words
  if ch > 4095 then d.reply n stBAD_ARG []
  else if (d.capEn ch && changes) || named then d.reply n stBUSY []
  else if bad then d.reply n stBAD_ARG []
  else
    let d := forN 4 (fun i d => d.store (capAddr ch i) (c i)) d
    let d := if bitOf (c 0) 35 then
        (forN 3 (fun i d => d.store (capAddr ch (4 + i)) 0) d).modChan ch fun _ => default
      else d
    d.reply n stOK []

/-- CAP_CHAN_SET. -/
def execCapChanSet (n : Mbx) : State → R := lift (Dev.takeCmd n 0x500 (· == 5) (Dev.capChanSet n))

/-- R242, R243, R247, R253: the reason for which CAP_ARM refuses engine `t`, or 0. -/
def Dev.armReason (d : Dev) (t : Nat) : Nat :=
  let chs := (List.range (d.trgG t)).map (d.trgFirst t + ·)
  let w := d.trgWatch t
  let span := d.trgPre t + d.trgPost t
  let base := d.f (F.trgRecBase_BASE t)
  let m0 := d.rd (dmkAddr (d.f (F.trgCfg_MASK t)) 0)
  if d.trgFirst t + d.trgG t > 4096 || !d.capEn w || chs.any (fun c => !d.capEn c) then 1
  else if chs.any (fun c => d.capPer c ≠ d.capPer w) then 2
  else if chs.any (fun c => d.capLen c < 2 * span) then 3
  else if d.recLen t < 2 * d.wMax t || base % 16 ≠ 0 || !hbmRange base (d.recLen t) || d.meetsChan base (d.recLen t) none
      || d.meetsBkl base (d.recLen t) || d.meetsRec base (d.recLen t) (some t) then 4
  else if (List.range 8).any (fun k => d.f (F.trgCond_TYPE t k) > 8 || d.f (F.trgCond_FIELD t k) > 5)
      || d.f (F.trgCfg_MFIELD t) > 5 then 5
  else if d.fb (F.trgCfg_KIND t) && (bitsOf m0 11 0 = 0 || bitsOf m0 35 33 > 5) then 6
  else 0

/-- CAP_ARM, opcode 0x501 (R241, R253). -/
def Dev.capArm (n : Nat) (d : Dev) : Dev :=
  let a := d.arg n 1
  let t := bitsOf a 3 0
  let cont := bitsOf a 4 4
  let st := d.trgState t
  if bitsOf a 35 5 ≠ 0 then d.reply n stBAD_ARG [0]
  else if st = 2 || st = 3 then d.reply n stBUSY [0]
  else if st = 1 then (d.setF (F.trgStat_CONT t) cont).reply n stOK [0]
  else
    let r := d.armReason t
    if r ≠ 0 then d.reply n stBAD_ARG [toW r]
    else
      let d := (d.setF (F.trgStat_CONT t) cont).modTrg t fun x => { x with
        ofs := 0, cut := none, disarm := false, stop := false }
      (d.trgGo t 1).reply n stOK [0]

/-- CAP_ARM. -/
def execCapArm (n : Mbx) : State → R := lift (Dev.takeCmd n 0x501 (· == 1) (Dev.capArm n))

/-- R250: the triggers of this very edge are not captured and not counted. -/
def Dev.untrigger (n : Nat) : Dev → Dev :=
  Dev.retick n fun d => (d.untieAll 2 n).modTrg n fun x => { x with arrs := [] }

/-- R241, R250: an engine disarmed: from ARMED at once, from POST and from REARM once that ends (assumption 144). A trigger of
the same cycle loses; a STOPPED that waited for the end of its POST comes at once (R262). -/
def Dev.disarmTrg (n : Nat) (d : Dev) : Dev :=
  let d := if (d.trgNow n).isEmpty then d else d.untrigger n
  match d.trgState n with
  | 2 | 3 => d.modTrg n fun x => { x with disarm := true }
  | 1 => if (d.trg n).stop then (d.modTrg n fun x => { x with stop := false }).trgGo n 4 else d.trgGo n 0
  | _ => d

/-- CAP_DISARM, opcode 0x502 (R250). -/
def Dev.capDisarm (n : Nat) (d : Dev) : Dev :=
  let t := (d.arg n 1).toNat
  if t > 15 then d.reply n stBAD_ARG []
  else
    let d := d.disarmTrg t
    d.reply n stOK [toW (Nat.min 255 (d.trg t).recs.length)]

/-- CAP_DISARM. -/
def execCapDisarm (n : Mbx) : State → R := lift (Dev.takeCmd n 0x502 (· == 1) (Dev.capDisarm n))

/-- CAP_TRIGGER, opcode 0x503 (R242, R244). -/
def Dev.capTrigger (n : Nat) (d : Dev) : Dev :=
  let mask := (d.arg n 1).toNat
  let e := (d.arg n 2).toNat * 2 ^ 36 + (d.arg n 3).toNat
  let e := if e = 0 then d.now else e
  if mask = 0 || mask > 0xFFFF then d.reply n stBAD_ARG []
  else
    let took := (List.range 16).filter fun t =>
      nbit mask t && 1 ≤ d.trgState t && d.trgState t ≤ 3 && d.epochMask t 8 0 ≠ 0
    let d := each took (fun t d => d.epochFire t (d.epochMask t 8 0) e) d
    d.reply n stOK [toW (took.foldl (fun m t => m + 2 ^ t) 0)]

/-- CAP_TRIGGER. -/
def execCapTrigger (n : Mbx) : State → R := lift (Dev.takeCmd n 0x503 (· == 3) (Dev.capTrigger n))

/-- DMK_MASK_LOAD, opcode 0x504 (R260). -/
def Dev.dmkMaskLoad (n : Nat) (d : Dev) : Dev :=
  let a := d.arg n 1
  let len := hdrLen (d.arg n 0)
  let s0 := bitsOf a 23 12
  let m := bitsOf a 2 0
  let m0 := d.arg n 2
  let k := (len - 3) / 3
  let segs := bitsOf m0 11 0
  let used := (List.range 16).any fun t =>
    d.trgState t ≠ 0 && d.fb (F.trgCfg_KIND t) && d.f (F.trgCfg_MASK t) = m
  if bitsOf a 35 24 ≠ 0 || bitsOf a 11 3 ≠ 0 || s0 + k > segs || segs = 0 || segs > 2730
      || bitsOf m0 35 33 > 5 || bitsOf m0 31 12 ≠ 0 then d.reply n stBAD_ARG []
  else if used then d.reply n stBUSY []
  else
    let d := (d.store (dmkAddr m 0) m0).store (dmkAddr m 1) (d.arg n 3)
    let d := forN (3 * k) (fun i d => d.store (dmkAddr m (2 + 3 * s0 + i)) (d.arg n (4 + i))) d
    d.reply n stOK []

/-- DMK_MASK_LOAD. -/
def execDmkMaskLoad (n : Mbx) : State → R := lift (Dev.takeCmd n 0x504 (fun l => 3 ≤ l && l % 3 == 0) (Dev.dmkMaskLoad n))

/-! ### Records for the route memory (R247) -/

/-- The oldest record of an engine, once its TAIL is written. -/
def Dev.recPacket (d : Dev) (n : Nat) : Option (List Word) :=
  match (d.trg n).recs with
  | r :: _ =>
    if r.ready then some ((List.range r.len).map fun k =>
      let (w, bad) := d.rdP (d.f (F.trgRecBase_BASE n) + (r.ofs + k) % d.recLen n)
      if bad then putBits w 35 32 2 else w)
    else none
  | [] => none

/-- Its words are freed. -/
def Dev.recFree (n : Nat) (d : Dev) : Dev := d.modTrg n fun x => { x with recs := x.recs.drop 1 }

end Sys2Proof.Machine
end

