-- ==== Sys2Proof/Machine/Domain.lean ====
section
/-! DEFINITION. The coherent domain: dead packages and caches, domain-down, formation, joining and leaving, the system
tree (R368 to R379, R409, R410, R417, R418). The words of CTRL messages follow assumption 29. -/

namespace Sys2Proof.Machine

/-! ### Control messages -/

/-- Event 0x800. -/
def Dev.cohEvent (d : Dev) : Dev :=
  d.event 0x800 0 (mkW [(16, 11, d.f F.cohStat_MY_IDX), (10, 4, d.f F.cohStat_MEMBERS), (3, 2, d.f F.cohStat_SIZE),
    (1, 0, d.f F.cohStat_STATE)])

/-- Event 0x907: 1 joined, 2 left, 3 migrated. -/
def Dev.domainEvent (st k code : Nat) (d : Dev) : Dev := d.event 0x907 0 (mkW [(35, 28, st), (16, 11, k), (3, 0, code)])

/-! ### Dead agents (R368 to R370, R374) -/

/-- R374, steps 2 to 4, for the open transactions and waiting requests: `pkg` says which package is dead, `ag` which
agent. -/
def Dev.deadTxn (pkg ag : Nat → Bool) (l : Nat) (d : Dev) : Dev :=
  match d.txn l with
  | none => d
  | some t =>
    let own := t.owner.getD 0
    -- A requester known by its package ID only is no agent of this domain.
    let gone := !t.req.rt1 && ag t.req.agent
    let lostOwner := t.owner.isSome && ag own && !t.done
      && (t.waits.contains (own / 128) || (t.cross && t.wb.isNone) || (t.dirty && t.sdata.isNone))
    if lostOwner then
      let d := ((d.makeDP l).setTxn l none).unrelay t.req
      if gone then d.homeNext else d.homeStart t.req
    else
      let d := d.setTxn l (some { t with waits := t.waits.filter (fun k => !pkg k) })
      -- The line was granted to the requester: in E or M, or in S.
      let granted := (t.req.code = 1 || t.req.code = 2) && ((t.next.st = 2 && t.next.owner = t.req.agent)
        || (t.next.st = 1 && nbit t.next.pkg (t.req.agent / 128)))
      if !gone then d.homeAdvance l
      else if t.done then
        if granted then ((d.makeDP l).setTxn l none).homeNext
        else (d.setTxn l (some { t with waits := t.waits.filter (fun k => !pkg k), cack := false })).homeClose l
      else (d.setTxn l (some { t with waits := t.waits.filter (fun k => !pkg k), void := true })).homeAdvance l

/-- Every transaction and every waiting request under the dead-agent rule. -/
def Dev.deadHome (pkg ag : Nat → Bool) (d : Dev) : Dev :=
  let d := d.modCoh fun c => { c with waiting := c.waiting.filter fun m => m.rt1 || !ag m.agent }
  each ((d.coh.txns.filter fun t => t.2.isSome).map (·.1)) (Dev.deadTxn pkg ag) d

/-- R374, step 5; R376, step 3: outstanding requests to homes of dead packages complete TIMEOUT. -/
def Dev.deadOuts (pkg : Nat → Bool) (d : Dev) : Dev :=
  let gone := fun (o : COut) => decide (o.m.addr < 2 ^ 40) && pkg (o.m.addr / 2 ^ 34)
  let dead := d.coh.outs.filter gone
  let d := d.modCoh fun c => { c with outs := c.outs.filter fun o => !gone o }
  each dead (fun o d => (d.cohTimeout o.m.addr).cohDone o stTIMEOUT []) d

/-- R374, step 6: cached lines homed in dead packages are invalidated, those in M counted. -/
def Dev.deadLines (pkg : Nat → Bool) (d : Dev) : Dev :=
  forN 64 (fun c d =>
    let lost := (d.cacheOf c).countP fun x => pkg (x.line / 2 ^ 30) && x.st == 1
    (d.modCache c fun ls => ls.filter fun x => !pkg (x.line / 2 ^ 30)).inc F.cohCnt_LOST_LINES lost) d

/-- The live member with the lowest serial leads. -/
def Dev.cohLeader (d : Dev) : Nat :=
  let ks := (List.range 64).filter fun k => d.fb (F.cohMap_VALID k) && !d.fb (F.cohMap_DEAD k)
  (ks.find? fun k => ks.all fun j => mget d.coh.serials k ≤ mget d.coh.serials j).getD 0

/-- COH_MAP[k].DEAD set, MEMBERS and the leader kept (R374, step 1). -/
def Dev.markDead (k : Nat) (d : Dev) : Dev :=
  let led := d.f F.cohStat_LEADER = k
  let d := (d.setF (F.cohMap_DEAD k) 1).setF F.cohStat_MEMBERS (d.f F.cohStat_MEMBERS - 1)
  if led then d.setF F.cohStat_LEADER d.cohLeader else d

/-- R374: a small domain loses package `k`. -/
def Dev.poisonPkg (k : Nat) (d : Dev) : Dev :=
  let pkg := fun j => j == k
  ((((d.markDead k).deadHome pkg fun a => a / 128 == k).deadOuts pkg).deadLines pkg).treeAfter (d.f F.cohStat_LEADER)

/-- Lines owned by other packages become DP (R376, step 4). -/
def Dev.poisonRemote (d : Dev) : Dev :=
  let my := d.f F.cohStat_FORMER_IDX
  let d := each ((d.coh.dir.filter fun e => e.2.st == 2 && e.2.owner / 128 != my).map (·.1)) Dev.makeDP d
  d.modCoh fun c => { c with dir := c.dir.map fun e =>
    if e.2.st = 1 then (e.1, { e.2 with pkg := if nbit e.2.pkg my then 2 ^ my else 0 }) else e }

/-- R45, R376: the domain goes down at this member. -/
def Dev.domainDown (d : Dev) : Dev :=
  if d.cohState ≠ 2 then d
  else
    let my := d.f F.cohStat_MY_IDX
    let d := (((d.setF F.cohStat_STATE 3).setF F.cohStat_FORMER_IDX my).setF F.cohStat_MY_IDX 0).cohEvent
    let d := (d.setF F.topView_VIEW 1).setF F.topView_AUTO 1
    let pkg := fun j => j != my
    let d := ((d.deadOuts pkg).deadHome pkg fun a => a / 128 != my).poisonRemote
    (((d.deadLines pkg).modCoh fun c => { c with leave := none, joining := none, lost := [] }).oweBbFree).treeStart

/-- Event 0x801; the AGENT of a whole package has local code 0 (assumption 29). -/
def Dev.deadEvent (a reason : Nat) (d : Dev) : Dev := d.event 0x801 0 (mkW [(16, 4, a), (3, 0, reason)])

/-- What a DEAD carries: bit 35 an agent, else a package; the reason. -/
def deadWords (agent : Bool) (x reason : Nat) : List Word := [mkW [(35, 35, bit agent), (12, 0, x)], toW reason]

/-- R370: this package acts on the death of package `k`. -/
def Dev.deadAct (k reason : Nat) (own : Bool) (d : Dev) : Dev :=
  let large := d.f F.cohStat_SIZE = 2
  let ks := d.others.filter (· != k)
  let d := d.deadEvent (k * 128) reason
  let d := if own then each ks (fun j d => d.ctrlTo j 2 (deadWords false k reason)) d else d
  if large then
    let d := if own then each ks (fun j d => d.ctrlTo j 3 []) d else d
    (d.markDead k).domainDown
  else d.poisonPkg k

/-- A package declared dead by this one (R368, R370). -/
def Dev.declareDead (k reason : Nat) (d : Dev) : Dev :=
  if d.cohState = 2 && d.fb (F.cohMap_VALID k) && !d.fb (F.cohMap_DEAD k) && k ≠ d.myIdx then d.deadAct k reason true else d

/-- Members found unreachable are declared dead with reason 3 (R405). -/
def Dev.cohLost : Nat → Dev → Dev
  | 0, d => d
  | fuel + 1, d => match d.coh.lost with
    | [] => d
    | k :: ks => ((d.modCoh fun c => { c with lost := ks }).declareDead k 3).cohLost fuel

/-- Messages inside the package delivered, unreachable members declared dead, until nothing is left. -/
def Dev.cohSettle : Nat → Dev → Dev
  | 0, d => d
  | fuel + 1, d =>
    let d := d.cohRun 65536
    if d.coh.lost.isEmpty then d else (d.cohLost 64).cohSettle fuel

/-- R369, R374: an agent that is dead by itself. -/
def Dev.agentGone (a : Nat) (d : Dev) : Dev :=
  if d.coh.deadAgents.contains a then d
  else (d.modCoh fun c => { c with deadAgents := c.deadAgents ++ [a] }).deadHome (fun _ => false) (· == a)

/-- CACHE_SNOOP_TIMEOUT (R360, R369). -/
def Dev.cacheDead (c : Nat) (d : Dev) : Dev :=
  if d.fb (F.cohCache_OFF c) then d
  else
    let a := d.agentOf c
    let d := ((d.setF (F.cohCache_OFF c) 1).error 7 3 c 0 0x805 0).event 0x805 c 0
    let d := if d.cohState = 2 then
        each d.others (fun k d => d.ctrlTo k 2 (deadWords true a 4)) d else d
    (d.modCache c fun _ => []).agentGone a

/-- DEAD (R370, R423): this package's own death ends a departure with TIMEOUT. -/
def Dev.deadRow (name : DeadName) (reason : Nat) (d : Dev) : Dev :=
  if d.cohState ≠ 2 then d
  else match name with
    | .agent a => if d.coh.deadAgents.contains a.toNat then d else (d.deadEvent a.toNat reason).agentGone a.toNat
    | .pkg k =>
      if k.val = d.myIdx then
        if d.coh.leave.isSome then
          (d.modCoh fun c => { c with leave := none }).domainEvent stTIMEOUT k 2
        else d
      else if d.fb (F.cohMap_VALID k.val) && !d.fb (F.cohMap_DEAD k.val) then d.deadAct k reason false
      else d

/-! ### Formation (R371 to R373) -/

/-- A member line of a MAP: index, VALID, DEAD, package ID, serial. -/
structure MapLine where
  idx : Nat
  valid : Bool
  dead : Bool
  id : Nat
  serial : Nat
deriving DecidableEq, Repr, Inhabited

/-- The words of a MAP line. -/
def MapLine.words (e : MapLine) : List Word :=
  mkW [(35, 35, bit e.valid), (34, 34, bit e.dead), (33, 28, e.idx), (15, 0, e.id)] :: serialWords e.serial

/-- A MAP line from its words. -/
def mapLineOf (a b c : Word) : MapLine :=
  ⟨bitsOf a 33 28, bitOf a 35, bitOf a 34, bitsOf a 15 0, b.toNat * 2 ^ 36 + c.toNat⟩

/-- The MAP lines of a list of words. -/
def mapLines : List Word → List MapLine
  | a :: b :: c :: ws => mapLineOf a b c :: mapLines ws
  | _ => []

/-- The messages of a MAP, at most nine lines each; MASK bit 0 marks the last. -/
def mapMsgs (rt dest leader : Nat) (es : List MapLine) : List Msg :=
  let parts := chunksOf 9 65 es
  parts.zipIdx.map fun (p, i) => ctrlMsg rt dest 1 (bit (i + 1 == parts.length))
    ((if i = 0 then serialWords leader else []) ++ p.flatMap MapLine.words)

/-- A MAP sent on a port. -/
def Dev.mapPort (leader : Nat) (es : List MapLine) (n : Nat) (d : Dev) : Dev :=
  each (mapMsgs 2 0 leader es) (Dev.sendOn n) d

/-- A MAP sent to every other live member, and to a package by ID. -/
def Dev.mapSend (leader : Nat) (es : List MapLine) (id : Option Nat) (d : Dev) : Dev :=
  let d := each d.others (fun k d => each (mapMsgs 0 k leader es) (fun m d => (d.sendRt 0 k m).2) d) d
  match id with
  | some i => each (mapMsgs 1 i leader es) (fun m d => (d.sendRt 1 i m).2) d
  | none => d

/-- R20: AGENT codes and lines of this package rewritten when its domain index changes; caches of other packages known
as dead are forgotten with their domain. -/
def Dev.reindex (old new : Nat) (d : Dev) : Dev :=
  if old = new then d.modCoh fun c => { c with deadAgents := c.deadAgents.filter fun a => a / 128 == old }
  else
    let ag := fun a => if a / 128 = old then new * 128 + a % 128 else a
    let ad := fun a => if a / 2 ^ 34 = old then new * 2 ^ 34 + a % 2 ^ 34 else a
    let ms := fun (m : CMsg) => { m with agent := ag m.agent, addr := ad m.addr }
    let en := fun (e : DirEnt) => { e with
      owner := if e.st = 2 then ag e.owner else e.owner
      holder := if e.st = 4 then ag e.holder else e.holder
      pkg := if nbit e.pkg old then 2 ^ new else 0 }
    d.modCoh fun c => { c with
      caches := c.caches.map fun x => (x.1, x.2.map fun y => { y with line := ad (y.line * 16) / 16 })
      dir := c.dir.map fun x => (x.1, en x.2)
      txns := c.txns.map fun x => (x.1, x.2.map fun t => { t with req := ms t.req, next := en t.next })
      waiting := c.waiting.map ms
      outs := c.outs.map fun o => { o with m := ms o.m }
      wbWait := c.wbWait.map ms
      deadAgents := (c.deadAgents.filter fun a => a / 128 == old).map ag }

/-- COH_MAP and COH_STAT loaded from a MAP; `keep`: a member already known as dead stays so. -/
def Dev.loadMap (keep : Bool) (leader : Nat) (es : List MapLine) (d : Dev) : Dev :=
  let d := forN 64 (fun k d =>
    match es.find? (fun e => e.idx == k) with
    | some e =>
      (((d.setF (F.cohMap_VALID k) (bit e.valid)).setF (F.cohMap_DEAD k)
        (bit (e.dead || (keep && d.fb (F.cohMap_VALID k) && d.fb (F.cohMap_DEAD k) && e.id = d.f (F.cohMap_PKG_ID k))))).setF
        (F.cohMap_PKG_ID k) e.id).modCoh
        fun c => { c with serials := mset c.serials k e.serial }
    | none => (d.setReg (R.cohMap k) 0).modCoh fun c => { c with serials := mset c.serials k 0 }) d
  let n := (List.range 64).countP fun k => d.fb (F.cohMap_VALID k) && !d.fb (F.cohMap_DEAD k)
  let d := (d.setF F.cohStat_MEMBERS n).setF F.cohStat_SIZE (if n = 0 then 0 else if n ≤ 4 then 1 else 2)
  d.setF F.cohStat_LEADER (((es.find? fun e => e.serial == leader).map (·.idx)).getD d.cohLeader)

/-- The line of a MAP that names this package: the one with its serial. -/
def Dev.mapSelf (d : Dev) (es : List MapLine) : Option MapLine := es.find? fun e => e.valid && e.serial == d.serial

/-- The line of a MAP that admits this package, which the leader may know by its package ID only (R417, R418). -/
def Dev.mapGuest (d : Dev) (es : List MapLine) : Option MapLine :=
  (d.mapSelf es).orElse fun _ => es.find? fun e => e.valid && d.fb F.topPkg_ASSIGNED && e.id == d.pkgId

/-- R404: the domain route table entry of member `k` that the firmware writes: the port by which its HELLO first came, with
that of another way as ALT, else the way of the system route table toward its package ID (assumption 186). -/
def Dev.drtEntry (d : Dev) (k : Nat) : Option Word :=
  match d.coh.seen.find? fun s => s.serial == mget d.coh.serials k && s.port.isSome with
  | some s => some (mkW [(35, 35, 1), (27, 25, s.port.getD 0), (24, 24, bit s.alt.isSome), (23, 21, s.alt.getD 0)])
  | none =>
    let e := d.rd (srtTab + d.f (F.cohMap_PKG_ID k))
    if bitOf e 35 && !bitOf e 34 then some (putBits (putBits e 33 28 0) 20 0 0) else none

/-- The domain route table entries of some members written, where a way is known. -/
def Dev.drtFill (ks : List Nat) (d : Dev) : Dev :=
  (each ks (fun k d => match if k = d.myIdx then none else d.drtEntry k with
    | some w => d.wr (drtTab + k) w
    | none => d) d).drainUnrouted

/-- R372, R404, R410: this package becomes a member with index `k`. -/
def Dev.mapJoin (leader : Nat) (es : List MapLine) (k : Nat) (d : Dev) : Dev :=
  let d := ((d.loadMap false leader es).setF F.cohStat_MY_IDX k).setF F.cohStat_STATE 2
  ((d.reindex 0 k).cohEvent.drtFill (es.map (·.idx))).treeStart

/-- R372: this package is not admitted. -/
def Dev.joinReject (d : Dev) : Dev :=
  ((((d.setF F.cohStat_JOIN_REJ 1).event 0x804 0 (toW (d.f F.cohCfg_DOMAIN_ID))).setF F.cohStat_STATE 0).cohEvent).treeStart

/-- R418, step 5: held and later requests pass on to the heir, or complete TIMEOUT. -/
def Dev.leaveForward (d : Dev) : Dev :=
  match d.coh.leave with
  | some l =>
    let d := d.modCoh fun c => { c with leave := some { l with phase := 3, held := [] } }
    each l.held Dev.homeArrive d
  | none => d

/-- A MAP at a member (R417, R418): what changed raises event 0x907. -/
def Dev.mapMember (leader : Nat) (es : List MapLine) (d : Dev) : Dev :=
  let was := fun k => if d.fb (F.cohMap_VALID k) then some (d.f (F.cohMap_PKG_ID k)) else none
  let my := d.myIdx
  let d' := d.loadMap true leader es
  let isv := fun k => if d'.fb (F.cohMap_VALID k) then some (d'.f (F.cohMap_PKG_ID k)) else none
  let ch := (List.range 64).filter fun k => was k ≠ isv k
  let d' := if ch.isEmpty then d' else d'.cohEvent
  let d' := each (ch.filter (· != my)) (fun k d => d.domainEvent stOK k (match was k, isv k with
    | none, _ => 1
    | _, none => 2
    | _, _ => 3)) d'
  let d' := d'.modCoh fun c => { c with joining := none, deadAgents := c.deadAgents.filter fun a => !ch.contains (a / 128) }
  let d' := (d'.drtFill (ch.filter fun k => (isv k).isSome)).treeAfter (d.f F.cohStat_LEADER)
  if ch.contains my && d'.coh.leave.isSome then d'.leaveForward else d'

/-- A MAP that a member sends its leader: the leader sends it to every member, and to a heir by package ID (R418, step 4;
assumption 29). -/
def Dev.mapLead (es : List MapLine) (d : Dev) : Dev :=
  let heir := es.find? fun e => e.valid && d.fb (F.cohMap_VALID e.idx) && e.id ≠ d.f (F.cohMap_PKG_ID e.idx)
  (d.mapSend d.serial es (heir.map (·.id))).mapMember d.serial es

/-- MAP (R372, R417, R418); while forming, a package passes it on to its other mesh ports (assumption 29). -/
def Dev.mapApply (from_ : Option Nat) (leader : Nat) (es : List MapLine) (d : Dev) : Dev :=
  let st := d.cohState
  let fwd := fun (d : Dev) => each (d.meshPorts.filter fun n => some n ≠ from_) (Dev.mapPort leader es) d
  if st = 1 then match d.mapSelf es with
    | some e => fwd (d.mapJoin leader es e.idx)
    | none => fwd d.joinReject
  else if st = 2 then (if d.f F.cohStat_LEADER = d.myIdx && leader = d.serial then d.mapLead es else d.mapMember leader es)
  else if st = 0 then match d.mapGuest es with
    | some e => ((d.setF F.cohCfg_EN 1).mapJoin leader es e.idx).domainEvent stOK e.idx 1
    | none => d
  else d

/-- The MAP of the present members. -/
def Dev.mapNow (d : Dev) : List MapLine :=
  (List.range 64).filterMap fun k =>
    if d.fb (F.cohMap_VALID k) then
      some ⟨k, true, d.fb (F.cohMap_DEAD k), d.f (F.cohMap_PKG_ID k), mget d.coh.serials k⟩ else none

/-- R423: a death in the cycle of a DOMAIN_JOIN at the leader: the MAP carries it. -/
def Dev.withJoinMap (f : Dev → Dev) (d : Dev) : Dev :=
  let d' := f d
  if d.coh.joinEdge = d.epo.edges + 1 && d'.cohState = 2 && d'.f F.cohStat_LEADER = d'.myIdx
      && d'.f F.cohStat_MEMBERS < d.f F.cohStat_MEMBERS then d'.mapSend d'.serial d'.mapNow none
  else d'

/-- A HELLO taken into the list, in ascending serial. -/
def insertSeen (x : Seen) : List Seen → List Seen
  | [] => [x]
  | y :: ys => if x.serial < y.serial then x :: y :: ys else y :: insertSeen x ys

/-- R372: the leader sends MAP. -/
def Dev.sendMap (d : Dev) : Dev :=
  let es := ((d.coh.seen.take 64).zipIdx).map fun (x, i) => (⟨i, true, false, x.id, x.serial⟩ : MapLine)
  d.mapApply none d.serial es

/-- This package has the lowest serial seen. -/
def Dev.leads (d : Dev) : Bool := (d.coh.seen.head?.map (·.serial)) == some d.serial

/-- R372: EXPECT packages have been seen. -/
def Dev.formCheck (d : Dev) : Dev :=
  let ex := Nat.min 64 (Nat.max 1 (d.f F.cohCfg_EXPECT))
  if d.cohState = 1 && d.leads && d.coh.seen.length ≥ ex then d.sendMap else d

/-- R371: a package with EN = 1 and VIEW = 0 in OFF enters FORMING. -/
def Dev.formEnter (d : Dev) : Dev :=
  if d.fb F.cohCfg_EN && !d.fb F.topView_VIEW && d.cohState = 0 then
    let d := d.modCoh fun c => { c with seen := [⟨d.serial, d.pkgId, none, none⟩] }
    ((d.setF F.cohStat_STATE 1).cohEvent).formCheck
  else d

/-- The words of a HELLO. -/
def helloWords (dom serial id : Nat) : List Word := toW dom :: serialWords serial ++ [toW id]

/-- HELLO_TIMER (R371). -/
def Dev.helloTimer (d : Dev) : Dev :=
  if d.cohState = 1 then
    each d.meshPorts (fun n d => d.ctrlPort n 0 0 (helloWords (d.f F.cohCfg_DOMAIN_ID) d.serial d.pkgId)) d
  else d

/-- HELLO (R371, R372): one not seen before is recorded and forwarded, in any state; a package that arrives after the MAP
is answered with the MAP in force. -/
def Dev.hello (port dom serial id : Nat) (d : Dev) : Dev :=
  if dom ≠ d.f F.cohCfg_DOMAIN_ID then d
  else
  let new := serial ≠ d.serial && !d.coh.seen.any (fun x => x.serial == serial)
  let d := if new then
      each (d.meshPorts.filter (· != port)) (fun n d => d.ctrlPort n 0 0 (helloWords dom serial id))
        (d.modCoh fun c => { c with seen := insertSeen ⟨serial, id, some port, none⟩ c.seen })
    else d.modCoh fun c => { c with seen := c.seen.map fun x =>
      if x.serial = serial && x.alt.isNone && x.port.isSome && x.port ≠ some port then { x with alt := some port } else x }
  if d.cohState = 1 then (if new then d.formCheck else d)
  else if d.cohState = 2 && !(d.mapNow.any fun e => e.serial == serial) then
    d.mapPort (mget d.coh.serials (d.f F.cohStat_LEADER)) d.mapNow port
  else d

/-- FORM_TIMEOUT (R372). -/
def Dev.formTimeout (d : Dev) : Dev := if d.cohState = 1 && d.leads then d.sendMap else d

/-- The package returns to OFF: domain index 0, no size, no members. -/
def Dev.cohOff (old : Nat) (d : Dev) : Dev :=
  let d := (((d.setF F.cohStat_STATE 0).setF F.cohStat_MY_IDX 0).setF F.cohStat_SIZE 0).setF F.cohStat_MEMBERS 0
  (d.reindex old 0).cohEvent.treeStart

/-- COH_EN_WRITE (R371, R373, R379): the fields by their types, then EN. -/
def Dev.cohCfgWritten (d : Dev) : Dev :=
  if d.fb F.cohCfg_EN then d.formEnter
  else if d.cohState = 1 || d.cohState = 3 then d.cohOff d.myIdx
  else d

/-! ### Joining and leaving (R417, R418) -/

/-- A departure or a join is in progress. -/
def Dev.domainBusy (d : Dev) : Bool := d.coh.leave.isSome || d.coh.joining.isSome

/-- The serial of a package, as HELLO and TREE messages have told it; else a free value. -/
def Dev.serialOf (id : Nat) (d : Dev) : Nat × Dev :=
  match (d.coh.seen.map (fun s => (s.serial, s.id)) ++ d.coh.tree.ids ++ (d.coh.tree.below.map (·.2)).flatten).find?
      fun x => x.2 == id with
  | some x => (x.1, d)
  | none => let (s, d) := d.fresh; (s % 2 ^ 72, d)

/-- DOMAIN_JOIN, opcode 0x903. The leader admits the package; another member has the leader's mailbox perform the command and
waits for the MAP (assumption 29). -/
def Dev.domainJoin (n : Nat) (suits : Bool) (d : Dev) : Dev :=
  let id := (d.arg n 1).toNat
  if d.domainBusy then d.reply n stBUSY []
  else if id > 0xFFFF || d.cohState ≠ 2 || !suits || (d.routeOf 1 id).isNone then d.reply n stBAD_ARG []
  else match firstN 64 (fun k => !d.fb (F.cohMap_VALID k)) with
    | none => d.reply n stNO_RESOURCE []
    | some k =>
      let d := d.reply n stOK []
      if d.f F.cohStat_LEADER = d.myIdx then
        let (s, d) := d.serialOf id
        let es := d.mapNow ++ [⟨k, true, false, id, s⟩]
        let d := d.modCoh fun c => { c with joinEdge := d.epo.edges + 1 }
        (d.mapSend d.serial es (some id)).mapMember d.serial es
      else
        let ms := ({ src := d.pkgId, kind := 1 : PktInfo }).msgs 0 (d.f F.cohStat_LEADER) false
          [mkW [(35, 24, 0x903), (15, 8, 1)], toW id]
        let d := (d.sendRoute false 0 (d.f F.cohStat_LEADER) ms).2
        d.modCoh fun c => { c with joining := some id }

/-- R418, step 1: every cached copy of this package's lines is recalled. -/
def Dev.leaveRecall (d : Dev) : Dev :=
  each ((d.coh.dir.filter fun e => e.2.st == 1 || e.2.st == 2).map (·.1)) (fun l d =>
    let m : CMsg := { code := 0x20, agent := d.agentOf 64, addr := d.fullAddr (l * 16) }
    if d.homeFree m then d.homeStart m else d.modCoh fun c => { c with waiting := c.waiting ++ [m] }) d

/-- R418, step 2: this package's caches write back their M lines and drop the rest. -/
def Dev.leaveFlush (d : Dev) : Dev :=
  forN 64 (fun c d => each ((d.cacheOf c).filter fun x => x.st != 4) (Dev.cacheEvict c) d) d

/-- R418, step 3: the region stores copied to the heir, a line at a time. -/
def Dev.leaveCopy (d : Dev) : Dev :=
  forN 262144 (fun i d => d.leaveRepeat (0x200000000 + i * 16) 0xFFFF (d.rds (0x200000000 + i * 16) 16)) d

/-- DOMAIN_LEAVE, opcode 0x904. -/
def Dev.domainLeave (n : Nat) (suits : Bool) (d : Dev) : Dev :=
  let a := d.arg n 1
  let h := bitsOf a 15 0
  let given := bitOf a 16
  if d.domainBusy then d.reply n stBUSY []
  else if bitsOf a 35 17 ≠ 0 || d.cohState ≠ 2 || (given && (!suits || (d.routeOf 1 h).isNone)) then d.reply n stBAD_ARG []
  else
    let d := (d.reply n stOK []).modCoh fun c => { c with
      leave := some ⟨if given then some h else none, 1, []⟩ }
    let d := d.leaveRecall.leaveFlush.cohSettle 8
    if given then d.leaveCopy else d

/-- LEAVE_COPY_DONE (R418, step 4): requests are held; the leader sends the MAP, a leading package with leadership handed on to
the live member of that MAP with the lowest serial. Another member sends the MAP to its leader (assumption 29). -/
def Dev.leaveCopyDone (d : Dev) : Dev :=
  match d.coh.leave with
  | some { heir := h, phase := 1, held := held } =>
    let d := d.modCoh fun c => { c with leave := some ⟨h, 2, held⟩ }
    let k := d.myIdx
    let rest := d.mapNow.filter fun e => e.idx != k
    let (es, d) := match h with
      | some h => let (s, d) := d.serialOf h; (rest ++ [(⟨k, true, false, h, s⟩ : MapLine)], d)
      | none => (rest, d)
    if d.f F.cohStat_LEADER = k then
      let live := es.filter fun e => !e.dead
      let lead := ((live.find? fun e => live.all fun f => e.serial ≤ f.serial).map (·.serial)).getD 0
      (d.mapSend lead es h).mapMember lead es
    else
      let l := d.f F.cohStat_LEADER
      each (mapMsgs 0 l (mget d.coh.serials l) es) (fun m d => (d.sendRt 0 l m).2) d
  | _ => d

/-- LEAVE_FORWARD_END (R418, step 6). -/
def Dev.leaveForwardEnd (d : Dev) : Dev :=
  match d.coh.leave with
  | some { heir := h, phase := 3, held := _ } =>
    let k := d.myIdx
    let d := ((d.modCoh fun c => { c with leave := none }).setF F.cohCfg_EN 0).cohOff k
    d.domainEvent stOK k (if h.isSome then 3 else 2)
  | _ => d

/-! ### Reports -/

/-- COH_INFO, opcode 0x800. -/
def execCohInfo (n : Mbx) : State → R :=
  lift (Dev.takeCmd n 0x800 (· == 0) fun d => d.reply n stOK
    ([d.reg R.cohStat, d.reg R.cohCfg] ++ (List.range 64).map fun k => d.reg (R.cohMap k)))

/-- The line that a COH_LINE names: while VIEW = 1 an address with bits 39:36 zero is a Tweed address (R43,
assumption 148). -/
def Dev.lineTarget (d : Dev) (n : Nat) : Tgt :=
  let hi := (d.arg n 1).toNat
  let lo := (d.arg n 2).toNat
  if hi > 15 then .err
  else if d.fb F.topView_VIEW && hi = 0 then
    let (pkg, a) := tweedOf lo
    if d.fb F.topPkg_ASSIGNED && pkg = d.pkgId then .here a else .err
  else d.target (hi * 2 ^ 36 + lo)

/-- COH_LINE, opcode 0x801 (R351). -/
def Dev.cohLine (n : Nat) (d : Dev) : Dev :=
  match d.lineTarget n with
  | .here l =>
    if winOf l = .rstore then
      let e := d.dirE (l / 16)
      let w := mkW [(35, 33, e.st), (32, 32, bit (d.txn (l / 16)).isSome), (31, 19, if e.st = 2 then e.owner else 0),
        (15, 0, e.wmask)]
      d.reply n stOK [w, toW (e.pkg / 2 ^ 36 % 2 ^ 28), toW e.pkg]
    else d.reply n stBAD_ARG []
  | _ => d.reply n stBAD_ARG []

/-- COH_LINE. -/
def execCohLine (n : Mbx) : State → R := lift (Dev.takeCmd n 0x801 (· == 2) (Dev.cohLine n))

end Sys2Proof.Machine
end

