-- ==== Sys2Proof/Machine/Route.lean ====
section
/-! DEFINITION. The route memory: entries, staged changes, the routing of whole packets, write runs on Fiuth, the drain
of chains (R315, R316, R326, R327, R338 to R345, R439). -/

namespace Sys2Proof.Machine

/-! ### Entries (R338, R340, R343) -/

/-- The local address of the entry of an endpoint. -/
def rteAddr (ep : Nat) : Nat := 0x300800000 + ep % 2 ^ 20 * 2

/-- R338, R340: ROUTE_SET and ROUTE_STAGE refuse the entry. -/
def Dev.rteBad (d : Dev) (x0 x1 : Word) : Bool :=
  let kind := bitsOf x0 35 33
  let port := bitsOf x0 19 16
  bitsOf x0 15 13 ≠ 0 || bitsOf x0 11 0 ≠ 0 || kind > 4
    || ((kind = 0 || kind = 4) && x1 ≠ 0)
    || (kind = 2 && bitsOf x1 35 8 ≠ 0)
    || (kind = 3 && (bitsOf x1 35 26 ≠ 0 || !d.fb (F.brgOwinCfg_EN port)))
    || (kind = 1 && ((port > 7 && port ≠ 15) || (d.fb F.topPkg_ASSIGNED && bitsOf x1 35 20 = d.pkgId)))

/-- The staged change of an endpoint. -/
def Dev.stagedFor (d : Dev) (ep : Nat) : Option RteChange := d.rte.staged.find? fun c => c.ep == ep

/-- R343: whether a packet of a staged endpoint uses the new entry. -/
def Dev.usesNew (d : Dev) (ws : List Word) : Bool :=
  match d.rte.ers with
  | none => false
  | some ers =>
    let m := nth ws 1
    tagOf m ≠ 5 || notEarlier 32 (payload m) (shortEpoch ers)

/-- The entry that a packet follows, and whether a word of it is uncorrectable (R339, R343, R424). -/
def Dev.rteEntry (d : Dev) (ep : Nat) (ws : List Word) : Word × Word × Bool :=
  let old := (d.rd (rteAddr ep), d.rd (rteAddr ep + 1), (d.rdP (rteAddr ep)).2 || (d.rdP (rteAddr ep + 1)).2)
  if d.f F.rteGen_STATE = 3 then
    match d.stagedFor ep with
    | some c => if d.usesNew ws then (c.x0, c.x1, false) else old
    | none => old
  else old

/-! ### Routing a packet (R339, R340) -/

/-- R120: the epoch nearest to `now` of a short epoch, the fraction bits that it leaves out from `v`. -/
def nearEpoch (now se v : Nat) : Nat :=
  let s := now / 2 ^ 36
  let ds := (se / 2 ^ 20 + 6144 - s % 4096) % 4096
  (s + 2 ^ 36 + ds - 2048) % 2 ^ 36 * 2 ^ 36 + se % 2 ^ 20 * 2 ^ 16 + v % 2 ^ 16

/-- R235: the exact epoch of a packet that reached the route memory without one beside its HEAD: its EPOCH mark gives all but
the low bits, which are free, as is the whole of it where it has none (assumption 180). -/
def carriedEp (now : Nat) (ws : List Word) (v : Nat) : Nat :=
  let m := nth ws 1
  if tagOf m = 5 then nearEpoch now (payload m) v else v % 2 ^ 72

/-- R235, R339: the copy for a capture channel, with its exact epoch. -/
def Dev.rteCopy (x0 : Word) (ws : List Word) (ep : Option Nat) (d : Dev) : Dev :=
  if bitOf x0 32 then
    let (e, d) := match ep with
      | some e => (e, d)
      | none => let (v, d) := d.fresh; (carriedEp d.now ws v, d)
    d.modChan (bitsOf x0 31 20) fun c => { c with pend := c.pend ++ [⟨ws, some e⟩] }
  else d

/-- KIND 1: toward package DEST bits 35:20 with the new endpoint. -/
def Dev.rteLysith (fromLys : Bool) (x0 x1 : Word) (ws : List Word) (d : Dev) : Dev :=
  let pkg := bitsOf x1 35 20
  if fromLys || (d.fb F.topPkg_ASSIGNED && pkg = d.pkgId) then d.rteCount F.rteCnt_LOOP 1 2
  else
    let ws := putBits (ws.headD 0) 31 12 (bitsOf x1 19 0) :: ws.drop 1
    let port := bitsOf x0 19 16
    if port < 8 then d.sendLys port (d.ownPkt pkg ws) ws else d.sendSrt (d.ownPkt pkg ws) ws

/-- The words that a KIND 3 entry sends (R338). -/
def rteFiuWords (x0 : Word) (ws : List Word) : List Word :=
  if bitOf x0 12 then ws.filter fun w => slotTag (tagOf w) else ws

/-- KIND 3: the packet, or with SLOTONLY its slot words, as a run (R338, R339, R437). -/
def Dev.rteFiu (x0 x1 : Word) (ws : List Word) (d : Dev) : Dev :=
  let w := bitsOf x0 19 16
  let e := d.fiuEgress w
  let dest := fiuDest w (bitsOf x1 25 0)
  let out := rteFiuWords x0 ws
  let hd := ws.headD 0
  if !d.chainEmpty e || d.egStalled e then d.bklAppend e { BklPkt.mk0 hd dest with bare := bitOf x0 12 } out
  else d.sendFiu dest hd out

/-- A bad entry: reserved KIND, or uncorrectable (R339, R424). -/
def Dev.rteBadEntry (ep : Nat) (d : Dev) : Dev :=
  (d.memError 14 1 (rteAddr ep)).rteDiscard 1

/-- R87: a consumer's view of a packet: ESCAPE NOP words are discarded. -/
def noNops (ws : List Word) : List Word := ws.filter fun w => !(tagOf w == 15 && bitsOf w 31 24 == 0)

/-- One whole packet routed by the entry of its HEAD's endpoint; `fromLys`: it came over Lysith; `ex`: the exact epoch
beside its HEAD. -/
def Dev.routeWords (fromLys : Bool) (ws : List Word) (ex : Option Nat) (d : Dev) : Dev :=
  let ep := bitsOf (ws.headD 0) 31 12
  let (x0, x1, bad) := d.rteEntry ep ws
  let kind := bitsOf x0 35 33
  if bad || kind > 4 then d.rteBadEntry ep
  else
    let d := d.rteCopy x0 ws ex
    match kind with
    | 0 => d.rteDiscard 1
    | 1 => d.rteLysith fromLys x0 x1 ws
    | 2 => d.sendHost (bitsOf x1 7 0) ws
    | 3 => d.rteFiu x0 x1 ws
    | _ => d

/-- The packet waits: its run does not fit in the posted buffer of its port, which is not stalled (R335, R437). -/
def Dev.routeWaits (d : Dev) (ws : List Word) : Bool :=
  let (x0, _, bad) := d.rteEntry (bitsOf (ws.headD 0) 31 12) ws
  let w := bitsOf x0 19 16
  let e := d.fiuEgress w
  !bad && bitsOf x0 35 33 == 3 && d.chainEmpty e && !d.egStalled e && (d.postedWaits (e - 264)
    || (d.postedFill (e - 264) != 0 && decide (d.postedFill (e - 264) + (rteFiuWords x0 ws).length > 1024)))

/-- Words popped through the end of a packet. -/
def Dev.popPkt (c q : Nat) : Nat → List Word → Option Nat → Dev → List Word × Option Nat × Dev
  | 0, ws, ep, d => (ws, ep, d)
  | fuel + 1, ws, ep, d =>
    let (w, e, d) := d.qPop c q
    match e with
    | none => (ws, ep, d)
    | some e =>
      let ep := if ws.isEmpty then e.ep else ep
      if e.kind = 2 then (ws ++ [w], ep, d) else d.popPkt c q fuel (ws ++ [w]) ep

/-- ROUTE_PACKET from a queue: the oldest packet, once its end is present. -/
def Dev.routeQueue (c q : Nat) (d : Dev) : Dev :=
  let u := d.qu c q
  if !d.fb (F.cluQcfg_EN c q) || !d.qPkt c q || u.rdIn || u.abort.isSome || !u.firstPkt.2 then d
  else
    let (ws, ep, d') := d.popPkt c q u.firstPkt.1 [] none
    let ws := noNops ws
    if d.routeWaits ws then d else d'.routeWords false ws ep

/-- ROUTE_PACKET (R339): one whole packet of a source, when there is one. -/
def Dev.routePacket (src : PktSrc) (d : Dev) : Dev :=
  let go := fun (ws : List Word) (lys : Bool) (ep : Option Nat) (take : Dev → Dev) =>
    let ws := noNops ws
    if d.routeWaits ws then d else (take d).routeWords lys ws ep
  match src with
  | .queue c q => d.routeQueue c q
  | .record n => match d.recPacket n with
    | some ws => go ws false none (Dev.recFree n)
    | none => d
  | .message p => match (d.fp p).pkts with
    | k :: rest => go k.ws false k.ep (Dev.modFp p fun x => { x with pkts := rest })
    | [] => d
  | .lysith => match d.rte.rx with
    | ws :: rest => go ws true none fun d => { d with rte := { d.rte with rx := rest } }
    | [] => d
  | .loopIn k => match (mget d.pwr.loopIn k.val).pkts with
    | k' :: rest => go k'.ws false k'.ep fun d => { d with pwr := { d.pwr with
        loopIn := mmod d.pwr.loopIn k.val fun x => { x with pkts := rest } } }
    | [] => d

/-- ROUTE_PACKET. -/
def execRoutePacket (src : PktSrc) : State → R := liftBb (Dev.routePacket src)

/-! ### ROUTE_SET and the staging (R341 to R344) -/

/-- An entry written. -/
def Dev.rtePut (ep : Nat) (x0 x1 : Word) (d : Dev) : Dev := (d.wr (rteAddr ep) x0).wr (rteAddr ep + 1) x1

/-- ROUTE_SET, opcode 0x712. -/
def Dev.routeSet (n : Nat) (d : Dev) : Dev :=
  let ep := bitsOf (d.arg n 1) 19 0
  let x0 := d.arg n 2
  let x1 := d.arg n 3
  if (d.stagedFor ep).isSome then d.reply n stBUSY []
  else if bitsOf (d.arg n 1) 35 20 ≠ 0 || d.rteBad x0 x1 then d.reply n stBAD_ARG []
  else (d.rtePut ep x0 x1).reply n stOK []

/-- ROUTE_SET. -/
def execRouteSet (n : Mbx) : State → R := lift (Dev.takeCmd n 0x712 (· == 3) (Dev.routeSet n))

/-- R342: a change joins the list, or replaces that of its endpoint in place. -/
def stageOne (l : List RteChange) (c : RteChange) : List RteChange :=
  if l.any (fun x => x.ep == c.ep) then l.map fun x => if x.ep = c.ep then c else x else l ++ [c]

/-- R342: a staged change in the table area, four words: endpoint, X0, X1, zero (assumption 153). -/
def Dev.stageWrite (i : Nat) (c : RteChange) (d : Dev) : Dev :=
  d.wrs (0x300A88000 + 4 * i) [toW c.ep, c.x0, c.x1, 0]

/-- The changes in the body of a ROUTE_STAGE. -/
def Dev.stageBody (d : Dev) (n k : Nat) : List (Word × RteChange) :=
  (List.range k).map fun j =>
    (d.arg n (2 + 3 * j), ⟨bitsOf (d.arg n (2 + 3 * j)) 19 0, d.arg n (3 + 3 * j), d.arg n (4 + 3 * j)⟩)

/-- ROUTE_STAGE, opcode 0x713. -/
def Dev.routeStage (n : Nat) (d : Dev) : Dev :=
  let len := hdrLen (d.arg n 0)
  let k := (len - 1) / 3
  let body := d.stageBody n k
  if d.f F.rteGen_STATE = 3 then d.reply n stBUSY []
  else if k = 0 || (d.arg n 1).toNat ≠ k
      || body.any (fun (e, c) => bitsOf e 35 20 ≠ 0 || d.rteBad c.x0 c.x1) then d.reply n stBAD_ARG []
  else
    let l := (body.map (·.2)).foldl stageOne d.rte.staged
    if l.length > 8192 then d.reply n stNO_RESOURCE []
    else
      let d := each body (fun (_, c) d => match l.findIdx? (fun x => x.ep == c.ep) with
        | some i => d.stageWrite i (l.getD i c)
        | none => d) { d with rte := { d.rte with staged := l } }
      ((d.setF F.rteGen_STATE 1).setF F.rteStg_COUNT l.length).reply n stOK []

/-- ROUTE_STAGE. -/
def execRouteStage (n : Mbx) : State → R := lift (Dev.takeCmd n 0x713 (fun l => l % 3 == 1) (Dev.routeStage n))

/-- ROUTE_COMMIT, opcode 0x714. -/
def Dev.routeCommit (n : Nat) (d : Dev) : Dev :=
  let st := d.f F.rteGen_STATE
  if st = 3 then d.reply n stBUSY []
  else if st = 0 then d.reply n stBAD_ARG []
  else
    let d := (d.setF F.rteGen_STG_GEN (d.f F.rteGen_ACT_GEN + 1)).setF F.rteGen_STATE 2
    d.reply n stOK [toW (d.f F.rteGen_STG_GEN)]

/-- ROUTE_COMMIT. -/
def execRouteCommit (n : Mbx) : State → R := lift (Dev.takeCmd n 0x714 (· == 0) (Dev.routeCommit n))

/-- ROUTE_SWITCH, action 6 (R343): the target, or the issue epoch when the issue is late, becomes E_rs. -/
def Dev.routeSwitch (e : Nat) (late : Bool) (d : Dev) : Nat × Dev :=
  let arg := d.schArg e 0
  if d.f F.rteGen_STATE ≠ 2 || arg.toNat ≠ d.f F.rteGen_STG_GEN then
    (stBAD_ARG, d.event 0x716 0 (mkW [(35, 28, stBAD_ARG), (11, 0, arg.toNat)]))
  else
    let ers := if late || d.schAxis e ≠ 0 then d.now else d.schTarget e (d.schE e).issued
    let d := (d.setF F.rteGen_ACT_GEN (d.f F.rteGen_STG_GEN)).setF F.rteGen_STATE 3
    let d := { d with rte := { d.rte with ers := some ers } }
    (stOK, d.event 0x715 0 (toW (d.f F.rteGen_ACT_GEN)))

/-- ROUTE_SWITCH. -/
def execRouteSwitch (e : Fin 4096) : State → R := issueOf e (lift (Dev.schIssue e 6 false (Dev.routeSwitch e)))

/-- ROUTE_SWITCH_FINAL (R343): at the first edge later than E_rs + 1 s. -/
def execRouteSwitchFinal : State → R :=
  lift fun d => match d.rte.ers with
    | none => d
    | some ers =>
      if later 72 d.now ((ers + 2 ^ 36) % 2 ^ 72) then
        let d := each d.rte.staged (fun c => Dev.rtePut c.ep c.x0 c.x1) d
        (({ d with rte := { d.rte with staged := [], ers := none } }).setF F.rteGen_STATE 0).setF F.rteStg_COUNT 0
      else d

/-! ### The fixed block (R40, R345) -/

/-- The endpoint IDs that the PACK step of a recipe uses: the first and how many (R40). -/
def recipeIds (r : List StepCfg) : Option (Nat × Nat) :=
  match r.find? (·.code == 6) with
  | none => none
  | some pk =>
    let base := bitsOf pk.sw1 19 0
    match r.find? (·.code == 3) with
    | some f => some (base + bitsOf f.sw0 19 12, bitsOf f.sw0 28 20)
    | none => some (base, 1)

/-- The IDs that the recipes of a source use: the one in force and the one that takes effect at its next slot 0. -/
def Source.ids (s : Source) : List (Nat × Nat) := (recipeIds s.recipe).toList ++ (s.next.bind recipeIds).toList

/-- A recipe or beam uses an ID of the fixed block. -/
def Dev.fixedUsed (d : Dev) : Bool := d.tsk.src.any fun s => s.2.ids.any fun (a, n) => a + n > 0xFFC00

/-- ROUTE_FIXED, opcode 0x715 (R345). -/
def Dev.routeFixed (n : Nat) (d : Dev) : Dev :=
  let m := (d.arg n 1).toNat
  if m > 1 then d.reply n stBAD_ARG []
  else if m = 1 && !d.fb F.rteGen_FIXED && d.fixedUsed then d.reply n stBUSY []
  else (d.setF F.rteGen_FIXED m).reply n stOK []

/-- ROUTE_FIXED. -/
def execRouteFixed (n : Mbx) : State → R := lift (Dev.takeCmd n 0x715 (· == 1) (Dev.routeFixed n))

end Sys2Proof.Machine
end

