-- ==== Sys2Proof/Machine/Link.lean ====
section
/-! DEFINITION. Lysith ports: training, lanes, retraining, DOWN and RESYNC, acknowledgement and credit, the system tree,
and the commands of the links (R394 to R410, R421). -/

namespace Sys2Proof.Machine

/-! ### State of a port -/

/-- LNK[n].STAT.STATE: 0 OFF, 1 TRAINING, 2 UP, 3 DEGRADED, 4 DOWN. -/
def Dev.lnkState (d : Dev) (n : Nat) : Nat := d.f (F.lnkStat_STATE n)

/-- A change of STATE: event 0x900, and egress 268 drained again (R406, R440); a trunk link that comes or goes changes the
system tree (R410). -/
def Dev.lnkGo (n st : Nat) (d : Dev) : Dev :=
  if d.lnkState n = st then d
  else
    let was := d.portUp n
    let d := ((d.setF (F.lnkStat_STATE n) st).event 0x900 n (toW st)).drainUnrouted
    if was = d.portUp n then d else d.treePort n (d.portUp n)

/-- A class 17 error with its event. -/
def Dev.lnkError (n code : Nat) (det : Word) (d : Dev) : Dev := d.error 17 2 n 0 code det

/-- The partner's values (R395). -/
def Dev.setPeer (n : Nat) (p : Peer) (d : Dev) : Dev :=
  let d := (((d.setF (F.lnkStat_PEER_ID n) p.pkgId.toNat).setF (F.lnkStat_PEER_ID_OK n) (bit p.assigned)).setF
    (F.lnkStat_PEER_PORT n) p.port).setF (F.lnkStat_PEER_BOOT n) p.boot
  let d := (d.setF (F.lnkPeerSerLo_SERIAL n) p.serial.toNat).setF (F.lnkPeerSerHi_SERIAL n) (p.serial.toNat / 2 ^ 36)
  d.modPort n fun x => { x with peerOk := true, peerTrunk := p.trunk, peerSerial := p.serial.toNat, fwdWait := false }

/-- A retrain begins (R402): traffic waits; the port keeps its STATE until it is UP again or DOWN (assumption 30). -/
def Dev.retrain (n : Nat) (d : Dev) : Dev :=
  if d.portUp n && !(d.port n).retraining then
    ((d.modPort n fun x => { x with retraining := true, rtEdge := d.epo.edges + 1 }).emit (.retrain n)).lnkError n 0 0
  else d

/-! ### Recovery of a port that went DOWN (R406, R407) -/

/-- R407: the route to the partner of a port: RT and DEST. -/
def Dev.resyncRoute (d : Dev) (n : Nat) : Option (Nat × Nat) :=
  let id := d.f (F.lnkStat_PEER_ID n)
  let k := firstN 64 fun k => d.cohState = 2 && d.fb (F.cohMap_VALID k) && !d.fb (F.cohMap_DEAD k) && k != d.myIdx
    && mget d.coh.serials k == (d.port n).peerSerial
  match k with
  | some k => some (0, k)
  | none => if d.fb (F.lnkStat_PEER_ID_OK n) && bitOf (d.rd (srtTab + id)) 35 then some (1, id) else none

/-- The words of a RESYNC: the partner's port, whether it is an answer, the SEQ. -/
def resyncWords (port : Nat) (answer : Bool) (seq : Nat) : List Word :=
  [mkW [(20, 20, bit answer), (18, 16, port), (11, 0, seq)]]

/-- RT and DEST of a message. -/
def Msg.rt (m : Msg) : Nat := bitsOf (nth m.ws 0) 25 24
def Msg.dest (m : Msg) : Nat := bitsOf (nth m.ws 0) 23 8

/-- A member that Lysith cannot reach, to be declared dead (R405). -/
def Dev.lostIdx (k : Nat) (d : Dev) : Dev :=
  if d.cohState ≠ 2 || d.coh.lost.contains k then d else d.modCoh fun c => { c with lost := c.lost ++ [k] }

/-! ### Messages that find no way (R405) -/

/-- The status that a message carries. -/
def stIn (v : Nat) : Nat :=
  if v = stOK || v = stPOISONED || v = stTIMEOUT then v else stADDR

/-- A coherent message from its words. -/
def Dev.cohIn (d : Dev) (rt : Nat) (ws : List Word) : CMsg :=
  let h0 := nth ws 0
  let h1 := nth ws 1
  let h2 := (nth ws 2).toNat
  let code := bitsOf h0 35 31
  let snp := 0x0A ≤ code && code ≤ 0x0E
  let ans := code = 0x13 || code = 0x16 || code = 0x18
  let body := ws.drop 3
  { code := code, agent := bitsOf h1 35 23, tag := bitsOf h0 7 0, sub := bitsOf h1 22 19, grant := bitsOf h1 18 16
    mask := bitsOf h1 15 0
    addr := if ans then 0 else if rt = 1 then d.fullAddr (h2 % 2 ^ 30 * 16) else h2 * 16 % 2 ^ 40
    clu := if snp then (nth body 0).toNat % 64 else 0
    st := if ans then stIn (h2 % 256) else 0
    ws := if snp then body.drop 1 else body
    rt1 := rt == 1 }

/-- A segment of a packet; `key` names its source, `f` takes the whole packet. One whose earlier segments have gone their way
is the rest of a packet where `rest` says so, else discarded. -/
def Dev.pktSeg (key kind : Nat) (first last rest : Bool) (ws : List Word) (f : PktRx → Dev → Dev) (d : Dev) : Dev :=
  let got := if first then some ⟨kind, ws, false⟩
    else ((mget d.rxPkt key).map fun (x : PktRx) => { x with ws := x.ws ++ ws }).orElse fun _ =>
      if rest then some ⟨kind, ws, true⟩ else none
  match got with
  | none => d
  | some x =>
    if last then f x { d with rxPkt := mset d.rxPkt key none } else { d with rxPkt := mset d.rxPkt key (some x) }

/-- R405 for a segment without a way: its packet, or the rest of it, is held at egress 268 once it is whole. -/
def Dev.holdSeg (m : Msg) (d : Dev) : Dev :=
  let h1 := nth m.ws 1
  let src := bitsOf h1 35 20
  d.pktSeg (0x40000 + src) (bitsOf h1 19 18) (bitOf h1 17) (bitOf h1 16) true (m.ws.drop 3) fun x =>
    Dev.holdPkt { src := src, kind := x.kind, head := m.head } m.dest x.cont x.ws

/-- R405 for a request without a way: it completes TIMEOUT, at this package's own agent or by an answer to its requester. -/
def Dev.lostReq (m : CMsg) (d : Dev) : Dev :=
  let r : CMsg := { code := answerCode m, agent := m.agent, tag := m.tag, st := stTIMEOUT }
  if d.ownAgent m.agent && d.coh.outs.any (fun o => o.m.agent == m.agent && o.m.tag == m.tag && o.m.code == m.code) then
    d.answerArrive (m.code == 9) r
  else d.homeReply m r.code stTIMEOUT 0 []

/-- R405 for a message that finds no way on: a request completes TIMEOUT, a member is lost, a PKT message is held; `keep`
false: the message is discarded with its frame, and only its destination is unreachable (R406, step 5). -/
def Dev.lostMsg (keep : Bool) (m : Msg) (d : Dev) : Dev :=
  let code := bitsOf (nth m.ws 0) 35 31
  if code = 0x1C then (if keep && m.rt = 1 then d.holdSeg m else d)
  else
    let d := if m.rt = 0 then d.lostIdx m.dest else d
    if 1 ≤ code && code ≤ 9 && code ≠ 8 then d.lostReq (d.cohIn m.rt m.ws) else d

/-- A message sent again by its route (R406, step 4); link-local ones are discarded. -/
def Dev.reroute (m : Msg) (d : Dev) : Dev :=
  if m.rt ≥ 2 then d
  else
    let (ok, d) := d.sendRt m.rt m.dest m
    if ok then d else d.lostMsg true m

/-- R405 for the destination of a discarded message. -/
def Dev.destGone (m : Msg) (d : Dev) : Dev := if m.rt ≥ 2 then d else (d.unreach m.rt m.dest).lostMsg false m

/-- The frames that the partner has not accepted; `seq` the last one it did. -/
def unaccepted (seq : Nat) (fs : List TxFrame) : List TxFrame :=
  match fs.findIdx? (fun f => f.seq == seq) with
  | some i => fs.drop (i + 1)
  | none => fs

/-- The messages that the partner has not whole: those that end in frames it has not accepted, and the one begun. -/
def Lnk.unsent (x : Lnk) (fs : List TxFrame) : List Msg := fs.flatMap (·.ends) ++ (x.txPart.map (·.1)).toList

/-- R406, step 5: the recovery ends. A port with EN = 0 is OFF from then on (R459); packets chained by the system route table
go by its ALT. -/
def Dev.recoverEnd (n st : Nat) (again : List Msg) (d : Dev) : Dev :=
  let held := (d.port n).held
  let d := d.modPort n fun x => { x with
    recovering := false, sync := false, expired := false, unacked := [], held := [], txq := [], txPart := none }
  let d := each (again ++ held) Dev.reroute d
  let d := if d.fb (F.lnkCfg_EN n) then d else d.lnkGo n 0
  let d := d.resendAlt n
  let d := (d.event 0x902 n (mkW [(35, 28, st), (15, 0, d.f (F.lnkStat_PEER_ID n))])).inc (F.lnkCnt_REROUTE n) 1
  let (us, d) := d.fresh
  (d.event 0xA02 0 (mkW [(35, 32, 2), (17, 0, us)])).drainUnrouted

/-- A port goes DOWN (R406, step 1): what waits is held. RESYNC follows at the end of the edge (R423). -/
def Dev.linkDown (n : Nat) (d : Dev) : Dev :=
  if d.lnkState n = 4 then d
  else
    let d := d.modPort n fun x => { x with
      retraining := false, recovering := true, nakSent := false, naks := 0, rejoin := 0, rxPart := []
      held := x.txq ++ x.held, txq := [], sync := true, expired := false, fwd := none, fwdWait := false }
    ((d.setF (F.lnkStat_LANES n) 0).lnkGo n 4).lnkError n 0x900 (toW 4)

/-- R406, step 2, at the end of the edge of DOWN: RESYNC with the last ACK received; without a route the recovery ends. -/
def Dev.syncStart (n : Nat) (d : Dev) : Dev :=
  let d := d.modPort n fun x => { x with sync := false }
  match d.resyncRoute n with
  | some (rt, dest) =>
    let x := d.port n
    let seq := (((x.unacked.head?).map (·.seq)).getD x.tx + 4095) % 4096
    (d.sendRoute true rt dest [ctrlMsg rt dest 4 0 (resyncWords (d.f (F.lnkStat_PEER_PORT n)) false seq)]).2
  | none => (d.modPort n fun x => { x with held := x.held.filter (·.rt < 2) }).recoverEnd n stOK []

/-- R406, step 5, at the end of the edge of the 100 µs limit, unless an answer came at it: the unacknowledged messages are
discarded. -/
def Dev.syncExpire (n : Nat) (d : Dev) : Dev :=
  let ms := (d.port n).unsent (d.port n).unacked
  each ms Dev.destGone (d.recoverEnd n stTIMEOUT [])

/-- The end of an edge for a port (R423). -/
def Dev.lnkEdge (n : Nat) (d : Dev) : Dev :=
  let x := d.port n
  if !x.recovering then d else if x.expired then d.syncExpire n else if x.sync then d.syncStart n else d

/-- RETRAIN_TIMEOUT (R402, R406). -/
def Dev.retrainTimeout (n : Nat) (d : Dev) : Dev := if (d.port n).retraining then d.linkDown n else d

/-- DOWN_TIMEOUT (R406). -/
def Dev.downTimeout (n : Nat) (d : Dev) : Dev := if d.portUp n then d.linkDown n else d

/-- RESYNC (R406, steps 3 and 4): the partner's question is answered with the last SEQ accepted. -/
def Dev.resync (n : Nat) (answer : Bool) (seq : Nat) (d : Dev) : Dev :=
  if answer then
    if (d.port n).recovering then
      let ms := (d.port n).unsent (unaccepted seq (d.port n).unacked)
      d.recoverEnd n stOK (ms.filter (·.rt < 2))
    else d
  else match d.resyncRoute n with
    | some (rt, dest) =>
      let w := resyncWords (d.f (F.lnkStat_PEER_PORT n)) true (((d.port n).rx + 4095) % 4096)
      (d.sendRoute true rt dest [ctrlMsg rt dest 4 0 w]).2
    | none => d

/-- RESYNC_TIMEOUT (R406, step 5): the limit has passed; an answer at this edge is still valid (R423). -/
def Dev.resyncTimeout (n : Nat) (d : Dev) : Dev :=
  if (d.port n).recovering then d.modPort n fun x => { x with expired := true } else d

/-! ### Training and lanes (R395, R401 to R403) -/

/-- Credit that TM9 advertises at UP, its receive space in units of four words (R398, assumption 10). -/
def startOwed : SMap Nat := (List.range 5).foldl (fun m c => mset m (c + 1) (Config.creditSpace (c + 1) / 4)) []

/-- R395: a training exchange with TM9's own values. -/
def Dev.train (n : Nat) (d : Dev) : Dev := d.emit (.training n (d.ownPeer n))

/-- R423: lanes removed in the cycle of the retrain, which are not in service after it. -/
def Lnk.cutNow (x : Lnk) : Nat := if x.retraining && x.cutEdge = x.rtEdge then x.cut else 0

/-- TRAINING_DONE (R395): a port that was not up starts its frame sequence anew, without credit until the partner's frames
grant some, and advertises its own (assumption 30). -/
def Dev.trainingDone (n lanes : Nat) (p : Peer) (d : Dev) : Dev :=
  let x := d.port n
  let lanes := lanes &&& (15 - x.cutNow)
  if !d.fb (F.lnkCfg_EN n) || popcount 4 lanes < 2 || p.trunk != d.fb (F.lnkCfg_TRUNK n) || x.recovering
      || (d.portUp n && !x.retraining) then d
  else if x.retraining then
    let d := d.modPort n fun x => { x with retraining := false, naks := 0, rejoin := x.rejoin &&& (15 - lanes) }
    (((d.setF (F.lnkStat_LANES n) lanes).setPeer n p).lnkGo n 2).pump n
  else
    let d := d.modPort n fun x => { x with
      tx := 0, rx := 0, unacked := [], nakSent := false, naks := 0, credit := [], owed := startOwed, pktLast := false
      rxPart := [], txPart := none, rejoin := 0 }
    ((((d.setF (F.lnkStat_LANES n) lanes).setPeer n p).lnkGo n 2).pump n).creditOut n

/-- TRAINING_RETRY (R395). -/
def Dev.trainingRetry (n : Nat) (d : Dev) : Dev :=
  if d.fb (F.lnkCfg_EN n) && !d.portUp n && !(d.port n).recovering then (d.lnkGo n 1).train n else d

/-- R423: a lane removed at this edge, which the retrain of this edge leaves out of service. -/
def Lnk.cutLane (edge lane : Nat) (x : Lnk) : Lnk :=
  if x.retraining && x.cutEdge = x.rtEdge && edge ≠ x.cutEdge then x
  else { x with cutEdge := edge, cut := setNbit (if x.cutEdge = edge then x.cut else 0) lane true }

/-- LANE_REMOVAL (R401, R402). -/
def Dev.laneRemoval (n lane : Nat) (d : Dev) : Dev :=
  let lanes := d.f (F.lnkStat_LANES n)
  if !d.portUp n || !nbit lanes lane then d
  else
    let lanes := setNbit lanes lane false
    let det := mkW [(5, 4, 1), (1, 0, lane)]
    let d := (d.setF (F.lnkStat_LANES n) lanes).modPort n fun x =>
      { x.cutLane (d.epo.edges + 1) lane with rejoin := setNbit x.rejoin lane true }
    let d := (((d.inc (F.lnkCnt_LANE_LOSS n) 1).lnkError n 0x901 det).event 0x901 n det)
    if popcount 4 lanes < 2 then d.retrain n
    else
      let (us, d) := (d.lnkGo n 3).fresh
      d.event 0xA02 0 (mkW [(35, 32, 1), (17, 0, us)])

/-- LYSITH_LANE_REJOIN (R403). -/
def Dev.laneRejoin (n lane : Nat) (d : Dev) : Dev :=
  if !d.portUp n || !d.fb (F.lnkCfg_AUTO_REJOIN n) || !nbit (d.port n).rejoin lane then d
  else
    let d := d.modPort n fun x => { x with rejoin := setNbit x.rejoin lane false }
    let lanes := setNbit (d.f (F.lnkStat_LANES n)) lane true
    let d := (d.setF (F.lnkStat_LANES n) lanes).event 0x901 n (mkW [(5, 4, 2), (1, 0, lane)])
    if (d.port n).rejoin = 0 then d.lnkGo n 2 else d

/-- PARTNER_REFRESH (R395): both sides refresh their values. -/
def Dev.partnerRefresh (n : Nat) (p : Peer) (d : Dev) : Dev :=
  if d.portUp n then (d.setPeer n p).emit (.refresh n (d.ownPeer n)) else d

/-- A write of LNK[n].CFG (R406, R408): TRUNK on ports 0-5 is refused; EN = 0 takes the port DOWN, and OFF once its recovery
ends (R459). -/
def Dev.lnkCfgWrite (p : Path) (n : Nat) (w : Word) (d : Dev) : Dev :=
  if n < 6 && bitOf w 34 then (d.violationOnly p (R.lnkCfg n) w).event 0x900 n (toW (d.lnkState n))
  else
    let was := d.fb (F.lnkCfg_EN n)
    let d := d.writeByType p (R.lnkCfg n) w
    let on := d.fb (F.lnkCfg_EN n)
    if was && !on then
      (if d.lnkState n = 0 || (d.port n).recovering then d else if d.lnkState n = 4 then d.lnkGo n 0 else d.linkDown n)
    else if !was && on && d.lnkState n ≠ 4 then (d.lnkGo n 1).train n else d

/-! ### Frames (R396 to R398) -/

/-- The CRC of a received frame is good (R396, R397). -/
def frameCrc (ws : List Word) : Bool := bitsOf (nth ws 63) 31 0 == crc32 ((List.range 63).map (nth ws))

/-- The ACK and the credit of a frame (R396); credit that was waited for ends the wait of R437. -/
def Dev.frameHead (n : Nat) (f0 : Word) (d : Dev) : Dev :=
  let ack := bitsOf f0 23 12
  let cls := bitsOf f0 11 9
  let cr := bitsOf f0 8 0
  (d.modPort n fun x => { x with
    unacked := unaccepted ack x.unacked
    credit := if 1 ≤ cls && cls ≤ 5 then mset x.credit cls (mget x.credit cls + cr) else x.credit }).egFlow (256 + n)

/-- R423: the ACK of a frame that arrives at the edge at which the port goes DOWN counts. -/
def Dev.lateAck (n : Nat) (ws : List Word) (d : Dev) : Dev :=
  if (d.port n).recovering && (d.port n).sync && frameCrc ws then
    d.modPort n fun x => { x with unacked := unaccepted (bitsOf (nth ws 0) 23 12) x.unacked }
  else d

/-- IDLE_FRAME (R396): one whose CRC fails is discarded. -/
def Dev.idleFrame (n : Nat) (ws : List Word) (d : Dev) : Dev :=
  if !d.portUp n then d.lateAck n ws
  else if frameCrc ws then (d.frameHead n (nth ws 0)).pump n else d

/-- R397: every unacknowledged frame sent again. -/
def Dev.replay (n : Nat) (d : Dev) : Dev :=
  each (d.port n).unacked (fun f d => (d.sendFrame n 0 f.seq f.ws).inc (F.lnkCnt_REPLAY n) 1) d

/-- NAK_FRAME (R397): replay from ACK + 1; eight consecutive NAKs for one SEQ retrain the port. -/
def Dev.nakFrame (n : Nat) (ws : List Word) (d : Dev) : Dev :=
  if !d.portUp n then d.lateAck n ws
  else if !frameCrc ws then d
  else
    let ack := bitsOf (nth ws 0) 23 12
    let d := d.frameHead n (nth ws 0)
    let x := d.port n
    let k := if x.naks > 0 && x.nakSeq = ack then x.naks + 1 else 1
    let d := d.modPort n fun x => { x with nakSeq := ack, naks := k }
    if k ≥ 8 then (d.modPort n fun x => { x with naks := 0 }).retrain n
    else (d.replay n).pump n

/-- The messages in the words of accepted frames, and the words of one that continues (R396). -/
def cutMsgs : Nat → List Word → List (List Word) × List Word
  | 0, _ => ([], [])
  | _ + 1, [] => ([], [])
  | fuel + 1, w :: ws =>
    if w = 0 then cutMsgs fuel ws
    else
      let len := 3 + bitsOf w 30 26
      if (w :: ws).length < len then ([], w :: ws)
      else
        let (ms, rest) := cutMsgs fuel ((w :: ws).drop len)
        ((w :: ws).take len :: ms, rest)

/-- R397: the receiver's part of a DATA frame: the messages accepted, or a NAK. -/
def Dev.frameAccept (n : Nat) (good : Bool) (ws : List Word) (d : Dev) : List (List Word) × Dev :=
  let f0 := nth ws 0
  if !d.portUp n then ([], if good then d.lateAck n ws else d)
  else if good && frameCrc ws && bitsOf f0 35 24 = (d.port n).rx then
    let d := d.frameHead n f0
    let (ms, rest) := cutMsgs 200 ((d.port n).rxPart ++ (ws.drop 1).take 62)
    let own := ms.foldl (fun o m =>
      let c := codeClass (bitsOf (nth m 0) 35 31)
      if c ≤ 5 then mset o c (mget o c + (m.length + 3) / 4) else o) (d.port n).owed
    (ms, d.modPort n fun x => { x with rx := (x.rx + 1) % 4096, nakSent := false, rxPart := rest, owed := own })
  else if (d.port n).nakSent then ([], d)
  else
    let d := (d.modPort n fun x => { x with nakSent := true }).inc (F.lnkCnt_NAK n) 1
    ([], d.sendFrame n 2 0 [])

/-! ### Firmware forwarding (R421) -/

/-- Image chunks of 254 words. -/
def Dev.fwdChunks (d : Dev) : Nat := (d.cp.loader.retLen + 253) / 254

/-- Request `k` of a delivery of the retained image: IMG_BEGIN, the chunks, IMG_BOOT. -/
def Dev.fwdRequest (d : Dev) (k : Nat) : List Word :=
  let len := d.cp.loader.retLen
  if k = 0 then [mkW [(35, 24, 0x010), (15, 8, 1)], toW len]
  else if k ≤ d.fwdChunks then
    let a := (k - 1) * 254
    let ws := d.rds a (Nat.min 254 (len - a))
    mkW [(35, 24, 0x011), (15, 8, ws.length + 1)] :: toW a :: ws
  else [mkW [(35, 24, 0x012)]]

/-- Request `k` sent to the partner's mailbox by RT 2; its response is awaited. It waits while the image's HBM stack accepts no
request (R434). -/
def Dev.fwdSend (n k : Nat) (d : Dev) : Dev :=
  if d.hbmHeld 0 then d.modPort n fun x => { x with fwd := some k, fwdHeld := true }
  else (d.sendLink n 1 (d.fwdRequest k)).modPort n fun x => { x with fwd := some k, fwdHeld := false }

/-- R421: a delivery begins, or goes on with the response to its last request: event 0x908 with the outcome. A partner whose
loader another source has claimed is not asked again before it refreshes the state that it shows (assumption 187). -/
def Dev.firmwareForward (n st fail : Nat) (d : Dev) : Dev :=
  match (d.port n).fwd with
  | none =>
    if d.running && d.fb (F.lnkCfg_FW_FWD n) && d.portUp n && d.f (F.lnkStat_PEER_BOOT n) = 2 && !(d.port n).fwdWait then
      d.fwdSend n 0
    else d
  | some k =>
    if (d.port n).fwdHeld then d
    else if st = stOK && k ≤ d.fwdChunks && d.running then d.fwdSend n (k + 1)
    else
      let d := d.modPort n fun x => { x with fwd := none, fwdWait := k = 0 && st == stBUSY }
      if d.running then d.event 0x908 n (mkW [(35, 28, st), (4, 0, fail)]) else d

/-- The partner's response to a request of the delivery: its status, and from IMG_BOOT its LAST_FAIL. -/
def Dev.fwdResponse (n : Nat) (ws : List Word) (d : Dev) : Dev :=
  let last := (d.port n).fwd == some (d.fwdChunks + 1)
  d.firmwareForward n (bitsOf (nth ws 0) 7 0) (if last then (nth ws 1).toNat % 32 else 0)

/-! ### The commands -/

/-- LNK_INFO, opcode 0x900: the counters that it answers stay as they are; RC clears on a register read (assumption 166). -/
def Dev.lnkInfo (n : Nat) (d : Dev) : Dev :=
  let p := (d.arg n 1).toNat
  if p > 7 then d.reply n stBAD_ARG []
  else d.reply n stOK [d.reg (R.lnkStat p), d.reg (R.lnkCnt p), d.reg (R.lnkPeerSerHi p), d.reg (R.lnkPeerSerLo p)]

/-- PKG_ID_SET, opcode 0x901 (R409): one that would write owner records is BUSY during a keep-store operation (R446).
LOCKED is no lock violation of R79: TOP_PKG.ID is RO and no lock covers it (assumption 167). -/
def Dev.pkgIdSet (n : Nat) (d : Dev) : Dev :=
  let id := (d.arg n 1).toNat
  if id > 0xFFFF then d.reply n stBAD_ARG []
  else if d.fb F.topPkg_ASSIGNED && d.pkgId ≠ id then d.reply n stLOCKED []
  else if !d.fb F.topPkg_ASSIGNED && d.ksBusy then d.reply n stBUSY []
  else
    let was := d.fb F.topPkg_ASSIGNED
    let d := ((d.setF F.topPkg_ID id).setF F.topPkg_ASSIGNED 1).reply n stOK []
    if was then d else d.treeStart

/-- R448: the record of type 0x10 that a PKG_ID_SET which assigned an ID writes. -/
def pkgIdRecord (s : State) (d : Dev) : State :=
  { s with
    dev := d
    ks := if !s.dev.fb F.topPkg_ASSIGNED && d.fb F.topPkg_ASSIGNED then s.ks.writeOwner 0x10 [toW d.pkgId] else s.ks }

/-- PKG_ID_SET. -/
def execPkgIdSet (n : Mbx) : State → R := gate fun s => pkgIdRecord s (Dev.takeCmd n 0x901 (· == 1) (Dev.pkgIdSet n) s.dev)

/-- LNK_INFO. -/
def execLnkInfo (n : Mbx) : State → R := lift (Dev.takeCmd n 0x900 (· == 1) (Dev.lnkInfo n))

/-- SRT_SET, opcode 0x902 (R404, R440). -/
def Dev.srtSet (n : Nat) (d : Dev) : Dev :=
  let id := (d.arg n 1).toNat
  let ws := (d.mb n).req.drop 2
  if id > 0xFFFF || id + ws.length > 65536 || ws.any (fun w => bitsOf w 20 0 ≠ 0) then d.reply n stBAD_ARG []
  else ((d.wrs (srtTab + id) ws).drainUnrouted).reply n stOK []

/-- SRT_SET. -/
def execSrtSet (n : Mbx) : State → R := liftBb (Dev.takeCmd n 0x902 (fun l => 1 ≤ l) (Dev.srtSet n))

/-- LNK_RETRAIN, opcode 0x905 (R402). -/
def Dev.lnkRetrain (n : Nat) (d : Dev) : Dev :=
  let p := (d.arg n 1).toNat
  if p > 7 || d.lnkState p = 0 then d.reply n stBAD_ARG [] else (d.retrain p).reply n stOK []

/-- LNK_RETRAIN. -/
def execLnkRetrain (n : Mbx) : State → R := lift (Dev.takeCmd n 0x905 (· == 1) (Dev.lnkRetrain n))

end Sys2Proof.Machine
end

