-- ==== Sys2Proof/Machine/Errors.lean ====
section
/-! DEFINITION. The CP log and the hardware error queue as read, and HBM channel failure (R427 to R435). -/

namespace Sys2Proof.Machine

/-! ### The CP log (R429) -/

/-- The five words of a log entry as ERR_LOG_READ returns it. -/
def logWords (e : Nat × List Word) : List Word :=
  let gap := if e.1 = 2 then Nat.min 0xFFF (nth e.2 0).toNat else 0
  mkW [(35, 34, e.1), (11, 0, gap)] :: (if e.1 = 2 then [0, 0, 0, 0] else (List.range 4).map (nth e.2))

/-- The sequence of the oldest retained entry. -/
def Dev.logOldest (d : Dev) : Nat := (d.cp.logSeq + 2 ^ 36 - d.cp.log.length) % 2 ^ 36

/-- ERR_LOG_READ, opcode 0xA00. -/
def Dev.errLogRead (n : Nat) (d : Dev) : Dev :=
  let first := (d.arg n 1).toNat
  let c := (d.arg n 2).toNat
  let hd := [toW d.logOldest, toW d.cp.logSeq]
  if c = 0 || c > 50 then d.reply n stBAD_ARG []
  else
    let skip := if later 36 first d.logOldest then (first + 2 ^ 36 - d.logOldest) % 2 ^ 36 else 0
    d.reply n stOK (hd ++ ((d.cp.log.drop skip).take c).flatMap logWords)

/-- ERR_LOG_READ. -/
def execErrLogRead (n : Mbx) : State → R := lift (Dev.takeCmd n 0xA00 (· == 2) (Dev.errLogRead n))

/-! ### The hardware error queue (R427) -/

/-- A pop of the error queue: the next word of the oldest entry, IDLE when none is left. -/
def Dev.errPop (d : Dev) : Word × Dev :=
  match d.err.queue with
  | [] => (idleW, d)
  | e :: es =>
    let w := nth e d.err.rd
    if d.err.rd ≥ 3 then (w, { d with err := { d.err with queue := es, rd := 0 } })
    else (w, { d with err := { d.err with rd := d.err.rd + 1 } })

/-- ERR_QPOP. -/
def execErrQpop (p : Path) : State → R :=
  lift fun d => let (w, d) := d.errPop; d.emit (.readData p R.errQpop w)

/-! ### HBM channel failure (R433 to R435) -/

/-- R433: the stack has a spare area. -/
def Dev.hbmSpare (d : Dev) (s : Nat) : Bool := d.f (F.errHbmUse_GROUPS s) != 0 && d.f (F.errHbmSpare_BASE s) != 0

/-- The detail of event 0xA03. -/
def hbmDetail (remap : Bool) (s ch : Nat) : Word := mkW [(8, 8, bit remap), (7, 4, s), (3, 0, ch)]

/-- HBM_CHANNEL_FAILURE (R434, R435): the first failed channel of a stack with a spare waits for the remap; any other
stays failed. -/
def Dev.hbmFailure (s ch : Nat) (d : Dev) : Dev :=
  let was := mget d.err.hbmFail s
  if nbit was ch then d
  else
    let remap := was = 0 && d.hbmSpare s
    let d := { d with err := { d.err with
      hbmFail := mset d.err.hbmFail s (setNbit was ch true)
      hbmStop := if remap then mset d.err.hbmStop s true else d.err.hbmStop
      hbmSecond := if was = 0 then d.err.hbmSecond else mset d.err.hbmSecond s true } }
    let d := if was = 0 then (d.setF (F.errHbmStat_FAILED s) 1).setF (F.errHbmStat_CH s) ch else d
    let d := d.setF (F.errHbmStat_NFAIL s) (Nat.min 3 (d.f (F.errHbmStat_NFAIL s) + 1))
    let det := hbmDetail remap s ch
    let d := d.error 11 (if remap then 2 else 3) 0 0 0xA03 det
    if remap then d else d.event 0xA03 0 det

/-- HBM_CHANNEL_FAILURE. -/
def execHbmChannelFailure (s : Fin 2) (ch : Fin 16) : State → R := lift (Dev.hbmFailure s ch)

/-- R434: what waited for the stack goes on: requests at the home, chained packets, a delivery of the image. -/
def Dev.hbmResume (d : Dev) : Dev :=
  let held := d.coh.hbmHeld
  let d := (each held Dev.homeArrive (d.modCoh fun c => { c with hbmHeld := [] })).homeNext
  let d := forN 8 (fun n d => if d.portUp n || (d.port n).recovering then d else d.resendAlt n) d
  forN 8 (fun n d => match (d.port n).fwd with
    | some k => if (d.port n).fwdHeld then d.fwdSend n k else d
    | none => d) d.drainUnrouted

/-- The stack of a local HBM address. -/
def hbmStack (a : Nat) : Nat := a / 0x100000000

/-- REMAP_COMPLETE (R434): the kept writes are applied at their new groups; event 0xA03, event 0xA02 and the black-box
record of R452. The measured interruption is a free value. -/
def Dev.remapComplete (s : Nat) (d : Dev) : Dev :=
  if !mget d.err.hbmStop s then d
  else
    let d := d.setF (F.errHbmStat_REMAP s) 1
    let mine := d.err.hbmKept.filter fun x => hbmStack x.1 == s
    let d := { d with err := { d.err with
      hbmStop := mset d.err.hbmStop s false
      hbmKept := d.err.hbmKept.filter fun x => hbmStack x.1 != s
      hbmWritten := d.err.hbmWritten.filter fun g => hbmStack g.1 != s } }
    let d := (each mine (fun r d => d.wrs r.1 r.2) d).hbmResume
    let d := d.event 0xA03 0 (hbmDetail true s (d.f (F.errHbmStat_CH s)))
    let (us, d) := d.fresh
    (d.event 0xA02 0 (mkW [(35, 32, 4), (17, 0, us)])).oweBbFree

/-- REMAP_COMPLETE. -/
def execRemapComplete (s : Fin 2) : State → R := liftBb (Dev.remapComplete s)

end Sys2Proof.Machine
end

