-- ==== Sys2Proof/Machine/Calib.lean ====
section
/-! DEFINITION. The Canvas and live calibration (R263 to R278). -/

namespace Sys2Proof.Machine

/-! ### The banks (R263 to R266) -/

/-- Words of a bank. -/
def bankWords : Nat := 40976

/-- Local address of word `w` of bank `b`. -/
def Dev.bankAddr (d : Dev) (b w : Nat) : Nat := 0x200000000 + d.f (F.calBank_OFS b) + w

/-- Writes of the region stores by this package's agents that wait for other copies to be recalled, oldest first. -/
def Dev.waitingWrites (d : Dev) : List CMsg :=
  ((d.coh.txns.filterMap fun t => t.2.bind fun t => if t.done then none else some t.req) ++ d.coh.waiting ++ d.coh.inbox
    ++ d.coh.tagWait.map (·.m)).filter fun m => m.code == 9 && d.ownAgent m.agent

/-- A word of a bank, writes on their way to it included, and whether it reads POISONED: so does a word that its store
does, and one of a DP line (R365, R367). -/
def Dev.bankRdP (d : Dev) (b w : Nat) : Word × Bool :=
  let a := d.bankAddr b w
  let hit := fun (m : CMsg) => if m.lineA = a / 16 * 16 then
      ((maskWords m.mask).zip m.ws).find? (fun x => x.1 == a % 16) |>.map (·.2) else none
  match d.waitingWrites.reverse.findSome? hit with
  | some w => (w, false)
  | none => ((d.rdP a).1, (d.rdP a).2 || (d.dirE (a / 16)).st == 3)

/-- A word of a bank. -/
def Dev.bankRd (d : Dev) (b w : Nat) : Word := (d.bankRdP b w).1

/-- The active bank and the pending one. -/
def Dev.actBank (d : Dev) : Nat := d.f F.calStat_ACTIVE
def Dev.pendBank (d : Dev) : Nat := 1 - d.f F.calStat_ACTIVE

/-- Words of a line of the region store written by local agent `la`: at once where no other copy stands, else by WR_NC
as R366 says. -/
def Dev.calLine (la l mask : Nat) (ws : List Word) (d : Dev) : Dev :=
  if (d.dirE l).st = 0 && (d.txn l).isNone && d.coh.leave.isNone then
    (maskWords mask).zipIdx.foldl (fun d (i, k) => d.wr (l * 16 + i) (nth ws k)) d
  else (d.cohSend .nothing la { code := 9, mask := mask, ws := ws, addr := d.fullAddr (l * 16) }).cohRun 65536

/-- Consecutive words of the region store written, line by line. -/
def Dev.calStore (la : Nat) : Nat → Nat → List Word → Dev → Dev
  | 0, _, _, d => d
  | _, _, [], d => d
  | fuel + 1, a, ws, d =>
    let n := Nat.min ws.length (16 - a % 16)
    (d.calLine la (a / 16) (lineMask (a % 16) n) (ws.take n)).calStore la fuel (a + n) (ws.drop n)

/-- Words of a bank written. -/
def Dev.bankWr (la b w : Nat) (ws : List Word) (d : Dev) : Dev := d.calStore la ws.length (d.bankAddr b w) ws

/-- R263: both banks start on a line, lie within one region store and do not overlap. -/
def Dev.banksOk (d : Dev) : Bool :=
  let o := fun b => d.f (F.calBank_OFS b)
  let fits := fun b => o b % 16 == 0 && o b % 0x80000 + bankWords ≤ 0x80000
  fits 0 && fits 1 && (o 0 + bankWords ≤ o 1 || o 1 + bankWords ≤ o 0)

/-- H3 of a bank as its entries stand (R263). -/
def Dev.bankSum (d : Dev) (b : Nat) : Word :=
  forN (bankWords - 16) (fun w a => a + d.bankRd b (16 + w)) (0 : Word)

/-- Word `k` of the entry of input `i`. -/
def Dev.entry (d : Dev) (b i k : Nat) : Word := d.bankRd b (16 + i * 8 + k)

/-- The values of a valid entry. -/
def Dev.entryVals (d : Dev) (b i : Nat) : Canvas :=
  { off := d.entry b i 0, gain := sOf 36 (d.entry b i 1).toNat, delay := sOf 36 (d.entry b i 2).toNat
    phase := (d.entry b i 3).toNat }

/-- An entry's values, or the identity (R264); with which of them a POISONED word of the entry contributes to, VALID
contributing to each (R365). -/
def Dev.entryOr (d : Dev) (b i : Nat) : Canvas :=
  let bad := fun k => (d.bankRdP b (16 + i * 8 + k)).2 || (d.bankRdP b (16 + i * 8 + 4)).2
  let v := if bitOf (d.entry b i 4) 35 then d.entryVals b i else Canvas.ident
  let on := bitOf (d.entry b i 4) 35
  { v with badU := bad 4 || (on && (bad 0 || bad 1)), badD := bad 4 || (on && bad 2), badR := bad 4 || (on && bad 3) }

/-- E_sw of the last switch. -/
def Dev.calLast (d : Dev) : Nat := d.f F.calLastHi_SEC * 2 ^ 36 + d.f F.calLastLo_FRAC

/-- R182, R264, R270: the Canvas values of input `i` for a slot of epoch `e`: slots earlier than the last switch take the
old bank, whether its retirement has ended or not. -/
def Dev.canvasAt (d : Dev) (can : Bool) (i e : Nat) : Canvas :=
  if !can || !d.fb F.calStat_INIT then Canvas.ident
  else
    let old := d.calLast ≠ 0 && !notEarlier 72 e d.calLast
    d.entryOr (if old then d.pendBank else d.actBank) i

/-! ### Load class and temperature (R267) -/

/-- R267: the load class. -/
def Dev.loadClass (d : Dev) : Nat :=
  let r := ((List.range 16).filter fun l => d.felState l == 3).foldl
    (fun a l => let c := d.linkCfg l; a + c.m * c.np * c.fs) 0
  if 4 * r < 1008000000000 then 0 else if 2 * r < 1008000000000 then 1
  else if 4 * r < 3 * 1008000000000 then 2 else 3

/-- R267: T(d) in 1/16 degree C. -/
def Dev.dieTemp (d : Dev) (die : Nat) : Int :=
  roundHe ((List.range 4).foldl (fun a i => a + sOf 12 (d.f (F.thmSens_TEMP (die * 4 + i)))) 0) 4

/-- CAL_COND as it stands. -/
def Dev.calCond (d : Dev) : Word :=
  mkW [(35, 34, d.loadClass), (23, 12, sTo 12 (d.dieTemp 1)), (11, 0, sTo 12 (d.dieTemp 0))]

/-! ### Inputs and their clusters -/

/-- R207: the home cluster of an input. -/
def Dev.homeOf (d : Dev) (i : Nat) : Nat :=
  if i < 4096 then d.f (F.ingChCfg_CLU i) else d.f (F.ingFchCfg_CLU (i - 4096))

/-- Every input that runs. -/
def Dev.runningInputs (d : Dev) : List Nat := (d.ing.inp.map (·.1)).filter d.inputRuns

/-- A step of a recipe has its CAN bit set (RECIPE_SET). -/
def StepCfg.can (s : StepCfg) : Bool :=
  (s.code == 0 && bitOf s.sw0 2) || (s.code == 1 && bitOf s.sw0 23) || (s.code == 2 && bitOf s.sw0 0)

/-- The recipe of a source has the step. -/
def Source.step? (s : Source) (code : Nat) : Option StepCfg := s.recipe.find? (·.code == code)

/-! ### Switching (R268 to R271) -/

/-- R271: the pending bank's state before the writes and seals of this edge, which a CAL_APPLY of the edge is tested
against. -/
def Dev.beforeEdge (d : Dev) : Dev :=
  let t := d.tieNow
  (((d.setF F.calStat_PSTATE t.pstate).setF F.calStat_PEND_GEN t.gen).setReg (R.calPendSum 0) (nth t.sums 0)).setReg
    (R.calPendSum 1) (nth t.sums 1)

/-- The response of a command answered at this edge becomes BUSY, while it still stands in its mailbox. -/
def Dev.amendBusy (n seq : Nat) (d : Dev) : Dev :=
  let f := fun (ws : List Word) => match ws with
    | h :: _ => if hdrSeq h = seq && bitsOf h 7 0 = stOK then [putBits (putBits h 15 8 0) 7 0 stBUSY] else ws
    | [] => []
  d.modMb n fun m => { m with rsp := f m.rsp, replay := m.replay.map f }

/-- R271: the writes of this edge to the pending bank are writes to the retiring bank: undone, those of a mailbox command
answered BUSY (assumption 149). -/
def Dev.undoWrites (d : Dev) : Dev :=
  let t := d.tieNow
  let d := each t.writes (fun (who, first, ws) d =>
    let d := d.bankWr 68 d.pendBank first ws
    match who with
    | some (n, seq) => d.amendBusy n seq
    | none => d) d
  if !t.writes.isEmpty && d.f F.calStat_PSTATE = 0 then d.setF F.calStat_PSTATE t.pstate else d

/-- R269: die `die` is stale. -/
def Dev.dieStale (d : Dev) (die : Nat) : Bool :=
  let c : Int := d.loadClass
  let t := d.dieTemp die
  let mx : Int := d.f (F.calPendSum_CLS_MAX die)
  let mn : Int := d.f (F.calPendSum_CLS_MIN die)
  let tx := sOf 12 (d.f (F.calPendSum_TMAX die))
  let tn := sOf 12 (d.f (F.calPendSum_TMIN die))
  tn ≤ tx && (mx - c > 1 || c - mn > 1 || tx - t > 160 || t - tn > 160)

/-- R270: the roles exchange at `esw`. -/
def Dev.calSwitch (esw : Nat) (stale : Bool) (d : Dev) : Dev :=
  let new := d.pendBank
  let gen := d.f F.calStat_PEND_GEN
  let d := (((d.setF F.calStat_PEND_GEN (d.f F.calStat_ACT_GEN)).setF F.calStat_ACT_GEN gen).setF
    F.calStat_ACTIVE new).setF F.calStat_PSTATE 2
  let d := d.bankWr 68 new 1 (epWords esw)
  let d := ((d.setF F.calLastHi_SEC (esw / 2 ^ 36)).setF F.calLastLo_FRAC esw).inc F.calCnt_APPLIES 1
  d.event 0x601 0 (mkW [(12, 12, bit stale), (11, 0, gen)])

/-- The outcome of a CAL_APPLY (R268), tested against the state before this edge's writes and seals (R271). -/
def Dev.calApply (arg esw : Nat) (d : Dev) : Nat × Dev :=
  let was := d.beforeEdge
  let b := d.pendBank
  let d := d.undoWrites.modTie fun t => { t with writes := [], applied := some b }
  let refuse := fun (st : Nat) => (st, d.event 0x603 0 (mkW [(35, 28, st), (11, 0, arg)]))
  if !was.fb F.calStat_INIT || was.f F.calStat_PSTATE ≠ 1 || was.f F.calStat_PEND_GEN ≠ arg then refuse stBAD_ARG
  else if d.cal.isSome then refuse stBUSY
  else
    let dies := bit (was.dieStale 0) + 2 * bit (was.dieStale 1)
    if dies = 0 then (stOK, d.calSwitch esw false)
    else if d.fb F.calCfg_STRICT then (stSTALE, d.event 0x602 0 (toW (4 + dies)))
    else
      let d := ((d.calSwitch esw true).setF F.calStat_STALE 1).inc F.calCnt_STALE_CNT 1
      (stOK, d.event 0x602 0 (toW dies))

/-- CAL_APPLY (R268 to R270). -/
def execCalApply (e : Fin 4096) : State → R :=
  issueOf e (lift (Dev.schIssue e 5 false fun late d =>
    let esw := if late || d.schAxis e ≠ 0 then d.now else d.schTarget e (d.schE e).issued
    d.calApply (bitsOf (d.schArg e 0) 11 0) esw))

/-- R270: the first slot of an input at or after an epoch. -/
def Inp.firstFrom (x : Inp) (e : Nat) : Nat :=
  let n := (ceilQ (((e : Int) * x.den) - x.a) (Nat.max 1 x.st)).toNat
  if n = 0 then 0 else if notEarlier 72 (x.at (n - 1)) e then n - 1 else if notEarlier 72 (x.at n) e then n else n + 1

/-- R270: input `i` has begun its first slot at or after E_sw in each of its UNPACK, DELAY and ROTATE steps. A slot that
starts a block is begun with its task; one inside a block, whose earlier slots still take the old bank, is taken as begun
when the block is done (assumption 150). -/
def Dev.retired (d : Dev) (i : Nat) : Bool :=
  let s := d.source i
  let n := (d.inp i).firstFrom d.calLast
  !s.recipe.any StepCfg.can || ([0, 1, 2].filter fun c => (s.step? c).isSome).all fun c =>
    let r := mget s.steps c
    n < r.begun * 1024 && (n % 1024 == 0 || n < r.done * 1024)

/-- RETIREMENT_END (R270). -/
def execRetirementEnd : State → R :=
  lift fun d =>
    if d.f F.calStat_PSTATE = 2 && d.runningInputs.all d.retired then d.setF F.calStat_PSTATE 0 else d

/-! ### Commands on the banks -/

/-- CANVAS_PREP mode 0. -/
def Dev.canvasInit (d : Dev) : Dev :=
  let d := each [0, 1] (fun b d =>
    d.bankWr 68 b 0 (mkW [(35, 24, 1)] :: List.replicate (bankWords - 1) 0)) d
  (((((d.setF F.calStat_INIT 1).setF F.calStat_ACTIVE 0).setF F.calStat_PSTATE 0).setF F.calStat_ACT_GEN 0).setF
    F.calStat_PEND_GEN 0)

/-- Words of the pending bank noted before a mailbox command writes them (R271). -/
def Dev.noteWrite (n first cnt : Nat) (d : Dev) : Dev :=
  let old := (List.range cnt).map fun k => d.bankRd d.pendBank (first + k)
  d.modTie fun t => { t with writes := (some (n, d.seqOf n), first, old) :: t.writes }

/-- R266, R271: the pending bank takes no write: it retires, or a CAL_APPLY has issued at this edge. -/
def Dev.bankShut (d : Dev) : Bool := d.f F.calStat_PSTATE == 2 || d.tieNow.applied.isSome

/-- CANVAS_PREP mode 1: the active bank's entries copied into the pending bank, which becomes OPEN. -/
def Dev.canvasCopy (d : Dev) : Dev :=
  let ws := (List.range (bankWords - 16)).map fun w => d.bankRd d.actBank (16 + w)
  (d.bankWr 68 d.pendBank 16 ws).setF F.calStat_PSTATE 0

/-- CANVAS_PREP, opcode 0x600. -/
def Dev.canvasPrep (n : Nat) (d : Dev) : Dev :=
  let w := (d.arg n 1).toNat
  if d.cal.isSome then d.reply n stBUSY []
  else if w = 0 && !d.runningInputs.isEmpty then d.reply n stBUSY []
  else if w = 1 && d.bankShut then d.reply n stBUSY []
  else if w > 1 || !d.banksOk then d.reply n stBAD_ARG []
  else (if w = 0 then d.canvasInit else (d.noteWrite n 16 (bankWords - 16)).canvasCopy).reply n stOK []

/-- CANVAS_PREP. -/
def execCanvasPrep (n : Mbx) : State → R := lift (Dev.takeCmd n 0x600 (· == 1) (Dev.canvasPrep n))

/-- A reserved bit of an entry of bank `b` is set (R263). -/
def Dev.entryReserved (d : Dev) (b : Nat) : Bool :=
  (List.range 5120).any fun i => bitsOf (d.entry b i 4) 27 12 != 0 || bitsOf (d.entry b i 5) 35 32 != 0

/-- R266: CAL_PEND_SUM of die `die` from the VALID entries of bank `b`. -/
def Dev.sealSum (b die : Nat) (d : Dev) : Dev :=
  let es := ((List.range 5120).map fun i => d.entry b i 4).filter fun w => bitOf w 35 && bitsOf w 32 32 == die
  let cls := es.map fun w => bitsOf w 34 33
  let ts := es.map fun w => sOf 12 (bitsOf w 11 0)
  let w := mkW [(35, 34, cls.foldl Nat.min 3), (33, 32, cls.foldl Nat.max 0),
    (23, 12, sTo 12 (ts.foldl (fun (a b : Int) => if a ≤ b then a else b) 2047)),
    (11, 0, sTo 12 (ts.foldl (fun (a b : Int) => if a ≤ b then b else a) (-2048)))]
  d.setReg (R.calPendSum die) w

/-- CAL_SEAL, opcode 0x603 (R266, R278). -/
def Dev.calSeal (n : Nat) (d : Dev) : Dev :=
  let b := d.pendBank
  let w := (d.arg n 1).toNat
  if d.f F.calStat_PSTATE = 2 || d.cal.isSome then d.reply n stBUSY [0]
  else if w > 1 then d.reply n stBAD_ARG [mkW [(19, 12, 1)]]
  else
    let sum := d.bankSum b
    if w = 1 && d.bankRd b 3 ≠ sum then
      ((d.modTie id).setF F.calStat_PSTATE 0).reply n stBAD_ARG [mkW [(19, 12, 2)]]
    else if d.entryReserved b then d.reply n stBAD_ARG [mkW [(19, 12, 1)]]
    else
      let gen := (d.f F.calStat_ACT_GEN + 1) % 4096
      let d := d.modTie id
      let d := (d.bankWr 68 b 0 [mkW [(35, 24, 1), (11, 0, gen)]]).bankWr 68 b 3 [sum]
      let d := ((d.setF F.calStat_PEND_GEN gen).setF F.calStat_PSTATE 1)
      ((d.sealSum b 0).sealSum b 1).reply n stOK [toW gen]

/-- CAL_SEAL. -/
def execCalSeal (n : Mbx) : State → R := lift (Dev.takeCmd n 0x603 (· == 1) (Dev.calSeal n))

/-- CANVAS_READ, opcode 0x604: the CP reads the words by non-allocating reads, line by line (R366). -/
def Dev.canvasRead (n : Nat) (d : Dev) : Dev :=
  let w := d.arg n 1
  let first := bitsOf w 15 0
  let cnt := (d.arg n 2).toNat
  if bitsOf w 34 16 ≠ 0 || cnt = 0 || cnt > 254 || first + cnt > bankWords then d.reply n stBAD_ARG []
  else
    let a := d.bankAddr (bitsOf w 35 35) first
    let d := (d.modCoh fun c => { c with mbxRds := mset c.mbxRds n (some ⟨a, cnt, []⟩) }).hold n
    each (List.range ((a + cnt - 1) / 16 + 1 - a / 16)) (fun k d =>
      let lo := Nat.max a ((a / 16 + k) * 16)
      let hi := Nat.min (a + cnt) ((a / 16 + k + 1) * 16)
      d.cohSend (.mbx n) 64 { code := 3, addr := d.fullAddr lo, mask := lineMask (lo % 16) (hi - lo) }) d

/-- Words of a CANVAS_READ, which is answered when all are there. -/
def Dev.canvasGot (n : Nat) (m : CMsg) (ws : List Word) (d : Dev) : Dev :=
  match mget d.coh.mbxRds n with
  | none => d
  | some r =>
    let got := ((maskWords m.mask).zip ws).foldl (fun g (i, w) => mset g (m.lineA + i) (some w)) r.got
    let put := fun (x : Option MbxRd) (d : Dev) => d.modCoh fun c => { c with mbxRds := mset c.mbxRds n x }
    let all := (List.range r.cnt).map fun k => mget got (r.addr + k)
    if all.all Option.isSome then (put none d).finish n stOK (all.map fun w => w.getD 0)
    else put (some { r with got := got }) d

/-- CANVAS_WRITE, opcode 0x605 (R266, R271). -/
def Dev.canvasWrite (n : Nat) (d : Dev) : Dev :=
  let first := (d.arg n 1).toNat
  let ws := (d.mb n).req.drop 2
  let bad := fun (w : Nat) => w != 3 && w < 16
  if d.bankShut then d.reply n stBUSY []
  else if first + ws.length > bankWords || (List.range ws.length).any fun k => bad (first + k) then d.reply n stBAD_ARG []
  else
    (((d.noteWrite n first ws.length).bankWr 64 d.pendBank first ws).setF F.calStat_PSTATE 0).reply n stOK []

/-- CANVAS_WRITE. -/
def execCanvasWrite (n : Mbx) : State → R := lift (Dev.takeCmd n 0x605 (fun l => 2 ≤ l) (Dev.canvasWrite n))

/-! ### The job (R272, R273, R276, R277) -/

/-- Inputs of a job. -/
def CalJob.inputs (j : CalJob) : List Nat := (List.range j.cnt).map (j.first + ·)

/-- Clusters that hold an input of a job. -/
def Dev.jobClusters (d : Dev) (ins : List Nat) : List Nat := (ins.map d.homeOf).eraseDups

/-- The shadow unit of cluster `c` (R272). -/
def Dev.shadowOf (d : Dev) (c : Nat) : Nat := c * 16 + d.f (F.calShadow_LOCAL c)

/-- The unit is fenced. -/
def Dev.fenced (d : Dev) (u : Nat) : Bool := d.fb (F.tskUnit_FENCED u)

/-- CAL_RUN's fields out of range: reason 0x02. -/
def calRange (w : Nat → Word) : Bool :=
  let ref := bitsOf (w 1) 12 0
  let cnt := bitsOf (w 2) 25 13
  let first := bitsOf (w 2) 12 0
  let per := bitsOf (w 5) 35 16
  bitsOf (w 1) 34 13 ≠ 0 || ref > 5119 || bitsOf (w 2) 35 26 ≠ 0 || cnt = 0 || cnt > 5120 || first + cnt > 5120
    || per < 2 || bitsOf (w 5) 15 0 = 0 || 2 * bitsOf (w 6) 35 20 ≥ per || bitsOf (w 6) 19 16 = 0
    || bitsOf (w 6) 15 11 ≠ 0 || bitsOf (w 6) 3 0 = 0 || bitsOf (w 6) 3 0 > 8

/-- The scheduler entry of CAL_OUT pin `k` of a job (R272). -/
def calEntry (k t0 period cycles : Nat) : Nat → Word := nth
  [mkW [(35, 32, 2), (15, 0, cycles)], toW (t0 / 2 ^ 36), toW t0, toW (epOf period 1000000 / 2 ^ 36),
    toW (epOf period 1000000), toW (12 + k), toW (epOf period 2000000), 0]

/-- CAL_RUN, opcode 0x601 (R272, R273). -/
def Dev.calRun (n : Nat) (d : Dev) : Dev :=
  let w := d.arg n
  let ref := bitsOf (w 1) 12 0
  let first := bitsOf (w 2) 12 0
  let cnt := bitsOf (w 2) 25 13
  let ins := (List.range cnt).map (first + ·)
  let shq := bitsOf (w 6) 10 4
  let mask := bitsOf (w 6) 19 16
  let t0 := (w 3).toNat * 2 ^ 36 + (w 4).toNat
  let clus := d.jobClusters ins
  let no := fun (st reason : Nat) => d.reply n st [toW reason, toW cnt]
  let ready := fun i => d.inputRuns i && ((d.source i).step? 0).isSome
  if d.cal.isSome || d.bankShut then no stBUSY 0
  else if calRange w then no stBAD_ARG 2
  else if !d.fb F.calStat_INIT then no stBAD_ARG 4
  else if !(ref :: ins).all ready then no stBAD_ARG 1
  else if !clus.all fun c => d.fb (F.cluQcfg_EN c shq) && d.qPkt c shq then no stBAD_ARG 3
  else if !notEarlier 72 t0 d.now then no stPAST 0
  else if (clus.any fun c => d.fenced (d.shadowOf c))
      || (List.range 4096).countP (fun e => !(d.schE e).live) < popcount 4 mask then no stNO_RESOURCE 0
  else
    let d := if bitOf (w 1) 35 then d.canvasCopy else d.setF F.calStat_PSTATE 0
    let (ents, d) := ((List.range 4).filter fun k => nbit mask k).foldl (fun (a : List (Nat × Nat) × Dev) k =>
      match a.2.schFreeIdx with
      | none => a
      | some e =>
        let d := a.2.schCommit e (calEntry k t0 (bitsOf (w 5) 35 16) (bitsOf (w 5) 15 0)) false
        (a.1 ++ [(e, d.schGen e)], d)) ([], d)
    let job : CalJob := {
      ref := ref, first := first, cnt := cnt, t0 := t0, period := bitsOf (w 5) 35 16, guard := bitsOf (w 6) 35 20
      cycles := bitsOf (w 5) 15 0, shq := shq, lags := bitsOf (w 6) 3 0, mbx := n, seq := d.seqOf n
      ents := ents, refs := [], pairs := [], lost := [] }
    (({ d with cal := some job }).setF F.calStat_JOB 1).reply n stOK [0, toW cnt]

/-- CAL_RUN. -/
def execCalRun (n : Mbx) : State → R := lift (Dev.takeCmd n 0x601 (· == 6) (Dev.calRun n))

/-- The job's completion, event 0x600, naming the mailbox and sequence. -/
def Dev.calDone (j : CalJob) (st good bad : Nat) (d : Dev) : Dev :=
  (({ d with cal := none }).setF F.calStat_JOB 0).event 0x600 (j.mbx * 256 + j.seq)
    (mkW [(35, 28, st), (25, 13, good), (12, 0, bad)])

/-- CAL_ABORT, opcode 0x602 (R277): it wins against a completion of its own cycle. -/
def Dev.calAbort (n : Nat) (d : Dev) : Dev :=
  match d.cal with
  | none => match d.tieNow.done with
    | some (m, seq, det, jobs) =>
      (((d.amendEvent 0x600 (m * 256 + seq) det (mkW [(35, 28, stCANCELLED)])).setF F.calCnt_JOBS jobs).modTie
        fun t => { t with done := none }).reply n stOK []
    | none => d.reply n stBAD_ARG []
  | some j =>
    let d := each j.ents (fun (e, g) d => if (d.schE e).live && d.schGen e == g then d.schCancel e else d) d
    (d.reply n stOK []).calDone j stCANCELLED 0 0

/-- CAL_ABORT. -/
def execCalAbort (n : Mbx) : State → R := lift (Dev.takeCmd n 0x602 (· == 0) (Dev.calAbort n))

/-- R273: the packet of a block: HEAD with the input and the block number, 1,024 words, TAIL. -/
def CalBlk.packet (b : CalBlk) : List Word :=
  tagged 3 (b.inp * 4096 + b.g % 4096) :: b.xs.map (fun x => tagged x.tag (Config.shqPayload x.w)) ++ [tagged 4 0]

/-- The shadow unit takes a word out of SHQ: none when none may be popped. -/
def Dev.shadowPop (c q : Nat) (d : Dev) : Option Word × Dev :=
  let (w, _, d) := d.qPop c q
  (if tagOf w = 1 then none else some w, d)

/-- Words pushed into SHQ, the shadow unit keeping pace: the words that it takes, in order (assumption 88). -/
def Dev.shadowPush (c q : Nat) (d : Dev) (ws : List Word) : List Word × Dev :=
  let (got, d) := ws.foldl (fun (a : List Word × Dev) w =>
    let (x, d) := (a.2.qPush c q 0 w none).shadowPop c q
    (x.toList ++ a.1, d)) ([], d)
  let (got, d) := forN (d.qu c q).ents.length (fun _ (a : List Word × Dev) =>
    let (x, d) := a.2.shadowPop c q
    (x.toList ++ a.1, d)) (got, d)
  (got.reverse, d)

/-- The slots of a block as its packet brings them: a word that failed parity is POISON (R102); none where the packet does
not arrive whole. -/
def CalBlk.taken (b : CalBlk) (got : List Word) : Option (List Item) :=
  let p := b.packet
  let ws := got.drop (got.length - p.length)
  if ws.length = p.length && (p.zip ws).all (fun (x, y) => x == y || (slotTag (tagOf x) && tagOf y == 2)) then
    some ((b.xs.zip (ws.drop 1)).map fun (x, w) => if tagOf w = 2 then { x with tag := 2 } else x)
  else none

/-- R273: block `b` goes to the shadow unit of cluster `c` through SHQ, as a reference block or paired with one it keeps. -/
def Dev.shadowBlk (c : Nat) (b : CalBlk) (d : Dev) : Dev :=
  match d.cal with
  | none => d
  | some j =>
    let (got, d) := d.shadowPush c j.shq b.packet
    match b.taken got with
    | none => { d with cal := some { j with lost := if j.lost.contains (c, b.inp) then j.lost else j.lost ++ [(c, b.inp)] } }
    | some xs =>
      let b := { b with xs := xs }
      let j := if b.inp = j.ref then { j with refs := mmod j.refs c fun l => l ++ [b] } else j
      let kept := let l := mget j.refs c; l.drop (l.length - 2)
      let j := if j.inputs.contains b.inp && d.homeOf b.inp = c then
          match kept.find? fun r => r.ep == b.ep with
          | some r => { j with pairs := j.pairs ++ [(b, r)] }
          | none => j
        else j
      { d with cal := some j }

/-- R273: an UNPACK task of input `i` writes the x values of its block to the shadow units concerned. -/
def Dev.calFeed (i g n0 : Nat) (xs : List Item) (d : Dev) : Dev :=
  match d.cal with
  | none => d
  | some j =>
    if i ≠ j.ref && !j.inputs.contains i then d
    else
      let b : CalBlk := ⟨i, g, n0, (d.inp i).at n0, xs⟩
      let dests := (if i = j.ref then d.jobClusters j.inputs else []) ++ (if j.inputs.contains i then [d.homeOf i] else [])
      each dests.eraseDups (fun c d => d.shadowBlk c b) d

/-! ### The solve (R274, R275) -/

/-- R272: the window that slot `n` of an input lies in: true S_on, false S_off. -/
def CalJob.window (j : CalJob) (x : Inp) (n : Nat) : Option Bool :=
  let y : Int := (x.num n - (j.t0 : Int) * x.den) * 2000000
  let u : Nat := 2 ^ 36 * x.den
  if y < 0 then none
  else
    let y := y.toNat
    if y / (2 * j.period * u) ≥ j.cycles then none
    else
      let r := y % (2 * j.period * u)
      if r < j.period * u then (if 2 * j.guard * u ≤ r then some true else none)
      else if (j.period + 2 * j.guard) * u ≤ r then some false else none

/-- A pair of slots in a window, both DATA: S_on, x of the input and of the reference. -/
structure CalPair where
  on : Bool
  x : Cpx
  r : Cpx
deriving DecidableEq, Repr, Inhabited

/-- The pairs of input `i` with the reference `l` slots before (R274). -/
def CalJob.pairsAt (j : CalJob) (x : Inp) (refs : List CalBlk) (i : Nat) (l : Int) : List CalPair :=
  (j.pairs.filter fun p => p.1.inp == i).flatMap fun (b, r) =>
    b.xs.zipIdx.filterMap fun (v, k) =>
      let m : Int := (r.n0 : Int) + k - l
      let rb := refs.find? fun (q : CalBlk) => (q.n0 : Int) ≤ m && m < (q.n0 : Int) + q.xs.length
      match j.window x (b.n0 + k), rb.bind fun q => q.xs[(m - q.n0).toNat]? with
      | some on, some w => if v.tag = 0 && w.tag = 0 then some ⟨on, (v.i, v.q), (w.i, w.q)⟩ else none
      | _, _ => none

/-- Complex arithmetic on integers. -/
def cadd (a b : Cpx) : Cpx := (a.1 + b.1, a.2 + b.2)
def cmul (a b : Cpx) : Cpx := (a.1 * b.1 - a.2 * b.2, a.1 * b.2 + a.2 * b.1)
def conj (a : Cpx) : Cpx := (a.1, -a.2)
def cscale (k : Int) (a : Cpx) : Cpx := (k * a.1, k * a.2)
def csum (l : List Cpx) : Cpx := l.foldl cadd (0, 0)
def cabs2 (a : Cpx) : Int := a.1 * a.1 + a.2 * a.2

/-- Pinj of R274 as numerator and denominator, from the values in S_on and in S_off, both not empty. -/
def pinj (on off : List Cpx) : Int × Nat :=
  let n1 := on.length
  let n0 := off.length
  let a := csum off
  let e := fun (l : List Cpx) => l.foldl (fun s v => s + cabs2 v) (0 : Int)
  (e on * n0 * n0 - e off * n0 * n1 - 2 * (cmul (conj a) (csum on)).1 * n0 + 2 * cabs2 a * n1, n1 * n0 * n0)

/-- Sum over pairs of (x - A/N) conj(r - B/N), times N². -/
def crossSum (ps : List CalPair) (a b : Cpx) (n : Nat) : Cpx :=
  let c := csum (ps.map fun p => cmul p.x (conj p.r))
  let s := csum (ps.map (·.x))
  let r := csum (ps.map fun p => conj p.r)
  cadd (cadd (cscale (n * n : Nat) c) (cscale (-(n : Int)) (cmul s (conj b))))
    (cadd (cscale (-(n : Int)) (cmul a r)) (cscale ps.length (cmul a (conj b))))

/-- X_i of R274 at one lag as a complex numerator and a denominator. -/
def crossX (ps : List CalPair) (a b : Cpx) (n : Nat) : Cpx × Nat :=
  let on := ps.filter (·.on)
  let off := ps.filter fun p => !p.on
  let n1 := Nat.max 1 on.length
  let n0 := Nat.max 1 off.length
  (cadd (cscale n0 (crossSum on a b n)) (cscale (-(n1 : Int)) (crossSum off a b n)), n1 * n0 * n * n)

/-- The square root of `v`, rounded down. -/
def isqrtStep (v : Nat) : Nat → Nat → Nat
  | 0, r => r
  | k + 1, r =>
    let t := r + 2 ^ k
    isqrtStep v k (if t * t ≤ v then t else r)
def isqrt (v : Nat) : Nat := isqrtStep v (Nat.log2 v / 2 + 1) 0

/-- The sign of p + q + r, each the square root of a number's magnitude with that number's sign. -/
def rootSgn (p q r : Int) : Int :=
  let t := (p + q).sign
  if t = 0 then r.sign
  else if 0 ≤ t * r then t
  else
    let k : Int := (p.natAbs : Int) + q.natAbs - r.natAbs
    t * (k * k.natAbs + 4 * p * q).sign

/-- `k` times the square root of `n`, as such a number. -/
def rootOf (k : Int) (n : Nat) : Int := k * k.natAbs * n

/-- The sign of `ka` |A| + `kb` |B| + `kc` |C|, exactly. -/
def absSgn (a b c : Cpx × Nat) (ka kb kc : Int) : Int :=
  rootSgn (rootOf (ka * (b.2 * c.2 : Nat)) (cabs2 a.1).toNat) (rootOf (kb * (a.2 * c.2 : Nat)) (cabs2 b.1).toNat)
    (rootOf (kc * (a.2 * b.2 : Nat)) (cabs2 c.1).toNat)

/-- The greatest integer of `k` bits above `r` that a number is not below. -/
def floorStep (ge : Int → Bool) : Nat → Int → Int
  | 0, r => r
  | k + 1, r => floorStep ge k (if ge (r + 2 ^ k) then r + 2 ^ k else r)

/-- A number rounded half to even and saturated to s35; `sg h` is the sign of the number less half of `h`. -/
def roundS36 (sg : Int → Int) : Int :=
  let r := floorStep (fun k => decide (0 ≤ sg (2 * k))) 36 (-(2 ^ 35))
  let up := sg (2 * r + 1)
  (satS 36 (if up > 0 || (up = 0 && r % 2 ≠ 0) then r + 1 else r)).1

/-- R274: CAL_DELAY, rounded once: the lag plus (a - c) / (2 (a - 2b + c)), times the slot period, plus `e` / `de`, with
a - 2b + c negative. -/
def delaySolve (x : Inp) (lag : Int) (a b c : Cpx × Nat) (e : Int) (de : Nat) : Int :=
  roundS36 fun h =>
    -- The number is not below h/2 where (a - c) st/den is not above 2 (a - 2b + c) times h/2 - e/de - lag st/den.
    let dx := Nat.max 1 x.den
    let qd : Int := 2 * de * dx
    let qn : Int := h * de * dx - 2 * e * dx - 2 * lag * x.st * de
    absSgn a b c (2 * dx * qn - x.st * qd) (-4 * dx * qn) (2 * dx * qn + x.st * qd)

/-- g x sqrt(num / den) rounded half to even, exactly; num and den positive. -/
def scaleSqrt (g : Int) (num den : Nat) : Int :=
  let v := g.natAbs * g.natAbs * num
  let k := isqrt (v / den)
  let h := (2 * k + 1) * (2 * k + 1) * den
  let r := if 4 * v < h then k else if 4 * v > h then k + 1 else if k % 2 = 0 then k else k + 1
  if g < 0 then -(r : Int) else r

/-- Cosine and sine, in units of 2^-160, of m / 2^38 of a turn, m at most 2^36 (a quarter turn). -/
def cosTurn (m : Nat) : Int :=
  let x : Int := (2 * piFix * m / 2 ^ 38 : Nat)
  trigSeries (x * x / 2 ^ 160) 60 0 (2 ^ 160)
def sinTurn (m : Nat) : Int :=
  let x : Int := (2 * piFix * m / 2 ^ 38 : Nat)
  trigSeries (x * x / 2 ^ 160) 60 1 x

/-- The greatest m with m / 2^38 of a turn not above the angle of (x, y), both not negative. -/
def angleStep (x y : Int) : Nat → Nat → Nat
  | 0, r => r
  | k + 1, r =>
    let t := r + 2 ^ k
    angleStep x y k (if x * sinTurn t ≤ y * cosTurn t then t else r)

/-- arg(z) / 2π x 2^36, rounded to the nearest, in 0 to 2^36 - 1; 0 for zero. -/
def argTurn (z : Cpx) : Nat :=
  let q := fun (x y : Int) => (angleStep x y 36 0 + 2) / 4
  let quarter := 2 ^ 34
  (if z.1 > 0 && z.2 ≥ 0 then q z.1 z.2
    else if z.1 ≤ 0 && z.2 > 0 then quarter + q z.2 (-z.1)
    else if z.1 < 0 && z.2 ≤ 0 then 2 * quarter + q (-z.1) (-z.2)
    else if z.2 < 0 then 3 * quarter + q (-z.2) z.1 else 0) % 2 ^ 36

/-- m of R274 as c18. -/
def meanC18 (off : List Cpx) : Word :=
  let s := csum off
  let n := Nat.max 1 off.length
  c18 (satS 18 (roundHe s.1 n)).1 (satS 18 (roundHe s.2 n)).1

/-- The outcome of a solve: the failures that hold, and E0-E3. -/
structure CalSol where
  fails : List Nat
  ws : List Word
deriving DecidableEq, Repr, Inhabited

/-- R274, R275: input `i` solved. -/
def Dev.solve (j : CalJob) (i : Nat) (d : Dev) : CalSol :=
  let x := d.inp i
  let xr := d.inp j.ref
  let refs := mget j.refs (d.homeOf i)
  let ps := j.pairsAt x refs i 0
  let on := ps.filter (·.on)
  let off := ps.filter fun p => !p.on
  let cr := d.entryOr d.actBank j.ref
  let few := on.length < 1024 || off.length < 1024
  let lost := j.lost.contains (d.homeOf i, i) || j.lost.contains (d.homeOf i, j.ref)
  let base := (if few then [1] else []) ++ (if lost then [2] else [])
    ++ (if j.pairs.any fun p => p.1.inp == i then [] else [5])
  let offW := meanC18 (off.map (·.x))
  if i = j.ref then ⟨base, [offW, toW (sTo 36 cr.gain), toW (sTo 36 cr.delay), toW cr.phase]⟩
  else if on.isEmpty || off.isEmpty then ⟨base, []⟩
  else
    let n := off.length
    let a := csum (off.map (·.x))
    let b := csum (off.map (·.r))
    let pi := pinj (on.map (·.x)) (off.map (·.x))
    let pr := pinj (on.map (·.r)) (off.map (·.r))
    let lags : List Int := (List.range (2 * j.lags + 1)).map fun k => (k : Int) - j.lags
    let xs := lags.map fun l => (l, crossX (j.pairsAt x refs i l) a b n)
    let best := xs.foldl (fun (m : Int × (Cpx × Nat)) v =>
      if cabs2 v.2.1 * (m.2.2 * m.2.2 : Nat) > cabs2 m.2.1 * (v.2.2 * v.2.2 : Nat) then v else m) (xs.headD (0, (0, 0), 1))
    let at' := fun (l : Int) => ((xs.find? fun v => v.1 == l).map (·.2)).getD ((0, 0), 1)
    let edge := best.1.natAbs = j.lags
    let (xa, xb, xc) := (at' (best.1 - 1), at' best.1, at' (best.1 + 1))
    let f3 := pi.1 ≤ 0 || pr.1 ≤ 0 || (!decide edge && absSgn xa xb xc 1 (-2) 1 ≥ 0)
    let gain := if pi.1 ≤ 0 || pr.1 ≤ 0 then 0 else scaleSqrt cr.gain (pr.1.toNat * pi.2) (pi.1.toNat * pr.2)
    let f4 := gain ≥ 2 ^ 35 - 1 || gain ≤ -(2 ^ 35)
    let fails := base ++ (if f3 then [3] else []) ++ (if f4 then [4] else []) ++ (if edge then [6] else [])
    if !fails.isEmpty then ⟨fails, []⟩
    else
      let dxi := Nat.max 1 x.den
      let dxr := Nat.max 1 xr.den
      let delay := delaySolve x best.1 xa xb xc (cr.delay * dxi * dxr - x.res * dxr + xr.res * dxi) (dxi * dxr)
      ⟨[], [offW, toW (sTo 36 gain), toW (sTo 36 delay), toW (cr.phase + argTurn best.2.1)]⟩

/-- R275: the entry of input `i` after its solve; where several failures hold, RESULT is one of them (a free value). -/
def Dev.solveInput (j : CalJob) (eEnd : Nat) (i : Nat) (a : (Nat × Nat) × Dev) : (Nat × Nat) × Dev :=
  let ((good, bad), d) := a
  let s := d.solve j i
  let b := d.pendBank
  let w4 := d.entry b i 4
  match s.fails with
  | [] =>
    let die := d.homeOf i / 32
    let w4 := mkW [(35, 35, 1), (34, 33, d.loadClass), (32, 32, die), (11, 0, sTo 12 (d.dieTemp die))]
    let cnt := satAdd 0xFFFFFFFF (bitsOf (d.entry b i 5) 31 0) 1
    ((good + 1, bad), d.bankWr (d.homeOf i) b (16 + i * 8) (s.ws ++ [w4, toW cnt] ++ epWords eEnd))
  | f :: fs =>
    let (v, d) := if fs.isEmpty then (0, d) else d.fresh
    let r := (f :: fs).getD (v % (fs.length + 1)) f
    ((good, bad + 1), d.bankWr (d.homeOf i) b (16 + i * 8 + 4) [putBits w4 31 28 r])

/-- The end of the last window of a job. -/
def CalJob.endEp (j : CalJob) : Nat := (j.t0 + epOf (j.cycles * j.period) 1000000) % 2 ^ 72

/-- CAL_SOLVE (R274 to R276). -/
def Dev.calSolve (d : Dev) : Dev :=
  match d.cal with
  | none => d
  | some j =>
    if !notEarlier 72 d.now j.endEp then d
    else
      let ((good, bad), d) := j.inputs.foldl (fun a i => Dev.solveInput j j.endEp i a) ((0, 0), d)
      let d := d.modTie fun t => { t with
        done := some (j.mbx, j.seq, mkW [(35, 28, stOK), (25, 13, good), (12, 0, bad)], d.f F.calCnt_JOBS) }
      (d.inc F.calCnt_JOBS 1).calDone j stOK good bad

/-- CAL_SOLVE. -/
def execCalSolve : State → R := lift Dev.calSolve

end Sys2Proof.Machine
end

