-- ==== Sys2Proof/Machine/Load.lean ====
section
/-! DEFINITION. Sources of tasks, the members of a beam by table bank, and the load of a region (R177, R178, R195, R205,
R207, R232 to R234). -/

namespace Sys2Proof.Machine

/-! ### Sources (R177, R207) -/

/-- The key of a source of tasks. -/
def srcKey (s : Src) : Nat := if s.beam then 0x10000 + s.index.val else s.index.val

/-- A beam. -/
def Dev.beam (d : Dev) (b : Nat) : Beam := mget d.tsk.beams b

/-- A beam changed. -/
def Dev.modBeam (b : Nat) (f : Beam → Beam) (d : Dev) : Dev :=
  { d with tsk := { d.tsk with beams := mmod d.tsk.beams b f } }

/-- BEAM_SET has defined the beam here. -/
def Beam.set (b : Beam) : Bool := b.nContrib != 0

/-- R207: the home cluster of a source; of a beam, the collecting cluster. -/
def Dev.srcHome (d : Dev) (k : Nat) : Nat := if k < 0x10000 then d.homeOf k else (d.beam (k - 0x10000)).clu

/-- The state of a step of a source. -/
def Dev.stepRun (d : Dev) (k code : Nat) : StepRun := mget (d.source k).steps code

/-- That state changed. -/
def Dev.modRun (k code : Nat) (f : StepRun → StepRun) (d : Dev) : Dev :=
  d.modSource k fun s => { s with steps := mmod s.steps code f }

/-- The recipe in force at the next slot 0. -/
def Source.coming (s : Source) : List StepCfg := s.next.getD s.recipe

/-- The recipe in force, before a first slot 0 the one to come. -/
def Source.inForce (s : Source) : List StepCfg := if s.recipe.isEmpty then s.coming else s.recipe

/-- The step before `code` in a recipe. -/
def prevStep (code : Nat) : List StepCfg → Option StepCfg
  | a :: b :: r => if b.code = code then some a else prevStep code (b :: r)
  | _ => none

/-- The step after `code` in a recipe. -/
def nextStep (code : Nat) : List StepCfg → Option StepCfg
  | a :: b :: r => if a.code = code then some b else nextStep code (b :: r)
  | _ => none

/-- K of a recipe's FILTER, else 1. -/
def filterK (r : List StepCfg) : Nat :=
  match r.find? (·.code == 3) with
  | some s => 2 ^ bitsOf s.sw0 3 0
  | none => 1

/-- NINT of a recipe's DETECT, else 1. -/
def detectN (r : List StepCfg) : Nat :=
  match r.find? (·.code == 5) with
  | some s => bitsOf s.sw0 15 0 + 1
  | none => 1

/-! ### Table banks and members (R195, R205) -/

/-- The table bank in force at output slot `j`. -/
def StepRun.bank (r : StepRun) (j : Nat) : Bool := r.switches.countP (· ≤ j) % 2 == 1

/-- Banks in force over output slots `j` to `j + n - 1`. -/
def StepRun.banks (r : StepRun) (j n : Nat) : List Bool :=
  [false, true].filter fun b => r.bank j == b || r.bank (j + n - 1) == b || r.switches.any fun s => j ≤ s && s < j + n

/-- A word of a region store as a non-allocating read shows it (R366): at its home here, or in the cache of this package
that owns its line; none where the home or the owner is in another package. -/
def Dev.rsPeek (d : Dev) (addr : Nat) : Option Word :=
  match d.target addr with
  | .here a =>
    let e := d.dirE (a / 16)
    if e.st ≠ 2 then some (d.rd a)
    else if d.ownAgent e.owner then
      some (((findLine (d.cacheOf (e.owner % 128)) (d.fullAddr a / 16)).map fun x => nth x.ws (a % 16)).getD (d.rd a))
    else none
  | _ => none

/-- The members in the words of a table. -/
def membersOf : List Word → List (Nat × Nat)
  | m0 :: _ :: ws => (bitsOf m0 20 8, bitsOf m0 7 0) :: membersOf ws
  | _ => []

/-- The local members that the table of a bank names: as it stands here, and, of a table in another package, as it was last
read, by BEAM_SET or the switch to it (assumption 112). -/
def Dev.bankMembers (d : Dev) (x : Beam) (hi : Bool) : List (Nat × Nat) :=
  let ws := (List.range (2 * x.count)).map fun i => d.rsPeek ((if hi then x.tab1 else x.tab0) + i)
  if ws.all Option.isSome then membersOf (ws.filterMap id) else if hi then x.members1 else x.members

/-- The local members of a beam in block `g`: of every bank in force over its slots (R205). -/
def Dev.blockMembers (d : Dev) (b g : Nat) : List (Nat × Nat) :=
  (((d.stepRun (0x10000 + b) 4).banks (g * 1024) 1024).flatMap (d.bankMembers (d.beam b))).eraseDups

/-- The local members that either bank names. -/
def Dev.allMembers (d : Dev) (b : Nat) : List (Nat × Nat) :=
  ([false, true].flatMap (d.bankMembers (d.beam b))).eraseDups

/-- The first block of a beam that no contributing cluster here has made ready. -/
def Dev.beamNext (d : Dev) (b : Nat) : Nat := ((d.beam b).parts.map (·.2.ready)).foldl Nat.max 0

/-- The local members of a beam in the block to come. -/
def Dev.membersNow (d : Dev) (b : Nat) : List (Nat × Nat) := d.blockMembers b (d.beamNext b)

/-- The epoch of beam slot `n`: that of a local member's slot, else one that this package cannot know (assumption 35). -/
def Dev.beamAt (d : Dev) (b n : Nat) : Nat :=
  match d.bankMembers (d.beam b) ((d.stepRun (0x10000 + b) 4).bank n) with
  | (i, _) :: _ => (d.inp i).at (n * filterK (d.source i).inForce)
  | [] => Config.beamEpoch b n % 2 ^ 72

/-- The epoch of the first slot of block `g` of a source. -/
def Dev.blockAt (d : Dev) (k g : Nat) : Nat :=
  if k < 0x10000 then (d.inp k).at (g * 1024) else d.beamAt (k - 0x10000) (g * 1024)

/-- The epoch of output slot `j` of a step of a source (R178). -/
def Dev.stepAt (d : Dev) (k code j : Nat) : Nat :=
  let r := (d.source k).inForce
  let m := if 5 ≤ code then j * detectN r else j
  if k < 0x10000 then (d.inp k).at (if 3 ≤ code then m * filterK r else m) else d.beamAt (k - 0x10000) m

/-! ### Load (R232 to R234) -/

/-- The fs, in mHz, of an input: of the first link whose range holds it, or of RATE. -/
def Dev.inputRate (d : Dev) (i : Nat) : Nat :=
  if i < 4096 then
    let holds := fun l => (d.linkCfg l).inputs.contains i && (d.linkCfg l).np != 0 && (d.linkCfg l).l != 0
    match firstN 16 holds with
    | some l => d.f (F.felRate_FS l) * 1000
    | none => 0
  else d.f (F.ingFchRate_RATE (i - 4096))

/-- The slot rate of a beam, in mHz / 256: that of a local member, else one that this package cannot know (assumption
35). -/
def Dev.beamRate (d : Dev) (b : Nat) : Nat :=
  match d.membersNow b with
  | (i, _) :: _ => d.inputRate i * 256 / filterK (d.source i).coming
  | [] => Config.beamRate b

/-- LOCAL of a cost entry. -/
def Dev.localCost (d : Dev) (e : Nat) : Nat := d.f (F.tskCost_LOCAL e)

/-- R232: the load of region `r` before its division, in CCLK x mHz / 256. -/
def Dev.loadNum (d : Dev) (r : Nat) : Nat :=
  let src := (d.tsk.src.map (·.1)).foldl (fun a k =>
    if d.srcHome k / 8 ≠ r then a
    else
      let steps := (d.source k).coming.filter (·.code != 4)
      let rate := if k < 0x10000 then d.inputRate k * 256 else d.beamRate (k - 0x10000)
      a + rate * (steps.map fun s => d.localCost s.cost).sum) 0
  (d.tsk.beams.map (·.1)).foldl (fun a b =>
    let x := d.beam b
    let parts := (((d.membersNow b).map fun m => d.homeOf m.1).eraseDups).countP fun c => c / 8 == r
    let col := bit (x.collect && x.clu / 8 == r)
    a + d.beamRate b * d.localCost x.cost * (parts + col)) src

/-- N_r (R232). -/
def Dev.regionUnits (d : Dev) (r : Nat) : Nat :=
  ((List.range 128).map (r * 128 + ·)).countP fun u => !d.fenced u && u != d.shadowOf (u / 16)

/-- load_r as a fraction of 1,000: numerator and denominator. -/
def Dev.loadFrac (d : Dev) (r : Nat) : Nat × Nat := (d.loadNum r, 256 * 1024 * 1600000000 * d.regionUnits r)

/-- load_r exceeds ADM_LIMIT. -/
def Dev.overLimit (d : Dev) (r : Nat) : Bool :=
  let (n, m) := d.loadFrac r
  decide (n > d.f F.tskCfg_ADM_LIMIT * m)

/-- load_r in per mille as LOAD carries it. -/
def Dev.permille (d : Dev) (r : Nat) : Nat :=
  let (n, m) := d.loadFrac r
  if m = 0 then (if n = 0 then 0 else 1023) else Nat.min 1023 (n / m)

/-- R234: LOAD.OVER, which ends with the load back within the limit. -/
def Dev.over (d : Dev) (r : Nat) : Bool := d.fb (F.tskRgnLoad_OVER r) && d.overLimit r

/-- LOAD as a read shows it: PERMILLE, N_r and OVER of this moment (R233, R234). -/
def Dev.loadWord (d : Dev) (r : Nat) (w : Word) : Word :=
  putBits (putBits (putBits w 9 0 (d.permille r)) 16 10 (d.regionUnits r)) 34 34 (bit (d.over r))

/-- LOAD kept current (R233): OVER ends with the load back within the limit. -/
def Dev.loadUpdate (r : Nat) (d : Dev) : Dev :=
  let d := (d.setF (F.tskRgnLoad_PERMILLE r) (d.permille r)).setF (F.tskRgnLoad_N_AVAIL r) (d.regionUnits r)
  if d.overLimit r then d else d.setF (F.tskRgnLoad_OVER r) 0

end Sys2Proof.Machine
end

