-- ==== Sys2Proof/Machine/Twill.lean ====
section
/-! DEFINITION. Twill arbitration of the cluster stores, region stores and HBM channels, and its two commands for every kind
(R381 to R390, R393). A decision of those kinds takes the requests that its command names; the cluster and region stores decide
in every cycle, so that one which no command names has no new request (assumption 13). -/

namespace Sys2Proof.Machine

/-! ### Instances (R381, R382) -/

/-- The kind and instance, and kind x 64 + instance as events give it. -/
def twlKind : TwlAt → Nat
  | .clu _ => 0
  | .rgn _ => 1
  | .hbm _ => 2
  | .fiu _ => 3
def twlInstance : TwlAt → Nat
  | .clu c => c
  | .rgn r => 64 + r
  | .hbm h => 128 + h
  | .fiu p => 192 + p

/-- Requester codes of a kind (R382). -/
def twlCodes (kind : Nat) : Nat := if kind = 0 then 21 else if kind = 1 then 10 else if kind = 2 then 8 else 17

/-- A field of the sub-block of an instance. -/
def twlF (inst o hi lo : Nat) : Fld :=
  let i := inst % 64
  ⟨(match inst / 64 with
    | 0 => R.cluTwlSlot i 0
    | 1 => R.rgnTwlSlot i 0
    | 2 => R.hbmTwlSlot i 0
    | _ => R.fiuTwlSlot i 0) + o, hi, lo⟩

/-- The instance of kinds 0 to 2. -/
def Dev.twlOf (d : Dev) (inst : Nat) : Twl := mget d.twl inst

/-- It changed. -/
def Dev.modTwl (inst : Nat) (f : Twl → Twl) (d : Dev) : Dev := { d with twl := mmod d.twl inst f }

/-- Ports of a decision in a direction, and slots read (R381). -/
def twlPorts (kind dir : Nat) : Nat := if kind = 0 then 4 else if dir = 1 then 0 else if kind = 1 then 2 else 1
def twlWalk (kind : Nat) : Nat := if kind = 0 then 8 else if kind = 1 then 2 else 1

/-! ### One decision (R383, R386) -/

/-- A decision under way: its grants in order, those of step 1, and the requests left. -/
structure TwlRun where
  got : List TwlReq
  aged : List TwlReq
  rest : List TwlReq

/-- R383: a request fits a free port: on a cluster store its bank has the role of its direction in the cycle, and no grant has
taken its queue in that direction; its requester has no grant of the port kind. -/
def TwlRun.fits (kind cycle : Nat) (x : TwlRun) (r : TwlReq) : Bool :=
  x.got.countP (fun g => g.dir == r.dir) < twlPorts kind r.dir
    && !x.got.any (fun g => g.dir == r.dir && (g.code == r.code || (kind == 0 && g.queue == r.queue)))
    && (kind != 0 || r.bank == (cycle + r.dir) % 2)

/-- A request granted when it fits. -/
def TwlRun.grant (kind cycle : Nat) (aged : Bool) (x : TwlRun) (r : TwlReq) : TwlRun :=
  if x.fits kind cycle r then
    { got := x.got ++ [r], aged := if aged then x.aged ++ [r] else x.aged, rest := x.rest.erase r }
  else x

/-- The largest wait first, then the lower code, then the older request. -/
def twlInsert (r : TwlReq) : List TwlReq → List TwlReq
  | [] => [r]
  | q :: qs => if q.waited > r.waited || (q.waited = r.waited && q.code ≤ r.code) then q :: twlInsert r qs else r :: q :: qs
def twlSort (rs : List TwlReq) : List TwlReq := rs.foldl (fun a r => twlInsert r a) []

/-- R386: a decision among requests, the older of each requester first; `slots` are the owners that the walk reads. -/
def twlDecide (kind cycle maxWait : Nat) (slots : List (Option Nat)) (rs : List TwlReq) : TwlRun :=
  let x : TwlRun := ⟨[], [], rs⟩
  let x := if maxWait = 0 then x
    else (twlSort (rs.filter fun r => maxWait ≤ r.waited)).foldl (TwlRun.grant kind cycle true) x
  let x := slots.foldl (fun x s => match s.bind fun c => x.rest.find? fun r => r.code == c && x.fits kind cycle r with
    | some r => x.grant kind cycle false r
    | none => x) x
  (twlSort x.rest).foldl (TwlRun.grant kind cycle false) x

/-! ### The table and PTR (R387, R390) -/

/-- LEN in force. -/
def Dev.twlLen (d : Dev) (inst : Nat) : Nat := ((d.twlOf inst).lenOld.getD (d.f (twlF inst 0x100 35 28))) + 1

/-- The owner of a slot; none of a background slot. -/
def Dev.twlOwner (d : Dev) (inst s : Nat) : Option Nat :=
  if d.fb (twlF inst s 5 5) then none else some (d.f (twlF inst s 4 0))

/-- R387: slots read at a decision: one that names a code which the kind lacks sets BAD_SLOT. -/
def Dev.twlRead (inst : Nat) (ss : List Nat) (d : Dev) : Dev :=
  if ss.any fun s => (d.twlOwner inst s).any fun c => decide (twlCodes (inst / 64) ≤ c) then d.setF (twlF inst 0x101 27 27) 1
  else d

/-- The slots that a decision reads. -/
def Dev.twlSlots (d : Dev) (inst : Nat) : List Nat :=
  (List.range (twlWalk (inst / 64))).map fun i => (d.f (twlF inst 0x101 35 28) + i) % d.twlLen inst

/-- PTR moved on; a waiting LEN takes effect where PTR would be 0. -/
def Dev.twlStep (inst : Nat) (d : Dev) : Dev :=
  let ptr := (d.f (twlF inst 0x101 35 28) + twlWalk (inst / 64)) % d.twlLen inst
  (if ptr = 0 then d.modTwl inst fun x => { x with lenOld := none } else d).setF (twlF inst 0x101 35 28) ptr

/-- The queue index of the first request of a list's requester that is this one. -/
def twlIndex (pend : List TwlReq) (r : TwlReq) : Option Nat := (pend.filter fun q => q.code == r.code).findIdx? (· == r)

/-- R384, R386, R393: a decision of an instance with new requests and withdrawals. A requester with four pending presents none;
a request withdrawn in the cycle of its grant is a withdrawal after grant. -/
def Dev.twlDecision (inst : Nat) (asked : List TwlReq) (gone : List (Nat × Nat)) (d : Dev) : Dev :=
  let kind := inst / 64
  let pend := (d.twlOf inst).pend
  let codes := List.range (twlCodes kind)
  let d := each (codes.filter fun c => decide (4 ≤ pend.countP fun r => r.code == c)) (fun c d =>
    d.inc (twlF inst (0x200 + c) 20 9) 1) d
  let rs := asked.foldl (fun l r =>
    if r.code < twlCodes kind && l.countP (fun q => q.code == r.code) < 4 then l ++ [r] else l) pend
  let ss := d.twlSlots inst
  let x := twlDecide kind (d.twlOf inst).cycle (d.f (twlF inst 0x100 27 16)) (ss.map (d.twlOwner inst)) rs
  let d := d.twlRead inst ss
  let d := each x.aged (fun r d => d.incEv (twlF inst 0x102 17 0) 1 0x811 inst fun _ => toW r.code) d
  let d := each x.got (fun r d => (d.inc (twlF inst (0x220 + r.code) 35 0) 1).maxF (twlF inst (0x200 + r.code) 32 21)
    (Nat.min r.waited 0xFFF)) d
  let left := gone.filterMap fun (c, i) => (pend.filter fun r => r.code == c)[i]?
  let d := each (left.filter x.got.contains) (fun r d => d.incEv (twlF inst 0x102 35 18) 1 0x810 inst fun _ => toW r.code) d
  let stay := left.foldl List.erase x.rest
  let used := left.foldl List.erase x.got
  let d := d.modTwl inst fun t => { t with
    pend := stay.map fun r => { r with waited := r.waited + 1 }
    cycle := t.cycle + 1
    ans := used.map (fun r => ⟨true, r.code, r.dir, twlIndex pend r⟩)
      ++ stay.map fun r => ⟨false, r.code, r.dir, twlIndex stay r⟩ }
  let d := each codes (fun c d =>
    d.setF (twlF inst (0x200 + c) 35 33) (stay.countP fun r => r.code == c)) d
  d.twlStep inst

/-! ### Cycles that no command names -/

/-- Decisions of an instance without a request, `n` of them: PTR moves on, and bad slots are read. -/
def Dev.twlIdle (inst : Nat) : Nat → Nat → Dev → Dev
  | 0, _, d => d
  | fuel + 1, n, d =>
    let w := twlWalk (inst / 64)
    if n = 0 then d
    else if (d.twlOf inst).lenOld.isSome then
      let ss := d.twlSlots inst
      ((d.twlRead inst ss).twlStep inst).twlIdle inst fuel (n - 1)
    else
      let len := d.twlLen inst
      let ptr := d.f (twlF inst 0x101 35 28)
      let seen := (List.range (Nat.min (n * w) (len * w))).map fun i => (ptr + i) % len
      (d.twlRead inst seen).setF (twlF inst 0x101 35 28) ((ptr + n * w) % len)

/-- The decisions of a cluster or region store up to the present cycle: those with pending requests one by one. -/
def Dev.twlCatch (inst : Nat) : Nat → Dev → Dev
  | 0, d => d
  | fuel + 1, d =>
    let t := d.twlOf inst
    if inst / 64 ≥ 2 || d.epo.edges ≤ t.cycle then d
    else if t.pend.isEmpty then
      (d.twlIdle inst 300 (d.epo.edges - t.cycle)).modTwl inst fun t => { t with cycle := d.epo.edges, ans := [] }
    else (d.twlDecision inst [] []).twlCatch inst fuel

/-- The instance of kinds 0 and 1 whose sub-block a register lies in. -/
def twlInstOf (key : Nat) : Option Nat :=
  if 0x40000 ≤ key ∧ key < 0x80000 ∧ 0xC00 ≤ key % 0x1000 then some ((key - 0x40000) / 0x1000)
  else if 0x30000 ≤ key ∧ key < 0x34000 ∧ 0x400 ≤ key % 0x800 then some (64 + (key - 0x30000) / 0x800)
  else none

/-- An access to a register of a Twill sub-block finds the decisions up to its cycle made. -/
def Dev.twlSync (key : Nat) (d : Dev) : Dev :=
  match twlInstOf key with
  | some inst => d.twlCatch inst 1024
  | none => d

/-! ### The commands -/

/-- A new request as the instance keeps it. -/
def twlReqOf (kind : Nat) (x : TwlNew) : TwlReq :=
  if kind = 0 then ⟨x.code, bit x.read, bit x.bank, x.queue, 0⟩ else ⟨x.code, 0, 0, 0, 0⟩

/-- GRANT_DECISION (R296, R381, R386). -/
def execGrantDecision (a : TwlAt) (x : TwlIn) : State → R :=
  lift fun d => match a with
    | .fiu p => d.grantDecision p x.breq.toNat
    | a => (d.twlCatch (twlInstance a) 1024).twlDecision (twlInstance a) (x.asked.map (twlReqOf (twlKind a))) (x.gone.map fun g => (g.1.val, g.2.val))

/-- R389: a granted requester of an instance of kinds 0 to 2 does not use its grant. -/
def Dev.twlDead (inst code dir : Nat) (d : Dev) : Dev :=
  match (d.twlOf inst).ans.find? fun g => g.granted && g.code == code && g.dir == dir with
  | some g => (d.modTwl inst fun t => { t with ans := t.ans.erase g }).incEv (twlF inst 0x102 35 18) 1 0x810 inst
      fun _ => toW code
  | none => d

/-- HEADER_AFTER_GRANT_MISSED (R297, R389): a dead cycle. -/
def execHeaderAfterGrantMissed (x : TwlDead) : State → R :=
  lift fun d => match x with
    | .fiu p => d.fiuDead p
    | .store a code read => d.twlDead (twlInstance a) code (if (twlKind a) = 0 then bit read else 0)

end Sys2Proof.Machine
end

