-- ==== Sys2Proof/Machine/RegFile.lean ====
section
/-! DEFINITION. The register window: a read and a write of one word by a path (R11 to R13, R24 to R28), live values of
state that a register shows, the 72-bit pairs (R88 to R91), the writes that do more than store, and the rows that
perform them. -/

namespace Sys2Proof.Machine

/-- The key of a window offset on a path: the HBM Twill sub-block and TOP_TWL_SEL have one place per channel and path
(R392, R88). -/
def Dev.regKey (d : Dev) (p : Path) (off : Nat) : Nat :=
  if off = 0x20 then R.topTwlSel (pathIdx p)
  else if 0x400 ≤ off ∧ off < 0x800 then 0x800000 + 0x400 * d.f (F.topTwlSel_CH (pathIdx p)) + (off - 0x400)
  else off

/-- The mailbox whose registers an offset lies in. -/
def mbxOf (off : Nat) : Option Nat := if 0xB000 ≤ off ∧ off < 0xC000 then some ((off - 0xB000) / 0x100) else none

/-- R23, R26, R63: an access of the path to the offset is an address error. -/
def Dev.regRefused (d : Dev) (p : Path) (off : Nat) : Bool :=
  unbackedOff off || (match mbxOf off with
    | some n => !d.mbxAllowed p n
    | none => false)

/-- The offset is that of the doorbell of a disabled mailbox: no path's write of it is an address error (R62). -/
def Dev.deafDoorbell (d : Dev) (off : Nat) : Bool :=
  (mbxOf off).any fun n => off == R.mbxDoorbell n && decide (d.pathOf n ≥ 4)

/-- A write of the path to the offset is an address error (R23, R62, R63). -/
def Dev.writeRefused (d : Dev) (p : Path) (off : Nat) : Bool := d.regRefused p off && !d.deafDoorbell off

/-- The register table of a key: the offset of its instance 0, and the instance's indices. -/
def regHome (key : Nat) : Nat × Nat × Nat × Nat :=
  match lookupReg key with
  | some (r, ix) => (r.base, ix.getD 0 0, ix.getD 1 0, ix.getD 2 0)
  | none => (0, 0, 0, 0)

/-! ### Reads -/

/-- The word with a field replaced. -/
def put (fl : Fld) (v : Nat) (w : Word) : Word := putBits w fl.hi fl.lo v

/-- MBX[n].STAT as it reads (R68). -/
def Dev.mbxStatWord (d : Dev) (n : Nat) : Word :=
  let m := d.mb n
  put (F.mbxStat_BUSY n) (bit m.busy) <| put (F.mbxStat_RSP_RDY n) (bit !m.rsp.isEmpty) <|
    put (F.mbxStat_EVT_RDY n) (bit !m.evts.isEmpty) <| put (F.mbxStat_REQ_CNT n) m.req.length <|
    put (F.mbxStat_RSP_CNT n) m.rsp.length (d.reg (R.mbxStat n))

/-- CLU[c].QSTAT[q] as it reads. -/
def Dev.qstatWord (d : Dev) (c q : Nat) : Word :=
  let u := d.qu c q
  put (F.cluQstat_RD_IN_PKT c q) (bit u.rdIn) <| put (F.cluQstat_DROPPING c q) (bit u.dropping) <|
    put (F.cluQstat_PKTS c q) (Nat.min 0x3FFF u.pkts) <| put (F.cluQstat_COUNT c q) (d.qCount c q)
    (d.reg (R.cluQstat c q))

/-- TSK_UNIT[u] as it reads (R211). -/
def Dev.unitWord (d : Dev) (u : Nat) : Word :=
  let x := mget d.tsk.units u
  let t0 := nth (x.run.getD []) 0
  put (F.tskUnit_RUN u) (bit x.run.isSome) <| put (F.tskUnit_STOLEN u) (bit (x.run.isSome && x.stolen)) <|
    put (F.tskUnit_DEPTH u) x.cnt <| put (F.tskUnit_STEP u) (bitsOf t0 35 32) <|
    put (F.tskUnit_INDEX u) (bitsOf t0 30 17) (d.reg (R.tskUnit u))

/-- BRG_PORT[p].STAT as it reads. -/
def Dev.brgStatWord (d : Dev) (p : Nat) : Word :=
  let x := d.fp p
  put (F.brgPortStat_TAGS p) (x.tags.countP fun t => t.2.isSome) <|
    put (F.brgPortStat_PW_FILL p) ((x.posted.map fun w => popcount 16 w.mask).foldl (· + ·) 0) <|
    put (F.brgPortStat_MSGQ p) x.msgs.length 0

/-- COH_HOME[r] as it reads: transactions open, and write-backs that wait in them (R354). -/
def Dev.homeWord (d : Dev) (r : Nat) : Word :=
  let l := 0x20000000 + r * 0x8000
  put (F.cohHome_TRK r) (d.regionTxns l).length <| put (F.cohHome_WB_TRK r) (d.wbTrackers l) 0

/-- JESD204C lanes in LANES of no link that is not DOWN (spec/16, power states of blocks). -/
def Dev.lanesOff (d : Dev) : Nat :=
  32 - ((List.range 16).map fun l => if d.felState l = 0 then 0 else (d.linkCfg l).lanes.length).foldl (· + ·) 0

/-- The register of a key as it stands, with the live values of what it shows. -/
def Dev.liveReg (d : Dev) (key : Nat) : Word :=
  let w := d.reg key
  let (b, i, j, _) := regHome key
  if b = R.epoNowLo then toW d.now
  else if b = R.epoNowHi then toW d.nowSec
  else if b = R.mbxStat 0 then d.mbxStatWord i
  else if b = R.cluQstat 0 0 then d.qstatWord i j
  else if b = R.schStat then put F.schStat_ARMED (d.sch.ents.countP fun e => e.2.live) w
  else if b = R.tskUnit 0 then d.unitWord i
  else if b = R.tskFence 0 then
    toW ((List.range 32).foldl (fun a k => if d.fb (F.tskUnit_FENCED (32 * i + k)) then a + 2 ^ k else a) 0)
  else if b = R.brgPortStat 0 then d.brgStatWord i
  else if b = R.cohCache 0 then put (F.cohCache_VALID i) (d.cacheOf i).length w
  else if b = R.cohHome 0 then d.homeWord i
  else if b = R.errQstat then put F.errQstat_COUNT d.err.queue.length w
  else if b = R.errBklEgr 0 then put (F.errBklEgr_STATE i) (d.egState i) w
  else if b = R.calCond then d.calCond
  else if b = R.tskRgnLoad 0 then d.loadWord i w
  else w

/-- The word a read returns before its side effects; what timing decides is a free value (assumption 32). -/
def Dev.showReg (key : Nat) (d : Dev) : Word × Dev :=
  let (b, i, _, _) := regHome key
  if b = R.pwrBlk then
    let off := (List.range 1024).countP fun u => d.fb (F.tskUnit_FENCED u)
    let run := (List.range 1024).countP fun u => !d.fb (F.tskUnit_FENCED u) && (mget d.tsk.units u).run.isSome
    let (g, d) := d.fresh
    let (h, d) := d.fresh
    (put F.pwrBlk_UNITS_GATED (g % (1025 - off - run)) <| put F.pwrBlk_UNITS_OFF off <|
      put F.pwrBlk_LANES_OFF d.lanesOff <| put F.pwrBlk_HBM_SR (h % 33) 0, d)
  else if b = R.lnkFec 0 then
    let (v, d) := d.fresh
    (put (F.lnkFec_CORR i) v 0, d)
  else
    let d := d.twlSync key
    (d.liveReg key, d)

/-- The tables of the low words of the 72-bit pairs. -/
def loBases : List Nat :=
  [R.epoNowLo, R.epoOriginLo, R.felSlotLo 0, R.trgMissEpLo 0, R.calLastLo, R.fiuSyncTsLo 0, R.brgPerrLo, R.cohPlogLo,
   R.lnkPeerSerLo 0, R.pciHqAddrLo 0]

/-- The key is that of a NAME_LO, or of a NAME_HI, which stands at the next offset. -/
def isLo (key : Nat) : Bool := loBases.contains (regHome key).1
def isHi (key : Nat) : Bool := key ≠ 0 && loBases.contains (regHome (key - 1)).1

/-- The shadow and staging key of a path and the key of NAME_LO (R88). -/
def pairKey (p : Path) (lo : Nat) : Nat := 2 ^ 24 * pathIdx p + lo

/-- R89: the low word, the high word into the path's shadow. -/
def Dev.readLo (p : Path) (key : Nat) (d : Dev) : Word × Dev :=
  (d.liveReg key, { d with shadow := mset d.shadow (pairKey p key) (some (d.liveReg (key + 1))) })

/-- R90: the shadow while it is valid, else the live high word. -/
def Dev.readHi (p : Path) (key : Nat) (d : Dev) : Word × Dev :=
  let k := pairKey p (key - 1)
  match mget d.shadow k with
  | some w => (w, { d with shadow := mset d.shadow k none })
  | none => (d.liveReg key, d)

/-- A read by the access types of the register's fields (R11 to R13): RC fields clear. -/
def Dev.readByType (key : Nat) (d : Dev) : Word × Dev :=
  let fs := fieldsOf key
  let (w, d) := d.showReg key
  (readMask fs w, d.setReg key (clearRc fs (d.reg key)))

/-- R13: a read of THM_SENS clears MAX; a reading of the same cycle is still held against the value before. -/
def Dev.sensRead (i key : Nat) (d : Dev) : Word × Dev :=
  let was := d.f (F.thmSens_MAX i)
  let (w, d) := d.readByType key
  (w, { d with pwr := { d.pwr with maxWas := mset d.pwr.maxWas i (some (d.epo.edges, was)) } })

/-- A read of the word at a window offset by a path. -/
def Dev.regRead (p : Path) (off : Nat) (d : Dev) : Word × Dev :=
  if d.regRefused p off then (0, d.addrError (pathReq p) (d.regAddr off))
  else if off ≥ 0x7FE000 then (0, d)
  else
    let key := d.regKey p off
    let (b, i, j, _) := regHome key
    if b = R.mbxRsp 0 then d.rspPop i
    else if b = R.mbxEvt 0 then d.evtPop i
    else if b = R.cluQpop 0 0 then let (w, _, d) := d.qPop i j; (w, d)
    else if b = R.errQpop then d.errPop
    else if isLo key then d.readLo p key
    else if isHi key then d.readHi p key
    else if b = R.thmSens 0 then d.sensRead i key
    else d.readByType key

/-! ### Writes that do more than store -/

/-- TOP_VIEW_WRITE (R44, R46, R371). -/
def Dev.topViewWrite (p : Path) (w : Word) (d : Dev) : Dev :=
  let cur := d.f F.topView_VIEW
  let v := bitsOf w 0 0
  let d := (d.writeByType p R.topView w).setF F.topView_VIEW v
  if v = cur then d
  else if d.cohState = 2 then
    ((d.setF F.topView_VIEW cur).setF F.topView_MODE_REJ 1).event 0x102 0 (mkW [(26, 24, pathCode p), (0, 0, v)])
  else if v = 0 then (d.setF F.topView_AUTO 0).formEnter else d

/-- R153: the link whose state refuses a write of a register, if one does. -/
def Dev.felRefuses (d : Dev) (b i : Nat) : Option Nat :=
  if [R.felCfg0 0, R.felCfg1 0, R.felRate 0, R.felTxOfs 0].contains b then
    (if d.felState i ≠ 0 then some i else none)
  else if b = R.ingChCfg 0 || b = R.ingChSkew 0 then
    firstN 16 fun l => d.felState l != 0 && (d.linkCfg l).inputs.contains i
  else none

/-- R387, R390: what a write of a slot of a Twill table does beside storing it. -/
def Dev.twlSlotWritten (kind inst n key stat : Nat) (was : Bool) (d : Dev) : Dev :=
  let w := d.reg key
  if was || bitOf w 5 || bitsOf w 4 0 < twlCodes kind then d
  else (d.setF ⟨stat, 27, 27⟩ 1).event 0x812 (kind * 64 + inst) (mkW [(12, 8, bitsOf w 4 0), (7, 0, n)])

/-- The Twill kind, instance and status register of a slot table. -/
def twlTable (b i : Nat) : Option (Nat × Nat) :=
  if b = R.cluTwlSlot 0 0 then some (0, R.cluTwlStat i)
  else if b = R.rgnTwlSlot 0 0 then some (1, R.rgnTwlStat i)
  else if b = R.hbmTwlSlot 0 0 then some (2, R.hbmTwlStat i)
  else if b = R.fiuTwlSlot 0 0 then some (3, R.fiuTwlStat i)
  else none

/-- A write refused as a whole: its flag, then its event with the offset written. -/
def Dev.cfgRefused (fl : Fld) (code inst off : Nat) (d : Dev) : Dev := (d.setF fl 1).event code inst (mkW [(22, 0, off)])

/-- A write of AXS[a].CFG: out of SSI mode, a frame in progress ends without a value (R133). -/
def Dev.axsCfgWrite (p : Path) (key a : Nat) (w : Word) (d : Dev) : Dev :=
  let d := d.writeByType p key w
  if d.f (F.axsCfg_MODE a) = 2 then d else { d with sch := { d.sch with ssi := mset d.sch.ssi a false } }

/-- A write of mailbox, CP, queue, epoch and ingest registers that does more than store; none: the table alone says what
it does. -/
def Dev.writeCore (p : Path) (key b i j k : Nat) (w : Word) (d : Dev) : Option Dev :=
  if b = R.mbxReq 0 then some (d.reqPush i w)
  else if b = R.mbxDoorbell 0 then some (d.doorbellWrite p i w)
  else if b = R.mbxCfg 0 then
    let was := d.pathOf i
    let d := d.writeByType p key w
    some (if d.pathOf i = was then d else d.modMb i fun m => { m with replay := none })
  else if b = R.cpCtl then some (if bitOf w 0 then d.reboot else d)
  else if b = R.cluQpush 0 0 then some (d.qPush i j 0 w none)
  else if b = R.cluQtpush 0 0 0 then some (d.qPush i j k w none)
  else if b = R.cluQdrop 0 then some (d.qDropRem i (bitsOf w 6 0)).2.2
  else if b = R.cluQcfg 0 0 then some (d.qcfgWrite p i j w)
  else if b = R.epoTai then some { d with epo := { d.epo with taiPend := some (bitsOf w F.epoTai_TAI_UTC.hi F.epoTai_TAI_UTC.lo) } }
  else if b = R.epoRefcfg then
    let old := d.epo.refOld.getD (d.reg key)
    some ({ d with epo := { d.epo with refOld := some old } }.writeByType p key w)
  else if b = R.epoSlew then
    let old := d.epo.slewOld.getD (d.reg key)
    some ({ d with epo := { d.epo with slewOld := some old } }.writeByType p key w)
  else if b = R.axsPos 0 then some (d.setPos i w.toNat)
  else if b = R.axsCfg 0 then some (d.axsCfgWrite p key i w)
  else if b = R.ingFchCfg 0 || b = R.ingFchRate 0 then
    if d.fchRun i then some ((d.violationOnly p key w).event 0x305 (0x800 + i) (mkW [(22, 0, key)])) else none
  else match d.felRefuses b i with
    | some l => some ((d.violationOnly p key w).cfgRefused (F.felStat_CFG_REJ l) 0x305 l key)
    | none => none

/-- The same for the other blocks. ERR_BKL_BASE takes any base while no chunk is in use: what the backlog then writes in the
retained-image area is an address error (R50, assumption 138). -/
def Dev.writeOther (p : Path) (key b i j : Nat) (w : Word) (d : Dev) : Option Dev :=
  if b = R.topView then some (d.topViewWrite p w)
  else if b = R.fiuCfg 0 then some (d.fiuCfgWrite i w)
  else if b = R.fiuCtl 0 then some (d.syncPulse i w)
  else if b = R.fiuTwlCfg 0 then
    let old := (d.fp i).lenOld.getD (d.f (F.fiuTwlCfg_LEN_M1 i))
    some ((d.writeByType p key w).modFp i fun x => { x with lenOld := some old })
  else if b = R.cluTwlCfg 0 || b = R.rgnTwlCfg 0 || b = R.hbmTwlCfg 0 then
    let inst := (if b = R.cluTwlCfg 0 then 0 else if b = R.rgnTwlCfg 0 then 64 else 128) + i
    let old := d.twlLen inst - 1
    some ((d.writeByType p key w).modTwl inst fun x => { x with lenOld := some old })
  else if b = R.brgIwinCfg 0 0 || b = R.brgOwinCfg 0 then
    let bad := if b = R.brgIwinCfg 0 0 then
        bitsOf w (F.brgIwinCfg_XLT 0 0).hi (F.brgIwinCfg_XLT 0 0).lo ≥ 2 ||
          bitsOf w (F.brgIwinCfg_WIDTH 0 0).hi (F.brgIwinCfg_WIDTH 0 0).lo == 3
      else bitsOf w (F.brgOwinCfg_WIDTH 0).hi (F.brgOwinCfg_WIDTH 0).lo == 3
    if bad then some ((d.violationOnly p key w).cfgRefused F.brgStat_CFG_REJ 0x717 0 key) else none
  else if b = R.cohCfg then some (d.writeByType p key w).cohCfgWritten
  else if b = R.lnkCfg 0 then some (d.lnkCfgWrite p i w)
  else if b = R.pciHqCfg 0 then some (d.hqCfgWrite p i w)
  else if b = R.pciHqPtr 0 then some (d.hqPtrWrite p i w)
  else if b = R.errBklCfg || b = R.errBklBase then
    if d.f F.errBklStat_USED ≠ 0 then some ((d.violationOnly p key w).cfgRefused F.errBklStat_CFG_REJ 0xA14 0 key) else none
  else if b = R.loopInCfg 0 then some (d.loopInCfgWrite p i w)
  else if b = R.loopOutCfg 0 then some (d.loopOutCfgWrite p i w)
  else if b = R.loopOutTrim 0 then some ((d.writeByType p key w).loopDrive i)
  else if b = R.thmCfg then
    let old := (d.pwr.thmOld.filter fun x => x.1 == d.epo.edges + 1).getD (d.epo.edges + 1, d.reg key)
    some ((d.writeByType p key w).modPwr fun x => { x with thmOld := some old })
  else if b = R.loopOutSet 0 then some (d.loopSetWrite p i w)
  else if b = R.calShadow 0 then (if d.cal.isSome then some (d.violationOnly p key w) else none)
  else match twlTable b i with
    | some (kind, stat) =>
      let was := d.locked key
      some ((d.writeByType p key w).twlSlotWritten kind i j key stat was)
    | none => none

/-- A write of the register of a key that is no half of a pair; the decisions of a Twill instance before it are made. -/
def Dev.writeKey (p : Path) (key : Nat) (w : Word) (d : Dev) : Dev :=
  let (b, i, j, k) := regHome key
  let d := d.twlSync key
  match d.writeCore p key b i j k w with
  | some d => d
  | none => (d.writeOther p key b i j w).getD (d.writeByType p key w)

/-- R91: a write of NAME_LO waits in the path's staging word. -/
def Dev.writeLo (p : Path) (key : Nat) (w : Word) (d : Dev) : Dev :=
  { d with staged := mset d.staged (pairKey p key) (some w) }

/-- R91: a write of NAME_HI commits it and the staged low word, the low word first. -/
def Dev.writeHi (p : Path) (key : Nat) (w : Word) (d : Dev) : Dev :=
  let k := pairKey p (key - 1)
  let d := match mget d.staged k with
    | some lo => { d with staged := mset d.staged k none }.writeByType p (key - 1) lo
    | none => d
  d.writeByType p key w

/-- A write of the word at a window offset by a path. -/
def Dev.regWrite (p : Path) (off : Nat) (w : Word) (d : Dev) : Dev :=
  if d.writeRefused p off then d.addrError (pathReq p) (d.regAddr off)
  else if off ≥ 0x7FE000 then d
  else
    let key := d.regKey p off
    if isLo key then d.writeLo p key w
    else if isHi key then d.writeHi p key w
    else d.writeKey p key w

/-! ### REG_READ and REG_WRITE -/

/-- Consecutive registers read in ascending order (R27). -/
def Dev.regReads (p : Path) (off : Nat) : Nat → Dev → List Word × Dev
  | 0, d => ([], d)
  | n + 1, d =>
    let (w, d) := d.regRead p off
    let (ws, d) := d.regReads p (off + 1) n
    (w :: ws, d)

/-- REG_READ, opcode 0x003. -/
def Dev.cmdRegRead (n : Nat) (d : Dev) : Dev :=
  let a := d.arg n 1
  let c := d.arg n 2
  let off := bitsOf a 22 0
  let cnt := c.toNat
  if bitsOf a 35 23 ≠ 0 || cnt = 0 || cnt > 255 || off + cnt > 2 ^ 23 then d.reply n stBAD_ARG []
  else
    let (ws, d) := d.regReads .cp off cnt
    d.reply n stOK ws

/-- R81, R91: the violating words that a write would count, low word first: their keys. -/
def Dev.violating (d : Dev) (key : Nat) (w : Word) : List Nat :=
  let lo := if isHi key then (mget d.staged (pairKey .cp (key - 1))).map fun x => (key - 1, x) else none
  ((lo.toList ++ [(key, w)]).filter fun x => d.violates x.1 x.2).map (·.1)

/-- REG_WRITE on the CP path, as the command and the scheduler action perform it, with its status. -/
def Dev.maskWrite (off : Nat) (mask value : Word) (d : Dev) : Nat × Dev :=
  if unbackedOff off then (stOK, d.addrError 64 (d.regAddr off))
  else if off ≥ 0x7FE000 then (stOK, d)
  else
    let key := d.regKey .cp off
    let fs := fieldsOf key
    let w := maskedWord fs (d.liveReg key) mask value
    if woUntouched fs mask then (stOK, d)
    else if isLo key then (stOK, d.writeLo .cp key w)
    else
      let vs := d.violating key w
      if !vs.isEmpty then (stLOCKED, each vs (fun k d => d.violation .cp k) d)
      else if (regHome key).1 = R.calShadow 0 && d.cal.isSome then (stBUSY, d)
      else (stOK, d.regWrite .cp off w)

/-- REG_WRITE, opcode 0x004 (R81): the command is answered once its write has acted, but for the write that ends the
firmware, which is answered before (R499). -/
def Dev.cmdRegWrite (n : Nat) (d : Dev) : Dev :=
  let a := d.arg n 1
  if bitsOf a 35 23 ≠ 0 then d.reply n stBAD_ARG []
  else
    let off := bitsOf a 22 0
    if off = R.cpCtl && bitOf (d.arg n 2) 0 && bitOf (d.arg n 3) 0 then (d.reply n stOK []).reboot
    else
      let (st, d) := d.maskWrite off (d.arg n 2) (d.arg n 3)
      d.reply n st []

/-! ### The rows -/

/-- REG_READ. -/
def execRegRead (n : Mbx) : State → R := liftBb (Dev.takeCmd n 0x003 (· == 2) (Dev.cmdRegRead n))

/-- REG_WRITE. -/
def execRegWrite (n : Mbx) : State → R := liftBb (Dev.takeCmd n 0x004 (· == 3) (Dev.cmdRegWrite n))

/-- REG_WRITE_ACTION (R140, code 4). -/
def execRegWriteAction (e : Fin 4096) : State → R :=
  issueOf e (liftBb (Dev.schIssue e 4 false fun _ d =>
    d.maskWrite (bitsOf (d.schArg e 0) 22 0) (d.schArg e 1) (d.schArg e 2)))

/-- A register read whose value is returned on its path. -/
def Dev.regReadOut (p : Path) (off : Nat) (d : Dev) : Dev :=
  let (w, d) := d.regRead p off
  d.emit (.readData p off w)

/-- REGISTER_WRITE (R11, R79, R80). -/
def execRegisterWrite (p : Path) (off : BitVec 23) (w : Word) : State → R := liftBb (Dev.regWrite p off.toNat w)

/-- RC_FIELD_READ (R11, R13). -/
def execRcFieldRead (p : Path) (off : BitVec 23) : State → R := lift (Dev.regReadOut p off.toNat)

/-- SHADOW_LO_READ (R89). -/
def execShadowLoRead (p : Path) (off : BitVec 23) : State → R := lift (Dev.regReadOut p off.toNat)

/-- SHADOW_HI_READ (R90). -/
def execShadowHiRead (p : Path) (off : BitVec 23) : State → R := lift (Dev.regReadOut p off.toNat)

/-- STAGED_LO_WRITE (R91). -/
def execStagedLoWrite (p : Path) (off : BitVec 23) (w : Word) : State → R := liftBb (Dev.regWrite p off.toNat w)

/-- HI_WRITE_COMMIT (R91). -/
def execHiWriteCommit (p : Path) (off : BitVec 23) (w : Word) : State → R := liftBb (Dev.regWrite p off.toNat w)

/-- BLOCK_LOCK (R78): a write of the BLOCK_LOCK register at `off`. -/
def execBlockLock (p : Path) (off : BitVec 23) (w : Word) : State → R := liftBb (Dev.regWrite p off.toNat w)

/-- TOP_VIEW_WRITE. -/
def execTopViewWrite (p : Path) (w : Word) : State → R := liftBb (Dev.regWrite p R.topView w)

/-- COH_EN_WRITE (R371, R373, R379). -/
def execCohEnWrite (p : Path) (w : Word) : State → R := liftBb (Dev.regWrite p R.cohCfg w)

end Sys2Proof.Machine
end

