-- ==== Sys2Proof/Machine/Access.lean ====
section
/-! DEFINITION. Accesses by 40-bit address that no home performs: the windows of this package without coherence (R21,
R23, R27), Tweed addresses (R42, R43), and the host's BAR0 and BAR2 (R28 to R33). -/

namespace Sys2Proof.Machine

/-! ### Windows without a home (R21, R27) -/

/-- The access path of an agent: for the bridge, the Fiuth port that its outstanding request names. -/
def Dev.pathOfAgent (d : Dev) (m : CMsg) : Path :=
  if !d.ownAgent m.agent || m.rt1 then .lysith
  else match m.agent % 128 with
    | 65 => .pcie
    | 66 =>
      match d.coh.outs.find? fun o => o.m.agent == m.agent && o.m.tag == m.tag && (o.m.code == 9) == (m.code == 9) with
      | some { m := _, who := .fiuRd p _ } => .fiuth (Fin.ofNat 4 p)
      | some { m := _, who := .fiuWr p _ } => .fiuth (Fin.ofNat 4 p)
      | _ => .fiuth 0
    | 64 => .cp
    | la => .agent (Fin.ofNat 128 la)

/-- Single-word writes of registers in ascending order (R27). -/
def Dev.regWrites (p : Path) (l : List (Nat × Word)) (d : Dev) : Dev := each l (fun x d => d.regWrite p x.1 x.2) d

/-- A request to a window of this package that has no home: the registers word by word on the path of the agent, reads
of the memories, and writes of them by the CP and the boot ROM only (R21). -/
def Dev.plainDo (m : CMsg) (d : Dev) : Dev :=
  let a := m.lineA
  let is := maskWords m.mask
  match winOf a with
  | .regs =>
    let p := d.pathOfAgent m
    let offs := is.map fun i => a - regBase + i
    let st := if offs.any (if m.code = 9 then d.writeRefused p else d.regRefused p) then stADDR else stOK
    if m.code = 9 then (d.regWrites p (offs.zip m.ws)).homeReply m 0x16 st 0 []
    else
      let (ws, d) := offs.foldl (fun (ws, d) o => let (w, d) := d.regRead p o; (ws ++ [w], d)) (([] : List Word), d)
      d.homeReply m 0x18 st 0 ws
  | win =>
    if m.code = 9 then
      if d.ownAgent m.agent && !m.rt1 && m.agent % 128 = 64 then
        let d := d.homeWrite a m.mask m.ws
        (if win = .tables && a ≥ drtTab then d.drainUnrouted else d).homeReply m 0x16 stOK 0 []
      else d.homeError m
    else
      let (ws, bad, d) := d.homeRead a is
      d.homeReply m 0x18 (if bad then stPOISONED else stOK) 0 ws

/-! ### Tweed addresses (R42, R43) -/

/-- A request of local agent `la` with a TAG to a Tweed address: performed here when it names this package, else carried
by package ID, its local address kept with 2^40 added; an address error while VIEW = 0. -/
def Dev.tweedIssue (who : CohWho) (la tag t : Nat) (m : CMsg) (d : Dev) : Dev :=
  let (pkg, a) := tweedOf t
  let m := { m with agent := d.agentOf la, tag := tag }
  if !d.fb F.topView_VIEW then
    (d.addrError la (t % 2 ^ 36)).cohDone ⟨{ m with addr := t }, who⟩ stADDR ((maskWords m.mask).map fun _ => 0)
  else if d.fb F.topPkg_ASSIGNED && pkg = d.pkgId then
    (d.cohIssue who la (some tag) { m with addr := d.fullAddr a }).2
  else
    let m := { m with addr := a }
    let (ok, d) := d.sendRt 1 pkg (m.wire 1 pkg)
    let o : COut := ⟨{ m with addr := a + 2 ^ 40 }, who⟩
    if ok then d.modCoh fun c => { c with outs := c.outs ++ [o] }
    else (d.cohTimeout m.addr).cohDone o stTIMEOUT []

/-! ### Requests by line -/

/-- Ascending word addresses gathered into runs within one line: first address and mask. -/
def lineRuns : List Nat → List (Nat × Nat)
  | [] => []
  | a :: as =>
    match lineRuns as with
    | (b, m) :: rs => if b / 16 = a / 16 then (a, m + 2 ^ (a % 16)) :: rs else (a, 2 ^ (a % 16)) :: (b, m) :: rs
    | [] => [(a, 2 ^ (a % 16))]

/-- The code that reads an address without caching: NA_RD in the coherent space, else RD_NC (R347, R366). -/
def readCode (addr : Nat) : Nat := if winOf (addr % 2 ^ 34) = .rstore then 3 else 4

/-! ### The host (R28 to R33) -/

/-- The local register offset that a 40-bit address of this package names. -/
def Dev.ownReg (d : Dev) (addr : Nat) : Option Nat :=
  match d.target addr with
  | .here a => if winOf a = .regs then some (a - regBase) else none
  | _ => none

/-- A register read without its side effects. -/
def Dev.regPeek (p : Path) (off : Nat) (d : Dev) : Word × Dev :=
  let (w, d') := d.regRead p off
  if d.regRefused p off then (w, d') else (w, { d with free := d'.free })

/-- The nibble latch changed. -/
def Dev.setNibble (x : Option (Bool × Nat × Nat)) (d : Dev) : Dev := { d with pci := { d.pci with nibble := x } }

/-- R31: a read of slot `k` that the nibble latch answers: bytes 1 to 3 are not stated. -/
def Dev.nibbleHit (bar2 : Bool) (k be : Nat) (d : Dev) : Option (Word × Dev) :=
  if nbit be 4 && !nbit be 0 then
    match d.pci.nibble with
    | some (b, s, v) =>
      if b = bar2 ∧ s = k then
        let (x, d) := d.fresh
        some (toW (v * 2 ^ 32 + x % 2 ^ 32), d.setNibble none)
      else none
    | none => none
  else none

/-- R31: what a read of a slot leaves in the nibble latch. -/
def Dev.latchNibble (bar2 : Bool) (k be : Nat) (w : Word) (d : Dev) : Dev :=
  if nbit be 0 && !nbit be 4 then d.setNibble (some (bar2, k, w.toNat / 2 ^ 32)) else d

/-- R31: a host read of slot `k` that shows the register at `off`. -/
def Dev.slotRead (bar2 : Bool) (k off be : Nat) (d : Dev) : Word × Dev :=
  match d.nibbleHit bar2 k be with
  | some r => r
  | none =>
    if nbit be 0 then
      let (w, d) := d.regRead .pcie off
      (w, d.latchNibble bar2 k be w)
    else d.regPeek .pcie off

/-- The bytes of a slot that the byte enables name. -/
def pickBytes (be : Nat) (bs : List Byte) : List Byte := (bs.zipIdx.filter fun x => nbit be x.2).map (·.1)

/-- A byte-wise merge of eight bytes. -/
def mergeSlot (old new be : Nat) : Nat :=
  ofLe (((leBytes 8 old).zip (leBytes 8 new)).zipIdx.map fun ((o, n), i) => if nbit be i then n else o)

/-- The eight bytes of MSI-X slot `k` from 0x7F_E000 on, as a number (R28). -/
def Dev.msixSlot (d : Dev) (k : Nat) : Nat :=
  if k < 0x1000 then
    let e := mget d.pci.msix (k / 2)
    if k % 2 = 0 then e.addr % 2 ^ 64 else e.data % 2 ^ 32 + bit (!e.unmasked) * 2 ^ 32
  else if k < 0x1020 then
    (List.range 64).foldl (fun a i => if mget d.pci.pba ((k - 0x1000) * 64 + i) then a + 2 ^ i else a) 0
  else 0

/-- A host write of MSI-X table bytes; an entry unmasked sends what is pending (R413). -/
def Dev.msixWrite (k be data : Nat) (d : Dev) : Dev :=
  if k < 0x1000 then
    let v := k / 2
    let was := (mget d.pci.msix v).unmasked
    let x := mergeSlot (d.msixSlot k) data be
    let d := { d with pci := { d.pci with msix := mmod d.pci.msix v fun e =>
      if k % 2 = 0 then { e with addr := x } else { e with data := x % 2 ^ 32, unmasked := !nbit x 32 } } }
    if !was && (mget d.pci.msix v).unmasked then d.msixRelease v else d
  else d

/-- R30: a host write of a part of a register word. -/
def Dev.partialWrite (off : Nat) (d : Dev) : Dev := (d.inc F.pciBarErr_PARTIAL_CNT 1).event 0x103 0 (mkW [(22, 0, off)])

/-- Lysith address of the first word that BAR2 maps. -/
def Dev.bar2Base (d : Dev) : Nat := d.f F.pciBar2Ctl_BASE * 2 ^ 29

/-- The words of a host read, the first at index 0, those that lie in no register window still to come. -/
structure HostWord where
  idx : Nat
  addr : Nat
  /-- Byte enables of its slot in wide mode; 0xFF in packed mode. -/
  be : Nat
deriving DecidableEq, Repr

/-- A host read answered once every word is there (R29, R31, R309, R310); a merge writes its word (R30). -/
def Dev.hostFinish (h : HostRd) (d : Dev) : Dev :=
  if (List.range h.cnt).all fun i => (mget h.got i).isSome then
    let ws := (List.range h.cnt).map fun i => (mget h.got i).getD 0
    let d := d.modCoh fun c => { c with hostRds := c.hostRds.filter fun x => x.num != h.num }
    match h.merge with
    | some (mask, bits) =>
      let w := toW ((nth ws 0).toNat - ((nth ws 0).toNat &&& mask) + bits)
      d.cohSend .nothing 65 { code := 9, addr := h.addr, mask := 2 ^ (h.addr % 16), ws := [w] }
    | none =>
      let bs := if h.packed then packBytes ws else ws.flatMap fun w => leBytes 8 w.toNat
      d.emit (.hostData false (pickBytes h.be ((bs.drop h.skip).take h.len)))
  else d.modCoh fun c => { c with hostRds := c.hostRds.map fun x => if x.num = h.num then h else x }

/-- The words that a completed request brought to a host read; one that brought none fills free values. -/
def Dev.hostGot (k : Nat) (m : CMsg) (ws : List Word) (d : Dev) : Dev :=
  match d.coh.hostRds.find? fun h => h.num == k with
  | none => d
  | some h =>
    let is := (maskWords m.mask).map fun i => m.addr % 2 ^ 34 / 16 * 16 + i - h.addr % 2 ^ 34
    let (h, d) := is.zipIdx.foldl (fun (h, d) (i, j) =>
      let (w, d) := match ws[j]? with
        | some w => (w, d)
        | none => let (x, d) := d.fresh; (toW x, d)
      let d := if !h.packed && h.merge.isNone && i + 1 = h.cnt then
          let be := (List.range 8).foldl (fun a b =>
            if h.skip ≤ 8 * i + b ∧ 8 * i + b < h.skip + h.len && nbit h.be (8 * i + b - h.skip) then a + 2 ^ b else a) 0
          d.latchNibble true ((h.addr + i) % 2 ^ 29) be w
        else d
      ({ h with got := mset h.got i (some w) }, d)) (h, d)
    d.hostFinish h

/-- A host read of consecutive words through BAR2 begins: registers of this package at once and in order, the rest by
requests of agent 65. -/
def Dev.hostBegin (h : HostRd) (ws : List HostWord) (d : Dev) : Dev :=
  let h := { h with num := d.coh.hostNext }
  let (h, rest, d) := ws.foldl (fun (h, rest, d) x =>
    match d.ownReg x.addr with
    | some off =>
      let (w, d) := if h.packed then d.regRead .pcie off else d.slotRead true (x.addr % 2 ^ 29) off x.be
      ({ h with got := mset h.got x.idx (some w) }, rest, d)
    | none =>
      match (if h.packed then none else d.nibbleHit true (x.addr % 2 ^ 29) x.be) with
      | some (w, d) => ({ h with got := mset h.got x.idx (some w) }, rest, d)
      | none => (h, rest ++ [x.addr], d)) (h, ([] : List Nat), d)
  let d := d.modCoh fun c => { c with hostRds := c.hostRds ++ [h], hostNext := c.hostNext + 1 }
  let d := each (lineRuns rest) (fun (a, mask) d =>
    d.cohSend (.host h.num) 65 { code := readCode a, addr := a, mask := mask }) d
  d.hostFinish h

/-- One word of a host write through BAR2: the bits written and their values (R30). -/
def Dev.hostPut (addr mask bits : Nat) (d : Dev) : Dev :=
  if mask = 0 then d
  else if mask = 2 ^ 36 - 1 then
    match d.ownReg addr with
    | some off => d.regWrite .pcie off (toW bits)
    | none => d.cohSend .nothing 65 { code := 9, addr := addr, mask := 2 ^ (addr % 16), ws := [toW bits] }
  else if winOf (addr % 2 ^ 34) = .regs then d.partialWrite (addr % 2 ^ 34 - regBase)
  else d.hostBegin { num := 0, addr := addr, cnt := 1, skip := 0, len := 0, packed := true, be := 0xFF
                     merge := some (mask, bits), got := [] } [⟨0, addr, 0xFF⟩]

/-- The bits that enabled bytes 0 to 4 of a slot cover (R30). -/
def slotMask (be : Nat) : Nat :=
  (List.range 5).foldl (fun a b => if nbit be b then a + (if b = 4 then 0xF00000000 else 255 * 2 ^ (8 * b)) else a) 0

/-- HOST_WIDE_READ (R28, R31): through BAR2 in wide mode only. -/
def Dev.hostWideRead (bar2 : Bool) (off be : Nat) (d : Dev) : Dev :=
  if !bar2 then
    if off ≥ 2 ^ 23 then d
    else if off ≥ 0x7FE000 then d.emit (.hostData false (pickBytes be (leBytes 8 (d.msixSlot (off - 0x7FE000)))))
    else
      let (w, d) := d.slotRead false off off be
      d.emit (.hostData false (pickBytes be (leBytes 8 w.toNat)))
  else if d.fb F.pciBar2Ctl_MODE then d
  else
    let a := d.bar2Base + off
    d.hostBegin { num := 0, addr := a, cnt := 1, skip := 0, len := 8, packed := false, be := be, merge := none, got := [] }
      [⟨0, a, be⟩]

/-- HOST_PARTIAL_WRITE (R28, R30): a slot written with its byte enables. -/
def Dev.hostPartialWrite (bar2 : Bool) (off be data : Nat) (d : Dev) : Dev :=
  let mask := slotMask be
  if !bar2 then
    if off ≥ 2 ^ 23 then d
    else if off ≥ 0x7FE000 then d.msixWrite (off - 0x7FE000) be data
    else if mask = 2 ^ 36 - 1 then d.regWrite .pcie off (toW data)
    else if mask = 0 then d
    else d.partialWrite off
  else if d.fb F.pciBar2Ctl_MODE then d
  else d.hostPut (d.bar2Base + off) mask (data &&& mask)

/-- Byte `b` of the words of a packed or wide range belongs to these words, in their order: index and the bits it
covers, with the place of its own bits. -/
def byteBits (packed : Bool) (b : Nat) : List (Nat × Nat × Nat) :=
  if packed then
    let u := b / 9 * 2
    let k := b % 9
    if k < 4 then [(u, 255 * 2 ^ (8 * k), 8 * k)]
    else if k = 4 then [(u, 0xF00000000, 32), (u + 1, 0xF, 100)]
    else [(u + 1, 255 * 2 ^ (8 * (k - 5) + 4), 8 * (k - 5) + 4)]
  else
    let k := b % 8
    if k < 4 then [(b / 8, 255 * 2 ^ (8 * k), 8 * k)] else if k = 4 then [(b / 8, 0xF00000000, 32)] else []

/-- The words of a write of bytes from byte `b` on: index, bits covered, their values, by ascending index. -/
def writeWords (packed : Bool) (b : Nat) (bs : List Byte) : SMap (Nat × Nat) :=
  bs.zipIdx.foldl (fun m (x, i) => (byteBits packed (b + i)).foldl (fun m (k, mask, sh) =>
    let v := if sh = 100 then x.toNat / 16 else x.toNat * 2 ^ sh % 2 ^ 36
    mmod m k fun (a, c) => (a + mask, c + v)) m) []

/-- BAR2_REQUEST (R27, R29, R30, R32, R33). -/
def Dev.bar2Request (addr len : Nat) (data : Option (List Byte)) (d : Dev) : Dev :=
  let packed := d.fb F.pciBar2Ctl_MODE
  let base := d.bar2Base
  if packed && addr + len > 0x90000000 then (d.inc F.pciBarErr_OOR_CNT 1).hostUr
  else match data with
    | some bs => each (writeWords packed addr (bs.take len)) (fun (k, mask, bits) d => d.hostPut (base + k) mask bits) d
    | none =>
      if len = 0 then d.emit (.hostData false [])
      else
        let last := addr + len - 1
        let first := if packed then addr / 9 * 2 else addr / 8
        let used := ((List.range len).flatMap fun i => (byteBits packed (addr + i)).map (·.1)).eraseDups
        let upto := if packed then last / 9 * 2 + 1 else last / 8
        let all := (List.range (upto + 1 - first)).map (first + ·)
        let used := if packed then used else all
        let be := fun k => (List.range 8).foldl (fun a b =>
          if addr ≤ 8 * k + b ∧ 8 * k + b ≤ last then a + 2 ^ b else a) 0
        let h : HostRd := { num := 0, addr := base + first, cnt := all.length, skip := addr % (if packed then 9 else 8)
                            len := len, packed := packed, be := 2 ^ len - 1, merge := none
                            got := (all.filter fun k => !used.contains k).foldl (fun g k =>
                              mset g (k - first) (some 0)) [] }
        d.hostBegin h (used.map fun k => ⟨k - first, base + k, if packed then 0xFF else be k⟩)

end Sys2Proof.Machine
end

