-- ==== Sys2Proof/Machine/Beam.lean ====
section
/-! DEFINITION. Beams as BEAM_SET defines them: the words of their member tables, here and in other packages, their members,
and the admission of what they add (R195, R197, R205, R233, R234). -/

namespace Sys2Proof.Machine

/-! ### Region-store addresses (R205) -/

/-- The 40-bit address of an RSA. -/
def rsaAddr (w : Word) : Nat := bitsOf w 27 22 * 2 ^ 34 + 0x200000000 + bitsOf w 21 0

/-- `n` words at an RSA are backed. -/
def Dev.rsaBacked (d : Dev) (addr n : Nat) : Bool :=
  [addr, addr + n - 1].all fun a => winOf (a % 2 ^ 34) == .rstore && d.target a != .err

/-! ### Admission (R233, R234) -/

/-- The regions that a source or beam adds load to. -/
def Dev.loadRegions (d : Dev) (k : Nat) : List Nat :=
  if k < 0x10000 then [d.srcHome k / 8]
  else
    let b := k - 0x10000
    let x := d.beam b
    (((d.membersNow b).map fun m => d.homeOf m.1 / 8) ++ (if x.collect then [x.clu / 8] else [])).eraseDups

/-- R233, R234: with the change the load of region `r`, which it adds to, exceeds the limit. -/
def Dev.admits (d new : Dev) (r : Nat) : Bool :=
  new.loadNum r ≤ d.loadNum r || !(new.overLimit r || d.over r)

/-- R233: refused for regions that the new load `new` would bring over the limit: ADM_REJ and event 0x412 of each. -/
def Dev.admReject (new : Dev) (rs : List Nat) (d : Dev) : Dev :=
  each rs (fun r d => (d.setF (F.tskRgnLoad_ADM_REJ r) 1).event 0x412 r (mkW [(9, 0, new.permille r)])) d

/-- A local member of a beam runs. -/
def Dev.beamRuns (d : Dev) (b : Nat) : Bool := (d.allMembers b).any fun m => d.inputRuns m.1

/-! ### Member tables (R195, R205) -/

/-- The word of a member table: as it stands here, or as it was read from another package. -/
def Dev.tabWord (d : Dev) (got : SMap (Option Word)) (a : Nat) : Option Word := (d.rsPeek a).orElse fun _ => mget got a

/-- The words of a member table; one whose read brought none is free (assumption 112). -/
def Dev.tableWords (got : SMap (Option Word)) (addr : Nat) : Nat → Dev → List Word × Dev
  | 0, d => ([], d)
  | n + 1, d =>
    let (l, d) := d.tableWords got addr n
    match d.tabWord got (addr + n) with
    | some w => (l ++ [w], d)
    | none =>
      let (v, d) := d.fresh
      (l ++ [toW v], d)

/-- The lines of `n` words from an address, each with its first word and how many of the words lie in it, of which this
package does not hold every word. -/
def Dev.tabLines (d : Dev) (a n : Nat) : List (Nat × Nat) :=
  if n = 0 then []
  else ((List.range ((a + n - 1) / 16 + 1 - a / 16)).map fun k =>
      let lo := Nat.max a ((a / 16 + k) * 16)
      (lo, Nat.min (a + n) ((a / 16 + k + 1) * 16) - lo)).filter fun x =>
    (List.range x.2).any fun i => (d.rsPeek (x.1 + i)).isNone

/-- Tables read by non-allocating reads of the CP, under a key of `Tsk.tabRds` (R366). -/
def Dev.tabAsk (k : Nat) (ls : List (Nat × Nat)) (d : Dev) : Dev :=
  let d := { d with tsk := { d.tsk with tabRds := mset d.tsk.tabRds k (some ⟨[], ls.length⟩) } }
  each ls (fun x d => d.cohSend (.tab k) 64 { code := 3, addr := x.1, mask := lineMask (x.1 % 16) x.2 }) d

/-- R195: an input and sub-channel at the end of a recipe that ends without PACK and after a step other than DETECT. -/
def Dev.memberOk (d : Dev) (m : Nat × Nat) : Bool :=
  let r := (d.source m.1).coming
  m.1 ≤ 5119 && (match r.getLast? with
    | some s => s.code != 5 && s.code != 6
    | none => false)
    && (match r.find? (·.code == 3) with
      | some f => bitsOf f.sw0 19 12 ≤ m.2 && m.2 < bitsOf f.sw0 19 12 + bitsOf f.sw0 28 20
      | none => m.2 == 0)

/-- R197: the ring zeroed, BLOCK of ring block a set to a. -/
def Dev.ringClear (x : Beam) (d : Dev) : Dev :=
  forN 772 (fun l d =>
    d.cohSend .nothing 64 { code := 9, addr := x.area + 16 * l, mask := 0xFFFF
                            ws := if l % 193 = 0 then 0 :: toW (l / 193) :: List.replicate 14 0 else List.replicate 16 0 }) d

/-- The beam that the request of mailbox `n` describes, but for its cost entry and members. -/
def Dev.beamArg (d : Dev) (n : Nat) : Beam :=
  let w := d.arg n
  { collect := bitOf (w 1) 35, clu := bitsOf (w 1) 19 14, area := rsaAddr (w 2), nContrib := bitsOf (w 3) 11 0
    rshift := bitsOf (w 3) 18 12, oshift := bitsOf (w 3) 24 19, tab0 := rsaAddr (w 4), tab1 := rsaAddr (w 5)
    count := bitsOf (w 6) 12 0, nMemb := bitsOf (w 7) 17 0, cost := 0, members := [], members1 := []
    parts := [], expired := [], seen := [], asked := false }

/-- An address of a beam is line-aligned, and `m` words at it are backed. -/
def Dev.beamBacked (d : Dev) (a m : Nat) : Bool := a % 16 == 0 && (m == 0 || d.rsaBacked a m)

/-- The tables of the beam of a request can be read. -/
def Dev.tabsBacked (d : Dev) (x : Beam) : Bool :=
  decide (x.count ≤ 5120) && d.beamBacked x.tab0 (2 * x.count) && d.beamBacked x.tab1 (2 * x.count)

/-- BEAM_SET once every table word that can be had is had, `got` from other packages; `ans` answers. -/
def Dev.beamPut (n : Nat) (got : SMap (Option Word)) (ans : Nat → Dev → Dev) (d : Dev) : Dev :=
  let w := d.arg n
  let b := bitsOf (w 1) 13 0
  let k := 0x10000 + b
  let x := d.beamArg n
  let cnt := 2 * Nat.min 5120 x.count
  let (tab, d1) := d.tableWords got x.tab0 cnt
  let (tab1, d1) := d1.tableWords got x.tab1 cnt
  let (v, d1) := d1.fresh
  let x := { x with cost := v % 256, members := membersOf tab, members1 := membersOf tab1 }
  let high := bitsOf (w 1) 34 20 ≠ 0 || bitsOf (w 2) 35 28 ≠ 0 || bitsOf (w 3) 35 25 ≠ 0 || bitsOf (w 4) 35 28 ≠ 0
    || bitsOf (w 5) 35 28 ≠ 0 || bitsOf (w 6) 35 13 ≠ 0 || bitsOf (w 7) 35 18 ≠ 0
  if d.beamRuns b || (x.count ≤ 5120 && x.members.any fun m => d.inputRuns m.1) then ans stBUSY d
  else if high || x.nContrib = 0 || x.rshift > 44 || x.oshift > 35 || !d.tabsBacked x || x.nMemb = 0
      || !d.beamBacked x.area (4 * 3088) || !x.members.all d.memberOk then ans stBAD_ARG d
  else
    let new := (d1.modBeam b fun _ => x).modSource k fun s => { s with
      recipe := s.coming, next := none, steps := [], cancelAt := none, cancelled := 0 }
    let regs := new.loadRegions k
    let full := regs.filter fun r => !d.admits new r
    if full.isEmpty then
      let d := ans stOK (each regs Dev.loadUpdate new)
      if x.collect then d.ringClear x else d
    else ans stNO_RESOURCE (Dev.admReject new full d)

/-- BEAM_SET, opcode 0x402: table words that another package holds are read first, and the command waits for them. -/
def Dev.beamSet (n : Nat) (d : Dev) : Dev :=
  let x := d.beamArg n
  let ls := if d.tabsBacked x then d.tabLines x.tab0 (2 * x.count) ++ d.tabLines x.tab1 (2 * x.count) else []
  if ls.isEmpty then d.beamPut n [] fun st d => d.reply n st [] else (d.hold n).tabAsk n ls

/-- Words of a member table, or the end of a read that brought none: with the last of them BEAM_SET goes on, or the members
of a bank are those of its table. -/
def Dev.tabGot (k : Nat) (m : CMsg) (st : Nat) (ws : List Word) (d : Dev) : Dev :=
  match mget d.tsk.tabRds k with
  | none => d
  | some r =>
    let got := if st = stOK || st = stPOISONED then
        ((maskWords m.mask).zip ws).foldl (fun g (i, w) => mset g (m.addr / 16 * 16 + i) (some w)) r.got
      else r.got
    let put := fun (x : Option TabRd) (d : Dev) => { d with tsk := { d.tsk with tabRds := mset d.tsk.tabRds k x } }
    if r.left > 1 then put (some ⟨got, r.left - 1⟩) d
    else
      let d := put none d
      if k < 16 then (if d.cp.executing.contains k then d.beamPut k got fun st d => d.finish k st [] else d)
      else
        let b := (k - 16) / 2
        let x := d.beam b
        if k % 2 = 0 then
          let (ws, d) := d.tableWords got x.tab0 (2 * x.count)
          d.modBeam b fun x => { x with members := membersOf ws }
        else
          let (ws, d) := d.tableWords got x.tab1 (2 * x.count)
          d.modBeam b fun x => { x with members1 := membersOf ws }

/-- A table switch of a beam to bank `hi` has its table read where another package holds words of it. -/
def Dev.bankAsk (b : Nat) (hi : Bool) (d : Dev) : Dev :=
  let x := d.beam b
  let ls := d.tabLines (if hi then x.tab1 else x.tab0) (2 * x.count)
  if ls.isEmpty then d else d.tabAsk (16 + 2 * b + bit hi) ls

end Sys2Proof.Machine
end

