-- ==== Sys2Proof/Machine/Bridge.lean ====
section
/-! DEFINITION. TM9 as a Fiuth slave and the bridge between Fiuth and Lysith (R35 to R37, R283 to R295, R309 to R337):
inbound reads, posted writes, locked pairs, messages, FIU_ACCESS; and the settling of everything that is in progress
inside the package. -/

namespace Sys2Proof.Machine

/-! ### The slave region (R35, R36) -/

/-- What an address of a port reaches: nothing of TM9's, a register, an ingest page, a window at an offset, or nothing
that answers. -/
inductive InTgt where
  | other
  | reg (off : Nat)
  | page (k : Nat)
  | win (w o : Nat)
  | rej
deriving DecidableEq, Repr

/-- R35, R306: the target of a Fiuth address. -/
def Dev.inTarget (d : Dev) (p addr : Nat) : InTgt :=
  let o := addr % 2 ^ 26
  if d.fpDeaf p || !d.fb (F.fiuSlvBase_EN p) || addr / 2 ^ 26 ≠ d.f (F.fiuSlvBase_BASE p) then .other
  else if o < 0x800000 then .reg o
  else if o < 0xC00000 then .page ((o - 0x800000) / 0x1000)
  else if o < 0x1000000 then .rej
  else .win ((o - 0x1000000) / 0x400000) ((o - 0x1000000) % 0x400000)

/-- The answers of R285 as TM9 gives them. -/
def Dev.ack (p : Nat) (ds : List (Word × Bool)) (d : Dev) : Dev := d.emit (.fiuAns p 0 0 ds)
def Dev.rej (p : Nat) (d : Dev) : Dev := d.emit (.fiuAns p 1 0 [])
def Dev.retryAns (p : Nat) (d : Dev) : Dev := d.emit (.fiuAns p 3 0 [])

/-- R295: what the master's slot entry allows. -/
def Dev.defOk (d : Dev) (p src : Nat) : Bool := src == 16 || d.fb (F.fiuMod_DEF_OK p src)
def Dev.rtyOk (d : Dev) (p src : Nat) : Bool := src < 16 && d.fb (F.fiuMod_RTY_OK p src)

/-- The path of a port. -/
def fiuPath (p : Nat) : Path := .fiuth (Fin.ofNat 4 p)

/-! ### Inbound addresses (R312, R313) -/

/-- The 40-bit or Tweed address of an offset of an inbound window, and which of them it is. -/
def Dev.inLys (d : Dev) (p w o : Nat) : Nat × Bool :=
  let b := d.f (F.brgIwinBase_BASE p w)
  if d.f (F.brgIwinCfg_XLT p w) = 1 then (b % 2 ^ 14 * 2 ^ 22 + o, true) else ((b * 16 + o) % 2 ^ 40, false)

/-- R23 for an access of the bridge to a local address of this package. -/
def Dev.inLocalErr (d : Dev) (p : Nat) (write : Bool) (a : Nat) : Bool :=
  let m : CMsg := { code := 9, agent := d.agentOf 66 }
  match winOf a with
  | .regs => if write then d.writeRefused (fiuPath p) (a - regBase) else d.regRefused (fiuPath p) (a - regBase)
  | .unbacked => true
  | .rstore | .hbm _ => write && (d.imageWrite m a || d.bankWrite m a)
  | _ => write

/-- R312, R313: the bridge decodes an address error itself; the address that R23 reports. -/
def Dev.inErr (d : Dev) (p : Nat) (write : Bool) (lys : Nat) (tweed : Bool) : Option Nat :=
  if tweed then
    let (pkg, a) := tweedOf lys
    if !d.fb F.topView_VIEW then some (lys % 2 ^ 36)
    else if d.fb F.topPkg_ASSIGNED && pkg = d.pkgId && d.inLocalErr p write a then some (d.fullAddr a)
    else none
  else match d.target lys with
    | .err => some lys
    | .here a => if d.inLocalErr p write a then some lys else none
    | _ => none

/-- R324: a lock is accepted on a region store or HBM; one by Tweed address names this package (assumption 34). -/
def Dev.lockable (d : Dev) (lys : Nat) (tweed : Bool) : Bool :=
  if tweed then d.fb F.topPkg_ASSIGNED && (tweedOf lys).1 = d.pkgId
  else match winOf (lys % 2 ^ 34) with
    | .rstore | .hbm _ => true
    | _ => false

/-! ### Inbound reads (R319 to R324) -/

/-- An inbound read of a port. -/
def Dev.inRead (d : Dev) (p i : Nat) : Option InRead := mget (d.fp p).tags i

/-- An inbound read changed. -/
def Dev.setRead (p i : Nat) (r : InRead) (d : Dev) : Dev := d.modFp p fun x => { x with tags := mset x.tags i (some r) }

/-- An inbound read asks for nothing more: the next may be issued (R336). -/
def Dev.inIssued (p i : Nat) (d : Dev) : Dev := d.modFp p fun x => { x with issue := x.issue.filter fun r => r.1 != i }

/-- The Lysith request for the next words of an inbound read, under its tag; the last of them lets the next read be issued. -/
def Dev.inIssue (p i : Nat) (r : InRead) (d : Dev) : Dev :=
  let a := r.lys + r.part.length
  let n := Nat.min (16 - a % 16) (r.cnt - r.part.length)
  let d := d.setRead p i { r with begun := true }
  let d := if r.part.length + n = r.cnt then d.inIssued p i else d
  if r.cmd = 5 then
    (d.cohIssue (.fiuRd p i) 66 (some (p * 64 + i))
      { code := 6, sub := p, addr := d.inAddr r.lys r.tweed, mask := 2 ^ (a % 16) }).2
  else if r.tweed then
    d.tweedIssue (.fiuRd p i) 66 (p * 64 + i) a { code := 3, addr := a, mask := lineMask (a % 16) n }
  else
    (d.cohIssue (.fiuRd p i) 66 (some (p * 64 + i)) { code := readCode a, addr := a, mask := lineMask (a % 16) n }).2

/-- An abandoned read: its tag is freed once its completion is there, a lock it took released. -/
def Dev.inAbandon (p i : Nat) (r : InRead) (d : Dev) : Dev :=
  match r.data with
  | none => d.setRead p i { r with ans := 4 }
  | some (st, _) =>
    let d := d.freeTag p i
    if r.cmd = 5 && (st = stOK || st = stPOISONED) then d.sendUnlock p (d.inAddr r.lys r.tweed) else d

/-- The words of a completed read as driven on Fiuth (R317, R318). -/
def InRead.drive (r : InRead) (ws : List (Word × Bool)) : List (Word × Bool) := ws.map fun x => (widthW r.width x.1, x.2)

/-- A failed read: event 0x711. -/
def Dev.inFail (p : Nat) (r : InRead) (st : Nat) (d : Dev) : Dev :=
  d.event 0x711 p (mkW [(8, 4, r.src), (3, 0, if st = stADDR then 1 else 2)])

/-- R320, R324: an answer to the handshake that waits. -/
def Dev.inAnswer (p i : Nat) (r : InRead) (st : Nat) (ws : List (Word × Bool)) (d : Dev) : Dev :=
  if st = stOK || st = stPOISONED then
    let d := d.ack p (r.drive ws)
    if r.cmd = 5 then
      (d.setRead p i { r with ans := 5, data := none }).modFp p fun x => { x with lock := some (r.src, r.addr, true) }
    else d.freeTag p i
  else ((d.rej p).inFail p r st).freeTag p i

/-- R321: the REPLY of a deferred read. -/
def Dev.inReply (p i : Nat) (r : InRead) (st : Nat) (ws : List (Word × Bool)) (d : Dev) : Dev :=
  let err := !(st = stOK || st = stPOISONED)
  let hdr := mkW [(24, 24, bit err), (23, 18, r.cnt - 1), (17, 13, d.myCode p), (12, 8, r.src), (7, 0, p * 64 + i)]
  let d := if err then d.inFail p r st else d
  d.ownPush p { cmd := 9, addr := hdr, cnt := if err then 1 else r.cnt, ws := if err then [] else r.drive ws
                k := 0, got := [], retries := 0, owner := .reply i }

/-- Words of a request of an inbound read, or the acknowledgement of its LOCK_WRITE. -/
def Dev.inGot (p i : Nat) (m : CMsg) (st : Nat) (ws : List Word) (d : Dev) : Dev :=
  match d.inRead p i with
  | none => d
  | some r =>
    if m.code = 7 then
      -- A LOCK_WRITE that its home refuses as an address error leaves the line locked: the lock ends with its answer (R290).
      let d := d.freeTag p i
      let d := if st = stADDR then d.sendUnlock p (d.inAddr r.lys r.tweed) else d
      if r.ans = 7 then d else if st = stOK then d.ack p [] else d.rej p
    else if st ≠ stOK && st ≠ stPOISONED then
      let r := { r with data := some (st, []) }
      let d := d.inIssued p i
      if r.ans = 4 then d.inAbandon p i r else d.setRead p i r
    else
      let ws := if m.code = 6 then [nth ws (m.addr % 16)] else ws
      let part := r.part ++ ws.map fun w => (w, st == stPOISONED)
      let r := { r with part := part }
      let all := if part.any (·.2) then stPOISONED else stOK
      if part.length < r.cnt && r.ans ≠ 4 then (d.setRead p i r).inIssue p i r
      else
        let r := { r with data := some (all, part) }
        let d := d.inIssued p i
        if r.ans = 4 then d.inAbandon p i r else d.setRead p i r

/-- R311: the cycle is refused by its window; a LOCK_READ is a read, a LOCK_WRITE a write (R288). -/
def Dev.winRefused (d : Dev) (p w o cnt cmd : Nat) : Bool :=
  !d.fb (F.brgIwinCfg_EN p w) || o + cnt > d.f (F.brgIwinCfg_LIMIT p w) + 1
    || ((cmd = 5 || cmd = 6) && !d.fb (F.brgIwinCfg_LOCK_EN p w))
    || (if cmd = 1 || cmd = 3 || cmd = 5 then !d.fb (F.brgIwinCfg_RD_EN p w) else !d.fb (F.brgIwinCfg_WR_EN p w))

/-- The hold of a slot (R322). -/
def Dev.holdOf (d : Dev) (p src : Nat) : Option (Nat × InRead) :=
  (d.fp p).tags.findSome? fun (i, r) => r.bind fun r => if r.src = src && r.ans = 2 then some (i, r) else none

/-- R322, R323: a hold ends without its data. -/
def Dev.holdEnd (p i : Nat) (r : InRead) (d : Dev) : Dev := (d.readLost p r.src 0 r.isReg).inAbandon p i r

/-- R23, R36: a LOCK_READ at a target that takes no lock is an address error. -/
def Dev.lockErr (p lys : Nat) (d : Dev) : Dev := (d.addrError 66 lys).rej p

/-- A read accepted into a window: a tag, and its Lysith read (R319), behind the posted writes accepted before it (R336). -/
def Dev.readStart (p src cmd : Nat) (addr : Word) (w o cnt : Nat) (d : Dev) : Dev :=
  let (lys, tweed) := d.inLys p w o
  match (List.range cnt).findSome? fun k => d.inErr p false (lys + k) tweed with
  | some a => (d.addrError 66 a).rej p
  | none =>
    if cmd = 5 && !d.lockable lys tweed then if tweed then d.rej p else d.lockErr p lys
    else match firstN 64 fun i => (d.inRead p i).isNone with
      | none =>
        let d := d.inc (F.brgPortCnt_TAG_FULL p) 1
        if d.rtyOk p src then d.retryAns p else d.rej p
      | some i =>
        let r : InRead := { src := src, cmd := cmd, addr := addr, cnt := cnt, width := d.f (F.brgIwinCfg_WIDTH p w)
                            lys := lys, tweed := tweed, ans := 0, part := [], data := none
                            isReg := !tweed && winOf (lys % 2 ^ 34) = .regs }
        (d.setRead p i r).modFp p fun x => { x with issue := x.issue ++ [(i, x.posted.map (·.num))] }

/-- The read repeats the held one (R322). -/
def InRead.repeats (r : InRead) (t : InTgt) (cmd : Nat) (addr : Word) (cnt : Nat) : Bool :=
  r.cmd = cmd && r.addr = addr && r.cnt = cnt && (match t with
    | .win _ _ => true
    | _ => false)

/-- R322: the hold of a slot ends at any other read of it. -/
def Dev.holdDrop (p src cmd : Nat) (t : InTgt) (addr : Word) (cnt : Nat) (d : Dev) : Dev :=
  match d.holdOf p src with
  | some (i, r) => if r.repeats t cmd addr cnt then d else (d.inc (F.brgPortCnt_RTY_DISC p) 1).holdEnd p i r
  | none => d

/-- A read of an inbound window (R311, R319, R322). -/
def Dev.winRead (p src cmd : Nat) (addr : Word) (w o cnt : Nat) (d : Dev) : Dev :=
  if d.winRefused p w o cnt cmd then (d.inc (F.brgPortCnt_WIN_REJ p) 1).rej p
  else match d.holdOf p src with
    | some (i, r) => match r.data with
      | some (st, ws) => d.inAnswer p i r st ws
      | none => d.retryAns p
    | none => d.readStart p src cmd addr w o cnt

/-- Registers of the mirror read word by word; a refused word ends the cycle (R36, R289). -/
def Dev.mirrorRead (p : Nat) : Nat → Nat → List (Word × Bool) → Dev → Dev
  | 0, _, acc, d => d.ack p acc
  | n + 1, off, acc, d =>
    let bad := d.regRefused (fiuPath p) off
    let (w, d) := d.regRead (fiuPath p) off
    if bad then (if acc.isEmpty then d else d.ack p acc).rej p
    else d.mirrorRead p n (off + 1) (acc ++ [(w, false)])

/-- A READ, BLOCK_READ or LOCK_READ header for TM9's slave region; a read of an ingest page has no meaning and is
refused (assumption 34). -/
def Dev.slaveRead (p src cmd : Nat) (addr : BusWord) (cnt : Nat) (d : Dev) : Dev :=
  match d.inTarget p addr.w.toNat with
  | .other => d
  | t =>
    let d := d.headerSeen p cmd
    if addr.bad then (d.fiuPar p 1).rej p
    else
      let d := d.holdDrop p src cmd t addr.w cnt
      if addr.w.toNat % 256 + cnt > 256 then d.rej p
      else match t with
        | .reg off => if cmd = 5 then d.lockErr p (d.regAddr off) else d.mirrorRead p cnt off []
        | .win w o => d.winRead p src cmd addr.w w o cnt
        | _ => d.rej p

/-! ### Inbound writes (R325, R332) -/

/-- Words in the posted buffer. -/
def Dev.pwFill (d : Dev) (p : Nat) : Nat := ((d.fp p).posted.map fun w => popcount 16 w.mask).foldl (· + ·) 0

/-- Consecutive words gathered by line: first address and words. -/
def lineParts : List (Nat × Word) → List (Nat × List Word)
  | [] => []
  | (a, w) :: xs =>
    match lineParts xs with
    | (b, ws) :: rs => if b / 16 = a / 16 then (a, w :: ws) :: rs else (a, [w]) :: (b, ws) :: rs
    | [] => [(a, [w])]

/-- The last write of the posted buffer takes words that follow its own in its line. -/
def Posted.joins (y : Posted) (a : Nat) (l : List Word) : Option Posted :=
  if !y.sent && y.addr + y.ws.length = a && y.addr / 16 = a / 16 then
    some { y with ws := y.ws ++ l, mask := y.mask ||| lineMask (a % 16) l.length }
  else none

/-- Words that enter the posted buffer, those of one line as one write; `more`: they follow words of the same cycle, which
the last write may hold. It comes behind the messages made before it (R336). -/
def Dev.postAdd (p src : Nat) (tweed more : Bool) (ws : List (Nat × Word)) (d : Dev) : Dev :=
  each (lineParts ws).zipIdx (fun ((a, l), k) d => d.modFp p fun x =>
    match if more && k = 0 then x.posted.getLast?.bind fun y => y.joins a l else none with
    | some y => { x with posted := x.posted.dropLast ++ [y] }
    | none => { x with
      postNext := x.postNext + 1
      posted := x.posted ++ [{ num := x.postNext, src := src, addr := a, mask := lineMask (a % 16) l.length, ws := l
                               tweed := tweed, sent := false, msgs := x.msgCnt + x.msgs.length }] }) d

/-- The answer to the last word of a posted write, or to the word that failed behind those that stand (R283, R325). -/
def Dev.postAnswer (p : Nat) (fail : Option (Option Nat)) (d : Dev) : Dev :=
  match fail with
  | none => d.ack p []
  | some none => (d.fiuPar p 0).rej p
  | some (some a) => (d.addrError 66 a).rej p

/-- R325: as many words as the buffer has room for enter it; the others wait; the answer follows the last. -/
def Dev.postOffer (p src : Nat) (tweed : Bool) (ws : List (Nat × Word)) (fail : Option (Option Nat)) (d : Dev) : Dev :=
  let n := 256 - d.pwFill p
  let d := d.postAdd p src tweed (d.fp p).held.isSome (ws.take n)
  if ws.length ≤ n then (d.modFp p fun x => { x with held := none }).postAnswer p fail
  else d.modFp p fun x => { x with held := some ⟨src, tweed, ws.drop n, fail⟩ }

/-- The oldest posted write goes to its target. -/
def Dev.postSend (p : Nat) (w : Posted) (d : Dev) : Dev :=
  let d := d.modFp p fun x => { x with posted := x.posted.map fun y => if y.num = w.num then { y with sent := true } else y }
  let m : CMsg := { code := 9, addr := w.addr, mask := w.mask, ws := w.ws }
  if w.tweed then d.tweedIssue (.fiuWr p w.num) 66 p w.addr m else (d.cohIssue (.fiuWr p w.num) 66 (some p) m).2

/-- A posted write is acknowledged by its target, or failed there (R328). -/
def Dev.postAck (p num st : Nat) (d : Dev) : Dev :=
  match (d.fp p).posted.find? fun w => w.num == num with
  | none => d
  | some w =>
    let d := d.modFp p fun x => { x with posted := x.posted.filter fun y => y.num != num }
    if st = stADDR then d.postedErr 0 p w.src 1 w.addr
    else if st = stTIMEOUT then d.postedErr 0 p w.src 2 w.addr
    else d

/-- What a port's buffers toward Lysith can do next: words that wait for room, the oldest write not yet at its target, the
oldest read whose writes ahead are acknowledged (R325, R336). No write passes an earlier message, no read an earlier read
whose words are not all asked for. -/
def Dev.portNext (p : Nat) (d : Dev) : Option Dev :=
  let x := d.fp p
  let post := match x.posted with
    | w :: _ => if w.sent || x.msgCnt < w.msgs then none else some (d.postSend p w)
    | [] => none
  let read := match x.issue with
    | (i, ahead) :: _ => match d.inRead p i with
      | some r =>
        if r.begun || ahead.any (fun n => x.posted.any fun w => w.num == n) then none else some (d.inIssue p i r)
      | none => some (d.inIssued p i)
    | [] => none
  match x.held with
  | some h => if d.pwFill p < 256 then some (d.postOffer p h.src h.tweed h.ws h.fail) else post.or read
  | none => post.or read

/-- What the bridge can do next at some port. -/
def Dev.postNext (d : Dev) : Option Dev := (List.range 4).findSome? fun p => d.portNext p

/-- The words of a write cycle with their addresses, up to one that fails: the words that stand, and the failure of the
next: parity, or an address error at the address. -/
def Dev.takeWords (d : Dev) (p : Nat) (lys : Nat) (tweed : Bool) (width : Nat) :
    List BusWord → List (Nat × Word) × Option (Option Nat)
  | [] => ([], none)
  | b :: bs =>
    if b.bad then ([], some none)
    else match d.inErr p true lys tweed with
      | some a => ([], some (some a))
      | none =>
        let (l, e) := d.takeWords p (lys + 1) tweed width bs
        ((lys, widthW width b.w) :: l, e)

/-- A write into an inbound window. -/
def Dev.winWrite (p src cmd w o : Nat) (ds : List BusWord) (d : Dev) : Dev :=
  if d.winRefused p w o ds.length cmd then (d.inc (F.brgPortCnt_WIN_REJ p) 1).rej p
  else
    let (lys, tweed) := d.inLys p w o
    let (l, e) := d.takeWords p lys tweed (d.f (F.brgIwinCfg_WIDTH p w)) ds
    d.postOffer p src tweed l e

/-- Registers of the mirror, or words of an ingest page, written word by word. -/
def Dev.directWrite (p : Nat) (t : InTgt) : Nat → List BusWord → Dev → Dev
  | _, [], d => d.ack p []
  | k, b :: bs, d =>
    if b.bad then (d.fiuPar p 0).rej p
    else match t with
      | .reg off =>
        let bad := d.writeRefused (fiuPath p) (off + k)
        let d := d.regWrite (fiuPath p) (off + k) b.w
        if bad then d.rej p else d.directWrite p t (k + 1) bs
      | .page n => (d.fchWord n b.w).directWrite p t (k + 1) bs
      | _ => d.rej p

/-- A WRITE or BLOCK_WRITE header for TM9's slave region. -/
def Dev.slaveWrite (p src cmd : Nat) (addr : BusWord) (ds : List BusWord) (d : Dev) : Dev :=
  match d.inTarget p addr.w.toNat with
  | .other => d
  | t =>
    let d := d.headerSeen p cmd
    if addr.bad then (d.fiuPar p 1).rej p
    else if ds.isEmpty || ds.length > 64 || addr.w.toNat % 256 + ds.length > 256 then d.rej p
    else match t with
      | .win w o => d.winWrite p src cmd w o ds
      | .rej => d.rej p
      | t => d.directWrite p t 0 ds

/-! ### Locked pairs (R290, R324) -/

/-- The locked pair that a port holds as slave. -/
def Dev.pairOf (d : Dev) (p : Nat) : Option (Nat × InRead) :=
  (d.fp p).tags.findSome? fun (i, r) => r.bind fun r => if r.ans = 5 then some (i, r) else none

/-- The write of a locked pair at its target: refused where the window refuses it now (R311, R314) or its word is bad; a
window that has moved makes it another address (R290). -/
def Dev.pairWrite (p i w o : Nat) (r : InRead) (b : BusWord) (d : Dev) : Dev :=
  if d.winRefused p w o 1 6 then ((d.inc (F.brgPortCnt_WIN_REJ p) 1).brgUnlock p).rej p
  else if b.bad then ((d.fiuPar p 0).brgUnlock p).rej p
  else
    let la := d.inAddr r.lys r.tweed
    (d.setRead p i { r with ans := 6 }).cohIssue (.fiuRd p i) 66 (some (p * 64 + i))
      { code := 7, sub := p, addr := la, mask := 2 ^ (la % 16), ws := [widthW (d.f (F.brgIwinCfg_WIDTH p w)) b.w] } |>.2

/-- The pair that a LOCK_WRITE of this master to this address writes, with the window and offset it names. -/
def Dev.pairNamed (d : Dev) (p src : Nat) (addr : BusWord) (t : InTgt) : Option (Nat × Nat × Nat × InRead) :=
  match t, (d.fp p).lock, d.pairOf p with
  | .win w o, some (s, a, true), some (i, r) =>
    if !addr.bad && s = src && a = addr.w && d.inLys p w o = (r.lys, r.tweed) then some (w, o, i, r) else none
  | _, _, _ => none

/-- A LOCK_WRITE header for TM9's slave region: the write of the pair that the port holds, or a header that breaks it and is
refused, by its window where that refuses it (R311). -/
def Dev.lockWrite (p src : Nat) (addr b : BusWord) (d : Dev) : Dev :=
  match d.inTarget p addr.w.toNat with
  | .other => d
  | t =>
    match d.pairNamed p src addr t with
    | some (w, o, i, r) => ((d.modFp p fun x => { x with lock := none }).headerSeen p 6).pairWrite p i w o r b
    | none =>
      let d := d.headerSeen p 6
      if addr.bad then (d.fiuPar p 1).rej p
      else match t with
        | .win w o => (if d.winRefused p w o 1 6 then d.inc (F.brgPortCnt_WIN_REJ p) 1 else d).rej p
        | _ => d.rej p

/-! ### Units' requests -/

/-- A unit changed. -/
def Dev.modUnit (u : Nat) (f : UnitS → UnitS) (d : Dev) : Dev :=
  { d with tsk := { d.tsk with units := mmod d.tsk.units u f } }

/-- R364: the unit issues no further ACC36 of the block. -/
def Dev.accStop (u : Nat) (d : Dev) : Dev :=
  let waits := fun (w : CWait) => w.who == .unit u && w.m.code == 5
  (d.modUnit u fun x => { x with wait := x.wait - d.coh.tagWait.countP waits }).modCoh fun c =>
    { c with tagWait := c.tagWait.filter fun w => !waits w }

/-- Words that a unit's running task asked for, or the end of one of its other requests (R364, R365). -/
def Dev.unitGot (u : Nat) (m : CMsg) (st : Nat) (ws : List Word) (d : Dev) : Dev :=
  let d := if m.code = 5 && st ≠ stOK then d.accStop u else d
  d.modUnit u fun x =>
    let ok := st == stOK || st == stPOISONED
    let rd := m.code == 1 || m.code == 3
    { x with
      wait := x.wait - 1
      failed := x.failed || !ok || (!rd && st == stPOISONED)
      got := if rd && ok then ((maskWords m.mask).zip ws).foldl (fun g (i, w) =>
        mset g (m.addr / 16 * 16 + i) (some (w, st == stPOISONED))) x.got else x.got }

/-- COUNT of a ring block in another package, as it was read (R199, R208). -/
def Dev.countGot (b g st : Nat) (ws : List Word) (d : Dev) : Dev :=
  { d with tsk := { d.tsk with beams := mmod d.tsk.beams b fun x => { x with
    asked := false, seen := if st = stOK then mset x.seen g (some (nth ws 0).toNat) else x.seen } } }

/-- R230: the beam wait of block `g` has expired with COUNT `cnt`. -/
def Dev.beamExpire (b g cnt : Nat) (d : Dev) : Dev :=
  let d := d.modBeam b fun x => { x with expired := x.expired ++ [g] }
  d.event 0x413 ((d.beam b).clu / 8) (mkW [(31, 18, b), (11, 0, cnt)])

/-- COUNT of a ring block in another package at the end of the beam wait (R230): short of N_CONTRIB, the wait has expired; so it
has with a free COUNT where the read brought none (assumption 107). -/
def Dev.countAtGot (b g st : Nat) (ws : List Word) (d : Dev) : Dev :=
  let x := d.beam b
  if x.expired.contains g || (d.stepRun (0x10000 + b) 4).ready ≠ g then d
  else if st ≠ stOK then
    let (v, d) := d.fresh
    d.beamExpire b g v
  else if (nth ws 0).toNat = x.nContrib then d.countGot b g st ws
  else d.beamExpire b g (nth ws 0).toNat

/-! ### Settling -/

/-- A completed request handed on to what it is for. -/
def Dev.handOn (x : CohWho × CMsg × Nat × List Word) (d : Dev) : Dev :=
  let (who, m, st, ws) := x
  match who with
  | .host k => d.hostGot k m ws
  | .fiuRd p i => d.inGot p i m st ws
  | .fiuWr p k => d.postAck p k st
  | .unit u => d.unitGot u m st ws
  | .count b g => d.countGot b g st ws
  | .countAt b g => d.countAtGot b g st ws
  | .tab k => d.tabGot k m st ws
  | .mbx n => d.canvasGot n m ws
  | _ => d

/-- One thing that is in progress inside the package goes on: a completed request, a request to a window without home,
one that waited for a TAG, a posted write. -/
def Dev.settleOne (d : Dev) : Option Dev :=
  match d.coh.done with
  | x :: xs => some ((d.modCoh fun c => { c with done := xs }).handOn x)
  | [] => match d.coh.plain with
    | m :: ms => some ((d.modCoh fun c => { c with plain := ms }).plainDo m)
    | [] => match d.cohRetry with
      | some d => some d
      | none => d.postNext

/-- Everything that needs no message from outside the package happens (assumption 28). -/
def Dev.settleN : Nat → Dev → Dev
  | 0, d => d
  | fuel + 1, d =>
    let d := d.cohSettle 64
    match d.settleOne with
    | some d => d.settleN fuel
    | none => d

/-- Settled: what waited for a Fiuth port goes on (R306, R437). -/
def Dev.brgSettle (d : Dev) : Dev := forN 4 (fun p d => (d.portIdle p).egFlow (264 + p)) (d.settleN 65536)

/-! ### The rows of inbound cycles -/

/-- READ (R287, R311, R319, R322). -/
def execRead (p : Fin 4) (src : Fin 17) (addr : BusWord) : State → R :=
  liftBb fun d => (d.slaveRead p src 1 addr 1).brgSettle

/-- BLOCK_READ (R289): `cnt` is the count word's C - 1. -/
def execBlockRead (p : Fin 4) (src : Fin 17) (addr : BusWord) (cnt : Fin 64) : State → R :=
  liftBb fun d => (d.slaveRead p src 3 addr (cnt.val + 1)).brgSettle

/-- WRITE (R288, R325). -/
def execWrite (p : Fin 4) (src : Fin 17) (addr : BusWord) (b : BusWord) : State → R :=
  liftBb fun d => (d.slaveWrite p src 2 addr [b]).brgSettle

/-- BLOCK_WRITE (R289, R325). -/
def execBlockWrite (p : Fin 4) (src : Fin 17) (addr : BusWord) (ds : List BusWord) : State → R :=
  liftBb fun d => (d.slaveWrite p src 4 addr ds).brgSettle

/-- LOCK_READ (R290, R324). -/
def execLockRead (p : Fin 4) (src : Fin 17) (addr : BusWord) : State → R :=
  liftBb fun d => (d.slaveRead p src 5 addr 1).brgSettle

/-- LOCK_WRITE (R290, R324). -/
def execLockWrite (p : Fin 4) (src : Fin 17) (addr : BusWord) (b : BusWord) : State → R :=
  liftBb fun d => (d.lockWrite p src addr b).brgSettle

/-- R320, R324, R295: an inbound read without its completion at edge IMM. -/
def Dev.immEdge (p i : Nat) (d : Dev) : Dev :=
  match d.inRead p i with
  | none => d
  | some r =>
    if r.ans ≠ 0 then d
    else if r.cmd = 5 then
      if d.rtyOk p r.src then (d.retryAns p).inAbandon p i r else d.setRead p i { r with ans := 3 }
    else if d.defOk p r.src then (d.setRead p i { r with ans := 1 }).emit (.fiuAns p 2 (p * 64 + i) [])
    else if d.rtyOk p r.src then (d.setRead p i { r with ans := 2 }).retryAns p
    else d.setRead p i { r with ans := 3 }

/-- IMM_EDGE. -/
def execImmEdge (p : Fin 4) (tag : Fin 64) : State → R := liftBb fun d => (d.immEdge p tag).brgSettle

/-- R295, R324, R325: what of master `src` waits at edge 96. -/
def Dev.edge96 (p src : Nat) (d : Dev) : Dev :=
  match (d.fp p).held with
  | some h =>
    if h.src = src then
      let d := (d.modFp p fun x => { x with held := none }).inc (F.brgPortCnt_PW_FULL p) 1
      if d.rtyOk p src then d.retryAns p else d.rej p
    else d
  | none =>
    match (d.fp p).tags.findSome? fun (i, r) => r.bind fun r =>
        if r.src = src && (r.ans = 3 || r.ans = 6) then some (i, r) else none with
    | none => d
    | some (i, r) =>
      if r.ans = 6 then
        ((d.rej p).setRead p i { r with ans := 7 }).event 0x711 p (mkW [(8, 4, src), (3, 0, 5)])
      else (((d.rej p).event 0x709 p (toW (src % 16))).readLost p src 0 r.isReg).inAbandon p i r

/-- EDGE_96. -/
def execEdge96 (p : Fin 4) (src : Fin 17) : State → R := liftBb fun d => (d.edge96 p src).brgSettle

/-- The statuses of a completion as a row gives them. -/
def cplSt : CplStatus → Nat
  | .ok => stOK | .poisoned => stPOISONED | .addrErr => stADDR | .timeout => stTIMEOUT

/-- The completion of an inbound read at the bridge: what the package has itself, or, when the target is another
package, what the operands say. -/
def Dev.inCompletion (d : Dev) (p i : Nat) (r : InRead) (st : CplStatus) (ds : List BusWord) :
    Option (Nat × List (Word × Bool) × Dev) :=
  match r.data with
  | some (s, ws) => some (s, ws, d)
  | none =>
    match d.coh.outs.find? fun o => o.who == .fiuRd p i && o.m.code != 7 with
    | none => none
    | some o =>
      if d.target o.m.addr = .here (o.m.addr % 2 ^ 34) && !r.tweed then none
      else
        let ok := st == .ok || st == .poisoned
        let ws := r.part ++ (ds.take (r.cnt - r.part.length)).map fun b => (b.w, b.bad || st == .poisoned)
        if ok && ws.length ≠ r.cnt then none
        else some (cplSt st, if ok then ws else [], d.modCoh fun c => { c with outs := c.outs.erase o })

/-- BRIDGE_READ_COMPLETION (R320 to R324). -/
def Dev.readCompletion (p i : Nat) (st : CplStatus) (ds : List BusWord) (d : Dev) : Dev :=
  match d.inRead p i with
  | none => d
  | some r =>
    if r.ans ≥ 5 || (r.ans = 1 && (d.fp p).replying i) then d
    else match d.inCompletion p i r st ds with
      | none => d
      | some (s, ws, d) =>
        if r.ans = 0 || r.ans = 3 then d.inAnswer p i r s ws
        else if r.ans = 1 then d.inReply p i r s ws
        else if r.ans = 4 then d.inAbandon p i { r with data := some (s, ws) }
        else d.setRead p i { r with data := some (s, ws) }

/-- BRIDGE_READ_COMPLETION. -/
def execBridgeReadCompletion (p : Fin 4) (tag : Fin 64) (st : CplStatus) (ds : List BusWord) : State → R :=
  liftBb fun d => (d.brgSettle.readCompletion p tag st ds).brgSettle

/-- RETRY_HOLD_EXPIRY (R322, R323). -/
def execRetryHoldExpiry (p : Fin 4) (slot : Fin 17) : State → R :=
  liftBb fun d => match d.holdOf p slot with
    | some (i, r) => (d.holdEnd p i r).brgSettle
    | none => d

/-! ### Messages (R331 to R333) -/

/-- The four MARK words of a message. -/
def BrgMsg.marks (m : BrgMsg) : List Word :=
  let s := m.ep / 2 ^ 36
  let f := m.ep % 2 ^ 36
  [tagged 6 (0x90 * 2 ^ 24 + m.m0 % 2 ^ 24), tagged 6 (0x91 * 2 ^ 24 + s / 2 ^ 12 % 2 ^ 24),
   tagged 6 (0x92 * 2 ^ 24 + s % 2 ^ 12 * 2 ^ 12 + f / 2 ^ 24), tagged 6 (0x93 * 2 ^ 24 + f % 2 ^ 24)]

/-- BRIDGE_MSG_DELIVERY (R332, R333): the oldest message, once every write ahead of it is acknowledged. -/
def Dev.msgDelivery (p : Nat) (d : Dev) : Dev :=
  let x := d.fp p
  match x.msgs with
  | [] => d
  | m :: ms =>
    if m.ahead.any fun n => x.posted.any fun w => w.num == n then d
    else
      let d := d.modFp p fun x => { x with msgs := ms, msgCnt := x.msgCnt + 1 }
      let d := if d.fb (F.brgMsg_EVT p) then d.eventAt 0x712 p m.ep (toW (m.m0 % 2 ^ 24)) else d
      if !d.fb (F.brgMsg_PKT p) then d
      else if !d.fb F.rteGen_FIXED then d.inc (F.brgMsg_MSG_DROP p) 1
      else
        let pkt := tagged 3 ((0xFFC30 + p) * 2 ^ 12 + x.msgCnt % 4096) :: m.marks ++ [tagged 4 0]
        d.modFp p fun x => { x with pkts := x.pkts ++ [⟨pkt, some m.ep⟩] }

/-- BRIDGE_MSG_DELIVERY. -/
def execBridgeMsgDelivery (p : Fin 4) : State → R := liftBb fun d => (d.msgDelivery p).brgSettle

/-! ### FIU_ACCESS and FIU_RESULT -/

/-- FIU_ACCESS, opcode 0x710 (R315, R316, R326). -/
def Dev.fiuAccess (n : Nat) (d : Dev) : Dev :=
  let a := d.arg n 1
  let wr := bitOf a 35
  let w := bitsOf a 19 16
  let c := bitsOf a 5 0 + 1
  let ofs := (d.arg n 2).toNat
  let p := d.f (F.brgOwinCfg_PORT w)
  let len := hdrLen (d.arg n 0)
  if bitsOf a 34 20 ≠ 0 || bitsOf a 15 6 ≠ 0 || ofs ≥ 2 ^ 26 || len ≠ (if wr then c + 2 else 2)
      || !d.fb (F.brgOwinCfg_EN w) || ofs + c > d.f (F.brgOwinCfg_LIMIT w) + 1 then d.reply n stBAD_ARG []
  else if (d.fiuAcc n).isSome then d.reply n stBUSY []
  else if d.fpState p ≠ 2 && d.fpState p ≠ 4 then d.reply n stTIMEOUT []
  else
    let base := d.owinAddr w ofs
    let width := d.f (F.brgOwinCfg_WIDTH w)
    let ws := ((d.mb n).req.drop 3).map fun x => (widthW width x, false)
    let cut := cutRun (d.fb (F.brgOwinCfg_BLOCK w)) base c 0 c
    let acc : FiuAcc := {
                    id := d.accNum, width := width, seq := d.seqOf n, port := p, win := w, write := wr, cnt := c
                    left := cut.length, got := []
                    poisoned := false, failed := false, deferred := false }
    let d := { d with acc := mset d.acc n (some acc), accNum := d.accNum + 1 }
    let d := each cut (fun (o, k) d =>
      d.ownPush p { cmd := runCmd wr k, addr := toW (base + o), cnt := k, ws := if wr then (ws.drop o).take k else []
                    k := 0, got := [], retries := 0, owner := .access n acc.id o }) d
    d.hold n

/-- FIU_ACCESS. -/
def execFiuAccess (n : Mbx) : State → R := lift (Dev.takeCmd n 0x710 (2 ≤ ·) (Dev.fiuAccess n))

/-- FIU_RESULT, opcode 0x711: the result held for a mailbox and sequence. -/
def Dev.fiuResult (n : Nat) (d : Dev) : Dev :=
  let a := d.arg n 1
  match d.fiuAcc (16 + bitsOf a 11 8) with
  | some r =>
    if bitsOf a 35 12 = 0 && r.seq = bitsOf a 7 0 then d.reply n r.status r.words else d.reply n stBAD_ARG []
  | none => d.reply n stBAD_ARG []

/-- FIU_RESULT. -/
def execFiuResult (n : Mbx) : State → R := lift (Dev.takeCmd n 0x711 (· == 1) (Dev.fiuResult n))

/-- FIU_ACCESS_TIME_LIMIT (R346): the cycles not started are withdrawn, and the access returns TIMEOUT. -/
def Dev.accTimeLimit (n : Nat) (d : Dev) : Dev :=
  match d.fiuAcc n with
  | none => d
  | some a =>
    let d := d.accWithdraw n a.id a.port
    let a := { a with failed := true }
    if a.deferred then
      let left := (d.fp a.port).deferred.countP fun r => r.own.ofAcc n a.id
      let a := { a with left := left }
      let d := { d with acc := mset d.acc n (some a) }
      if left = 0 then d.accDone n a else d
    else ({ d with acc := mset d.acc n none }).finish n stTIMEOUT []

/-- FIU_ACCESS_TIME_LIMIT. -/
def execFiuAccessTimeLimit (n : Mbx) : State → R := lift (Dev.accTimeLimit n)

/-- CANVAS_READ. -/
def execCanvasRead (n : Mbx) : State → R :=
  liftBb fun d => (Dev.takeCmd n 0x604 (· == 2) (Dev.canvasRead n) d).brgSettle

/-! ### Host rows -/

/-- HOST_WIDE_READ. -/
def execHostWideRead (bar2 : Bool) (off : BitVec 29) (be : BitVec 8) : State → R :=
  liftBb fun d => (d.hostWideRead bar2 off.toNat be.toNat).brgSettle

/-- HOST_PARTIAL_WRITE. -/
def execHostPartialWrite (bar2 : Bool) (off : BitVec 29) (be : BitVec 8) (data : BitVec 64) : State → R :=
  liftBb fun d => (d.hostPartialWrite bar2 off.toNat be.toNat data.toNat).brgSettle

/-- BAR2_REQUEST. -/
def execBar2Request (addr : BitVec 32) (len : Fin 4097) (data : Option (List Byte)) : State → R :=
  liftBb fun d => (d.bar2Request addr.toNat len data).brgSettle

end Sys2Proof.Machine
end

