-- ==== Sys2Proof/Machine/Fabric.lean ====
section
/-! DEFINITION. The messages of the coherent fabric as commands, their timeouts, the formation of a domain, packets over
Lysith, and the frames, lanes and ports of the links (R347 to R410, R417, R418, R421). -/

namespace Sys2Proof.Machine

/-- A line address. -/
def lineOf (a : BitVec 40) : Nat := a.toNat / 16 * 16

/-! ### Requests (R352, R357, R358) -/

/-- A request of a singly dead agent that its home serves still: its units' non-allocating accesses (R369). -/
def Dev.servedDead (d : Dev) (a code : Nat) : Bool :=
  d.coh.deadAgents.contains a && (code == 3 || code == 4 || code == 5 || code == 9)
    && (d.ownAgent a || (d.fb (F.cohMap_VALID (a / 128)) && !d.fb (F.cohMap_DEAD (a / 128))))

/-- A request of agent `a`. One of this package issues it, the CP while VIEW = 1 by Tweed address (R43, assumption 148); one
of another package arrives at its home here. A request of a dead agent is discarded (R374), and a package outside a domain
serves only what comes by package ID (R43). -/
def Dev.fabRequest (a tag : Nat) (m : CMsg) (d : Dev) : Dev :=
  let m := { m with agent := a, tag := tag }
  if d.ownAgent a then
    let la := a % 128
    if d.coh.outs.any (COut.is (m.code == 9) la tag) || d.coh.tagWait.any (fun w => w.la == la && w.tag == some tag) then d
    else if la = 64 && d.fb F.topView_VIEW && m.addr < 2 ^ 36 then d.tweedIssue .nothing 64 tag m.addr m
    else d.cohAsk ⟨.nothing, la, some tag, m⟩
  else if d.cohState = 2 || d.cohState = 3 then
    if d.cohState = 2 && d.agentDead a && !d.servedDead a m.code then d
    else match d.target m.addr with
      | .here _ => d.homeArrive m
      | _ => d.homeError m
  else if m.code = 3 || m.code = 4 || m.code = 5 || m.code = 9 then
    match d.target m.addr with
    | .here _ => d.homeArrive { m with rt1 := true }
    | _ => d.homeError { m with rt1 := true }
  else d

/-- RD_S. -/
def execRdS (a : BitVec 13) (tag : Byte) (line : BitVec 40) : State → R :=
  liftBb fun d => (d.fabRequest a.toNat tag.toNat { code := 1, addr := lineOf line, mask := 0xFFFF }).brgSettle

/-- RD_X. -/
def execRdX (a : BitVec 13) (tag : Byte) (line : BitVec 40) : State → R :=
  liftBb fun d => (d.fabRequest a.toNat tag.toNat { code := 2, addr := lineOf line, mask := 0xFFFF }).brgSettle

/-- NA_RD (R366). -/
def execNaRd (a : BitVec 13) (tag : Byte) (addr : BitVec 40) (cnt : Fin 17) : State → R :=
  liftBb fun d => (d.fabRequest a.toNat tag.toNat
    { code := 3, addr := addr.toNat, mask := lineMask (addr.toNat % 16) cnt }).brgSettle

/-- RD_NC (R21). -/
def execRdNc (a : BitVec 13) (tag : Byte) (addr : BitVec 40) (cnt : Fin 17) : State → R :=
  liftBb fun d => (d.fabRequest a.toNat tag.toNat
    { code := 4, addr := addr.toNat, mask := lineMask (addr.toNat % 16) cnt }).brgSettle

/-- The words of a mask, one for each of its bits. -/
def maskFill (mask : Nat) (ws : List Word) : List Word := (List.range (maskWords mask).length).map (nth ws)

/-- WR_NC. -/
def execWrNc (a : BitVec 13) (tag : Byte) (line : BitVec 40) (mask : BitVec 16) (ws : List Word) : State → R :=
  liftBb fun d => (d.fabRequest a.toNat tag.toNat
    { code := 9, addr := lineOf line, mask := mask.toNat, ws := maskFill mask.toNat ws }).brgSettle

/-- An ATOM of one word (R362). -/
def Dev.fabAtom (a : BitVec 13) (tag : Byte) (addr : BitVec 40) (op : Nat) (ws : List Word) (d : Dev) : Dev :=
  (d.fabRequest a.toNat tag.toNat
    { code := 5, sub := op, addr := addr.toNat, mask := 2 ^ (addr.toNat % 16), ws := ws }).brgSettle

/-- ACC36 (R362). -/
def execAcc36 (a : BitVec 13) (tag : Byte) (line : BitVec 40) (mask : BitVec 16) (ws : List Word) : State → R :=
  liftBb fun d => (d.fabRequest a.toNat tag.toNat
    { code := 5, sub := 0, addr := lineOf line, mask := mask.toNat, ws := maskFill mask.toNat ws }).brgSettle

/-- ADD. -/
def execAdd (a : BitVec 13) (tag : Byte) (addr : BitVec 40) (x : Word) : State → R := liftBb (Dev.fabAtom a tag addr 1 [x])

/-- MIN. -/
def execMin (a : BitVec 13) (tag : Byte) (addr : BitVec 40) (x : Word) : State → R := liftBb (Dev.fabAtom a tag addr 2 [x])

/-- MAX. -/
def execMax (a : BitVec 13) (tag : Byte) (addr : BitVec 40) (x : Word) : State → R := liftBb (Dev.fabAtom a tag addr 3 [x])

/-- SWAP. -/
def execSwap (a : BitVec 13) (tag : Byte) (addr : BitVec 40) (x : Word) : State → R := liftBb (Dev.fabAtom a tag addr 4 [x])

/-- CAS. -/
def execCas (a : BitVec 13) (tag : Byte) (addr : BitVec 40) (cmp x : Word) : State → R :=
  liftBb (Dev.fabAtom a tag addr 5 [cmp, x])

/-- LOCK_RD (R367). -/
def execLockRd (a : BitVec 13) (tag : Byte) (line : BitVec 40) (port : Fin 4) : State → R :=
  liftBb fun d => (d.fabRequest a.toNat tag.toNat
    { code := 6, sub := port, addr := lineOf line, mask := 0xFFFF }).brgSettle

/-- LOCK_WR (R367). -/
def execLockWr (a : BitVec 13) (tag : Byte) (line : BitVec 40) (port : Fin 4) (mask : BitVec 16) (ws : List Word) :
    State → R :=
  liftBb fun d => (d.fabRequest a.toNat tag.toNat
    { code := 7, sub := port, addr := lineOf line, mask := mask.toNat, ws := maskFill mask.toNat ws }).brgSettle

/-- UNLOCK, which nobody answers. -/
def Dev.fabUnlock (a line port : Nat) (d : Dev) : Dev :=
  let m : CMsg := { code := 8, agent := a, sub := port, addr := line }
  match d.target line with
  | .here _ => if d.ownAgent a || !d.agentDead a then d.homeArrive m else d
  | .remote k => if d.ownAgent a then d.cohTo k m else d
  | .tweed pkg l => if d.ownAgent a then (d.sendRt 1 pkg ({ m with addr := l }.wire 1 pkg)).2 else d
  | _ => d

/-- UNLOCK. -/
def execUnlock (a : BitVec 13) (line : BitVec 40) (port : Fin 4) : State → R :=
  liftBb fun d => (d.fabUnlock a.toNat (lineOf line) port).brgSettle

/-! ### Snoops (R359, R360) -/

/-- A snoop that arrives here. -/
def Dev.fabSnoop (code a tag clu mask : Nat) (line : BitVec 40) (d : Dev) : Dev :=
  (d.snoopArrive { code := code, agent := a, tag := tag, clu := clu, mask := mask, addr := lineOf line }).brgSettle

/-- SNP_S. -/
def execSnpS (line : BitVec 40) (a : BitVec 13) (tag : Byte) (c : Fin 64) : State → R :=
  liftBb (Dev.fabSnoop 0x0A a.toNat tag.toNat c 0 line)

/-- SNP_X. -/
def execSnpX (line : BitVec 40) (a : BitVec 13) (tag : Byte) (c : Fin 64) : State → R :=
  liftBb (Dev.fabSnoop 0x0B a.toNat tag.toNat c 0 line)

/-- SNP_INV. -/
def execSnpInv (line : BitVec 40) : State → R := liftBb (Dev.fabSnoop 0x0C 0 0 0 0 line)

/-- SNP_NA. -/
def execSnpNa (line : BitVec 40) (a : BitVec 13) (tag : Byte) (c : Fin 64) (first : Fin 16) (cnt : Fin 17) : State → R :=
  liftBb (Dev.fabSnoop 0x0D a.toNat tag.toNat c (lineMask first cnt) line)

/-- SNP_RCL. -/
def execSnpRcl (line : BitVec 40) (c : Fin 64) : State → R := liftBb (Dev.fabSnoop 0x0E 0 0 c 0 line)

/-! ### Write-backs and answers -/

/-- WB (`ws`) or EVICT of agent `a`. A cluster cache of this package that holds the line in M or E (R350: a write in E
makes it M) sends it; else it arrives at its home here. -/
def Dev.fabWb (a line : Nat) (ws : Option (List Word)) (d : Dev) : Dev :=
  let c := a % 128
  if d.ownAgent a && isCache a then
    match findLine (d.cacheOf c) (line / 16), ws with
    | some x, some ws =>
      if x.st ≤ 2 then d.cacheEvict c { x with st := 1, ws := ws } else d
    | some x, none => if x.st = 2 || x.st = 3 then d.cacheEvict c x else d
    | none, _ => d
  else match d.target line with
    | .here l => if d.agentDead a then d.lateRsp else d.wbArrive a (l / 16) ws
    | _ => d

/-- WB (R361). -/
def execWb (a : BitVec 13) (line : BitVec 40) (ws : List Word) : State → R :=
  liftBb fun d => (d.fabWb a.toNat (lineOf line) (some (maskFill 0xFFFF ws))).brgSettle

/-- EVICT (R361). -/
def execEvict (a : BitVec 13) (line : BitVec 40) : State → R :=
  liftBb fun d => (d.fabWb a.toNat (lineOf line) none).brgSettle

/-- The code of an answer of SRSP (R399). -/
def snpAns : SnpAns → Nat
  | .inv => 0 | .fwd => 1 | .dirty => 2 | .cross => 3

/-- The code of a granted state (R399). -/
def grantCode : Grant → Nat
  | .none => 0 | .m => 1 | .e => 2 | .s => 3

/-- Applied to a local line: `f` on its line number. -/
def Dev.atHome (line : Nat) (f : Nat → Dev → Dev) (d : Dev) : Dev :=
  match d.target line with
  | .here l => (f (l / 16) d).brgSettle
  | _ => d

/-- SRSP (R357); an answer from a dead package is discarded (R380). -/
def execSrsp (pkg : Fin 64) (line : BitVec 40) (ans : SnpAns) : State → R :=
  liftBb (Dev.atHome (lineOf line) fun l d => d.srspArrive pkg l (snpAns ans))

/-- An answer to a requester of this package. -/
def Dev.fabAnswer (pst : Bool) (m : CMsg) (d : Dev) : Dev :=
  if d.ownAgent m.agent then (d.answerArrive pst m).brgSettle else d

/-- CMP. -/
def execCmp (a : BitVec 13) (tag : Byte) (st : CplStatus) : State → R :=
  liftBb (Dev.fabAnswer false { code := 0x13, agent := a.toNat, tag := tag.toNat, st := cplSt st })

/-- CACK. -/
def execCack (a : BitVec 13) (line : BitVec 40) : State → R :=
  liftBb (Dev.atHome (lineOf line) fun l d => if d.agentDead a.toNat then d.lateRsp else d.cackArrive a.toNat l)

/-- WBACK. -/
def execWback (a : BitVec 13) (line : BitVec 40) : State → R :=
  liftBb fun d => if d.ownAgent a.toNat then (d.wbackArrive a.toNat (lineOf line / 16)).brgSettle else d

/-- PACK. -/
def execPack (a : BitVec 13) (tag : Byte) (st : CplStatus) : State → R :=
  liftBb (Dev.fabAnswer true { code := 0x16, agent := a.toNat, tag := tag.toNat, st := cplSt st })

/-- DATA. -/
def execData (a : BitVec 13) (tag : Byte) (st : CplStatus) (g : Grant) (ws : List Word) : State → R :=
  liftBb (Dev.fabAnswer false
    { code := 0x18, agent := a.toNat, tag := tag.toNat, st := cplSt st, grant := grantCode g, ws := ws })

/-- SDATA. -/
def execSdata (a : BitVec 13) (line : BitVec 40) (ws : List Word) : State → R :=
  liftBb (Dev.atHome (lineOf line) fun l d =>
    if d.agentDead a.toNat then d.lateRsp else d.sdataArrive l (maskFill 0xFFFF ws))

/-! ### Formation, death, domain-down -/

/-- HELLO (R371, R372). -/
def execHello (port : Fin 8) (domainId : BitVec 16) (serial : BitVec 72) (pkgId : BitVec 16) : State → R :=
  liftBb fun d => (d.hello port domainId.toNat serial.toNat pkgId.toNat).brgSettle

/-- HELLO_TIMER. -/
def execHelloTimer : State → R := liftBb Dev.helloTimer

/-- FORM_TIMEOUT (R372). -/
def execFormTimeout : State → R := liftBb fun d => d.formTimeout.brgSettle

/-- A member line as a row gives it. -/
def mapLine (e : MapEntry) : MapLine := ⟨e.idx, e.valid, e.dead, e.pkgId.toNat, e.serial.toNat⟩

/-- MAP (R372, R417, R418). -/
def execMap (leader : BitVec 72) (es : List MapEntry) : State → R :=
  liftBb fun d => (d.mapApply none leader.toNat (es.map mapLine)).brgSettle

/-- DEAD (R369, R370, R374, R376). -/
def execDead (name : DeadName) (reason : Fin 16) : State → R := liftBb fun d => (d.withJoinMap (Dev.deadRow name reason)).brgSettle

/-- DOWN (R376). -/
def execDown : State → R := liftBb fun d => if d.f F.cohStat_SIZE = 2 then d.domainDown.brgSettle else d

/-- RESYNC (R406). -/
def execResync (port : Fin 8) (answer : Bool) (seq : BitVec 12) : State → R :=
  liftBb fun d => (d.resync port answer seq.toNat).brgSettle

/-- TREE (R410). -/
def execTree (port : Fin 8) (m : TreeMsg) : State → R := liftBb fun d => (d.treeArrive port m).brgSettle

/-- The local line number and the transaction that a 40-bit line address names at this home. -/
def Dev.homeTxn (d : Dev) (line : Nat) : Option (Nat × CTxn) :=
  match d.target line with
  | .here l => (d.txn (l / 16)).map fun t => (l / 16, t)
  | _ => none

/-- SNOOP_TIMEOUT (R368): an SRSP or CACK awaited from another package. -/
def Dev.snoopTimeout (line k : Nat) (d : Dev) : Dev :=
  match d.homeTxn line with
  | some (_, t) =>
    if t.waits.contains k || (t.done && t.cack && t.req.agent / 128 = k) then (d.withJoinMap (Dev.declareDead k 1)).brgSettle else d
  | none => d

/-- SNOOP_TIMEOUT. -/
def execSnoopTimeout (line : BitVec 40) (k : Fin 64) : State → R := liftBb (Dev.snoopTimeout (lineOf line) k)

/-- The home of an outstanding request is not this package: its domain index, or none for one that went by package
ID. -/
def Dev.remoteHome (d : Dev) (o : COut) : Option (Option Nat) :=
  if o.m.addr ≥ 2 ^ 40 then some none
  else match d.target o.m.addr with
    | .remote k => some (some k)
    | .gone k => some (some k)
    | .tweed _ _ => some none
    | _ => none

/-- REQUEST_TIMEOUT (R368). -/
def Dev.requestTimeout (a tag : Nat) (d : Dev) : Dev :=
  match d.coh.outs.find? fun o => o.m.agent == a && o.m.tag == tag && (d.remoteHome o).isSome with
  | none => d
  | some o =>
    let home := (d.remoteHome o).join
    let d := d.modCoh fun c => { c with outs := c.outs.erase o }
    let d := (d.cohTimeout o.m.addr).cohDone o stTIMEOUT []
    match home with
    | some k => (d.withJoinMap (Dev.declareDead k 2)).brgSettle
    | none => d.brgSettle

/-- REQUEST_TIMEOUT. -/
def execRequestTimeout (a : BitVec 13) (tag : Byte) : State → R := liftBb (Dev.requestTimeout a.toNat tag.toNat)

/-- CACHE_SNOOP_TIMEOUT (R360, R369). -/
def execCacheSnoopTimeout (c : Fin 64) : State → R := liftBb fun d => (d.cacheDead c).brgSettle

/-- LOCK_HOLD_TIMEOUT (R367): the home releases the lock. -/
def Dev.lockHoldTimeout (l : Nat) (d : Dev) : Dev :=
  let e := d.dirE l
  if e.st = 4 then
    let e' := if e.wasDp then { (default : DirEnt) with st := 3, wmask := e.wmask } else default
    ((d.setDir l e').event 0x806 e.port (toW (d.fullAddr (l * 16) / 16))).homeNext
  else d

/-- LOCK_HOLD_TIMEOUT. -/
def execLockHoldTimeout (line : BitVec 40) : State → R := liftBb (Dev.atHome (lineOf line) Dev.lockHoldTimeout)

/-! ### Packets (R400) -/

/-- A whole packet passed on by its KIND: to the route memory, to a mailbox of the Lysith path, to the requesting agent, which
for the responses to a firmware delivery is the firmware (R421). The reserved KIND is discarded. -/
def Dev.pktDone (o : Origin) (src kind : Nat) (ws : List Word) (d : Dev) : Dev :=
  match kind with
  | 0 => { d with rte := { d.rte with rx := d.rte.rx ++ [ws] } }
  | 1 => d.place 1 o ws
  | 2 => match o with
    | .link p => if (d.port p.val).fwd.isSome then d.fwdResponse p.val ws else d.emit (.lysRsp src ws)
    | _ => d.emit (.lysRsp src ws)
  | _ => d

/-- A segment for this package: a request of a partner without an assigned ID is answered on its port (R409). -/
def Dev.pktArrive (port src kind : Nat) (link : Bool) (first last : Bool) (ws : List Word) (d : Dev) : Dev :=
  let o : Origin := if link then .link (Fin.ofNat 8 port) else .lysith (BitVec.ofNat 16 src) (Fin.ofNat 8 port)
  d.pktSeg (if link then 0x20000 + port else src) kind first last false ws fun x d => d.pktDone o src x.kind x.ws

/-- PKT (R400, R339, R64): over the port of the partner itself when it has no assigned ID. -/
def execPkt (port : Fin 8) (srcPkg : BitVec 16) (kind : Fin 4) (first last : Bool) (ws : List Word) : State → R :=
  liftBb fun d =>
    let link := !d.fb (F.lnkStat_PEER_ID_OK port) && decide (d.f (F.lnkStat_PEER_ID port) = srcPkg.toNat)
    d.pktArrive port srcPkg.toNat kind link first last ws

/-! ### Messages in frames (R399, R404, R405) -/

/-- A CTRL message from its words (assumption 29). -/
def Dev.ctrlIn (port : Nat) (ws : List Word) (d : Dev) : Dev :=
  let sub := bitsOf (nth ws 1) 22 19
  let last := bitOf (nth ws 1) 0
  let b := ws.drop 3
  let w := fun i => (nth b i).toNat
  match sub with
  | 0 => d.hello port (w 0) (w 1 * 2 ^ 36 + w 2) (w 3 % 2 ^ 16)
  | 1 =>
    let all := d.coh.mapRx ++ b
    if last then
      (d.modCoh fun c => { c with mapRx := [] }).mapApply (some port)
        ((nth all 0).toNat * 2 ^ 36 + (nth all 1).toNat) (mapLines (all.drop 2))
    else d.modCoh fun c => { c with mapRx := all }
  | 2 =>
    let x := bitsOf (nth b 0) 12 0
    d.withJoinMap (Dev.deadRow (if bitOf (nth b 0) 35 then .agent (BitVec.ofNat 13 x) else .pkg (Fin.ofNat 64 x)) (w 1 % 16))
  | 3 => if d.f F.cohStat_SIZE = 2 then d.domainDown else d
  | 4 => d.resync (bitsOf (nth b 0) 18 16) (bitOf (nth b 0) 20) (bitsOf (nth b 0) 11 0)
  | 5 => d.treeArrive port ⟨treeViaOf (nth b 0), treeBodyOf (b.drop 1)⟩
  | _ => d

/-- A message for this package. One of a dead agent is discarded (R369, R374); an SRSP is its package's, and its home
takes one that it awaits. -/
def Dev.msgHere (port rt : Nat) (ws : List Word) (d : Dev) : Dev :=
  let code := bitsOf (nth ws 0) 35 31
  let h1 := nth ws 1
  if code = 0x17 then d.ctrlIn port ws
  else if code = 0x1C then
    d.pktArrive port (bitsOf h1 35 20) (bitsOf h1 19 18) (rt == 2) (bitOf h1 17) (bitOf h1 16) (ws.drop 3)
  else
    let m := d.cohIn rt ws
    if rt = 1 then
      if m.code ≤ 9 then
        (match d.target m.addr with
          | .here _ => d.homeArrive m
          | _ => d.homeError m)
      else d.cohDeliver m
    else if d.agentDead m.agent && !d.ownAgent m.agent && d.cohState = 2 && !(0x0A ≤ m.code && m.code ≤ 0x0E)
        && m.code ≠ 0x12 && !d.servedDead m.agent m.code then
      (if m.code ≤ 9 then d else d.lateRsp)
    else d.cohDeliver m

/-- A message that arrived on a port: consumed here, or sent on (R404). -/
def Dev.msgIn (port : Nat) (ws : List Word) (d : Dev) : Dev :=
  let h0 := nth ws 0
  let code := bitsOf h0 35 31
  let rt := bitsOf h0 25 24
  let dest := bitsOf h0 23 8
  let known := (1 ≤ code && code ≤ 0x0E) || (0x10 ≤ code && code ≤ 0x19) || code = 0x1C
  let onward := fun (d : Dev) =>
    let m : Msg := { cls := codeClass code, ws := ws }
    let (ok, d) := d.sendRt rt dest m
    if ok then d else d.lostMsg true m
  if !known then d
  else match rt with
    | 0 =>
      let at0 := (d.cohState = 2 && dest % 64 = d.f F.cohStat_MY_IDX)
        || (d.cohState = 3 && dest % 64 = d.f F.cohStat_FORMER_IDX)
      if at0 then d.msgHere port 0 ws else onward d
    | 1 => if dest = d.pkgId then d.msgHere port 1 ws else onward d
    | 2 => d.msgHere port 2 ws
    | _ => d

/-- DATA_FRAME (R396 to R398, R404): `ws` the frame, `good` the FEC codewords. -/
def Dev.dataFrame (n : Nat) (good : Bool) (ws : List Word) (d : Dev) : Dev :=
  let (ms, d) := d.frameAccept n good ws
  (each ms (fun m d => (d.msgIn n m).brgSettle) d).pumpAck n

/-- DATA_FRAME. -/
def execDataFrame (n : Fin 8) (good : Bool) (ws : List Word) : State → R := liftBb (Dev.dataFrame n good ws)

/-- IDLE_FRAME. -/
def execIdleFrame (n : Fin 8) (ws : List Word) : State → R := liftBb (Dev.idleFrame n ws)

/-- NAK_FRAME. -/
def execNakFrame (n : Fin 8) (ws : List Word) : State → R := liftBb (Dev.nakFrame n ws)

/-! ### Ports and lanes -/

/-- TRAINING_RETRY. -/
def execTrainingRetry (n : Fin 8) : State → R := liftBb fun d => (d.trainingRetry n).brgSettle

/-- TRAINING_DONE. -/
def execTrainingDone (n : Fin 8) (lanes : BitVec 4) (peer : Peer) : State → R :=
  liftBb fun d => (d.trainingDone n lanes.toNat peer).brgSettle

/-- PARTNER_REFRESH. -/
def execPartnerRefresh (n : Fin 8) (peer : Peer) : State → R := liftBb (Dev.partnerRefresh n peer)

/-- LANE_REMOVAL. -/
def execLaneRemoval (n : Fin 8) (lane : Fin 4) : State → R := liftBb fun d => (d.laneRemoval n lane).brgSettle

/-- LYSITH_LANE_REJOIN. -/
def execLysithLaneRejoin (n : Fin 8) (lane : Fin 4) : State → R := liftBb fun d => (d.laneRejoin n lane).brgSettle

/-- RETRAIN_TIMEOUT. -/
def execRetrainTimeout (n : Fin 8) : State → R := liftBb fun d => (d.retrainTimeout n).brgSettle

/-- DOWN_TIMEOUT. -/
def execDownTimeout (n : Fin 8) : State → R := liftBb fun d => (d.downTimeout n).brgSettle

/-- RESYNC_TIMEOUT. -/
def execResyncTimeout (n : Fin 8) : State → R := liftBb fun d => (d.resyncTimeout n).brgSettle

/-- The end of an edge, at a step on an empty queue: what R423 keeps to it for a port that went DOWN, the edge of CCLK, and
what waits for the edge after it (R307, R414). -/
def Dev.edgeEnd (d : Dev) : Dev :=
  let busy := (List.range 8).any fun n => (d.port n).recovering && ((d.port n).sync || (d.port n).expired)
  let d := if busy then (forN 8 Dev.lnkEdge d).brgSettle else d
  d.idleEdge.hqEdge

/-- FIRMWARE_FORWARD. -/
def execFirmwareForward (n : Fin 8) (status : Byte) (lastFail : BitVec 5) : State → R :=
  liftBb (Dev.firmwareForward n status.toNat lastFail.toNat)

/-! ### Joining and leaving -/

/-- DOMAIN_JOIN. -/
def execDomainJoin (n : Mbx) (suits : Bool) : State → R :=
  liftBb fun d => (Dev.takeCmd n 0x903 (· == 1) (Dev.domainJoin n suits) d).brgSettle

/-- DOMAIN_LEAVE. -/
def execDomainLeave (n : Mbx) (suits : Bool) : State → R :=
  liftBb fun d => (Dev.takeCmd n 0x904 (· == 1) (Dev.domainLeave n suits) d).brgSettle

/-- LEAVE_COPY_DONE. -/
def execLeaveCopyDone : State → R := liftBb fun d => d.leaveCopyDone.brgSettle

/-- LEAVE_FORWARD_END. -/
def execLeaveForwardEnd : State → R := liftBb fun d => d.leaveForwardEnd.brgSettle

end Sys2Proof.Machine
end

