-- ==== Sys2Proof/Machine/Task.lean ====
section
/-! DEFINITION. Tasks: descriptors, deques, the generator, readiness, starting and stealing, release in order,
cancellation, fences and the load of a region (R207 to R234). -/

namespace Sys2Proof.Machine

/-! ### Queues read by position (R209) -/

/-- The item `i` places behind the read position: of a delay line, with the tag beside the word (assumption 21). -/
def Dev.qItem (c q : Nat) (side : Bool) (i : Nat) (d : Dev) : Item × Dev :=
  let u := d.qu c q
  let a := d.qAddr c q ((u.rd + i) % d.qDepth c q)
  let e := u.ents.getD i default
  let raw := d.rd a
  let bad := mget d.parBad a != 0
  let (w, d) := d.qParRead c q a
  if side then (⟨if bad then 2 else e.side, raw⟩, d) else (⟨tagOf w, w⟩, d)

/-- Items from the read position on through the `need`-th slot: they, oldest first, and the slots found. -/
def Dev.qScan (c q : Nat) (side : Bool) : Nat → Nat → Nat → List Item → Dev → List Item × Nat × Dev
  | 0, _, need, acc, d => (acc.reverse, need, d)
  | fuel + 1, pos, need, acc, d =>
    if need = 0 then (acc.reverse, 0, d)
    else
      let (x, d) := d.qItem c q side pos
      d.qScan c q side fuel (pos + 1) (if x.slot then need - 1 else need) (x :: acc)

/-- Slots present in a queue; a word that fails parity reads POISON, and POISON is a slot (R84, R102). -/
def Dev.qSlots (d : Dev) (c q : Nat) (side : Bool) : Nat :=
  (d.qu c q).ents.zipIdx.countP fun (e, i) =>
    let a := d.qAddr c q (((d.qu c q).rd + i) % d.qDepth c q)
    mget d.parBad a != 0 || slotTag (if side then e.side else tagOf (d.rd a))

/-- The queue, of the home cluster, that feeds an input's UNPACK. -/
def Dev.ingQueue (d : Dev) (i : Nat) : Nat :=
  if i < 4096 then d.f (F.ingChCfg_QUEUE i) else d.f (F.ingFchCfg_QUEUE (i - 4096))

/-! ### The delay of a slot (R184 to R187) -/

/-- The model registers, zero where none is loaded. -/
def regs6 (l : List Nat) : List Nat := if l.isEmpty then List.replicate 6 0 else l

/-- Loads of a model that wait for their anchors: anchor and values, in the order of the anchors. -/
abbrev Loads := List (Nat × List Nat)

/-- A model at slot `n`: a load whose anchor it is takes effect (R185). -/
def loadAt (n : Nat) (m : List Nat) (p : Loads) : List Nat × Loads :=
  match p.find? (·.1 == n) with
  | some (_, v) => (v, p.filter fun x => n < x.1)
  | none => (m, p)

/-- Model registers over `cnt` slots from slot `n`: `f` of each slot and its registers, and what stands after. -/
def modelRun {α : Type} (f : Nat → List Nat → α) :
    Nat → Nat → List Nat → Loads → List α × List Nat × Loads
  | 0, _, m, p => ([], m, p)
  | cnt + 1, n, m, p =>
    let (m, p) := loadAt n (regs6 m) p
    let (l, r) := modelRun f cnt (n + 1) (advance m) p
    (f n m :: l, r)

/-- R186: K_i at a slot, fs = den x 2^36 / st. -/
def Inp.k (x : Inp) (cal : Int) : Int := roundHe ((x.res + cal * x.den) * 2 ^ 96) x.st

/-- R187: q, p and the clamp of a slot. -/
def Dev.slotQP (d : Dev) (i : Nat) (s : StepCfg) (n : Nat) (m : List Nat) : Nat × Nat × Nat :=
  let x := d.inp i
  let cv := d.canvasAt s.can i (x.at n)
  delayQP (sOf 128 (m.headD 0) + x.k cv.delay) (bitsOf s.sw0 15 0)

/-- The delays of the block that the DELAY step of input `i` does next, the model after it. -/
def Dev.delayPlan (d : Dev) (i : Nat) (s : StepCfg) : List (Nat × Nat × Nat) × List Nat × Loads :=
  let src := d.source i
  modelRun (d.slotQP i s) 1024 ((mget src.steps 1).done * 1024) src.dm src.dPend

/-! ### Rings (R197) -/

/-- The address of ring block g mod 4 of a beam (R197). -/
def Beam.ring (b : Beam) (g : Nat) : Nat := b.area + g % 4 * 3088

/-! ### Descriptors (R211) -/

/-- A task as its descriptor says it. -/
structure Task where
  step : Nat
  beam : Bool
  index : Nat
  seq : Nat
  g : Nat
  outq : Nat
  ordered : Bool
  due : Nat
  home : Nat
  cost : Nat
  first : Bool
  orphan : Bool
  rerun : Nat
deriving DecidableEq, Repr, Inhabited

/-- The words of a descriptor; STAGE names no queue, and its place is not modelled (assumption 36). -/
def Task.words (t : Task) : List Word :=
  [mkW [(35, 32, t.step), (31, 31, bit t.beam), (30, 17, t.index), (15, 0, t.seq)],
   toW t.g,
   mkW [(35, 29, t.outq), (28, 28, bit t.ordered), (25, 0, t.g / 2 ^ 36)],
   toW (t.due / 2 ^ 36), toW t.due,
   mkW [(35, 30, t.home), (29, 22, t.cost), (15, 0, Config.stage t.home t.step t.index)], 0,
   mkW [(35, 35, bit t.first), (34, 34, bit t.orphan), (7, 0, t.rerun)]]

/-- The task of a descriptor. -/
def taskOf (ws : List Word) : Task :=
  let t := nth ws
  { step := bitsOf (t 0) 35 32, beam := bitOf (t 0) 31, index := bitsOf (t 0) 30 17, seq := bitsOf (t 0) 15 0
    g := (t 1).toNat + bitsOf (t 2) 25 0 * 2 ^ 36, outq := bitsOf (t 2) 35 29, ordered := bitOf (t 2) 28
    due := (t 3).toNat * 2 ^ 36 + (t 4).toNat, home := bitsOf (t 5) 35 30, cost := bitsOf (t 5) 29 22
    first := bitOf (t 7) 35, orphan := bitOf (t 7) 34, rerun := bitsOf (t 7) 7 0 }

/-- The source of a task. -/
def Task.key (t : Task) : Nat := if t.beam then 0x10000 + t.index else t.index

/-! ### Deques (R212 to R214) -/

/-- A unit. -/
def Dev.unit (d : Dev) (u : Nat) : UnitS := mget d.tsk.units u

/-- R212: the local address of word `w` of entry `e` of the deque of unit `u`. -/
def dequeAddr (u e w : Nat) : Nat :=
  let x := u % 16 * 256 + e * 8 + w
  0x300400000 + u / 16 * 0x10000 + x % 2 * 0x8000 + 0x7800 + x / 2

/-- The descriptor in an entry. -/
def Dev.dequeRd (d : Dev) (u e : Nat) : List Word := (List.range 8).map fun w => d.rd (dequeAddr u (e % 32) w)

/-- A descriptor stored in an entry. -/
def Dev.dequeWr (u e : Nat) (ws : List Word) (d : Dev) : Dev :=
  forN 8 (fun w d => d.store (dequeAddr u (e % 32) w) (nth ws w)) d

/-- The descriptors of a deque, top first. -/
def Dev.deque (d : Dev) (u : Nat) : List (List Word) :=
  (List.range (d.unit u).cnt).map fun k => d.dequeRd u ((d.unit u).top + k)

/-- A descriptor pushed at the bottom. -/
def Dev.pushBottom (u : Nat) (ws : List Word) (d : Dev) : Dev :=
  let x := d.unit u
  (d.dequeWr u (x.top + x.cnt) ws).modUnit u fun x => { x with cnt := x.cnt + 1 }

/-- A descriptor pushed at the top. -/
def Dev.pushTop (u : Nat) (ws : List Word) (d : Dev) : Dev :=
  let e := ((d.unit u).top + 31) % 32
  (d.dequeWr u e ws).modUnit u fun x => { x with top := e, cnt := x.cnt + 1 }

/-- The top descriptor taken. -/
def Dev.takeTop (u : Nat) (d : Dev) : List Word × Dev :=
  (d.dequeRd u (d.unit u).top, d.modUnit u fun x => { x with top := (x.top + 1) % 32, cnt := x.cnt - 1 })

/-- The bottom descriptor taken. -/
def Dev.takeBottom (u : Nat) (d : Dev) : List Word × Dev :=
  (d.dequeRd u ((d.unit u).top + (d.unit u).cnt + 31), d.modUnit u fun x => { x with cnt := x.cnt - 1 })

/-- A fence or an unfence of the unit came at this edge: it tells from the next edge on (R227, R229). -/
def Dev.turnedNow (d : Dev) (u : Nat) : Bool := (d.unit u).turned == d.epo.edges + 1

/-- The unit takes tasks: it is not fenced, and was not unfenced at this edge (R229). -/
def Dev.inService (d : Dev) (u : Nat) : Bool := !d.fenced u && !d.turnedNow u

/-- R214: the unit of a cluster with the fewest descriptors, fenced ones and the shadow unit aside. -/
def Dev.leastUnit (d : Dev) (c : Nat) : Option Nat :=
  let us := ((List.range 16).map (c * 16 + ·)).filter fun u => d.inService u && u != d.shadowOf c
  us.find? fun u => us.all fun v => (d.unit u).cnt ≤ (d.unit v).cnt

/-! ### The generator (R210, R214) -/

/-- The tasks that wait in the generator of a cluster. -/
def Dev.gen (d : Dev) (c : Nat) : List GenT := mget d.tsk.gen c

/-- They changed. -/
def Dev.setGen (c : Nat) (l : List GenT) (d : Dev) : Dev := { d with tsk := { d.tsk with gen := mset d.tsk.gen c l } }

/-- R210: the SEQ of an ordered task taken, or none while 64 are outstanding for its queue. -/
def Dev.allot (t : GenT) (d : Dev) : Option (GenT × Dev) :=
  let x := taskOf t.desc
  if t.made || !x.ordered then some ({ t with made := true }, d)
  else
    let i := d.f (F.tskQseq_NEXT_ISSUE x.home x.outq)
    if (i + 65536 - d.f (F.tskQseq_NEXT_REL x.home x.outq)) % 65536 = 64 then none
    else some (⟨({ x with seq := i } : Task).words, true⟩, d.setF (F.tskQseq_NEXT_ISSUE x.home x.outq) (i + 1))

/-- Waiting tasks pushed in creation order, as deques have room; a task without a SEQ waits for one. -/
def Dev.genRun (c : Nat) : List GenT → List GenT → Dev → Dev
  | [], kept, d => d.setGen c kept.reverse
  | t :: ts, kept, d =>
    match d.allot t with
    | none => d.genRun c ts (t :: kept)
    | some (t, d) =>
      match d.leastUnit c with
      | none => d.genRun c ts (t :: kept)
      | some u => if (d.unit u).cnt ≥ 32 then d.genRun c ts (t :: kept) else (d.pushBottom u t.desc).genRun c ts kept

/-- The generator of a cluster pushes what it can. -/
def Dev.genPush (c : Nat) (d : Dev) : Dev := d.genRun c (d.gen c) []

/-- GENERATOR_PUSH. -/
def execGeneratorPush (c : Fin 64) : State → R := lift (Dev.genPush c)

/-- R214: every deque of a cluster that may take a task holds 32 descriptors. -/
def Dev.dequesFull (d : Dev) (c : Nat) : Bool :=
  match d.leastUnit c with
  | some u => decide ((d.unit u).cnt ≥ 32)
  | none => true

/-- R214: GEN_STALL counts a CCLK cycle in which a task waits for room. -/
def Dev.genTick (d : Dev) : Dev :=
  each ((d.tsk.gen.filter fun x => x.2.any (·.made) && d.dequesFull x.1).map (·.1))
    (fun c d => d.inc (F.tskRgnCnt_GEN_STALL (c / 8)) 1) d

/-! ### Readiness (R207, R208, R210) -/

/-- The step of a task: its words and the state it runs on. -/
def Dev.stepOf (d : Dev) (k code : Nat) : Option StepCfg := (d.source k).step? code

/-- The local members of a beam in cluster `c`, in block `g`. -/
def Dev.membersIn (d : Dev) (b c g : Nat) : List (Nat × Nat) := (d.blockMembers b g).filter fun m => d.homeOf m.1 == c

/-- Slots per block and stream that the last step of a recipe gives. -/
def blockSlots (r : List StepCfg) : Nat := 1024 / filterK r

/-- R208: every local member has completed the last step's tasks for block `g` of a beam. -/
def Dev.membersDone (d : Dev) (b g : Nat) : Bool :=
  (d.blockMembers b g).all fun (i, _) =>
    match (d.source i).recipe.getLast? with
    | some s => decide ((g + 1) * 1024 ≤ (d.stepRun i s.code).done * blockSlots (d.source i).recipe)
    | none => false

/-- COUNT of the ring block of block `g`: of one in another package as it was last read (assumption 107). -/
def Dev.countOf (d : Dev) (b g : Nat) : Option Nat :=
  match d.rsPeek ((d.beam b).ring g) with
  | some w => some w.toNat
  | none => mget (d.beam b).seen g

/-- R208, R230: COUNT of the ring block has reached N_CONTRIB, or the wait expired. -/
def Dev.countFull (d : Dev) (b g : Nat) : Bool :=
  (d.beam b).expired.contains g || d.countOf b g == some (d.beam b).nContrib

/-- A non-allocating read of a COUNT that lies in another package, unless one is out (R199). -/
def Dev.askCount (b g : Nat) (d : Dev) : Dev :=
  let x := d.beam b
  if x.asked || (d.rsPeek (x.ring g)).isSome then d
  else (d.modBeam b fun x => { x with asked := true }).cohSend (.count b g) x.clu { code := 3, addr := x.ring g, mask := 1 }

/-- R208: the conditions of block `g` of a step of a source but the order of its blocks. -/
def Dev.inputsReady (d : Dev) (k st g : Nat) : Bool :=
  match d.stepOf k st with
  | none => false
  | some s =>
    if st = 0 then d.qSlots (d.homeOf k) (d.ingQueue k) false ≥ 1024
    else if st = 1 then
      let (plan, _) := d.delayPlan k s
      let q := (plan.getLast?.getD default).1
      d.qSlots (d.homeOf k) (bitsOf s.sw0 22 16) true + (g * 1024 - 7) ≥ g * 1024 + 1023 + q + 9
    else match prevStep st (d.source k).recipe with
      | some p => g < (d.stepRun k p.code).done
      | none => false

/-- The state of a beam's partial tasks in a cluster. A cluster that the bank in force names no member of has no partial
task: its first is for the first block to come that has a member of it (R196, R205). -/
def Dev.partRun (d : Dev) (b c : Nat) : StepRun :=
  let r := mget (d.beam b).parts c
  if r.done ≠ r.ready || !(d.membersIn b c r.ready).isEmpty then r
  else match ((d.stepRun (0x10000 + b) 4).switches.map (· / 1024)).find? fun g =>
      decide (r.ready < g) && !(d.membersIn b c g).isEmpty with
    | some g => { r with ready := g, done := g, inSlots := g * 1024, outSlots := g * 1024 }
    | none => r

/-- The state that a task of a row runs on: a partial's is its beam's, by cluster. -/
def Dev.rowRun (d : Dev) (k st c : Nat) : StepRun :=
  if st = 4 then d.partRun (k - 0x10000) c else d.stepRun k (if st = 7 then 4 else st)

/-- That state changed. -/
def Dev.modRow (k st c : Nat) (f : StepRun → StepRun) (d : Dev) : Dev :=
  let r := f (d.rowRun k st c)
  if st = 4 then d.modBeam (k - 0x10000) fun b => { b with parts := mset b.parts c r }
  else d.modRun k (if st = 7 then 4 else st) fun _ => r

/-- Output slots that a step of a source has begun: of a beam, the most of its partials. -/
def Dev.begunSlots (d : Dev) (k code : Nat) : Nat :=
  if code = 4 then ((d.beam (k - 0x10000)).parts.map fun p => p.2.begun * 1024).foldl Nat.max 0
  else if code = 3 then (d.stepRun k 3).begun * blockSlots (d.source k).recipe
  else (d.stepRun k code).begun * 1024

/-- A command of the present edge noted with its source; those of earlier edges go. -/
def Dev.noteCmd (k : Nat) (t : CmdTie) (d : Dev) : Dev :=
  d.modSource k fun s => { s with cmdTies := t :: s.cmdTies.filter fun x => x.edge == t.edge }

/-- The step that begins block `g` of source `k` reaches the slot of a command of the same edge (R185, R206). -/
def Dev.tieBegun (d : Dev) (k step g : Nat) (t : CmdTie) : Bool :=
  t.edge == d.epo.edges + 1 && (if t.step = 0 then (step == 1 || step == 2) && decide (t.slot < (g + 1) * 1024)
    else t.step == step && decide (t.slot < d.begunSlots k step))

/-- A command of the same edge that comes too late: what it replaced stands again, and it answers PAST (R185, R206). -/
def Dev.pastOne (k : Nat) (t : CmdTie) (d : Dev) : Dev :=
  let d := if t.step = 0 then d.modSource k fun s => { s with dPend := t.dPend, pPend := t.pPend }
    else d.modRun k t.step fun r => { r with switches := t.switches }
  d.amendRsp t.mbx t.rsp (statusOnly stPAST t.rsp)

/-- Step `step` of source `k` has begun block `g`: the commands of this edge that it makes PAST, the latest first. -/
def Dev.pastTies (k step g : Nat) (d : Dev) : Dev :=
  let (gone, kept) := (d.source k).cmdTies.partition (d.tieBegun k step g)
  if gone.isEmpty then d
  else (each gone (Dev.pastOne k) d).modSource k fun s => { s with cmdTies := kept }

/-- R208: the conditions of the next block of a row but for a cancel. -/
def Dev.blockReady (d : Dev) (k st c : Nat) : Bool :=
  let r := d.rowRun k st c
  let g := r.ready
  let b := k - 0x10000
  r.done == g && (
    if st = 4 then decide (0x10000 ≤ k) && (d.beam b).set && !(d.membersIn b c g).isEmpty && d.membersDone b g
    else if st = 7 then
      decide (0x10000 ≤ k) && (d.beam b).set && (d.beam b).collect && ((d.source k).step? 4).isSome && d.countFull b g
    else d.inputsReady k st g)

/-- R224: a cancel in force covers the next block of a row. -/
def Dev.rowCancelled (d : Dev) (k st c : Nat) : Bool :=
  ((d.source k).cancelAt.map fun x => decide (x ≤ (d.rowRun k st c).ready)).getD false

/-- R208: a task of step `st` (4 a partial of cluster `c`, 7 a collect) is ready now. -/
def Dev.readyNow (d : Dev) (k st c : Nat) : Bool := !d.rowCancelled k st c && d.blockReady k st c

/-- The output queue of an ordered task (R210): UNPACK's before DELAY, and PACK's. -/
def Dev.outQueue (d : Dev) (k st : Nat) : Option Nat :=
  if st = 0 then (d.stepOf k 1).map fun s => bitsOf s.sw0 22 16
  else if st = 6 then (d.stepOf k 6).map fun s => bitsOf s.sw0 11 5
  else none

/-- The next block of an ordered step of source `j` is still to be made ready: its input runs or a member of its beam does, or
the block has passed an earlier step (assumption 177). -/
def Dev.yetToCome (d : Dev) (j st c : Nat) : Bool :=
  let r := (d.source j).inForce
  let g := (d.stepRun j st).ready
  let first := if r.any (·.code == 1) then 1 else 0
  !d.rowCancelled j st c && ((if j < 0x10000 then d.inputRuns j else (d.allMembers (j - 0x10000)).any fun m => d.inputRuns m.1)
    || d.readyNow j st c || (r.any fun s => first ≤ s.code && s.code < st && decide (g < (d.stepRun j s.code).done)))

/-- R210: another source has a task for the same queue that comes first, ready now or later: tasks are created in ascending
epoch of their first slot, then ascending source index. -/
def Dev.outrun (d : Dev) (k st q : Nat) : Bool :=
  let c := d.srcHome k
  let key := fun (k st : Nat) => (d.blockAt k (d.stepRun k st).ready, k)
  let mine := key k st
  (d.tsk.src.map (·.1)).any fun j => j != k && d.srcHome j == c && [0, 6].any fun s =>
    d.outQueue j s == some q && d.yetToCome j s c && (
      let o := key j s
      earlier 72 o.1 mine.1 || (o.1 == mine.1 && decide (o.2 < mine.2)))

/-- The cost entry of a task: of REDUCE, that of BEAM_SET. -/
def Dev.costOf (d : Dev) (k st : Nat) : Nat :=
  if st = 4 || st = 7 then (d.beam (k - 0x10000)).cost else ((d.stepOf k st).map (·.cost)).getD 0

/-- R217: B of a step code. -/
def Dev.budget (d : Dev) (st : Nat) : Nat := epOf (Nat.max 1 (d.f (F.tskBudget_NS st))) 1000000000

/-- R210: an ordered task of the generator that has no SEQ yet comes behind another: the order of creation. -/
def Dev.comesBehind (d : Dev) (t x : Task) : Bool :=
  let a := d.blockAt t.key t.g
  let b := d.blockAt x.key x.g
  x.ordered && t.ordered && t.outq == x.outq && (earlier 72 a b || (a == b && decide (t.key < x.key)))

/-- A new task among those of the generator: before the first without SEQ that is created after it. -/
def Dev.genInsert (d : Dev) (t : Task) : List GenT → List GenT
  | [] => [⟨t.words, false⟩]
  | x :: xs => if !x.made && d.comesBehind t (taskOf x.desc) then ⟨t.words, false⟩ :: x :: xs else x :: d.genInsert t xs

/-- TASK_READY (R208, R210, R214): the next block of a step is made ready, its task created and pushed. A task made ready
at the edge of the cancel that covers it is counted and never runs (R225). Of a collect whose COUNT lies in another
package, COUNT is read when it does not suffice. -/
def Dev.taskReady (k st c : Nat) (d : Dev) : Dev :=
  let q := d.outQueue k st
  let s := d.source k
  let g := (d.rowRun k st c).ready
  let b := k - 0x10000
  if d.rowCancelled k st c && s.cancelling && s.cancelEdge = d.epo.edges && d.blockReady k st c then
    (d.modRow k st c fun r => { r with ready := r.ready + 1 }).modSource k fun s => { s with cancelled := s.cancelled + 1 }
  else if !d.readyNow k st c || (q.map (d.outrun k st)).getD false then
    if st = 7 && 0x10000 ≤ k && (d.beam b).set && (d.beam b).collect && !d.countFull b g then d.askCount b g else d
  else
    let home := if st = 4 then c else d.srcHome k
    let t : Task := { step := st, beam := decide (0x10000 ≤ k), index := k % 0x10000, seq := 0, g := g, outq := q.getD 0
                      ordered := q.isSome, due := (d.now + d.budget st) % 2 ^ 72, home := home, cost := d.costOf k st
                      first := g == 0, orphan := false, rerun := 0 }
    let d := d.modRow k st c fun r => { r with ready := r.ready + 1 }
    (d.setGen home (d.genInsert t (d.gen home))).genPush home

/-- TASK_READY. -/
def execTaskReady (src : Src) (st : Fin 8) (c : Fin 64) : State → R :=
  liftBb fun d => (d.taskReady (srcKey src) st c).brgSettle

/-! ### Fences (R226 to R229, R234) -/

/-- Descriptors of one task: its source, step, block and home, whatever ORPHAN and RERUN say. -/
def sameTask (a b : List Word) : Bool := a.take 7 == b.take 7

/-- A partial or collect task that has issued stores (R198, R199): what it has done is kept when it is aborted. -/
def UnitS.storing (x : UnitS) (ws : List Word) : Bool :=
  ((taskOf ws).step == 4 || (taskOf ws).step == 7) && decide (3 ≤ x.sent)

/-- The requests of a unit given to another purpose. -/
def Dev.moveReqs (u : Nat) (who : CohWho) (d : Dev) : Dev :=
  let f := fun (w : CohWho) => if w = .unit u then who else w
  d.modCoh fun c => { c with
    outs := c.outs.map fun o => { o with who := f o.who }
    tagWait := if who = .nothing then c.tagWait.filter fun x => x.who != .unit u
      else c.tagWait.map fun x => { x with who := f x.who }
    done := c.done.map fun x => (f x.1, x.2) }

/-- A unit left without a task: what it has read is gone, and its requests are nobody's. -/
def Dev.unitDrop (u : Nat) (d : Dev) : Dev :=
  (d.modUnit u fun x => { x with
    run := none, stolen := false, got := [], wait := 0, sent := 0, failed := false, aborted := none }).moveReqs u .nothing

/-- The running task of a unit aborted (R209, R223): one that has begun to store keeps what it did, any other is to begin
anew. -/
def Dev.unitAbort (u : Nat) (ws : List Word) (d : Dev) : Dev :=
  if (d.unit u).storing ws then d.modUnit u fun x => { x with run := none, stolen := false, aborted := some ws }
  else d.unitDrop u

/-- R459: a unit that is powered off loses its memory: what its words hold from then on is free (assumption 189). -/
def Dev.unitLost (u : Nat) (d : Dev) : Dev :=
  { d with
    mem := (List.range 4096).foldl (fun m i =>
      mapSet (fun _ => 0) m (0x300000000 + u * 0x1000 + i) (toW (Config.freeNat (d.free + i)))) d.mem
    free := d.free + 4096 }

/-- R227, R234: unit `u` is fenced for a reason; automatic ones are recorded in the UNIT class. -/
def Dev.fence (u reason : Nat) (d : Dev) : Dev :=
  if d.fenced u then d
  else
    let r := u / 128
    let was := d.over r
    let d := if (d.unit u).cnt ≥ 32 then
        let (ws, d) := d.takeBottom u
        let h := (taskOf ws).home
        d.setGen h (⟨ws, true⟩ :: d.gen h)
      else d
    let run := (d.unit u).run
    let d := match run with
      | some ws =>
        let t := taskOf ws
        (d.unitAbort u ws).pushTop u ({ t with rerun := Nat.min 255 (t.rerun + 1) } : Task).words
      | none => d
    let d := d.modUnit u fun x => { x with
      recover := if reason ≤ 3 && x.cnt ≠ 0 then some d.epo.edges else x.recover }
    let d := ((d.setF (F.tskUnit_FENCED u) 1).setF (F.tskUnit_REASON u) reason).modUnit u fun x => { x with
      turned := d.epo.edges + 1 }
    let d := d.unitLost u
    -- With no task aborted, the T0 bits of the event are a free value, and so is the interruption of a recovery that has
    -- nothing to take over (assumption 109).
    let (t0, d) := match run with
      | some ws => (bitsOf (nth ws 0) 35 20, d)
      | none => d.fresh
    let det := mkW [(19, 4, t0), (3, 0, reason)]
    let d := d.event 0x411 u det
    let d := if reason ≤ 3 then d.error 2 2 u 0 0x411 det else d
    -- R431: with nothing to take over, the recovery ends with the fence.
    let d := if reason ≤ 3 && (d.unit u).cnt = 0 then
        let (us, d) := d.fresh
        d.event 0xA02 0 (mkW [(35, 32, 3), (17, 0, us)])
      else d
    let d := d.loadUpdate r
    if d.overLimit r && !was then
      (d.setF (F.tskRgnLoad_OVER r) 1).event 0x412 r (mkW [(12, 12, 1), (9, 0, d.permille r)])
    else d

/-- UNIT_ECC_ERROR (R226). -/
def execUnitEccError (u : Fin 1024) : State → R := lift (Dev.fence u 1)

/-- RESIDUE_MISMATCH (R226). -/
def execResidueMismatch (u : Fin 1024) : State → R := lift (Dev.fence u 2)

/-- TASK_WATCHDOG_EXPIRY (R226): of a unit that runs a task. -/
def execTaskWatchdogExpiry (u : Fin 1024) : State → R :=
  lift fun d => if (d.unit u).run.isSome then d.fence u 3 else d

/-- UNIT_FENCE, opcode 0x411. -/
def Dev.unitFence (n : Nat) (d : Dev) : Dev :=
  let u := (d.arg n 1).toNat
  if u > 1023 || d.fenced u then d.reply n stBAD_ARG [] else (d.fence u 4).reply n stOK []

/-- UNIT_FENCE. -/
def execUnitFence (n : Mbx) : State → R := lift (Dev.takeCmd n 0x411 (· == 1) (Dev.unitFence n))

/-- UNIT_UNFENCE, opcode 0x412 (R229): `result` is what the self-test finds. -/
def Dev.unitUnfence (n result : Nat) (d : Dev) : Dev :=
  let u := (d.arg n 1).toNat
  if u > 1023 || !d.fenced u then d.reply n stBAD_ARG []
  else if result ≠ 0 then d.reply n stBAD_ARG [toW result]
  else
    let d := (d.setF (F.tskUnit_FENCED u) 0).modUnit u fun x => { x with turned := d.epo.edges + 1 }
    (d.loadUpdate (u / 128)).reply n stOK [0]

/-- UNIT_UNFENCE. -/
def execUnitUnfence (n : Mbx) (result : Fin 4) : State → R := lift (Dev.takeCmd n 0x412 (· == 1) (Dev.unitUnfence n result))

/-- TASK_LOAD_GET, opcode 0x413. -/
def Dev.taskLoadGet (n : Nat) (d : Dev) : Dev :=
  let d := forN 8 Dev.loadUpdate d
  d.reply n stOK ((List.range 8).map fun r => d.reg (R.tskRgnLoad r))

/-- TASK_LOAD_GET. -/
def execTaskLoadGet (n : Mbx) : State → R := lift (Dev.takeCmd n 0x413 (· == 0) (Dev.taskLoadGet n))

/-! ### Release (R221) -/

/-- A word of a delay line stored. It goes to the ring of FIFO order whatever ORDER says (R189, assumption 168). -/
def Dev.qPushSide (c q : Nat) (o : OutW) (d : Dev) : Dev :=
  if !d.fb (F.cluQcfg_EN c q) then d else d.qPushFifo c q o.w { kind := 0, ep := none, side := o.side }

/-- A done task's words released into their queue: a packet's into a packet queue, else a delay line's. -/
def Dev.releaseWords (c q : Nat) (ws : List OutW) (d : Dev) : Dev :=
  each ws (fun o d => if d.qPkt c q then d.qPush c q 0 o.w o.ep else d.qPushSide c q o) d

/-- A done ordered task waits for its turn. -/
def Dev.addDone (c q seq : Nat) (ws : List OutW) (d : Dev) : Dev :=
  { d with tsk := { d.tsk with done := mmod d.tsk.done (c * 128 + q) fun l => l ++ [(seq, ws)] } }

/-- TASK_RELEASE (R221). -/
def Dev.taskRelease (c q : Nat) (d : Dev) : Dev :=
  let next := d.f (F.tskQseq_NEXT_REL c q)
  let l := mget d.tsk.done (c * 128 + q)
  match l.find? fun x => x.1 == next with
  | none => d
  | some (_, ws) =>
    let d := { d with tsk := { d.tsk with done := mset d.tsk.done (c * 128 + q) (l.filter fun x => x.1 != next) } }
    (d.releaseWords c q ws).setF (F.tskQseq_NEXT_REL c q) (next + 1)

/-- TASK_RELEASE. -/
def execTaskRelease (c : Fin 64) (q : Fin 128) : State → R := lift (Dev.taskRelease c q)

/-! ### Cancellation (R224, R225) -/

/-- The STEALS field that counts a steal of unit `u` from unit `v` (R216). -/
def stealsFld (u v : Nat) : Fld :=
  if v / 16 = u / 16 then F.tskRgnSteals_CLUSTER (u / 128) else F.tskRgnSteals_REGION (u / 128)

/-- A steal that another claim on the entry, or a cancel, wins over (R220, R225): it is not counted. -/
def Dev.unSteal (u : Nat) (t : StealTie) (d : Dev) : Dev :=
  let fl := stealsFld u t.victim
  (if t.counted then d.setF fl (d.f fl - 1) else d).modUnit u fun x => { x with steal := none }

/-- A descriptor is one that a cancel removes. -/
def hit (k g : Nat) (ws : List Word) : Bool := (taskOf ws).key == k && decide (g ≤ (taskOf ws).g)

/-- A cancelled task: counted; an ordered one with a SEQ is released as zero words. -/
def Dev.cancelOne (ws : List Word) (d : Dev) : Dev :=
  let t := taskOf ws
  let d := d.modSource t.key fun s => { s with cancelled := s.cancelled + 1 }
  if t.ordered then d.addDone t.home t.outq t.seq [] else d

/-- The tasks of a source from a block on removed from the deque of a unit. -/
def Dev.cancelDeque (k g u : Nat) (d : Dev) : Dev :=
  let l := d.deque u
  let gone := l.filter (hit k g)
  if gone.isEmpty then d
  else
    let d := d.modUnit u fun x => { x with cnt := 0 }
    each gone Dev.cancelOne (each (l.filter fun x => !hit k g x) (Dev.pushBottom u) d)

/-- And from the generator of a cluster. -/
def Dev.cancelGen (k g c : Nat) (d : Dev) : Dev :=
  let l := d.gen c
  let gone := l.filter fun t => hit k g t.desc
  if gone.isEmpty then d
  else each gone (fun t d => if t.made then d.cancelOne t.desc
      else d.modSource k fun s => { s with cancelled := s.cancelled + 1 })
    (d.setGen c (l.filter fun t => !hit k g t.desc))

/-- A steal of the present edge, as it was noted, whose task a cancel covers and which its unit still runs: it is taken back
with all that the task did since (R225). -/
def Dev.cancelStolen (k g : Nat) (t : Tie) (d : Dev) : Dev :=
  let ran := ((d.unit t.idx).run.map (hit k g)).getD false
  if t.kind = 1 && t.edge = d.epo.edges + 1 && ran && mget t.after.tsk.units t.idx == d.unit t.idx then d.untie 1 t.idx else d

/-- TASK_CANCEL, opcode 0x410. -/
def Dev.taskCancel (n : Nat) (d : Dev) : Dev :=
  let a := d.arg n 1
  let beam := bitOf a 35
  let i := bitsOf a 13 0
  let k := if beam then 0x10000 + i else i
  let g := (d.arg n 2).toNat + (d.arg n 3).toNat * 2 ^ 36
  if bitsOf a 34 14 ≠ 0 || bitsOf (d.arg n 3) 35 26 ≠ 0 || (!beam && i > 5119)
      || ((d.source k).coming.isEmpty && !(beam && (d.beam i).set)) then d.reply n stBAD_ARG []
  else if (d.source k).cancelling then d.reply n stBUSY []
  else
    let d := ((each d.ties (Dev.cancelStolen k g) d).reply n stOK []).modSource k fun s => { s with
      cancelAt := some (Nat.min g (s.cancelAt.getD g)), cancelled := 0, cancelling := true, cancelEdge := d.epo.edges }
    forN 1024 (Dev.cancelDeque k g) (forN 64 (Dev.cancelGen k g) d)

/-- TASK_CANCEL. -/
def execTaskCancel (n : Mbx) : State → R := lift (Dev.takeCmd n 0x410 (· == 3) (Dev.taskCancel n))

/-- CANCEL_COMPLETE (R224): no unit runs a task of the source at or after g_c. -/
def Dev.cancelComplete (k : Nat) (d : Dev) : Dev :=
  let s := d.source k
  let g := s.cancelAt.getD 0
  let runs := d.tsk.units.any fun (_, x) => (x.run.map (hit k g)).getD false
  if !s.cancelling || runs then d
  else (d.modSource k fun s => { s with cancelling := false }).event 0x414 0
    (mkW [(35, 28, stCANCELLED), (27, 0, Nat.min s.cancelled 0xFFFFFFF)])

/-- CANCEL_COMPLETE. -/
def execCancelComplete (src : Src) : State → R := lift (Dev.cancelComplete (srcKey src))

end Sys2Proof.Machine
end

