-- ==== Sys2Proof/Machine/Run.lean ====
section
/-! DEFINITION. Running tasks: the words that a unit reads, the block that a task computes from them, its completion,
starting and stealing (R179 to R204, R209, R215 to R222, R230, R231). -/

namespace Sys2Proof.Machine

/-! ### Blocks of items -/

/-- Items with the number of the slot that each is, or stands before. -/
def numbered : Nat → List Item → List (Nat × Item)
  | _, [] => []
  | n, x :: xs => (n, x) :: numbered (if x.slot then n + 1 else n) xs

/-- The MARK words of items, with the slot that each stands before. -/
def marksOf (n : Nat) (xs : List Item) : List (Nat × Word) :=
  (numbered n xs).filterMap fun (k, x) => if x.tag = 6 then some (k, x.w) else none

/-- Slots of a list of items. -/
def slotsOf (xs : List Item) : List Item := xs.filter Item.slot

/-- A MARK item. -/
def markItem (m : Nat × Word) : Item := ⟨6, m.2⟩

/-- An EPOCH mark for an epoch (R120). -/
def epochItem (e : Nat) : Item := ⟨5, toW (shortEpoch e)⟩

/-- Output slots from slot `j` on (R180): each after the EPOCH mark that a multiple of 1,024 has, with the epoch `ep` of its
slot, and the MARK words that it is the first not earlier than. -/
def outStream (ep : Nat → Nat) : Nat → List (Nat × Word) → List Item → List Item
  | _, _, [] => []
  | j, ms, x :: xs =>
    (if j % 1024 = 0 then [epochItem (ep j)] else []) ++ (ms.filter (·.1 == j)).map markItem
      ++ x :: outStream ep (j + 1) ms xs

/-- The least output slot not earlier than input slot `n` at `k` input slots each. -/
def markSlot (k n : Nat) : Nat := (n + k - 1) / k

/-! ### Table words (R205, R365) -/

/-- A word that a unit has read; one that did not come reads POISONED (assumption 37). -/
def gotWord (got : SMap (Option (Word × Bool))) (a : Nat) : Word × Bool :=
  (mget got a).getD (toW (Config.freeNat a), true)

/-- `n` words read from an address. -/
def gotWords (got : SMap (Option (Word × Bool))) (a n : Nat) : Array (Word × Bool) :=
  ((List.range n).map fun i => gotWord got (a + i)).toArray

/-- Tap `k` of a table. -/
def arrTap (t : Array (Word × Bool)) (k : Nat) : Int := tapOf (fun i => (t.getD i default).1) k

/-- A word of a range of a table read POISONED. -/
def arrBad (t : Array (Word × Bool)) (a n : Nat) : Bool := (List.range n).any fun i => (t.getD (a + i) default).2

/-! ### The steps of an input (R183 to R194) -/

/-- What a task gives: the streams of its block, or words for a queue; the step's state after it; saturated values. -/
structure Result where
  streams : List (List Item) := []
  words : List OutW := []
  run : StepRun
  sat : Nat
deriving DecidableEq, Repr, Inhabited

/-- UNPACK of the items of a block: the items out, the x values of R183, saturated values. -/
def Dev.unpackItems (d : Dev) (i n0 : Nat) (s : StepCfg) (xs : List Item) : List Item × List Item × Nat :=
  let inp := d.inp i
  let mode := bitsOf s.sw0 1 0
  let r := (numbered n0 xs).foldl (fun (acc : List Item × List Item × Nat) (n, x) =>
    if x.tag = 6 then (markItem (n, x.w) :: acc.1, acc.2.1, acc.2.2)
    else if x.slot then
      let (y, c) := unpackSlot mode (d.canvasAt s.can i (inp.at n)) x.w
      let (a, b, _) := unpackX mode x.w
      (y :: acc.1, mkItem (normTag x.tag) (c18 a b) :: acc.2.1, acc.2.2 + c)
    else acc) ([], [], 0)
  (r.1.reverse, r.2.1.reverse, r.2.2)

/-- The words of a delay line: its c18 words, and its marks as words of their tag. -/
def lineWords (xs : List Item) : List OutW :=
  xs.map fun x => { w := if x.tag = 5 then tagged 5 x.w.toNat else x.w, side := x.tag, ep := none }

/-- DELAY of a block: `xs` the items of the delay line from slot `s0`; `tabs` the table of each bank; `cb` the slots whose
Canvas words read POISONED. -/
def delayBlock (ep : Nat → Nat) (cb : Nat → Bool) (n0 s0 : Nat) (plan : List (Nat × Nat × Nat)) (run : StepRun) (tabs : Bool → Array (Word × Bool))
    (xs : List Item) : List Item × Nat :=
  let sl := (slotsOf xs).toArray
  let out := plan.zipIdx.map fun ((q, p, _), k) =>
    let n := n0 + k
    let t := tabs (run.bank n)
    let win := (List.range 16).map fun j => if n + q + j < s0 + 7 then zeroItem else sl.getD (n + q + j - 7 - s0) zeroItem
    delaySlot (fun j => arrTap t (p * 16 + j)) (arrBad t (p * 8) 8 || cb n) win
  (outStream ep n0 (marksOf s0 xs) (out.map (·.1)), (out.map (·.2)).sum)

/-- R187: clamped slots of a block counted, and the passages into the clamp. -/
def Dev.clampCount (i : Nat) (was : Bool) (plan : List (Nat × Nat × Nat)) (d : Dev) : Bool × Dev :=
  plan.foldl (fun (a : Bool × Dev) (_, _, c) =>
    if c = 0 then (false, a.2)
    else if a.1 then (true, a.2)
    else (true, a.2.event 0x401 0 (mkW [(13, 13, c - 1), (12, 0, i)]))) (was, d)

/-- ROTATE of a block. -/
def Dev.rotateBlock (d : Dev) (i n0 : Nat) (s : StepCfg) (xs : List Item) :
    List Item × Nat × List Nat × Loads :=
  let src := d.source i
  let inp := d.inp i
  let cv := fun n => d.canvasAt s.can i (inp.at n)
  let (ms, m, p) := modelRun (fun n r => (rotM (r.headD 0) (cv n).phase, (cv n).badR)) 1024 n0 src.pm src.pPend
  let out := ((slotsOf xs).zip ms).map fun (x, m) => rotSlot m.1 m.2 x
  (outStream inp.at n0 (marksOf n0 xs) (out.map (·.1)), (out.map (·.2)).sum, m, p)

/-- FILTER of a block; `ep` gives the epochs of its output slots. -/
def filterBlock (ep : Nat → Nat) (s : StepCfg) (run : StepRun) (tabs : Bool → Array (Word × Bool)) (xs : List Item) : Result :=
  let lk := bitsOf s.sw0 3 0
  let k := 2 ^ lk
  let cnt := bitsOf s.sw0 28 20
  let sl := slotsOf xs
  let past := run.hist.headD []
  let all := (List.replicate (15 * k - past.length) zeroItem ++ past ++ sl).toArray
  let frames := sl.length / k
  let fs := (List.range frames).map fun f =>
    let t := tabs (run.bank (run.outSlots + f))
    filterFrame lk (bitsOf s.sw0 11 4) (bitsOf s.sw0 19 12) cnt (arrTap t) (arrBad t 0 (8 * k))
      ((List.range (16 * k)).map fun j => all.getD (f * k + j) zeroItem)
  let marks := run.marks ++ (marksOf run.inSlots xs).map fun m => (markSlot k m.1, m.2)
  { streams := (List.range cnt).map fun c => outStream ep run.outSlots marks (fs.map fun f => f.1.getD c default)
    run := { run with
      inSlots := run.inSlots + sl.length, outSlots := run.outSlots + frames
      hist := [(all.toList).drop (all.size - 15 * k)]
      marks := marks.filter fun m => run.outSlots + frames ≤ m.1 }
    sat := (fs.map (·.2)).sum }

/-- DETECT of one stream: its items so far and of the block: the outputs, what is left, saturated values. -/
def detectStream (nint dshift : Nat) : Nat → List Item → List Item × List Item × Nat
  | 0, xs => ([], xs, 0)
  | fuel + 1, xs =>
    if xs.length < nint then ([], xs, 0)
    else
      let (y, c) := detectSlot dshift (xs.take nint)
      let (ys, r, c') := detectStream nint dshift fuel (xs.drop nint)
      (y :: ys, r, c + c')

/-- DETECT of a block; `ep` gives the epochs of its output slots. -/
def detectBlock (ep : Nat → Nat) (s : StepCfg) (run : StepRun) (streams : List (List Item)) : Result :=
  let nint := bitsOf s.sw0 15 0 + 1
  let outs := streams.zipIdx.map fun (xs, i) =>
    detectStream nint (bitsOf s.sw0 22 16) 1025 (run.hist.getD i [] ++ slotsOf xs)
  let frames := (outs.headD default).1.length
  let marks := run.marks ++ (marksOf run.inSlots (streams.headD [])).map fun m => (markSlot nint m.1, m.2)
  { streams := outs.map fun o => outStream ep run.outSlots marks o.1
    run := { run with
      inSlots := run.inSlots + (slotsOf (streams.headD [])).length, outSlots := run.outSlots + frames
      hist := outs.map fun o => o.2.1
      marks := marks.filter fun m => run.outSlots + frames ≤ m.1 }
    sat := (outs.map fun o => o.2.2).sum }

/-! ### PACK (R201 to R203) -/

/-- The items of the first `n` slots, through the last of them, and the rest. -/
def cutSlots : Nat → List Item → List Item × List Item
  | 0, xs => ([], xs)
  | _, [] => ([], [])
  | n + 1, x :: xs =>
    let (a, b) := cutSlots (if x.slot then n else n + 1) xs
    (x :: a, b)

/-- Whole packets of a stream's items, and what is left. -/
def cutPackets (plen : Nat) : Nat → List Item → List (List Item) × List Item
  | 0, xs => ([], xs)
  | fuel + 1, xs =>
    if (slotsOf xs).length < plen then ([], xs)
    else
      let (a, b) := cutSlots plen xs
      let (ps, r) := cutPackets plen fuel b
      (a :: ps, r)

/-- The sub-channel numbers of the streams at the end of a recipe (R202). -/
def subOf (r : List StepCfg) (i : Nat) : Nat :=
  match r.find? (·.code == 3) with
  | some s => bitsOf s.sw0 19 12 + i
  | none => i

/-- PACK of a block: packets by ascending first slot, then by ascending endpoint. The EPOCH marks of its input end here
(R180, R201). -/
def Dev.packBlock (d : Dev) (k : Nat) (s : StepCfg) (run : StepRun) (streams : List (List Item)) : Result :=
  let plen := 2 ^ bitsOf s.sw0 3 0
  let fmt := bitsOf s.sw0 4 4
  let base := bitsOf s.sw1 19 0
  let cuts := streams.zipIdx.map fun (xs, i) => cutPackets plen 1025 (run.hist.getD i [] ++ xs.filter fun (y : Item) => y.tag != 5)
  let n := (cuts.headD default).1.length
  let r0 := run.outSlots / plen
  let outs := (List.range n).flatMap fun r => cuts.zipIdx.map fun (c, i) =>
    packPacket (base + subOf (d.source k).recipe i) fmt (r0 + r) (d.stepAt k 6 ((r0 + r) * plen)) (c.1.getD r [])
  { words := outs.flatMap (·.1)
    run := { run with
      inSlots := run.inSlots + (slotsOf (streams.headD [])).length, outSlots := run.outSlots + n * plen
      hist := cuts.map (·.2) }
    sat := (outs.map (·.2)).sum }

/-! ### REDUCE (R195 to R199) -/

/-- Slot `j` of a member at the end of its recipe: DATA, FILL or POISON; one that is not there is POISON. -/
def Dev.memberSlot (d : Dev) (i sub j : Nat) : Item :=
  let src := d.source i
  match src.recipe.getLast? with
  | none => ⟨2, 0⟩
  | some s =>
    let run := mget src.steps s.code
    let bs := blockSlots src.recipe
    let st := sub - subOf src.recipe 0
    if j / bs < run.outBase then ⟨2, 0⟩
    else (slotsOf ((run.out.getD (j / bs - run.outBase) []).getD st [])).getD (j % bs) ⟨2, 0⟩

/-- The members of a member table that lie in cluster `c`: input, sub-channel, weight; a POISONED word taints. -/
def Dev.tableMembers (d : Dev) (c n : Nat) (t : Array (Word × Bool)) : List (Nat × Nat × Int × Int × Bool) :=
  ((List.range n).map fun m =>
    let (m0, b0) := t.getD (2 * m) default
    let (m1, b1) := t.getD (2 * m + 1) default
    (bitsOf m0 20 8, bitsOf m0 7 0, sOf 18 (bitsOf m1 35 18), sOf 18 (bitsOf m1 17 0), b0 || b1)).filter
      fun m => d.homeOf m.1 == c

/-- R196: the partial sums of block `g` of a beam in cluster `c`: three words a slot; saturated values. -/
def Dev.partialBlock (d : Dev) (b c g : Nat) (got : SMap (Option (Word × Bool))) : List Word × Nat :=
  let x := d.beam b
  let tab := fun (hi : Bool) => d.tableMembers c x.count (gotWords got (if hi then x.tab1 else x.tab0) (2 * x.count))
  let t0 := tab false
  let t1 := tab true
  let run := d.stepRun (0x10000 + b) 4
  let outs := (List.range 1024).map fun s =>
    let j := g * 1024 + s
    partialSum x.rshift ((if run.bank j then t1 else t0).map fun (i, sub, wi, wq, bad) =>
      let y := d.memberSlot i sub j
      (if bad then { y with tag := 2 } else y, wi, wq))
  (outs.flatMap fun (a, b, f, _) => [a, b, f], (outs.map fun o => o.2.2.2).sum)

/-- R199, R230: the beam slots of block `g` from the ring block that the unit has read. -/
def Beam.collectBlock (x : Beam) (g : Nat) (got : SMap (Option (Word × Bool))) : List Item × Nat :=
  let t := gotWords got (x.ring g) 3088
  let bad := x.expired.contains g
  let outs := (List.range 1024).map fun s =>
    let w := fun k => t.getD (16 + 3 * s + k) default
    beamSlot x.oshift x.nMemb (bad || (w 0).2 || (w 1).2 || (w 2).2) (w 0).1 (w 1).1 (w 2).1
  (outs.map (·.1), (outs.map (·.2)).sum)

/-! ### What a unit reads and writes by requests (R198, R199, R205, R230, R231, R364 to R366) -/

/-- A request of a unit through its cluster's agent. -/
def Dev.unitSend (u : Nat) (m : CMsg) (d : Dev) : Dev :=
  (d.modUnit u fun x => { x with wait := x.wait + 1 }).cohSend (.unit u) (u / 16) m

/-- The line at an address read through the cluster cache: from it, or by RD_S (R349). -/
def Dev.unitLine (u a : Nat) (d : Dev) : Dev := d.unitSend u { code := 1, addr := a / 16 * 16, mask := 0xFFFF }

/-- Words of a line stored through the cluster cache, which writes its line in E or M (R349, R350, R375). -/
def Dev.unitStore (u a mask : Nat) (ws : List Word) (d : Dev) : Dev :=
  d.unitSend u { code := 2, addr := a, mask := mask, ws := ws }

/-- The lines of `n` words from an address. -/
def linesOf (a n : Nat) : List Nat := if n = 0 then [] else (List.range ((a + n - 1) / 16 + 1 - a / 16)).map fun i => (a / 16 + i) * 16

/-- The lines of the tables that a task needs. -/
def Dev.taskLines (d : Dev) (t : Task) : List Nat :=
  let k := t.key
  let of := fun (s : StepCfg) (run : StepRun) (j n words : Nat) =>
    (run.banks j n).flatMap fun hi => linesOf (rsaAddr (if hi then s.sw2 else s.sw1)) words
  match t.step with
  | 1 => match d.stepOf k 1 with
    | some s => of s (d.stepRun k 1) (t.g * 1024) 1024 1024
    | none => []
  | 3 => match d.stepOf k 3 with
    | some s =>
      let run := d.stepRun k 3
      of s run run.outSlots (1024 / 2 ^ bitsOf s.sw0 3 0) (8 * 2 ^ bitsOf s.sw0 3 0)
    | none => []
  | 4 =>
    let x := d.beam t.index
    ((d.stepRun k 4).banks (t.g * 1024) 1024).flatMap fun hi => linesOf (if hi then x.tab1 else x.tab0) (2 * x.count)
  | _ => []

/-- R364, R231: a contribution that is discarded or stands incomplete. -/
def Dev.beamLate (u : Nat) (t : Task) (d : Dev) : Dev :=
  (d.inc (F.tskRgnCnt_BEAM_LATE (t.home / 8)) 1).modUnit u fun x => { x with sent := 5 }

/-- The next phase of a unit. -/
def Dev.unitPhase (u p : Nat) (d : Dev) : Dev := d.modUnit u fun x => { x with sent := p, failed := false }

/-- R198, R231, R364: one phase of a partial task: the tables, BLOCK, the sums, COUNT. -/
def Dev.partialPhase (u : Nat) (t : Task) (d : Dev) : Dev :=
  let x := d.unit u
  let b := d.beam t.index
  let ring := b.ring t.g
  match x.sent with
  | 1 => (d.unitPhase u 2).unitSend u { code := 3, addr := ring, mask := 2 }
  | 2 =>
    let (w, bad) := gotWord x.got (ring + 1)
    if x.failed || bad then d.beamLate u t
    else if w.toNat = t.g % 2 ^ 36 then
      let sums := (d.partialBlock t.index t.home t.g x.got).1
      each (chunksOf 16 193 sums).zipIdx (fun (ws, i) d =>
        d.unitSend u { code := 5, sub := 0, addr := ring + 16 + 16 * i, mask := 0xFFFF, ws := ws }) (d.unitPhase u 3)
    else if later 36 w.toNat (t.g % 2 ^ 36) then d.beamLate u t
    else d.unitPhase u 1
  | 3 =>
    if x.failed then d.beamLate u t
    else (d.unitPhase u 4).unitSend u { code := 5, sub := 0, addr := ring, mask := 1, ws := [1] }
  | 4 => if x.failed then d.beamLate u t else d.unitPhase u 5
  | _ => d

/-- R199: one phase of a collect task: the ring block read, zeros, BLOCK. -/
def Dev.collectPhase (u : Nat) (t : Task) (d : Dev) : Dev :=
  let ring := (d.beam t.index).ring t.g
  let wr := fun (i mask : Nat) (ws : List Word) => Dev.unitStore u (ring + 16 * i) mask ws
  match (d.unit u).sent with
  | 1 => forN 193 (fun i d => d.unitSend u { code := 3, addr := ring + 16 * i, mask := 0xFFFF }) (d.unitPhase u 2)
  | 2 =>
    -- The unit waits until COUNT equals N_CONTRIB, or the beam wait has expired.
    let b := d.beam t.index
    if (gotWord (d.unit u).got ring).1.toNat ≠ b.nContrib && !b.expired.contains t.g then d.unitPhase u 1
    else forN 193 (fun i => if i = 0 then wr 0 0xFFFD (List.replicate 15 0) else wr i 0xFFFF (List.replicate 16 0))
      (d.unitPhase u 3)
  | 3 => wr 0 2 [toW (t.g + 4)] (d.unitPhase u 4)
  | 4 => d.unitPhase u 5
  | _ => d

/-- One phase of the running task of a unit. -/
def Dev.taskPhase (u : Nat) (t : Task) (d : Dev) : Dev :=
  if (d.unit u).sent = 0 then each (d.taskLines t) (Dev.unitLine u) (d.unitPhase u 1)
  else if t.step = 4 then d.partialPhase u t
  else if t.step = 7 then d.collectPhase u t
  else d.unitPhase u 5

/-- A unit goes on with its task as far as it can without a message from outside the package; BLOCK is read again at
most once. -/
def Dev.unitGo (u : Nat) : Nat → Dev → Dev
  | 0, d => d.brgSettle
  | fuel + 1, d =>
    let d := d.brgSettle
    match (d.unit u).run with
    | none => d
    | some ws => if (d.unit u).wait ≠ 0 || (d.unit u).sent = 5 then d else (d.taskPhase u (taskOf ws)).unitGo u fuel

/-! ### Completion (R209, R222) -/

/-- The tables of a step from what the unit has read. -/
def stepTabs (s : StepCfg) (got : SMap (Option (Word × Bool))) (n : Nat) : Bool → Array (Word × Bool) :=
  let t0 := gotWords got (rsaAddr s.sw1) n
  let t1 := gotWords got (rsaAddr s.sw2) n
  fun hi => if hi then t1 else t0

/-- R181: saturated values counted for the home cluster. -/
def Dev.satCount (c s n : Nat) (d : Dev) : Dev :=
  if n = 0 then d else d.incEv (F.cluSat_COUNT c s) n 0x400 c (fun _ => toW s)

/-- The streams that the step before gives for block `g`. -/
def Dev.prevOut (d : Dev) (k code g : Nat) : List (List Item) :=
  match prevStep code (d.source k).recipe with
  | some p =>
    let r := d.stepRun k p.code
    if g < r.outBase then [] else r.out.getD (g - r.outBase) []
  | none => []

/-- The block of the step before is consumed. -/
def Dev.prevDrop (k code : Nat) (d : Dev) : Dev :=
  match prevStep code (d.source k).recipe with
  | some p => d.modRun k p.code fun r => { r with out := r.out.drop 1, outBase := r.outBase + bit (!r.out.isEmpty) }
  | none => d

/-- The beam slots that the home cluster of an input has done of each beam that has it as a member in either bank. -/
def Dev.memberNeed (d : Dev) (i : Nat) : List Nat :=
  (d.tsk.beams.filter fun b => (d.allMembers b.1).any fun m => m.1 == i).map fun b =>
    (d.partRun b.1 (d.homeOf i)).done * 1024

/-- The blocks of an input's last step that no beam needs any more are dropped. -/
def Dev.memberTrim (i : Nat) (d : Dev) : Dev :=
  let src := d.source i
  match src.recipe.getLast? with
  | none => d
  | some s =>
    if s.code = 6 then d
    else
      let bs := blockSlots src.recipe
      let run := mget src.steps s.code
      let low := ((d.memberNeed i).map (· / bs)).foldl Nat.min run.done
      let n := low - run.outBase
      d.modRun i s.code fun r => { r with out := r.out.drop n, outBase := r.outBase + n }

/-- R209: the state of a step committed, its streams kept for the step after or for beams. -/
def Dev.commit (k code : Nat) (res : Result) (keep : Bool) (d : Dev) : Dev :=
  let d := d.modRun k code fun _ => { res.run with
    done := res.run.done + 1
    out := if keep then res.run.out ++ [res.streams] else res.run.out
    outBase := if keep then res.run.outBase else res.run.outBase + 1 }
  if keep && (nextStep code (d.source k).recipe).isNone && k < 0x10000 then d.memberTrim k else d

/-- UNPACK completes. -/
def Dev.doUnpack (t : Task) (s : StepCfg) (d : Dev) : Option (List OutW × Nat × Dev) :=
  let i := t.index
  let c := t.home
  let q := d.ingQueue i
  let n0 := t.g * 1024
  let (xs, need, d) := d.qScan c q false (d.qu c q).ents.length 0 1024 []
  if need ≠ 0 then none
  else
    let (ys, raw, sat) := d.unpackItems i n0 s xs
    let d := (d.qAdvance c q xs.length).calFeed i t.g n0 raw
    let run := d.stepRun i 0
    let run := { run with inSlots := n0 + 1024, outSlots := n0 + 1024 }
    let ys := outStream (d.inp i).at n0 (marksOf n0 ys) (slotsOf ys)
    if t.ordered then some (lineWords ys, sat, d.commit i 0 { run := run, sat := sat } false)
    else some ([], sat, d.commit i 0 { streams := [ys], run := run, sat := sat } true)

/-- DELAY completes: the read pointer passes every word that no later slot needs. -/
def Dev.doDelay (u : Nat) (t : Task) (s : StepCfg) (d : Dev) : Option (List OutW × Nat × Dev) :=
  let i := t.index
  let c := t.home
  let q := bitsOf s.sw0 22 16
  let n0 := t.g * 1024
  let s0 := n0 - 7
  let (plan, m, p) := d.delayPlan i s
  let top := (plan.zipIdx.map fun ((q, _, _), k) => n0 + k + q + 9).foldl Nat.max 0
  let (xs, need, d) := d.qScan c q true (d.qu c q).ents.length 0 (top - s0) []
  if need ≠ 0 then none
  else
    let run := d.stepRun i 1
    let (ys, sat) := delayBlock (d.inp i).at (fun n => (d.canvasAt s.can i ((d.inp i).at n)).badD) n0 s0 plan run (stepTabs s (d.unit u).got 1024) xs
    let past := (cutSlots (n0 + 1024 - 7 - s0) xs).1.length
    let (cl, d) := (d.qAdvance c q past).clampCount i run.clamped plan
    let sat := sat + plan.countP fun x => x.2.2 != 0
    let run := { run with inSlots := n0 + 1024, outSlots := n0 + 1024, clamped := cl }
    let d := d.modSource i fun x => { x with dm := m, dPend := p }
    some ([], sat, d.commit i 1 { streams := [ys], run := run, sat := sat } true)

/-- ROTATE, FILTER, DETECT or PACK completes. -/
def Dev.doStep (u : Nat) (t : Task) (s : StepCfg) (d : Dev) : Option (List OutW × Nat × Dev) :=
  let k := t.key
  let xs := d.prevOut k t.step t.g
  let run := d.stepRun k t.step
  let fin := fun (res : Result) (d : Dev) =>
    some (res.words, res.sat, (d.prevDrop k t.step).commit k t.step res (t.step != 6))
  match t.step with
  | 2 =>
    let (ys, sat, m, p) := d.rotateBlock k (t.g * 1024) s (xs.headD [])
    let run := { run with inSlots := run.inSlots + 1024, outSlots := run.outSlots + 1024 }
    fin { streams := [ys], run := run, sat := sat } (d.modSource k fun x => { x with pm := m, pPend := p })
  | 3 => fin (filterBlock (d.stepAt k 3) s run (stepTabs s (d.unit u).got (8 * 2 ^ bitsOf s.sw0 3 0)) (xs.headD [])) d
  | 5 => fin (detectBlock (d.stepAt k 5) s run xs) d
  | _ => fin (d.packBlock k s run xs) d

/-- A partial task completes; its members' blocks may be dropped. -/
def Dev.doPartial (u : Nat) (t : Task) (d : Dev) : Option (List OutW × Nat × Dev) :=
  let sat := (d.partialBlock t.index t.home t.g (d.unit u).got).2
  let ms := d.membersIn t.index t.home t.g
  let d := d.modBeam t.index fun b => { b with parts := mmod b.parts t.home fun r => { r with
    done := r.done + 1, inSlots := r.inSlots + 1024, outSlots := r.outSlots + 1024 } }
  some ([], sat, each ((ms.map (·.1)).eraseDups) Dev.memberTrim d)

/-- A collect task completes. -/
def Dev.doCollect (u : Nat) (t : Task) (d : Dev) : Option (List OutW × Nat × Dev) :=
  let x := d.beam t.index
  let (ys, sat) := x.collectBlock t.g (d.unit u).got
  let run := d.stepRun t.key 4
  let run := { run with inSlots := run.inSlots + 1024, outSlots := run.outSlots + 1024 }
  let d := d.modBeam t.index fun b => { b with expired := b.expired.filter (· != t.g), seen := mset b.seen t.g none }
  let ys := outStream (d.beamAt t.index) (t.g * 1024) [] ys
  some ([], sat, d.commit t.key 4 { streams := [ys], run := run, sat := sat } (nextStep 4 (d.source t.key).recipe).isSome)

/-- The state that a task runs on. -/
def Dev.taskRun (d : Dev) (t : Task) : StepRun := d.rowRun t.key t.step t.home

/-- What a task gives at its completion: words for its queue, saturated values, the state after. -/
def Dev.taskResult (u : Nat) (t : Task) (d : Dev) : Option (List OutW × Nat × Dev) :=
  match t.step with
  | 4 => d.doPartial u t
  | 7 => d.doCollect u t
  | st => match d.stepOf t.key st with
    | none => none
    | some s => if st = 0 then d.doUnpack t s else if st = 1 then d.doDelay u t s else d.doStep u t s

/-- The unit has no task. -/
def Dev.unitFree (u : Nat) (d : Dev) : Dev :=
  d.modUnit u fun x => { x with
    run := none, stolen := false, got := [], wait := 0, sent := 0, failed := false, aborted := none }

/-- R209, R221, R222: the running task of a unit, its reads and writes done, completes. A task of a block that its source
no longer has gives no words. -/
def Dev.complete (u : Nat) (t : Task) (d : Dev) : Dev :=
  let r := d.taskRun t
  if r.done ≠ t.g || r.ready ≤ t.g then
    let d := d.unitFree u
    if t.ordered then d.addDone t.home t.outq t.seq [] else d
  else match d.taskResult u t with
    | none => d
    | some (ws, sat, d) =>
      let d := (d.satCount t.home (if t.step = 7 then 4 else t.step) sat).unitFree u
      let d := if t.ordered then d.addDone t.home t.outq t.seq ws else d
      if later 72 d.now t.due then d.incEv (F.tskRgnCnt_LATE (t.home / 8)) 1 0x410 (t.home / 8) toW else d

/-- TASK_COMPLETE (R209). -/
def Dev.taskComplete (u : Nat) (d : Dev) : Dev :=
  let d := d.unitGo u 8
  match (d.unit u).run with
  | some ws => if (d.unit u).wait = 0 && (d.unit u).sent = 5 then d.complete u (taskOf ws) else d
  | none => d

/-- TASK_COMPLETE. -/
def execTaskComplete (u : Fin 1024) : State → R := liftBb (Dev.taskComplete u)

/-! ### Starting and stealing (R215 to R220) -/

/-- A unit that keeps what it did of an aborted task. -/
def Dev.keeper (d : Dev) (ws : List Word) : Option Nat :=
  (d.tsk.units.find? fun x => (x.2.aborted.map (sameTask ws)).getD false).map (·.1)

/-- A unit takes over a task: anew, or from where the abort left it, so that no store is made twice (R209, R223). -/
def Dev.takeOver (u : Nat) (ws : List Word) (d : Dev) : Dev :=
  match d.keeper ws with
  | none => (d.unitDrop u).modUnit u fun x => { x with run := some ws }
  | some v =>
    let y := d.unit v
    if v = u then d.modUnit u fun x => { x with run := some ws, aborted := none }
    else
      (((d.unitDrop u).moveReqs v (.unit u)).unitDrop v).modUnit u fun x => { x with
        run := some ws, got := y.got, wait := y.wait, sent := y.sent, failed := y.failed }

/-- A unit begins a task; a command of this edge that names a slot now begun is PAST (R185, R206). -/
def Dev.begin (u : Nat) (ws : List Word) (stolen : Bool) (d : Dev) : Dev :=
  let t := taskOf ws
  let d := (d.takeOver u ws).modUnit u fun x => { x with stolen := stolen }
  let up := fun (r : StepRun) => { r with begun := Nat.max r.begun (t.g + 1) }
  let d := if t.step = 4 then d.modBeam t.index fun b => { b with parts := mmod b.parts t.home up }
    else d.modRun t.key (if t.step = 7 then 4 else t.step) up
  (d.pastTies t.key t.step t.g).unitGo u 8

/-- R232, R272: the shadow unit of a cluster of the job that runs takes no task. -/
def Dev.shadowBusy (d : Dev) (u : Nat) : Bool :=
  d.shadowOf (u / 16) == u && match d.cal with
    | some j => (d.jobClusters j.inputs).contains (u / 16)
    | none => false

/-- The unit that stole an entry of the deque of `v` at the present edge and runs it, if one did. -/
def Dev.thiefOf (d : Dev) (v : Nat) : Option (Nat × StealTie) :=
  d.tsk.units.findSome? fun (u, x) => match x.steal with
    | some t => if t.victim = v && t.edge = d.epo.edges + 1 && x.run.isSome then some (u, t) else none
    | none => none

/-- A thief loses its entry to a claim of the same edge that comes before its own (R220): the entry stands again where it
stood, and the thief searches on. -/
def Dev.stealBack (u : Nat) (t : StealTie) (d : Dev) : Dev :=
  let d := match (d.unit u).run with
    | some ws => d.unitAbort u ws
    | none => d
  (if t.top then d.pushTop t.victim t.ws else d.pushBottom t.victim t.ws).unSteal u t

/-- R220: the owner wins its last entry from a thief of the same edge. -/
def Dev.ownerWins (u : Nat) (d : Dev) : Dev :=
  let x := d.unit u
  if d.fenced u || x.run.isSome || x.cnt ≠ 0 then d
  else match d.thiefOf u with
    | some (v, t) => d.stealBack v t
    | none => d

/-- TASK_START (R215, R220). -/
def Dev.taskStart (u : Nat) (d : Dev) : Dev :=
  let d := d.ownerWins u
  let x := d.unit u
  if !d.inService u || x.run.isSome || x.cnt = 0 || d.shadowBusy u then d
  else
    let (ws, d) := d.takeTop u
    d.begin u ws false

/-- TASK_START. -/
def execTaskStart (u : Fin 1024) : State → R := liftBb (Dev.taskStart u)

/-- R218: the cost test of a thief. -/
def Dev.costTest (d : Dev) (u v : Nat) (t : Task) : Bool :=
  let same := u / 16 = v / 16
  let l := if same then 24 else 160
  let c := if same then d.f (F.tskCost_LOCAL t.cost) else d.f (F.tskCost_REMOTE t.cost)
  notLater 72 ((d.now + (l + c + d.f F.tskCfg_MARGIN) * 43) % 2 ^ 72) t.due

/-- Victims in descending descriptor count, then ascending unit index, at most four. -/
def Dev.victims (d : Dev) (us : List Nat) : List Nat :=
  let us := us.filter fun v => (d.unit v).cnt != 0 && !d.fenced v
  ((List.range 33).reverse.flatMap fun k => us.filter fun v => (d.unit v).cnt == k).take 4

/-- R216: the first victim whose bottom task passes the cost test, and that task; failed tests are counted. -/
def Dev.tryVictims (u : Nat) : List Nat → Dev → Option (Nat × List Word) × Dev
  | [], d => (none, d)
  | v :: vs, d =>
    let ws := d.dequeRd v ((d.unit v).top + (d.unit v).cnt + 31)
    if d.costTest u v (taskOf ws) then (some (v, ws), (d.takeBottom v).2)
    else (d.inc (F.tskRgnCnt_STEAL_REJ (u / 128)) 1).tryVictims u vs

/-- R216, step 1; R431: the top task of a fenced unit, marked ORPHAN; with the aborted task the recovery ends. -/
def Dev.takeOrphan (v : Nat) (d : Dev) : List Word × Dev :=
  let (ws, d) := d.takeTop v
  let d := match (d.unit v).recover with
    | some _ =>
      let (us, d) := (d.modUnit v fun x => { x with recover := none }).fresh
      d.event 0xA02 0 (mkW [(35, 32, 3), (17, 0, us)])
    | none => d
  (({ taskOf ws with orphan := true } : Task).words, d)

/-- What a search takes (R216; of a fenced unit from the edge after its fence on, R227): the victim, whether from the top of a
fenced unit's deque, the descriptor as it stood there and as it is run; the state after. -/
def Dev.stealPick (u : Nat) (d : Dev) : Option (Nat × Bool × List Word × List Word) × Dev :=
  let own := (List.range 16).map (u / 16 * 16 + ·)
  let far := ((List.range 128).map (u / 128 * 128 + ·)).filter fun v => v / 16 ≠ u / 16
  match (own ++ far).find? fun v => d.fenced v && !d.turnedNow v && (d.unit v).cnt != 0 with
  | some v =>
    let (ws, d') := d.takeOrphan v
    (some (v, true, d.dequeRd v (d.unit v).top, ws), d')
  | none => match d.tryVictims u (d.victims own) with
    | (some (v, ws), d) => (some (v, false, ws, ws), d)
    | (none, d) => match d.tryVictims u (d.victims far) with
      | (some (v, ws), d) => (some (v, false, ws, ws), d)
      | (none, d) => (none, d)

/-- The unit searches, and begins what it takes. -/
def Dev.search (u : Nat) (d : Dev) : Dev :=
  match d.stealPick u with
  | (none, d) => d
  | (some (v, top, old, ws), d) =>
    let fl := stealsFld u v
    let d' := d.inc fl 1
    (d'.modUnit u fun x => { x with
      steal := some { edge := d.epo.edges + 1, victim := v, top := top, ws := old, counted := d.f fl != d'.f fl } }).begin
      u ws true

/-- R220: unit `u` comes before unit `w` as a thief of unit `v`. -/
def outranks (u w v : Nat) : Bool :=
  let near := fun x : Nat => x / 16 == v / 16
  (near u && !near w) || (near u == near w && decide (u < w))

/-- A thief of the present edge whose entry the search of unit `u` would take, and that it comes before (R220). -/
def Dev.beatenThief (d : Dev) (u : Nat) : Option (Nat × StealTie) :=
  d.tsk.units.findSome? fun (w, x) => match x.steal with
    | some t =>
      if t.edge = d.epo.edges + 1 && x.run.isSome && w ≠ u && outranks u w t.victim then
        match (d.stealBack w t).stealPick u with
        | (some (v, top, old, _), _) => if v = t.victim && top = t.top && old = t.ws then some (w, t) else none
        | (none, _) => none
      else none
    | none => none

/-- STEAL_SEARCH (R216 to R220). -/
def Dev.stealSearch (u : Nat) (d : Dev) : Dev :=
  let x := d.unit u
  if !d.inService u || x.run.isSome || x.cnt ≠ 0 || d.shadowBusy u then d
  else match d.beatenThief u with
    | some (w, t) => (d.stealBack w t).search u
    | none => d.search u

/-- STEAL_SEARCH; a cancel of the same edge takes a steal back (R225). -/
def execStealSearch (u : Fin 1024) : State → R :=
  tied 1 u (fun old d => (old.unit u).run.isNone && (d.unit u).run.isSome) (liftBb (Dev.stealSearch u))

/-! ### Beam wait (R230) -/

/-- BEAM_WAIT_EXPIRY: D_c + BEAM_WAIT has come for the next block of a beam collected here, and COUNT has not reached
N_CONTRIB. A COUNT in another package is read now, and decides when it comes (`Dev.countAtGot`, assumption 107). -/
def Dev.beamWait (b : Nat) (d : Dev) : Dev :=
  let x := d.beam b
  let r := d.stepRun (0x10000 + b) 4
  let g := r.ready
  let due := d.beamAt b (g * 1024 + 1023) + d.budget 7 + epOf (d.f F.tskCfg_BEAM_WAIT) 1000000
  if !x.set || !x.collect || r.done ≠ g || d.countFull b g || !notEarlier 72 d.now (due % 2 ^ 72) then d
  else match d.rsPeek (x.ring g) with
    | some w => d.beamExpire b g w.toNat
    | none => d.cohSend (.countAt b g) x.clu { code := 3, addr := x.ring g, mask := 1 }

/-- BEAM_WAIT_EXPIRY. -/
def execBeamWaitExpiry (b : Fin 16384) : State → R := liftBb fun d => (d.beamWait b).brgSettle

end Sys2Proof.Machine
end

