-- ==== Sys2Proof/Machine/Recipe.lean ====
section
/-! DEFINITION. The commands that set recipes, models, beams and tables, and the MARK action (R177, R185, R189, R195,
R204 to R206, R233). -/

namespace Sys2Proof.Machine

/-! ### RECIPE_SET -/

/-- A reserved code or field of a step (reason 0x02). -/
def StepCfg.reserved (s : StepCfg) : Bool :=
  match s.code with
  | 0 => bitsOf s.sw0 31 3 != 0 || bitsOf s.sw0 1 0 == 3 || s.sw1 != 0 || s.sw2 != 0
  | 1 => bitsOf s.sw0 31 24 != 0 || bitsOf s.sw1 35 28 != 0 || bitsOf s.sw2 35 28 != 0
  | 2 => bitsOf s.sw0 31 1 != 0 || s.sw1 != 0 || s.sw2 != 0
  | 3 => bitsOf s.sw0 31 29 != 0 || bitsOf s.sw1 35 28 != 0 || bitsOf s.sw2 35 28 != 0
  | 4 => bitsOf s.sw0 31 0 != 0 || s.sw1 != 0 || s.sw2 != 0
  | 5 => bitsOf s.sw0 31 23 != 0 || decide (bitsOf s.sw0 22 16 > 79) || s.sw1 != 0 || s.sw2 != 0
  | 6 => bitsOf s.sw0 31 12 != 0 || bitsOf s.sw1 35 20 != 0 || s.sw2 != 0
  | _ => true

/-- Codes that rise. -/
def rising : List Nat → Bool
  | a :: b :: r => decide (a < b) && rising (b :: r)
  | _ => true

/-- R177: the steps of an input's, or of a beam's, recipe. -/
def orderOk (beam : Bool) (cs : List Nat) : Bool :=
  rising cs && (if beam then cs.head? == some 4 && cs.all (4 ≤ ·) else cs.head? == some 0 && cs.all (· != 4))

/-- R192, R194: LOG2K, SC_FIRST and SC_CNT in range. -/
def StepCfg.filterOk (s : StepCfg) : Bool :=
  let lk := bitsOf s.sw0 3 0
  let cnt := bitsOf s.sw0 28 20
  1 ≤ lk && lk ≤ 8 && 1 ≤ cnt && bitsOf s.sw0 19 12 + cnt ≤ 2 ^ lk

/-- R201, R202: LOG2P and FMT. -/
def StepCfg.packOk (s : StepCfg) (detect : Bool) : Bool := bitsOf s.sw0 3 0 ≤ 10 && bitOf s.sw0 4 == detect

/-- The endpoint IDs of a recipe's PACK: first and count (R40). -/
def endpoints (r : List StepCfg) : Option (Nat × Nat) :=
  match r.find? (·.code == 6) with
  | none => none
  | some s =>
    let base := bitsOf s.sw1 19 0
    match r.find? (·.code == 3) with
    | some f => some (base + bitsOf f.sw0 19 12, bitsOf f.sw0 28 20)
    | none => some (base, 1)

/-- R40: the IDs are out of range, in use by another recipe, or in the reserved fixed block. -/
def Dev.endpointsBad (d : Dev) (k : Nat) (r : List StepCfg) : Bool :=
  match endpoints r with
  | none => false
  | some (a, n) =>
    decide (a + n > 2 ^ 20) || (d.fb F.rteGen_FIXED && decide (a + n > 0xFFC00))
      || (d.tsk.src.any fun (j, s) => j != k && [some s.recipe, s.next].any fun x =>
        match x.bind endpoints with
        | some (b, m) => decide (a < b + m) && decide (b < a + n)
        | none => false)

/-- The reason code of the first check that a recipe fails (assumption 38 for their order). -/
def Dev.recipeReason (d : Dev) (k : Nat) (beam : Bool) (r : List StepCfg) : Nat :=
  let c := d.srcHome k
  let bad := fun (code : Nat) (p : StepCfg → Bool) => r.any fun s => s.code == code && !p s
  let dq := fun (s : StepCfg) => bitsOf s.sw0 22 16
  let pq := fun (s : StepCfg) => bitsOf s.sw0 11 5
  if !orderOk beam (r.map (·.code)) then 1
  else if r.any StepCfg.reserved then 2
  else if bad 1 fun s => bitsOf s.sw0 15 0 + 32 ≤ d.qDepth c (dq s) then 3
  else if bad 3 StepCfg.filterOk then 4
  else if bad 6 fun s => s.packOk (r.any (·.code == 5)) then 5
  else if (bad 1 fun s => d.fb (F.cluQcfg_EN c (dq s)) && !d.qPkt c (dq s) && !d.qTweed c (dq s))
      || bad 6 fun s => d.fb (F.cluQcfg_EN c (pq s)) && d.qPkt c (pq s) then 6
  else if (bad 1 fun s => d.rsaBacked (rsaAddr s.sw1) 1024 && d.rsaBacked (rsaAddr s.sw2) 1024)
      || bad 3 fun s =>
        let n := 8 * 2 ^ bitsOf s.sw0 3 0
        d.rsaBacked (rsaAddr s.sw1) n && d.rsaBacked (rsaAddr s.sw2) n then 7
  else if d.endpointsBad k r then 8
  else 0

/-- A beam that no block of has been begun here takes a new recipe at once; an input, and a beam that runs, at its next
slot 0 (R177; assumption 39). -/
def Dev.putRecipe (k words : Nat) (r : List StepCfg) (d : Dev) : Dev :=
  if 0x10000 ≤ k && (d.stepRun k 4).begun = 0 then
    d.modSource k fun s => { s with recipe := r, next := none, words := words }
  else d.modSource k fun s => { s with next := some r, words := words }

/-- The steps of RECIPE_SET's words, each with a free cost entry (assumption 20). -/
def Dev.recipeSteps (n : Nat) : Nat → Dev → List StepCfg × Dev
  | 0, d => ([], d)
  | k + 1, d =>
    let (l, d) := d.recipeSteps n k
    let (v, d) := d.fresh
    let w := d.arg n (3 + 3 * k)
    (l ++ [⟨bitsOf w 35 32, w, d.arg n (4 + 3 * k), d.arg n (5 + 3 * k), v % 256⟩], d)

/-- RECIPE_SET, opcode 0x400; its length is that of its step count (R498). -/
def Dev.recipeSet (n : Nat) (d : Dev) : Dev :=
  let a := d.arg n 1
  let beam := bitOf a 35
  let i := bitsOf a 13 0
  let cnt := bitsOf (d.arg n 2) 2 0
  let k := if beam then 0x10000 + i else i
  let no := fun (st reason : Nat) (d : Dev) => d.reply n st [toW reason, 0]
  if 1 ≤ cnt && cnt ≤ 6 && hdrLen (d.arg n 0) ≠ 2 + 3 * cnt then d.reply n stBAD_ARG []
  else if bitsOf a 34 14 ≠ 0 || (!beam && i > 5119) then no stBAD_ARG 2 d
  else if (if beam then d.beamRuns i else d.inputRuns i) then no stBUSY 0 d
  else if bitsOf (d.arg n 2) 35 3 ≠ 0 || cnt = 0 || cnt > 6 then no stBAD_ARG 2 d
  else
    let (r, d1) := d.recipeSteps n cnt
    match d.recipeReason k beam r with
    | 8 => no stNO_RESOURCE 8 d
    | 0 =>
      let (v, d1) := d1.fresh
      let new := d1.putRecipe k (v % 2 ^ 18) r
      let regs := d.loadRegions k
      let full := regs.filter fun r => !d.admits new r
      if full.isEmpty then (each regs Dev.loadUpdate new).reply n stOK [0, toW (v % 2 ^ 18)]
      else no stNO_RESOURCE 0 (Dev.admReject new full d)
    | x => no stBAD_ARG x d

/-- RECIPE_SET. -/
def execRecipeSet (n : Mbx) : State → R := lift (Dev.takeCmd n 0x400 (fun l => 5 ≤ l && l ≤ 20 && l % 3 == 2) (Dev.recipeSet n))

/-! ### MODEL_LOAD -/

/-- A 128-bit value from four words. -/
def Dev.arg128 (d : Dev) (n i : Nat) : Nat := (List.range 4).foldl (fun a j => a * 2 ^ 32 + bitsOf (d.arg n (i + j)) 31 0) 0

/-- MODEL_LOAD, opcode 0x401 (R185); a step that begins the anchor's block at the same edge makes it PAST (`Dev.pastTies`). -/
def Dev.modelLoad (n : Nat) (d : Dev) : Dev :=
  let i := (d.arg n 1).toNat
  let na := (d.arg n 2).toNat * 2 ^ 36 + (d.arg n 3).toNat
  let s := d.source i
  let run := d.inputRuns i
  let has := fun c => (if run then s.recipe else s.coming).any (·.code == c)
  let begun := fun c => has c && decide ((mget s.steps c).begun * 1024 > na)
  if i > 5119 || !(has 1 || has 2) || (List.range 48).any (fun k => bitsOf (d.arg n (4 + k)) 35 32 != 0) then
    d.reply n stBAD_ARG []
  else if begun 1 || begun 2 then d.reply n stPAST []
  else
    -- A pending load whose anchor neither step has reached never applies.
    let kept := fun (p : Loads) => p.filter fun x => [1, 2].any fun c => has c && decide (x.1 < (mget s.steps c).begun * 1024)
    -- The epoch of a slot of an input that does not run is not known: a free value (assumption 40).
    let (v, d) := if run then ((d.inp i).at na, d) else d.fresh
    let body := epWords (v % 2 ^ 72)
    let tie : CmdTie := { edge := d.epo.edges + 1, step := 0, slot := na, mbx := n, rsp := d.rspWords n stOK body
                          dPend := s.dPend, pPend := s.pPend }
    let d := d.modSource i fun s => { s with
      dPend := if has 1 then kept s.dPend ++ [(na, (List.range 6).map fun k => d.arg128 n (4 + 4 * k))] else s.dPend
      pPend := if has 2 then kept s.pPend ++ [(na, (List.range 6).map fun k => d.arg128 n (28 + 4 * k))] else s.pPend }
    (d.noteCmd i tie).reply n stOK body

/-- MODEL_LOAD. -/
def execModelLoad (n : Mbx) : State → R := lift (Dev.takeCmd n 0x401 (· == 51) (Dev.modelLoad n))

/-! ### BEAM_SET -/

/-- BEAM_SET. -/
def execBeamSet (n : Mbx) : State → R :=
  liftBb fun d => (Dev.takeCmd n 0x402 (· == 7) (Dev.beamSet n) d).brgSettle

/-! ### TABLE_SWITCH -/

/-- TABLE_SWITCH, opcode 0x403 (R205, R206); a step that begins the slot at the same edge makes it PAST (`Dev.pastTies`). -/
def Dev.tableSwitch (n : Nat) (d : Dev) : Dev :=
  let a := d.arg n 1
  let beam := bitOf a 35
  let i := bitsOf a 13 0
  let k := if beam then 0x10000 + i else i
  let code := (d.arg n 2).toNat
  let slot := (d.arg n 3).toNat * 2 ^ 36 + (d.arg n 4).toNat
  let has := if beam then code == 4 && (d.beam i).set
    else (code == 1 || code == 3) && (d.source k).coming.any (·.code == code)
  if bitsOf a 34 14 ≠ 0 || (!beam && i > 5119) || !has then d.reply n stBAD_ARG []
  else
    let begun := d.begunSlots k code
    if slot < begun then d.reply n stPAST []
    else
      let old := (d.stepRun k code).switches
      let tie : CmdTie := { edge := d.epo.edges + 1, step := code, slot := slot, mbx := n, rsp := d.rspWords n stOK []
                            switches := old }
      let d := ((d.modRun k code fun r => { r with switches := old.filter (· < begun) ++ [slot] }).noteCmd k tie).reply n stOK []
      if beam then (d.bankAsk i ((d.stepRun k 4).bank slot)).brgSettle else d

/-- TABLE_SWITCH. -/
def execTableSwitch (n : Mbx) : State → R := lift (Dev.takeCmd n 0x403 (· == 4) (Dev.tableSwitch n))

/-! ### MARK (R204) -/

/-- A MARK put into each running input of a range, before the first slot not earlier than the issue edge. -/
def Dev.markInputs (first count pl : Nat) (d : Dev) : Dev :=
  forN count (fun k d =>
    if d.inputRuns (first + k) then d.modInp (first + k) fun x => { x with marks := x.marks ++ [(d.now, pl)] } else d) d

/-- MARK. -/
def execMark (e : Fin 4096) : State → R :=
  issueOf e (lift (Dev.schIssue e 8 false fun _ d =>
    let a := d.schArg e 0
    (stOK, d.markInputs (bitsOf a 12 0) (bitsOf a 25 13) (bitsOf (d.schArg e 1) 31 0))))

end Sys2Proof.Machine
end

