-- ==== Sys2Proof/Machine/Dispatch.lean ====
section
/-! DEFINITION. exec: one arm per command, one meaning each. -/

namespace Sys2Proof.Machine

/-- The effect of a command on everything but the queue (spec/95: one row, one command). -/
def exec (i : Instr) (s : State) : Host.Outcome State Fault Refusal :=
  match i with
  | .ping x0 => Sys2Proof.Machine.execPing x0 s
  | .getInfo x0 => Sys2Proof.Machine.execGetInfo x0 s
  | .regRead x0 => Sys2Proof.Machine.execRegRead x0 s
  | .regWrite x0 => Sys2Proof.Machine.execRegWrite x0 s
  | .imgBegin x0 => Sys2Proof.Machine.execImgBegin x0 s
  | .imgChunk x0 => Sys2Proof.Machine.execImgChunk x0 s
  | .imgBoot x0 => Sys2Proof.Machine.execImgBoot x0 s
  | .imgAbort x0 => Sys2Proof.Machine.execImgAbort x0 s
  | .ownerFuse x0 => Sys2Proof.Machine.execOwnerFuse x0 s
  | .debugFuse x0 => Sys2Proof.Machine.execDebugFuse x0 s
  | .queueDropRem x0 => Sys2Proof.Machine.execQueueDropRem x0 s
  | .epochGet x0 => Sys2Proof.Machine.execEpochGet x0 s
  | .schedAdd x0 => Sys2Proof.Machine.execSchedAdd x0 s
  | .schedCancel x0 => Sys2Proof.Machine.execSchedCancel x0 s
  | .linkStart x0 => Sys2Proof.Machine.execLinkStart x0 s
  | .linkStop x0 => Sys2Proof.Machine.execLinkStop x0 s
  | .fchStart x0 => Sys2Proof.Machine.execFchStart x0 s
  | .fchStop x0 => Sys2Proof.Machine.execFchStop x0 s
  | .ingAnchor x0 => Sys2Proof.Machine.execIngAnchor x0 s
  | .recipeSet x0 => Sys2Proof.Machine.execRecipeSet x0 s
  | .modelLoad x0 => Sys2Proof.Machine.execModelLoad x0 s
  | .beamSet x0 => Sys2Proof.Machine.execBeamSet x0 s
  | .tableSwitch x0 => Sys2Proof.Machine.execTableSwitch x0 s
  | .taskCancel x0 => Sys2Proof.Machine.execTaskCancel x0 s
  | .unitFence x0 => Sys2Proof.Machine.execUnitFence x0 s
  | .unitUnfence x0 x1 => Sys2Proof.Machine.execUnitUnfence x0 x1 s
  | .taskLoadGet x0 => Sys2Proof.Machine.execTaskLoadGet x0 s
  | .capChanSet x0 => Sys2Proof.Machine.execCapChanSet x0 s
  | .capArm x0 => Sys2Proof.Machine.execCapArm x0 s
  | .capDisarm x0 => Sys2Proof.Machine.execCapDisarm x0 s
  | .capTrigger x0 => Sys2Proof.Machine.execCapTrigger x0 s
  | .dmkMaskLoad x0 => Sys2Proof.Machine.execDmkMaskLoad x0 s
  | .canvasPrep x0 => Sys2Proof.Machine.execCanvasPrep x0 s
  | .calRun x0 => Sys2Proof.Machine.execCalRun x0 s
  | .calAbort x0 => Sys2Proof.Machine.execCalAbort x0 s
  | .calSeal x0 => Sys2Proof.Machine.execCalSeal x0 s
  | .canvasRead x0 => Sys2Proof.Machine.execCanvasRead x0 s
  | .canvasWrite x0 => Sys2Proof.Machine.execCanvasWrite x0 s
  | .fiuSlotAdmit x0 => Sys2Proof.Machine.execFiuSlotAdmit x0 s
  | .fiuSlotRemove x0 => Sys2Proof.Machine.execFiuSlotRemove x0 s
  | .fiuSegReset x0 => Sys2Proof.Machine.execFiuSegReset x0 s
  | .fiuGeo x0 => Sys2Proof.Machine.execFiuGeo x0 s
  | .fiuAccess x0 => Sys2Proof.Machine.execFiuAccess x0 s
  | .fiuResult x0 => Sys2Proof.Machine.execFiuResult x0 s
  | .routeSet x0 => Sys2Proof.Machine.execRouteSet x0 s
  | .routeStage x0 => Sys2Proof.Machine.execRouteStage x0 s
  | .routeCommit x0 => Sys2Proof.Machine.execRouteCommit x0 s
  | .routeFixed x0 => Sys2Proof.Machine.execRouteFixed x0 s
  | .cohInfo x0 => Sys2Proof.Machine.execCohInfo x0 s
  | .cohLine x0 => Sys2Proof.Machine.execCohLine x0 s
  | .lnkInfo x0 => Sys2Proof.Machine.execLnkInfo x0 s
  | .pkgIdSet x0 => Sys2Proof.Machine.execPkgIdSet x0 s
  | .srtSet x0 => Sys2Proof.Machine.execSrtSet x0 s
  | .domainJoin x0 x1 => Sys2Proof.Machine.execDomainJoin x0 x1 s
  | .domainLeave x0 x1 => Sys2Proof.Machine.execDomainLeave x0 x1 s
  | .lnkRetrain x0 => Sys2Proof.Machine.execLnkRetrain x0 s
  | .errLogRead x0 => Sys2Proof.Machine.execErrLogRead x0 s
  | .ksRead x0 => Sys2Proof.Machine.execKsRead x0 s
  | .ksErase x0 => Sys2Proof.Machine.execKsErase x0 s
  | .ksProgram x0 => Sys2Proof.Machine.execKsProgram x0 s
  | .ksRecord x0 => Sys2Proof.Machine.execKsRecord x0 s
  | .bklInfo x0 => Sys2Proof.Machine.execBklInfo x0 s
  | .pwrStandby x0 => Sys2Proof.Machine.execPwrStandby x0 s
  | .loopGet x0 => Sys2Proof.Machine.execLoopGet x0 s
  | .nop x0 => Sys2Proof.Machine.execNop x0 s
  | .pinSet x0 => Sys2Proof.Machine.execPinSet x0 s
  | .pinPulse x0 => Sys2Proof.Machine.execPinPulse x0 s
  | .pulseFallingEdge x0 => Sys2Proof.Machine.execPulseFallingEdge x0 s
  | .sysref x0 => Sys2Proof.Machine.execSysref x0 s
  | .regWriteAction x0 => Sys2Proof.Machine.execRegWriteAction x0 s
  | .calApply x0 => Sys2Proof.Machine.execCalApply x0 s
  | .routeSwitch x0 => Sys2Proof.Machine.execRouteSwitch x0 s
  | .trigger x0 => Sys2Proof.Machine.execTrigger x0 s
  | .mark x0 => Sys2Proof.Machine.execMark x0 s
  | .event x0 => Sys2Proof.Machine.execEvent x0 s
  | .mbxReqWrite x0 x1 x2 => Sys2Proof.Machine.execMbxReqWrite x0 x1 x2 s
  | .doorbell x0 x1 x2 => Sys2Proof.Machine.execDoorbell x0 x1 x2 s
  | .mbxRspRead x0 x1 => Sys2Proof.Machine.execMbxRspRead x0 x1 s
  | .mbxEvtRead x0 x1 => Sys2Proof.Machine.execMbxEvtRead x0 x1 s
  | .mgmtFrame x0 x1 => Sys2Proof.Machine.execMgmtFrame x0 x1 s
  | .registerWrite x0 x1 x2 => Sys2Proof.Machine.execRegisterWrite x0 x1 x2 s
  | .rcFieldRead x0 x1 => Sys2Proof.Machine.execRcFieldRead x0 x1 s
  | .shadowLoRead x0 x1 => Sys2Proof.Machine.execShadowLoRead x0 x1 s
  | .shadowHiRead x0 x1 => Sys2Proof.Machine.execShadowHiRead x0 x1 s
  | .stagedLoWrite x0 x1 x2 => Sys2Proof.Machine.execStagedLoWrite x0 x1 x2 s
  | .hiWriteCommit x0 x1 x2 => Sys2Proof.Machine.execHiWriteCommit x0 x1 x2 s
  | .blockLock x0 x1 x2 => Sys2Proof.Machine.execBlockLock x0 x1 x2 s
  | .reboot x0 x1 => Sys2Proof.Machine.execReboot x0 x1 s
  | .topViewWrite x0 x1 => Sys2Proof.Machine.execTopViewWrite x0 x1 s
  | .qpush x0 x1 x2 x3 => Sys2Proof.Machine.execQpush x0 x1 x2 x3 s
  | .qtpush x0 x1 x2 x3 x4 => Sys2Proof.Machine.execQtpush x0 x1 x2 x3 x4 s
  | .qpop x0 x1 x2 => Sys2Proof.Machine.execQpop x0 x1 x2 s
  | .qdrop x0 x1 x2 => Sys2Proof.Machine.execQdrop x0 x1 x2 s
  | .qcfgWrite x0 x1 x2 x3 => Sys2Proof.Machine.execQcfgWrite x0 x1 x2 x3 s
  | .syncPulse x0 x1 x2 => Sys2Proof.Machine.execSyncPulse x0 x1 x2 s
  | .fiuPortEnWrite x0 x1 x2 => Sys2Proof.Machine.execFiuPortEnWrite x0 x1 x2 s
  | .cohEnWrite x0 x1 => Sys2Proof.Machine.execCohEnWrite x0 x1 s
  | .pciHqCfgWrite x0 x1 x2 => Sys2Proof.Machine.execPciHqCfgWrite x0 x1 x2 s
  | .axsPosWrite x0 x1 x2 => Sys2Proof.Machine.execAxsPosWrite x0 x1 x2 s
  | .loopSetWrite x0 x1 x2 => Sys2Proof.Machine.execLoopSetWrite x0 x1 x2 s
  | .errQpop x0 => Sys2Proof.Machine.execErrQpop x0 s
  | .msixUnmask x0 => Sys2Proof.Machine.execMsixUnmask x0 s
  | .hostWideRead x0 x1 x2 => Sys2Proof.Machine.execHostWideRead x0 x1 x2 s
  | .hostPartialWrite x0 x1 x2 x3 => Sys2Proof.Machine.execHostPartialWrite x0 x1 x2 x3 s
  | .bar2Request x0 x1 x2 => Sys2Proof.Machine.execBar2Request x0 x1 x2 s
  | .bar4Read x0 x1 x2 => Sys2Proof.Machine.execBar4Read x0 x1 x2 s
  | .bar4Write x0 x1 => Sys2Proof.Machine.execBar4Write x0 x1 s
  | .vaonApplied => Sys2Proof.Machine.execVaonApplied s
  | .resetRelease => Sys2Proof.Machine.execResetRelease s
  | .diePairingDone => Sys2Proof.Machine.execDiePairingDone s
  | .romInitDone => Sys2Proof.Machine.execRomInitDone s
  | .imgClaimTimeout => Sys2Proof.Machine.execImgClaimTimeout s
  | .cpWdtExpiry => Sys2Proof.Machine.execCpWdtExpiry s
  | .cpFatalException => Sys2Proof.Machine.execCpFatalException s
  | .cpMemoryUe x0 => Sys2Proof.Machine.execCpMemoryUe x0 s
  | .warmRestartDone => Sys2Proof.Machine.execWarmRestartDone s
  | .disciplineUpdate x0 => Sys2Proof.Machine.execDisciplineUpdate x0 s
  | .sourceLost x0 x1 => Sys2Proof.Machine.execSourceLost x0 x1 s
  | .sourceReturn x0 => Sys2Proof.Machine.execSourceReturn x0 s
  | .candQualifies x0 => Sys2Proof.Machine.execCandQualifies x0 s
  | .firstLockStep x0 => Sys2Proof.Machine.execFirstLockStep x0 s
  | .leapAnnounce x0 x1 x2 => Sys2Proof.Machine.execLeapAnnounce x0 x1 x2 s
  | .taiUtcChange => Sys2Proof.Machine.execTaiUtcChange s
  | .quadEdge x0 x1 x2 => Sys2Proof.Machine.execQuadEdge x0 x1 x2 s
  | .indexEdge x0 => Sys2Proof.Machine.execIndexEdge x0 s
  | .ssiFrameStart x0 => Sys2Proof.Machine.execSsiFrameStart x0 s
  | .ssiFrameDone x0 x1 x2 x3 => Sys2Proof.Machine.execSsiFrameDone x0 x1 x2 x3 s
  | .linkLaneLock x0 => Sys2Proof.Machine.execLinkLaneLock x0 s
  | .linkSyncTimeout x0 => Sys2Proof.Machine.execLinkSyncTimeout x0 s
  | .sysrefEdge x0 x1 => Sys2Proof.Machine.execSysrefEdge x0 x1 s
  | .sysrefWaitTimeout x0 => Sys2Proof.Machine.execSysrefWaitTimeout x0 s
  | .linkRun x0 => Sys2Proof.Machine.execLinkRun x0 s
  | .embArrival x0 x1 x2 x3 x4 x5 x6 => Sys2Proof.Machine.execEmbArrival x0 x1 x2 x3 x4 x5 x6 s
  | .embRelease x0 => Sys2Proof.Machine.execEmbRelease x0 s
  | .droopStretch x0 => Sys2Proof.Machine.execDroopStretch x0 s
  | .fchWord x0 x1 => Sys2Proof.Machine.execFchWord x0 x1 s
  | .fchDeadline x0 => Sys2Proof.Machine.execFchDeadline x0 s
  | .taskReady x0 x1 x2 => Sys2Proof.Machine.execTaskReady x0 x1 x2 s
  | .generatorPush x0 => Sys2Proof.Machine.execGeneratorPush x0 s
  | .taskStart x0 => Sys2Proof.Machine.execTaskStart x0 s
  | .stealSearch x0 => Sys2Proof.Machine.execStealSearch x0 s
  | .taskComplete x0 => Sys2Proof.Machine.execTaskComplete x0 s
  | .taskRelease x0 x1 => Sys2Proof.Machine.execTaskRelease x0 x1 s
  | .cancelComplete x0 => Sys2Proof.Machine.execCancelComplete x0 s
  | .unitEccError x0 => Sys2Proof.Machine.execUnitEccError x0 s
  | .residueMismatch x0 => Sys2Proof.Machine.execResidueMismatch x0 s
  | .taskWatchdogExpiry x0 => Sys2Proof.Machine.execTaskWatchdogExpiry x0 s
  | .beamWaitExpiry x0 => Sys2Proof.Machine.execBeamWaitExpiry x0 s
  | .capturePacket x0 => Sys2Proof.Machine.execCapturePacket x0 s
  | .trigInEdge x0 x1 => Sys2Proof.Machine.execTrigInEdge x0 x1 s
  | .postTimeout x0 => Sys2Proof.Machine.execPostTimeout x0 s
  | .rearmEnd x0 => Sys2Proof.Machine.execRearmEnd x0 s
  | .decimTick => Sys2Proof.Machine.execDecimTick s
  | .damaskTestDone => Sys2Proof.Machine.execDamaskTestDone s
  | .retirementEnd => Sys2Proof.Machine.execRetirementEnd s
  | .calSolve => Sys2Proof.Machine.execCalSolve s
  | .trimUpdate => Sys2Proof.Machine.execTrimUpdate s
  | .read x0 x1 x2 => Sys2Proof.Machine.execRead x0 x1 x2 s
  | .write x0 x1 x2 x3 => Sys2Proof.Machine.execWrite x0 x1 x2 x3 s
  | .blockRead x0 x1 x2 x3 => Sys2Proof.Machine.execBlockRead x0 x1 x2 x3 s
  | .blockWrite x0 x1 x2 x3 => Sys2Proof.Machine.execBlockWrite x0 x1 x2 x3 s
  | .lockRead x0 x1 x2 => Sys2Proof.Machine.execLockRead x0 x1 x2 s
  | .lockWrite x0 x1 x2 x3 => Sys2Proof.Machine.execLockWrite x0 x1 x2 x3 s
  | .bcastWrite x0 x1 x2 => Sys2Proof.Machine.execBcastWrite x0 x1 x2 s
  | .iack x0 x1 x2 => Sys2Proof.Machine.execIack x0 x1 x2 s
  | .reply x0 x1 x2 => Sys2Proof.Machine.execReply x0 x1 x2 s
  | .geoRead x0 x1 x2 => Sys2Proof.Machine.execGeoRead x0 x1 x2 s
  | .geoWrite x0 x1 x2 x3 => Sys2Proof.Machine.execGeoWrite x0 x1 x2 x3 s
  | .answerTimeout x0 => Sys2Proof.Machine.execAnswerTimeout x0 s
  | .deferTimeout x0 x1 x2 => Sys2Proof.Machine.execDeferTimeout x0 x1 x2 s
  | .retryWaitExpiry x0 => Sys2Proof.Machine.execRetryWaitExpiry x0 s
  | .lockWindowExpiry x0 => Sys2Proof.Machine.execLockWindowExpiry x0 s
  | .grantDecision x0 x1 => Sys2Proof.Machine.execGrantDecision x0 x1 s
  | .headerAfterGrantMissed x0 => Sys2Proof.Machine.execHeaderAfterGrantMissed x0 s
  | .tenureTimeout x0 => Sys2Proof.Machine.execTenureTimeout x0 s
  | .irqService x0 x1 => Sys2Proof.Machine.execIrqService x0 x1 s
  | .strayHoldoffExpiry x0 x1 => Sys2Proof.Machine.execStrayHoldoffExpiry x0 x1 s
  | .haltChange x0 x1 => Sys2Proof.Machine.execHaltChange x0 x1 s
  | .syncPeriodic x0 => Sys2Proof.Machine.execSyncPeriodic x0 s
  | .syncEdge x0 => Sys2Proof.Machine.execSyncEdge x0 s
  | .rstSampled x0 => Sys2Proof.Machine.execRstSampled x0 s
  | .segResetDone x0 => Sys2Proof.Machine.execSegResetDone x0 s
  | .modulePresence x0 x1 => Sys2Proof.Machine.execModulePresence x0 x1 s
  | .presenceRetry x0 x1 => Sys2Proof.Machine.execPresenceRetry x0 x1 s
  | .slotPoll x0 x1 => Sys2Proof.Machine.execSlotPoll x0 x1 s
  | .slotRemovalComplete x0 x1 => Sys2Proof.Machine.execSlotRemovalComplete x0 x1 s
  | .monitorEnd x0 x1 => Sys2Proof.Machine.execMonitorEnd x0 x1 s
  | .immEdge x0 x1 => Sys2Proof.Machine.execImmEdge x0 x1 s
  | .edge96 x0 x1 => Sys2Proof.Machine.execEdge96 x0 x1 s
  | .bridgeReadCompletion x0 x1 x2 x3 => Sys2Proof.Machine.execBridgeReadCompletion x0 x1 x2 x3 s
  | .retryHoldExpiry x0 x1 => Sys2Proof.Machine.execRetryHoldExpiry x0 x1 s
  | .bridgeMsgDelivery x0 => Sys2Proof.Machine.execBridgeMsgDelivery x0 s
  | .routePacket x0 => Sys2Proof.Machine.execRoutePacket x0 s
  | .routeSwitchFinal => Sys2Proof.Machine.execRouteSwitchFinal s
  | .rdS x0 x1 x2 => Sys2Proof.Machine.execRdS x0 x1 x2 s
  | .rdX x0 x1 x2 => Sys2Proof.Machine.execRdX x0 x1 x2 s
  | .naRd x0 x1 x2 x3 => Sys2Proof.Machine.execNaRd x0 x1 x2 x3 s
  | .rdNc x0 x1 x2 x3 => Sys2Proof.Machine.execRdNc x0 x1 x2 x3 s
  | .wrNc x0 x1 x2 x3 x4 => Sys2Proof.Machine.execWrNc x0 x1 x2 x3 x4 s
  | .acc36 x0 x1 x2 x3 x4 => Sys2Proof.Machine.execAcc36 x0 x1 x2 x3 x4 s
  | .add x0 x1 x2 x3 => Sys2Proof.Machine.execAdd x0 x1 x2 x3 s
  | .min x0 x1 x2 x3 => Sys2Proof.Machine.execMin x0 x1 x2 x3 s
  | .max x0 x1 x2 x3 => Sys2Proof.Machine.execMax x0 x1 x2 x3 s
  | .swap x0 x1 x2 x3 => Sys2Proof.Machine.execSwap x0 x1 x2 x3 s
  | .cas x0 x1 x2 x3 x4 => Sys2Proof.Machine.execCas x0 x1 x2 x3 x4 s
  | .lockRd x0 x1 x2 x3 => Sys2Proof.Machine.execLockRd x0 x1 x2 x3 s
  | .lockWr x0 x1 x2 x3 x4 x5 => Sys2Proof.Machine.execLockWr x0 x1 x2 x3 x4 x5 s
  | .unlock x0 x1 x2 => Sys2Proof.Machine.execUnlock x0 x1 x2 s
  | .snpS x0 x1 x2 x3 => Sys2Proof.Machine.execSnpS x0 x1 x2 x3 s
  | .snpX x0 x1 x2 x3 => Sys2Proof.Machine.execSnpX x0 x1 x2 x3 s
  | .snpInv x0 => Sys2Proof.Machine.execSnpInv x0 s
  | .snpNa x0 x1 x2 x3 x4 x5 => Sys2Proof.Machine.execSnpNa x0 x1 x2 x3 x4 x5 s
  | .snpRcl x0 x1 => Sys2Proof.Machine.execSnpRcl x0 x1 s
  | .wb x0 x1 x2 => Sys2Proof.Machine.execWb x0 x1 x2 s
  | .evict x0 x1 => Sys2Proof.Machine.execEvict x0 x1 s
  | .srsp x0 x1 x2 => Sys2Proof.Machine.execSrsp x0 x1 x2 s
  | .cmp x0 x1 x2 => Sys2Proof.Machine.execCmp x0 x1 x2 s
  | .cack x0 x1 => Sys2Proof.Machine.execCack x0 x1 s
  | .wback x0 x1 => Sys2Proof.Machine.execWback x0 x1 s
  | .pack x0 x1 x2 => Sys2Proof.Machine.execPack x0 x1 x2 s
  | .data x0 x1 x2 x3 x4 => Sys2Proof.Machine.execData x0 x1 x2 x3 x4 s
  | .sdata x0 x1 x2 => Sys2Proof.Machine.execSdata x0 x1 x2 s
  | .hello x0 x1 x2 x3 => Sys2Proof.Machine.execHello x0 x1 x2 x3 s
  | .helloTimer => Sys2Proof.Machine.execHelloTimer s
  | .formTimeout => Sys2Proof.Machine.execFormTimeout s
  | .map x0 x1 => Sys2Proof.Machine.execMap x0 x1 s
  | .dead x0 x1 => Sys2Proof.Machine.execDead x0 x1 s
  | .down => Sys2Proof.Machine.execDown s
  | .resync x0 x1 x2 => Sys2Proof.Machine.execResync x0 x1 x2 s
  | .tree x0 x1 => Sys2Proof.Machine.execTree x0 x1 s
  | .pkt x0 x1 x2 x3 x4 x5 => Sys2Proof.Machine.execPkt x0 x1 x2 x3 x4 x5 s
  | .snoopTimeout x0 x1 => Sys2Proof.Machine.execSnoopTimeout x0 x1 s
  | .requestTimeout x0 x1 => Sys2Proof.Machine.execRequestTimeout x0 x1 s
  | .cacheSnoopTimeout x0 => Sys2Proof.Machine.execCacheSnoopTimeout x0 s
  | .lockHoldTimeout x0 => Sys2Proof.Machine.execLockHoldTimeout x0 s
  | .trainingRetry x0 => Sys2Proof.Machine.execTrainingRetry x0 s
  | .trainingDone x0 x1 x2 => Sys2Proof.Machine.execTrainingDone x0 x1 x2 s
  | .partnerRefresh x0 x1 => Sys2Proof.Machine.execPartnerRefresh x0 x1 s
  | .dataFrame x0 x1 x2 => Sys2Proof.Machine.execDataFrame x0 x1 x2 s
  | .idleFrame x0 x1 => Sys2Proof.Machine.execIdleFrame x0 x1 s
  | .nakFrame x0 x1 => Sys2Proof.Machine.execNakFrame x0 x1 s
  | .laneRemoval x0 x1 => Sys2Proof.Machine.execLaneRemoval x0 x1 s
  | .lysithLaneRejoin x0 x1 => Sys2Proof.Machine.execLysithLaneRejoin x0 x1 s
  | .retrainTimeout x0 => Sys2Proof.Machine.execRetrainTimeout x0 s
  | .downTimeout x0 => Sys2Proof.Machine.execDownTimeout x0 s
  | .resyncTimeout x0 => Sys2Proof.Machine.execResyncTimeout x0 s
  | .firmwareForward x0 x1 x2 => Sys2Proof.Machine.execFirmwareForward x0 x1 x2 s
  | .leaveCopyDone => Sys2Proof.Machine.execLeaveCopyDone s
  | .leaveForwardEnd => Sys2Proof.Machine.execLeaveForwardEnd s
  | .dlDown => Sys2Proof.Machine.execDlDown s
  | .dlUp x0 x1 => Sys2Proof.Machine.execDlUp x0 x1 s
  | .hotReset => Sys2Proof.Machine.execHotReset s
  | .perstAssert => Sys2Proof.Machine.execPerstAssert s
  | .flr => Sys2Proof.Machine.execFlr s
  | .flrComplete => Sys2Proof.Machine.execFlrComplete s
  | .d3hotEntry => Sys2Proof.Machine.execD3hotEntry s
  | .d0Entry => Sys2Proof.Machine.execD0Entry s
  | .crsEnd => Sys2Proof.Machine.execCrsEnd s
  | .flushTimeout x0 => Sys2Proof.Machine.execFlushTimeout x0 s
  | .hbmChannelFailure x0 x1 => Sys2Proof.Machine.execHbmChannelFailure x0 x1 s
  | .remapComplete x0 => Sys2Proof.Machine.execRemapComplete x0 s
  | .egressStall x0 => Sys2Proof.Machine.execEgressStall x0 s
  | .backlogDrain x0 => Sys2Proof.Machine.execBacklogDrain x0 s
  | .supplyLoss => Sys2Proof.Machine.execSupplyLoss s
  | .railMonitorSample x0 x1 => Sys2Proof.Machine.execRailMonitorSample x0 x1 s
  | .standbyEntry => Sys2Proof.Machine.execStandbyEntry s
  | .wakeRequest => Sys2Proof.Machine.execWakeRequest s
  | .wakeRailEnable => Sys2Proof.Machine.execWakeRailEnable s
  | .sensorConversion x0 x1 => Sys2Proof.Machine.execSensorConversion x0 x1 s
  | .throttleUpdate => Sys2Proof.Machine.execThrottleUpdate s
  | .loopInSample x0 x1 => Sys2Proof.Machine.execLoopInSample x0 x1 s
  | .loopOutSample x0 x1 x2 => Sys2Proof.Machine.execLoopOutSample x0 x1 x2 s
  | .loopWatchdogExpiry x0 => Sys2Proof.Machine.execLoopWatchdogExpiry x0 s
  | .verifyDone => Sys2Proof.Machine.execVerifyDone s
  | .reloadDone => Sys2Proof.Machine.execReloadDone s
  | .ksOperationDone => Sys2Proof.Machine.execKsOperationDone s
  | .fiuAccessTimeLimit x0 => Sys2Proof.Machine.execFiuAccessTimeLimit x0 s
  | .slaveAnswer x0 x1 => Sys2Proof.Machine.execSlaveAnswer x0 x1 s
  | .headerOnSegment x0 x1 x2 x3 => Sys2Proof.Machine.execHeaderOnSegment x0 x1 x2 x3 s
  | .memberPortGrant x0 => Sys2Proof.Machine.execMemberPortGrant x0 s
  | .invalidSyncHeaders x0 x1 => Sys2Proof.Machine.execInvalidSyncHeaders x0 x1 s
  | .laneLockRegained x0 x1 => Sys2Proof.Machine.execLaneLockRegained x0 x1 s
  | .stretchEnd => Sys2Proof.Machine.execStretchEnd s
  | .perstDeassert => Sys2Proof.Machine.execPerstDeassert s
  | .rstNAsserted => Sys2Proof.Machine.execRstNAsserted s
  | .wholeEpochSecond => Sys2Proof.Machine.execWholeEpochSecond s

end Sys2Proof.Machine
end

