-- ==== Sys2Proof/Machine/Step.lean ====
section
/-! DEFINITION. One step: the oldest waiting command is executed; with none waiting, one edge of CCLK passes. -/

namespace Sys2Proof.Machine

/-- The outcome on an empty queue: one CCLK edge, which the table has no row for (R112, R214; assumption 4). -/
def State.idle (s : State) : R :=
  if s.dev.pwr.held then .next { s with dev := s.dev.heldTick } else liftBb (fun d => d.genTick.edgeEnd) s

/-- One step: the command at the front of the queue, executed with the rest of the queue. -/
def step (s : State) : Host.Outcome State Fault Refusal :=
  match s.pending with
  | i :: rest => exec i { s with pending := rest }
  | [] => s.idle

/-- The command that a table word spells, put at the front of the queue; no row of the table has bits, so that no word
spells one. -/
def State.withFetchWord (s : State) (nbits w : Nat) : State :=
  match decodeTableWord nbits w with
  | some i => { s with pending := i :: s.pending }
  | none => s

end Sys2Proof.Machine
end

