-- ==== Sys2Proof/Safety.lean ====
section
/-! DEFINITION. What claims count as safe, and the words they are stated in: a step that answers a next state, the
relation of successive states, a block out of reset, a mailbox command that is next in doorbell order and served, and the
state that a command leaves whose effect on the block is given. -/

namespace Sys2Proof.Machine

/-- The outcome is a next state. -/
def completes (r : Host.Outcome State Fault Refusal) : Prop := ∃ t, r = .next t

/-- `t` follows `s` in one step. -/
def stepsTo (s t : State) : Prop := step s = .next t

/-- `t` is reached from `s` by steps. -/
inductive Reaches (s : State) : State → Prop where
  | refl : Reaches s s
  | tail {t u : State} : Reaches s t → stepsTo t u → Reaches s u

/-- TM9 is out of reset. -/
def State.live (s : State) : Bool := !s.dev.pwr.held

/-- The state after a command whose effect on the block is `f`: its errors have entered the error queue and its events
have gone out (R75, R427); commands waiting, fuses and keep store as before. -/
def State.after (s : State) (f : Dev → Dev) : State := { s with dev := (f s.dev).settle }

/-- The state after a command that also writes to the keep store the black-box records now owed. -/
def State.afterBb (s : State) (f : Dev → Dev) : State := (flushBb { s with dev := f s.dev }).settle

/-- The request of mailbox `n` is the oldest one waiting (R69); its header names opcode `op` and `len` body words. -/
def Dev.front (d : Dev) (n op len : Nat) : Bool :=
  d.nextMbx == some n && hdrOp (d.arg n 0) == op && hdrLen (d.arg n 0) == len

/-- The firmware runs, TM9 is out of reset, and the command of mailbox `n`, outside the boot set, is the next that the CP
takes. -/
def State.served (s : State) (n op len : Nat) : Bool :=
  s.live && s.dev.running && !bootSet op && s.dev.front n op len

/-- The boot ROM takes commands of mailbox `n`, and its command of the boot set is the next (R48, R52). -/
def State.servedBoot (s : State) (n op len : Nat) : Bool :=
  s.live && !s.dev.running && bootSet op && s.dev.bootAdmits n op && s.dev.cp.loader.verify.isNone &&
    s.dev.pathOf n != 3 && s.dev.front n op len

/-- The block with the oldest waiting request taken out of the doorbell order. -/
def Dev.taken (d : Dev) : Dev := d.popMbx

/-- The block after a mailbox command whose effect is `f`: requests with an undefined opcode that are now the oldest are
answered with it (R72). -/
def Dev.cmdDone (f : Dev → Dev) (d : Dev) : Dev := (f d.taken).serveUnknown 16

/-- The state after a mailbox command whose effect on the block is `f`. -/
def State.afterCmd (s : State) (f : Dev → Dev) : State := s.after (Dev.cmdDone f)

/-- The state after a mailbox command that may also write black-box records. -/
def State.afterCmdBb (s : State) (f : Dev → Dev) : State := s.afterBb (Dev.cmdDone f)

/-- A register access of path `p` at window offset `off` reaches a register of this package (R23, R26, R63). -/
def State.reaches (s : State) (p : Path) (off : Nat) : Bool :=
  s.live && !s.dev.regRefused p off && decide (off < 0x7FE000)

/-- Nothing but the access types of its fields decides what a write of the register of key `key` does. -/
def Dev.plainWrite (d : Dev) (p : Path) (key : Nat) (w : Word) : Bool :=
  let (b, i, j, k) := regHome key
  !isLo key && !isHi key && (twlInstOf key).isNone && (d.writeCore p key b i j k w).isNone &&
    (d.writeOther p key b i j w).isNone

/-- Nothing but the access types of its fields decides what a read of the register of key `key` does. -/
def plainRead (key : Nat) : Bool :=
  let b := (regHome key).1
  !isLo key && !isHi key &&
    !([R.mbxRsp 0, R.mbxEvt 0, R.cluQpop 0 0, R.errQpop, R.pwrBlk, R.lnkFec 0, R.thmSens 0].contains b) &&
    (twlInstOf key).isNone

/-- The next occurrence of scheduler entry `e`, of action `code`, issues at this edge, and it is its turn (R141 to R148). -/
def State.issues (s : State) (e code : Nat) (pin late : Bool) : Bool :=
  s.live && s.dev.schAction e == code && s.dev.schDue e pin == some late && (s.dev.schPoisoned e).isNone &&
    (pin || decide (s.dev.issuedHere < 16)) && s.dev.schTurn e

/-- The state `t` after an issue of entry `e` from `s`: what it did is noted for a cancel of its own edge (R149). -/
def State.issueNoted (e : Nat) (s t : State) : State := { t with dev := t.dev.note 0 e true s.dev }

/-- A non-pin action counted at this edge (R148). -/
def Dev.issueSlot (d : Dev) : Dev := { d with sch := { d.sch with edge := d.epo.edges, count := d.issuedHere + 1 } }

/-- TM9 answers at the address, in inbound window `w` at offset `o`, which lets a cycle of `cnt` words pass (R35, R311). -/
def Dev.winOpen (d : Dev) (p cmd : Nat) (a : BusWord) (cnt w o : Nat) : Bool :=
  d.inTarget p a.w.toNat == .win w o && !a.bad && decide (a.w.toNat % 256 + cnt ≤ 256) &&
    !(d.headerSeen p cmd).winRefused p w o cnt cmd

/-- A read of that window gets tag `i`: no read of the master is held for its retry, no word has an address error (R319,
R322). -/
def Dev.readOpen (d : Dev) (p src cmd : Nat) (a : BusWord) (cnt w o i : Nat) : Bool :=
  let h := d.headerSeen p cmd
  d.winOpen p cmd a cnt w o && (h.holdOf p src).isNone &&
    (List.range cnt).all (fun k => (h.inErr p false ((h.inLys p w o).1 + k) (h.inLys p w o).2).isNone) &&
    firstN 64 (fun i => (h.inRead p i).isNone) == some i

/-- An inbound read under tag `i`, its request to Lysith behind the posted writes accepted before it (R319, R336). -/
def Dev.readTaken (p src cmd : Nat) (a : Word) (w o cnt i : Nat) (d : Dev) : Dev :=
  let r : InRead := {
    src := src, cmd := cmd, addr := a, cnt := cnt, width := d.f (F.brgIwinCfg_WIDTH p w), lys := (d.inLys p w o).1
    tweed := (d.inLys p w o).2, ans := 0, part := [], data := none
    isReg := !(d.inLys p w o).2 && winOf ((d.inLys p w o).1 % 2 ^ 34) = .regs }
  (d.setRead p i r).modFp p fun x => { x with issue := x.issue ++ [(i, x.posted.map (·.num))] }

/-- Request `m` of agent `a` under TAG `tag`, by 40-bit address. -/
def reqOf (a tag : Nat) (m : CMsg) : CWait := ⟨.nothing, a % 128, some tag, { m with agent := a, tag := tag }⟩

/-- Agent `a`, of this package, may issue request `m` under TAG `tag`: the TAG is free, and nothing holds the request back
(R348, R349, R354); the CP's is not by Tweed address (R43). -/
def Dev.mayIssue (d : Dev) (a tag : Nat) (m : CMsg) : Bool :=
  d.ownAgent a && !d.coh.outs.any (COut.is (m.code == 9) (a % 128) tag) && !d.coh.tagWait.any (fun w => w.la == a % 128) &&
    (a % 128 != 64 || !d.fb F.topView_VIEW || decide (2 ^ 36 ≤ m.addr)) && d.mayGo (reqOf a tag m)

/-- The request answered by the copy in the agent's cache or issued, and everything that follows inside the package. -/
def Dev.issuedReq (a tag : Nat) (m : CMsg) (d : Dev) : Dev := (d.cohGo (reqOf a tag m)).brgSettle

/-- Agent `a` is of a live other member of the domain, and request `m` is to a line of this package (R20, R374). -/
def Dev.comesIn (d : Dev) (a l : Nat) (m : CMsg) : Bool :=
  d.cohState == 2 && !d.ownAgent a && !d.agentDead a && d.target m.addr == .here l

/-! ### Claims about every command -/

/-- The commands that act while TM9 is held in reset: what brings it there and out of it (R455, R457, R463). -/
def actsInReset (c : Instr) : Bool :=
  c == .vaonApplied || c == .resetRelease || c == .rstNAsserted || c == .wakeRequest || c == .wakeRailEnable

/-- Every error met has entered the error queue and every event raised has gone out (R75, R427). -/
def State.quiet (s : State) : Prop := s.dev.err.met = [] ∧ s.dev.cp.raised = []

/-- Commands that store to no memory of the package. -/
def storesNothing : Instr → Bool
  | .ping _ | .getInfo _ | .epochGet _ | .cohInfo _ | .cohLine _ | .lnkInfo _ | .mbxReqWrite .. | .mbxRspRead ..
  | .mbxEvtRead .. | .qpop .. | .qdrop .. | .wholeEpochSecond | .leapAnnounce .. | .taiUtcChange | .linkSyncTimeout _
  | .sysrefWaitTimeout _ | .laneLockRegained .. => true
  | _ => false

/-- Where a memory word is held now: in its spare row once its channel has failed (R434). -/
def Dev.locOf (d : Dev) (a : Nat) : Nat :=
  match winOf a with
  | .hbm s => (d.hbmLoc s a).1
  | _ => a

/-- The word has no place: its channel has failed and no spare row holds it (R434, R435). -/
def Dev.lostAt (d : Dev) (a : Nat) : Bool :=
  match winOf a with
  | .hbm s => (d.hbmLoc s a).2.1
  | _ => false

/-- The fields of a register table do not overlap, and lie in the word. -/
def apart (fs : List FldRow) : Bool :=
  fs.all (fun f => decide (f.lo ≤ f.hi) && decide (f.hi < 36)) &&
    decide (fs.Pairwise fun f g => f.hi < g.lo ∨ g.hi < f.lo)

end Sys2Proof.Machine
end

