-- ==== Sys2Proof/Certificates/Slice0/Obligations.lean ====
section
/-! DEFINITION. The statements for the provers. The statements about single commands say, for the states and operands their
hypotheses name, the whole next state: exec answers next of the state that the effect of the command gives, everything not
named in it staying as it was (State.after and its kin add only what SettleFrame bounds). Three choices of the model run
through all of them: what goes outward is listed in Dev.out (assumption 5), elapsed times are not checked, a row being the
expiry itself (assumption 2), a value the spec leaves open is a free value (assumption 3). -/

open Sys2Proof Sys2Proof.Machine

/-- The step on a waiting command: with command `c` at the front of the queue, it is `c`'s execution on the state with the
queue's rest. -/
def Obligations.StepRunsFront : Prop :=
  ∀ (s : State) (c : Instr) rest, s.pending = c :: rest → step s = exec c { s with pending := rest }

/-- The step on an empty queue, the model's choice (assumption 4): one edge of CCLK passes; in reset only the time in which
WAKE_N is ignored runs (R467), and the edge of the stop is over (R474). -/
def Obligations.EmptyQueueStep : Prop :=
  (∀ s : State, s.pending = [] → s.live = true → step s = .next (s.afterBb fun d => d.genTick.edgeEnd)) ∧
  (∀ s : State, s.pending = [] → s.live = false →
    step s = .next { s with dev := s.dev.modPwr fun p => { p with cool := p.cool - 1, stopNow := none } })

/-- Commands are executed in the order of the queue, one a step: no command adds to the queue, and a step takes away just
its front (tier 3; the queue is the model's own form of what the outside sends). -/
def Obligations.CommandsInOrder : Prop :=
  ∀ s t : State, stepsTo s t → t.pending = s.pending.tail

/-- R60. The hash is 384 bits; OWNER_FUSE programs it; no step reverses the programming; from then on an image whose key does
not match it does not boot; a second OWNER_FUSE is answered LOCKED and changes nothing. -/
def Obligations.OwnerFuse : Prop :=
  (∀ (d : Dev) n, d.fuseHash n < 2 ^ 384) ∧
  (∀ s, s.servedBoot 0 0x018 13 = true → s.dev.arg 0 13 = toW 0x2795C9C52 →
    ((List.range 12).all fun i => !nonetBad (s.dev.arg 0 (i + 1))) = true → s.dev.fb F.cpDebug_FUSE_OWNER = false →
    s.fuses.owner = false →
    ∃ t, exec (.ownerFuse 0) s = .next t ∧ t.fuses.owner = true ∧ t.fuses.hash = s.dev.fuseHash 0) ∧
  (∀ s t : State, stepsTo s t → s.fuses.owner = true → t.fuses.owner = true ∧ t.fuses.hash = s.fuses.hash) ∧
  (∀ s n, s.live = true → s.dev.cp.loader.verify = some n → s.fuses.owner = true →
    sha384 (s.dev.imgBytes 4 24) ≠ s.fuses.hash →
    ∃ t, exec .verifyDone s = .next t ∧ t.dev.running = false ∧ t.dev.mem = s.dev.mem) ∧
  (∀ s, s.servedBoot 0 0x018 13 = true → s.dev.arg 0 13 = toW 0x2795C9C52 →
    ((List.range 12).all fun i => !nonetBad (s.dev.arg 0 (i + 1))) = true → s.dev.fb F.cpDebug_FUSE_OWNER = true →
    s.fuses.owner = true →
    exec (.ownerFuse 0) s = .next (s.afterCmd fun d => d.reply 0 stLOCKED []))

/-- While TM9 is held in reset no command but VAON_APPLIED, RESET_RELEASE, RST_N_ASSERTED, WAKE_REQUEST and
WAKE_RAIL_ENABLE changes anything, but for a stop of the edge of the stop (R474), and RESET_RELEASE alone brings it
out of reset, when RAIL_EN is high (R457, R463, R467; that the model answers such a command with the same state is its
reading, DESIGN CHOICE of assumption 1). It rests on choices of the model: assumption 45. -/
def Obligations.HeldInReset : Prop :=
  (∀ s c, s.live = false → s.dev.pwr.stopNow = none → actsInReset c = false → exec c s = .next s) ∧
  (∀ s t c, s.live = false → exec c s = .next t → t.live = true → c = .resetRelease ∧ s.dev.pwr.railOff = false)

/-- Between commands no error waits to enter the error queue and no event waits to go out (R75, R427): every step keeps it. -/
def Obligations.QuietKept : Prop :=
  ∀ s t : State, s.quiet → stepsTo s t → t.quiet

/-- The state right after reset: no command waits, errors and events are settled, memory has its form and lists
nothing, mailbox n has the PATH of R62, cluster 63's queues have DEPTH 4 and are disabled, the domain is OFF, the
ports are OFF. It rests on choices of the model: assumptions 41, 42, 43. -/
def Obligations.ResetState : Prop :=
  let s := State.reset
  s.pending = [] ∧ s.quiet ∧ Memory.wf s.dev.mem = true ∧ s.dev.mem = [] ∧
  (∀ n : Fin 16, s.dev.pathOf n = if n.val < 8 then 0 else if n.val < 12 then 1 else if n.val < 14 then 2 else 3) ∧
  (∀ q : Fin 128, s.dev.f (F.cluQcfg_DEPTH 63 q) = 4 ∧ s.dev.fb (F.cluQcfg_EN 63 q) = false) ∧
  s.dev.cohState = 0 ∧ (∀ n : Fin 8, s.dev.lnkState n = 0) ∧ s.dev.bootState = 0

/-- The frame of every command's end: the entry of its errors and the going out of its events change the CP's log and
event counter, the mailboxes' event queues with MBX[n].STAT, the error queue with ERR_QSTAT, vectors pending, the lines F_IRQ
and F_MREQ and what is driven outward, and nothing else of the block; each Fiuth port then drives the F_IRQ and F_MREQ that its
state calls for (R299, R306, R329); the writing of owed black-box records changes the keep store, and of the block the
registers that show its erases. -/
def Obligations.SettleFrame : Prop :=
  (∀ d : Dev, let e := d.settle
    e.mem = d.mem ∧ e.uncorr = d.uncorr ∧ e.corr = d.corr ∧ e.twl = d.twl ∧ e.ties = d.ties ∧ e.parBad = d.parBad ∧ e.shadow = d.shadow ∧ e.staged = d.staged ∧
    e.free = d.free ∧ e.queues = d.queues ∧ e.epo = d.epo ∧ e.sch = d.sch ∧ e.lnk = d.lnk ∧ e.unreached = d.unreached ∧
    e.serial = d.serial ∧ e.bbOwed = d.bbOwed ∧ e.ing = d.ing ∧ e.tsk = d.tsk ∧ e.acc = d.acc ∧ e.accNum = d.accNum ∧
    e.rte = d.rte ∧ e.pwr = d.pwr ∧ e.rxPkt = d.rxPkt ∧ e.cap = d.cap ∧ e.coh = d.coh ∧ e.cal = d.cal ∧
    e.qTie = d.qTie ∧ e.calTie = d.calTie) ∧
  (∀ d : Dev,
    ({ d.settle.cp with
        log := d.cp.log, logSeq := d.cp.logSeq, logLost := d.cp.logLost, evtSeq := d.cp.evtSeq, lastSeq := d.cp.lastSeq
        gap := d.cp.gap, raised := d.cp.raised, errUncopied := d.cp.errUncopied } : Cp) = d.cp ∧
    ({ d.settle.err with queue := d.err.queue, met := d.err.met } : ErrUnit) = d.err ∧
    ({ d.settle.pci with pba := d.pci.pba } : Pci) = d.pci) ∧
  (∀ (d : Dev) p, ({ d.settle.fp p with irqOut := (d.fp p).irqOut, mreqOut := (d.fp p).mreqOut } : FiuPort) = d.fp p) ∧
  (∀ (d : Dev) p, p < 4 → (d.settle.fp p).irqOut = d.settle.irqLine p ∧ (d.settle.fp p).mreqOut = d.settle.mreqLine p) ∧
  (∀ (d : Dev) off, (∀ n, n < 16 → off ≠ R.mbxStat n) → off ≠ R.errQstat → d.settle.reg off = d.reg off) ∧
  (∀ (d : Dev) n, ({ d.settle.mb n with evts := (d.mb n).evts } : Mailbox) = d.mb n) ∧
  (∀ s : State, (flushBb s).pending = s.pending ∧ (flushBb s).fuses = s.fuses ∧
    ∃ n, (flushBb s).dev = { s.dev.ksErased n (flushBb s).ks with bbOwed := (flushBb s).dev.bbOwed })

/-- Where a push stores (R92, R95, R96, R109): QPUSH of a word into an enabled FIFO queue in word mode that is not full, and
that no drop-remainder of the same edge emptied and whose pointer state is whole, stores it at the ring's next place and nothing else; whatever the queue's
state and mode, QPUSH and QTPUSH change no word outside the ring of their queue. -/
def Obligations.PushMemory : Prop :=
  (∀ s t p (c : Fin 64) (q : Fin 128) w,
    let u := s.dev.qu c q
    let a := s.dev.qAddr c q ((u.rd + u.ents.length) % s.dev.qDepth c q)
    s.live = true → s.dev.fb (F.cluQcfg_EN c q) = true → tagOf w ≠ 1 → s.dev.qPkt c q = false →
    s.dev.qTweed c q = false → u.ents.length < s.dev.qDepth c q →
    (mget s.dev.qTie (c * 128 + q)).edge ≠ s.dev.epo.edges + 1 → u.badPtr = false → exec (.qpush p c q w) s = .next t →
    t.dev.rd a = w ∧ ∀ b, b ≠ a → t.dev.rd b = s.dev.rd b) ∧
  (∀ s t p (c : Fin 64) (q : Fin 128) w, exec (.qpush p c q w) s = .next t →
    ∀ b, (∀ k, k < s.dev.qDepth c q → b ≠ s.dev.qAddr c q k) → t.dev.rd b = s.dev.rd b) ∧
  (∀ s t p (c : Fin 64) (q : Fin 128) (l : Fin 8) w, 4 ≤ s.dev.f (F.cluQcfg_DEPTH c q) → exec (.qtpush p c q l w) s = .next t →
    ∀ b, (∀ k, k < s.dev.qDepth c q → b ≠ s.dev.qAddr c q k) → t.dev.rd b = s.dev.rd b)

/-- PING, GET_INFO, EPOCH_GET, COH_INFO, COH_LINE, LNK_INFO, the mailbox registers, QPOP, QDROP, a leap second, the two time
limits of a link's start and a lane's lock store nothing: every word of memory reads as before. -/
def Obligations.StoresNothing : Prop :=
  ∀ s t c, storesNothing c = true → exec c s = .next t → t.dev.mem = s.dev.mem ∧ ∀ a, t.dev.rd a = s.dev.rd a

/-- ATOM (R362): what each OP stores and returns at a home whose line has no other holder, the reserved ones being refused
as address errors (R23). Words are raw 36-bit values; MIN and MAX compare them as s35. -/
def Obligations.AtomsStoreAndReturn : Prop :=
  (∀ (w x c : Word), (atomWord 0 w x c).toNat = (w.toNat + x.toNat) % 2 ^ 36 ∧
    (atomWord 1 w x c).toNat = (w.toNat + x.toNat) % 2 ^ 36 ∧
    (atomWord 2 w x c).toInt = if x.toInt < w.toInt then x.toInt else w.toInt) ∧
  (∀ (w x c : Word), (atomWord 3 w x c).toInt = (if x.toInt > w.toInt then x.toInt else w.toInt) ∧
    atomWord 4 w x c = x ∧ atomWord 5 w x c = (if w = c then x else w)) ∧
  (∀ (d : Dev) (m : CMsg) a, m.code = 5 → 5 < m.sub → d.homeAccepts m a = false) ∧
  (∀ (d : Dev) (a i : Nat) (x : Word) (op : Nat), a % 16 = 0 → i < 16 → winOf (a + i) = .rstore → 1 ≤ op → op ≤ 4 →
    d.coh.leave = none → mget d.uncorr (a + i) = false →
    let r := d.homeAtom { code := 5, sub := op, mask := 2 ^ i, ws := [x] } a
    r.1 = [d.rd (a + i)] ∧ r.2.1 = false ∧ r.2.2.rd (a + i) = atomWord op (d.rd (a + i)) x 0 ∧
      ∀ b, d.locOf b ≠ a + i → r.2.2.rd b = d.rd b)

/-- Comparison of wrapping values (R118): equal, later, earlier, unordered, by the difference mod 2^N; an unordered pair
passes no test of order; earlier is later with the two exchanged. -/
def Obligations.WrappingOrder : Prop :=
  ∀ n a b : Nat, 1 ≤ n → a < 2 ^ n → b < 2 ^ n →
    let d := (a + 2 ^ n - b) % 2 ^ n
    (d = 0 ↔ a = b) ∧ (later n a b = true ↔ 1 ≤ d ∧ d < 2 ^ (n - 1)) ∧ (earlier n a b = true ↔ 2 ^ (n - 1) < d) ∧
    (d = 2 ^ (n - 1) → later n a b = false ∧ earlier n a b = false ∧ notEarlier n a b = false ∧ notEarlier n b a = false) ∧
    (earlier n a b = true ↔ later n b a = true) ∧ (notEarlier n a b = true ↔ a = b ∨ later n a b = true)

/-- R85. Whatever pushes it, an IDLE word is not stored in an enabled queue whose pointer state is whole: memory and the queue stay, QSTAT.MALFORMED is
set, QERRCNT.MALF_CNT counts it, up to its greatest value; QPUSH and QTPUSH of one do just that. -/
def Obligations.IdleWordDiscarded : Prop :=
  (∀ (d : Dev) (c : Fin 64) (q : Fin 128) l w ep, d.fb (F.cluQcfg_EN c q) = true → tagOf w = 1 → (d.qu c q).badPtr = false →
    let e := d.qPush c q l w ep
    e.mem = d.mem ∧ e.queues = d.queues ∧ e.fb (F.cluQstat_MALFORMED c q) = true ∧
    e.f (F.cluQerrcnt_MALF_CNT c q) = Nat.min 0xFFF (d.f (F.cluQerrcnt_MALF_CNT c q) + 1)) ∧
  (∀ s p (c : Fin 64) (q : Fin 128) w, s.live = true → s.dev.fb (F.cluQcfg_EN c q) = true → tagOf w = 1 →
    exec (.qpush p c q w) s = .next (s.after fun d => d.qPush c q 0 w none)) ∧
  (∀ s p (c : Fin 64) (q : Fin 128) (l : Fin 8) w, s.live = true → s.dev.fb (F.cluQcfg_EN c q) = true → tagOf w = 1 →
    exec (.qtpush p c q l w) s = .next (s.after fun d => d.qPush c q l w none))

/-- R12. A bit that lies in no field of its register reads as zero, and a write leaves it as it is stored. -/
def Obligations.ReservedBits : Prop :=
  (∀ (fs : List FldRow) (w : Word) i, (∀ f ∈ fs, f.lo ≤ f.hi ∧ f.hi < 36) → i < 36 → (∀ f ∈ fs, ¬ (f.lo ≤ i ∧ i ≤ f.hi)) → bitOf (readMask fs w) i = false) ∧
  (∀ locked (fs : List FldRow) (old new : Word) i, (∀ f ∈ fs, f.lo ≤ f.hi ∧ f.hi < 36) → i < 36 →
    (∀ f ∈ fs, ¬ (f.lo ≤ i ∧ i ≤ f.hi)) → bitOf (writeFields locked fs old new).1 i = bitOf old i)

/-- The W1 fields of R77, on fields that do not overlap: while the field has its reset value, a write of another value sets
it and a write of the reset value is neither change nor violation; once written, its value stays, a write of the same
value is no violation, and a write of another is one; nothing but that and a change of a locked LK field is a violation. -/
def Obligations.WriteOnceFields : Prop :=
  ∀ locked (fs : List FldRow) (old new : Word) f, apart fs = true → f ∈ fs → f.acc = .w1 →
    let r := writeFields locked fs old new
    (bitsOf old f.hi f.lo = f.reset → bitsOf r.1 f.hi f.lo = bitsOf new f.hi f.lo) ∧
    (bitsOf old f.hi f.lo ≠ f.reset → bitsOf r.1 f.hi f.lo = bitsOf old f.hi f.lo ∧
      (bitsOf new f.hi f.lo ≠ bitsOf old f.hi f.lo → r.2 = true)) ∧
    (r.2 = true → ∃ g ∈ fs, bitsOf new g.hi g.lo ≠ bitsOf old g.hi g.lo ∧
      (g.acc = .w1 ∧ bitsOf old g.hi g.lo ≠ g.reset ∨ g.acc = .lk ∧ locked = true))

/-- The access types (R11, R78) on fields that do not overlap, as a write and a read by field type do them: RW takes the
value, RO, RC and WO keep theirs, W1C clears the bits written 1, LK takes the value unless it is locked, and a changing
write of a locked LK field is a violation; a read shows WO as zero and clears RC. -/
def Obligations.FieldTypes : Prop :=
  ∀ locked (fs : List FldRow) (old new : Word) f, apart fs = true → f ∈ fs →
    let r := writeFields locked fs old new
    let v := fun w : Word => bitsOf w f.hi f.lo
    (f.acc = .rw → v r.1 = v new) ∧
    (f.acc = .ro ∨ f.acc = .rc ∨ f.acc = .wo → v r.1 = v old) ∧
    (f.acc = .w1c → v r.1 = v old - (v old &&& v new)) ∧
    (f.acc = .lk → locked = false → v r.1 = v new) ∧
    (f.acc = .lk → locked = true → v r.1 = v old ∧ (v new ≠ v old → r.2 = true)) ∧
    v (readMask fs old) = (if f.acc = .wo then 0 else v old) ∧
    v (clearRc fs old) = (if f.acc = .rc then 0 else v old)

/-- A word of memory reads as it was written and no other word changes, through the redirection of a failed HBM channel;
a write to a word that no place holds changes no word (R22, R434, R435). -/
def Obligations.MemoryReadBack : Prop :=
  (∀ (d : Dev) a w, d.lostAt a = false → (d.wr a w).rd a = w) ∧
  (∀ (d : Dev) a b w, d.locOf a ≠ d.locOf b → (d.wr a w).rd b = d.rd b) ∧
  (∀ (d : Dev) a b w, d.lostAt a = true → (d.wr a w).rd b = d.rd b)

/-- The mailbox registers and a management frame (R62 to R68): MBX_REQ_WRITE appends a word to the request buffer;
DOORBELL submits a whole request, which then waits for the CP; MBX_RSP_READ and MBX_EVT_READ return the next word;
MGMT_FRAME unpacks its bytes and places its request in the lowest-numbered idle mailbox of the management path.
Nothing else changes. It rests on choices of the model: assumptions 121, 134, 156. -/
def Obligations.MailboxRegisters : Prop :=
  (∀ s p (n : Mbx) w, s.live = true → s.dev.mbxAllowed p n = true → (s.dev.mb n).busy = false →
    (s.dev.mb n).req.length < 256 →
    exec (.mbxReqWrite p n w) s = .next (s.after fun d => d.modMb n fun m => { m with req := m.req ++ [w] })) ∧
  (∀ s p (n : Mbx) w h body, s.live = true → s.dev.mbxAllowed p n = true → bitOf w 0 = true → s.dev.pathOf n < 4 →
    (s.dev.mb n).busy = false → (s.dev.mb n).req = h :: body →
    s.dev.bootBusy n (hdrOp h) = false →
    hdrLen h = body.length → hdrFlags h / 4 = 0 → nbit (hdrFlags h) 1 = false →
    exec (.doorbell p n w) s = .next (s.after fun d =>
      let d := (d.modMb n fun m =>
        { m with rsp := [], origin := if m.origin = .none then .regs else m.origin }).modMb n fun m => { m with busy := true }
      Dev.serveUnknown 16 { d with cp := { d.cp with doorbells := d.cp.doorbells ++ [n.val] } })) ∧
  (∀ s p (n : Mbx) w ws, s.live = true → s.dev.mbxAllowed p n = true → (s.dev.mb n).rsp = w :: ws →
    exec (.mbxRspRead p n) s = .next (s.after fun d =>
      (d.modMb n fun m => { m with rsp := ws }).emit (.readData p (R.mbxRsp n) w))) ∧
  (∀ s p (n : Mbx) e es, s.live = true → s.dev.mbxAllowed p n = true → (s.dev.mb n).evts = e :: es →
    exec (.mbxEvtRead p n) s = .next (s.after fun d =>
      (d.modMb n fun m => if (s.dev.mb n).evtRd ≥ 3 then { m with evts := es, evtRd := 0 }
        else { m with evtRd := m.evtRd + 1 }).emit (.readData p (R.mbxEvt n) (nth e (s.dev.mb n).evtRd)))) ∧
  (∀ s mac (bs : List Byte) n, s.live = true → s.dev.idleMbx 2 = some n → frameReq bs ≠ [] →
    exec (.mgmtFrame mac bs) s = .next (s.after fun d =>
      (d.modMb n fun m => { m with req := frameReq bs, origin := .mgmt mac }).ring n))

/-- The register window (R11 to R13, R88 to R91): a write of a register whose fields' access types alone decide stores
by them when it violates no lock; a read returns the fields as their types say and clears RC fields; the halves of a
72-bit pair go through the path's shadow and staging words. REG_WRITE is answered once its write has acted, but for
the one that ends the firmware (R81, R499). It rests on choices of the model: assumptions 32, 92, 95, 138, 147. -/
def Obligations.RegisterWindow : Prop :=
  (∀ s p (off : BitVec 23) w, s.reaches p off.toNat = true → s.dev.plainWrite p (s.dev.regKey p off.toNat) w = true →
    s.dev.violates (s.dev.regKey p off.toNat) w = false →
    offOfKey (s.dev.regKey p off.toNat) ≠ lockBase (s.dev.regKey p off.toNat) + 8 →
    exec (.registerWrite p off w) s = .next (s.afterBb fun d =>
      let key := d.regKey p off.toNat
      d.setReg key (writeFields (d.locked key) (fieldsOf key) (d.reg key) w).1)) ∧
  (∀ s p (off : BitVec 23), s.reaches p off.toNat = true → plainRead (s.dev.regKey p off.toNat) = true →
    exec (.rcFieldRead p off) s = .next (s.after fun d =>
      let key := d.regKey p off.toNat
      (d.setReg key (clearRc (fieldsOf key) (d.reg key))).emit
        (.readData p off.toNat (readMask (fieldsOf key) (d.liveReg key))))) ∧
  (∀ s p (off : BitVec 23), s.reaches p off.toNat = true → isLo (s.dev.regKey p off.toNat) = true →
    (∀ b ∈ [R.mbxRsp 0, R.mbxEvt 0, R.cluQpop 0 0, R.errQpop], (regHome (s.dev.regKey p off.toNat)).1 ≠ b) →
    exec (.shadowLoRead p off) s = .next (s.after fun d =>
      let key := d.regKey p off.toNat
      ({ d with shadow := mset d.shadow (pairKey p key) (some (d.liveReg (key + 1))) } : Dev).emit
        (.readData p off.toNat (d.liveReg key)))) ∧
  (∀ s p (off : BitVec 23) v, s.reaches p off.toNat = true → isLo (s.dev.regKey p off.toNat) = false →
    isHi (s.dev.regKey p off.toNat) = true →
    (∀ b ∈ [R.mbxRsp 0, R.mbxEvt 0, R.cluQpop 0 0, R.errQpop], (regHome (s.dev.regKey p off.toNat)).1 ≠ b) →
    mget s.dev.shadow (pairKey p (s.dev.regKey p off.toNat - 1)) = some v →
    exec (.shadowHiRead p off) s = .next (s.after fun d =>
      ({ d with shadow := mset d.shadow (pairKey p (d.regKey p off.toNat - 1)) none } : Dev).emit
        (.readData p off.toNat v))) ∧
  (∀ s p (off : BitVec 23) w, s.reaches p off.toNat = true → isLo (s.dev.regKey p off.toNat) = true →
    exec (.stagedLoWrite p off w) s = .next (s.afterBb fun d =>
      { d with staged := mset d.staged (pairKey p (d.regKey p off.toNat)) (some w) })) ∧
  (∀ s p (off : BitVec 23) w lo, s.reaches p off.toNat = true → isLo (s.dev.regKey p off.toNat) = false →
    isHi (s.dev.regKey p off.toNat) = true →
    mget s.dev.staged (pairKey p (s.dev.regKey p off.toNat - 1)) = some lo →
    exec (.hiWriteCommit p off w) s = .next (s.afterBb fun d =>
      let key := d.regKey p off.toNat
      ((({ d with staged := mset d.staged (pairKey p (key - 1)) none } : Dev).writeByType p (key - 1) lo).writeByType p
        key w))) ∧
  (∀ s p (off : BitVec 23) w, s.reaches p off.toNat = true → s.dev.plainWrite p (s.dev.regKey p off.toNat) w = true →
    s.dev.violates (s.dev.regKey p off.toNat) w = false →
    offOfKey (s.dev.regKey p off.toNat) = lockBase (s.dev.regKey p off.toNat) + 8 →
    mget s.dev.err.violEdge (lockBase (s.dev.regKey p off.toNat)) ≠ s.dev.epo.edges + 1 →
    exec (.blockLock p off w) s = .next (s.afterBb fun d =>
      let key := d.regKey p off.toNat
      d.setReg key (writeFields (d.locked key) (fieldsOf key) (d.reg key) w).1)) ∧
  (∀ s p w, s.reaches p R.topView = true → s.dev.f F.topView_VIEW = 0 → bitsOf w 0 0 = 1 → s.dev.cohState ≠ 2 →
    exec (.topViewWrite p w) s = .next (s.afterBb fun d => (d.writeByType p R.topView w).setF F.topView_VIEW 1)) ∧
  (∀ s p w, s.reaches p R.cohCfg = true →
    exec (.cohEnWrite p w) s = .next (s.afterBb fun d => (d.writeByType p R.cohCfg w).cohCfgWritten)) ∧
  (∀ s (n : Mbx), s.served n 0x003 2 = true → bitsOf (s.dev.arg n 1) 35 23 = 0 → 1 ≤ (s.dev.arg n 2).toNat →
    (s.dev.arg n 2).toNat ≤ 255 → bitsOf (s.dev.arg n 1) 22 0 + (s.dev.arg n 2).toNat ≤ 2 ^ 23 →
    exec (.regRead n) s = .next (s.afterCmdBb fun d =>
      let r := d.regReads .cp (bitsOf (d.arg n 1) 22 0) (d.arg n 2).toNat
      r.2.reply n stOK r.1)) ∧
  (∀ s (n : Mbx), let d := s.dev.taken
    let key := d.regKey .cp (bitsOf (d.arg n 1) 22 0)
    s.served n 0x004 3 = true → bitsOf (s.dev.arg n 1) 35 23 = 0 →
    s.reaches .cp (bitsOf (s.dev.arg n 1) 22 0) = true →
    isLo (s.dev.regKey .cp (bitsOf (s.dev.arg n 1) 22 0)) = false →
    isHi (s.dev.regKey .cp (bitsOf (s.dev.arg n 1) 22 0)) = false →
    woUntouched (fieldsOf (s.dev.regKey .cp (bitsOf (s.dev.arg n 1) 22 0))) (s.dev.arg n 2) = false →
    (regHome (s.dev.regKey .cp (bitsOf (s.dev.arg n 1) 22 0))).1 ≠ R.calShadow 0 →
    (bitsOf (s.dev.arg n 1) 22 0 = R.cpCtl → bitOf (s.dev.arg n 2) 0 = false ∨ bitOf (s.dev.arg n 3) 0 = false) →
    d.violates key (maskedWord (fieldsOf key) (d.liveReg key) (d.arg n 2) (d.arg n 3)) = false →
    exec (.regWrite n) s = .next (s.afterCmdBb fun d =>
      let off := bitsOf (d.arg n 1) 22 0
      let key := d.regKey .cp off
      (d.regWrite .cp off (maskedWord (fieldsOf key) (d.liveReg key) (d.arg n 2) (d.arg n 3))).reply n stOK [])) ∧
  (∀ s (n : Mbx), s.served n 0x004 3 = true → s.dev.arg n 1 = toW R.cpCtl → bitOf (s.dev.arg n 2) 0 = true →
    bitOf (s.dev.arg n 3) 0 = true →
    exec (.regWrite n) s = .next (s.afterCmdBb fun d => (d.reply n stOK []).reboot))

/-- PING, GET_INFO and image delivery (R48 to R53): the boot ROM takes IMG_BEGIN without a claim, IMG_CHUNK at the
staged offset, IMG_BOOT and IMG_ABORT of the source that holds the claim; a claim times out. It rests on choices of
the model: assumption 135. -/
def Obligations.ImageDelivery : Prop :=
  (∀ s (n : Mbx), s.served n 0x001 0 = true →
    exec (.ping n) s = .next (s.afterCmd fun d => d.reply n stOK [d.reg R.cpBoot])) ∧
  (∀ s (n : Mbx), s.served n 0x002 0 = true →
    exec (.getInfo n) s = .next (s.afterCmd fun d => d.reply n stOK
      [toW (d.serial / 2 ^ 36), toW d.serial, mkW [(16, 16, d.f F.topPkg_ASSIGNED), (15, 0, d.f F.topPkg_ID)],
        d.reg R.cpBoot, d.reg R.cpDebug])) ∧
  (∀ s (n : Mbx), s.servedBoot n 0x010 1 = true → s.dev.cp.loader.claim = 0 → 56 ≤ (s.dev.arg n 1).toNat →
    (s.dev.arg n 1).toNat ≤ 1864128 →
    exec (.imgBegin n) s = .next (s.afterCmd fun d =>
      let src := d.pathOf n + 1
      let len := (d.arg n 1).toNat
      let port := match (d.mb n).origin with
        | .link p => p.val
        | .lysith _ p => p.val
        | _ => 0
      let d := { d with cp := { d.cp with loader := { d.cp.loader with
        claim := src, len := len, staged := 0, chunked := false } } }
      (((d.setF F.cpBoot_SOURCE src).setF F.cpBoot_LYS_PORT port).setF F.cpBoot_STATE 3).reply n stOK [])) ∧
  (∀ s (n : Mbx) len, s.servedBoot n 0x011 len = true → 2 ≤ len → s.dev.cp.loader.claim = s.dev.pathOf n + 1 →
    (s.dev.arg n 1).toNat = s.dev.cp.loader.staged →
    s.dev.cp.loader.staged + ((s.dev.mb n).req.drop 2).length ≤ s.dev.cp.loader.len →
    exec (.imgChunk n) s = .next (s.afterCmd fun d =>
      let ws := (d.mb n).req.drop 2
      let d := d.wrs d.cp.loader.staged ws
      let d := { d with cp := { d.cp with loader := { d.cp.loader with
        staged := d.cp.loader.staged + ws.length, chunked := true } } }
      d.reply n stOK [toW d.cp.loader.staged])) ∧
  (∀ s (n : Mbx), s.servedBoot n 0x012 0 = true → s.dev.cp.loader.claim = s.dev.pathOf n + 1 →
    exec (.imgBoot n) s = .next (s.afterCmd fun d =>
      let d := ({ d with cp := { d.cp with loader := { d.cp.loader with verify := some n.val } } }).setF F.cpBoot_STATE 4
      { d with cp := { d.cp with executing := d.cp.executing ++ [n.val] } })) ∧
  (∀ s (n : Mbx), s.servedBoot n 0x013 0 = true → s.dev.cp.loader.claim = s.dev.pathOf n + 1 →
    exec (.imgAbort n) s = .next (s.afterCmd fun d =>
      (((d.setF F.cpBoot_LAST_FAIL 0x0A).releaseClaim).event 0x002 0 (toW 0x0A)).reply n stOK [])) ∧
  (∀ s, s.live = true → s.dev.cp.loader.claim ≠ 0 → s.dev.cp.loader.verify = none →
    exec .imgClaimTimeout s = .next (s.after fun d =>
      ((d.setF F.cpBoot_LAST_FAIL 0x09).releaseClaim).event 0x002 0 (toW 0x09)))

/-- Boot steps, fuses and restarts (R47, R53, R60, R61, R82, R83, R430, R499). VERIFY_DONE starts the image that
passes every check and rejects another with its code; OWNER_FUSE and DEBUG_FUSE on mailbox 0 burn their fuse once; a
watchdog expiry, a fatal exception or an uncorrectable CP memory word restarts running firmware that has not restarted
twice within the last second; the reload copies the KIND 0 segments; the restart ends; CP_CTL.REBOOT goes back to
WAIT_IMAGE. It rests on choices of the model: assumptions 9, 16, 57, 125, 136, 137. -/
def Obligations.BootAndRestart : Prop :=
  (∀ s, s.live = true → s.dev.bootState = 1 →
    exec .romInitDone s = .next (s.after fun d => (d.setF F.cpBoot_STATE 2).event 0x001 0 0)) ∧
  (∀ s n, s.live = true → s.dev.cp.loader.verify = some n →
    exec .verifyDone s = .next (s.afterBb fun d =>
      let c := d.imgCheck s.fuses
      if c = 0 then d.startImage s.fuses n
      else (((d.setF F.cpBoot_LAST_FAIL c).releaseClaim).event 0x002 0 (toW c)).finish n stBAD_ARG [toW c])) ∧
  (∀ s, s.servedBoot 0 0x018 13 = true → s.dev.arg 0 13 = toW 0x2795C9C52 →
    ((List.range 12).all fun i => !nonetBad (s.dev.arg 0 (i + 1))) = true → s.dev.fb F.cpDebug_FUSE_OWNER = false → s.fuses.owner = false →
    exec (.ownerFuse 0) s = .next (
      let t := s.afterCmd fun d => (d.setF F.cpDebug_FUSE_OWNER 1).reply 0 stOK []
      { t with fuses := { s.fuses with owner := true, hash := s.dev.fuseHash 0 } })) ∧
  (∀ s, s.servedBoot 0 0x019 1 = true → s.dev.arg 0 1 = toW 0x221088E4C → s.dev.fb F.cpDebug_FUSE_DEBUG = false →
    exec (.debugFuse 0) s = .next (
      let t := s.afterCmd fun d => ((d.setF F.cpDebug_FUSE_DEBUG 1).setF F.cpDebug_LOCK 1).reply 0 stOK []
      { t with fuses := { s.fuses with debug := true } })) ∧
  (∀ s, s.live = true → s.dev.running = true → s.dev.recentWarm < 2 →
    exec .cpWdtExpiry s = .next (s.after fun d =>
      let d := d.error 13 2 0 0 0 0
      let intr := match d.cp.interrupted with
        | some x => some x
        | none => d.cp.executing.head?.map fun n => (n, d.seqOf n)
      let d := (d.setF F.cpBoot_STATE 6).inc F.cpBoot_WARM_CNT 1
      { d with cp := { d.cp with interrupted := intr, atEntry := false, warm := d.epo.edges :: d.cp.warm.take 2 } })) ∧
  (∀ s, s.live = true → s.dev.running = true → s.dev.recentWarm < 2 →
    exec .cpFatalException s = .next (s.after fun d =>
      let d := d.error 13 2 0 0 0 0
      let intr := match d.cp.interrupted with
        | some x => some x
        | none => d.cp.executing.head?.map fun n => (n, d.seqOf n)
      let d := (d.setF F.cpBoot_STATE 6).inc F.cpBoot_WARM_CNT 1
      { d with cp := { d.cp with interrupted := intr, atEntry := false, warm := d.epo.edges :: d.cp.warm.take 2 } })) ∧
  (∀ s (a : BitVec 19), s.live = true → s.dev.running = true → s.dev.recentWarm < 2 →
    exec (.cpMemoryUe a) s = .next (s.after fun d =>
      let d := d.memError 12 2 (0x300A00000 + a.toNat)
      let intr := match d.cp.interrupted with
        | some x => some x
        | none => d.cp.executing.head?.map fun n => (n, d.seqOf n)
      let d := (d.setF F.cpBoot_STATE 6).inc F.cpBoot_WARM_CNT 1
      { d with cp := { d.cp with interrupted := intr, atEntry := false, warm := d.epo.edges :: d.cp.warm.take 2 } })) ∧
  (∀ s, s.live = true → s.dev.bootState = 6 → s.dev.cp.atEntry = false →
    ((List.range s.dev.cp.loader.retLen).all fun i => !(s.dev.rdP i).2) = true →
    exec .reloadDone s = .next (s.after fun d =>
      let d := each (d.imgSegs.filter fun g => g.kind == 0) Dev.copySeg d
      { d with cp := { d.cp with atEntry := true } })) ∧
  (∀ s, s.live = true → s.dev.bootState = 6 → s.dev.cp.atEntry = true →
    exec .warmRestartDone s = .next (s.after fun d =>
      let us := (d.epo.edges - d.cp.warm.headD 0) / 1600
      let det := match d.cp.interrupted with
        | some (n, q) => mkW [(15, 12, n), (7, 0, q), (16, 16, 1)]
        | none => 0
      let d := d.setF F.cpBoot_STATE 5
      let d := { d with cp := { d.cp with atEntry := false, interrupted := none, gap := true } }
      let d := each d.cp.executing (fun n d => d.endCmd n stTIMEOUT) d
      ((((d.event 0x004 0 det).settle).drainErrQ).event 0xA02 0
        (mkW [(35, 32, 5), (17, 0, Nat.min us 0x3FFFF)])).serveUnknown 16)) ∧
  (∀ s p w, s.live = true → bitOf w 0 = true → s.dev.cp.executing = [] → s.dev.cp.doorbells = [] →
    exec (.reboot p w) s = .next (s.after fun d =>
      let d := { d with cp := { d.cp with atEntry := false, interrupted := none } }
      d.releaseClaim.event 0x001 0 0))

/-- QPUSH, QTPUSH, QPOP, QDROP, QCFG_WRITE and QUEUE_DROP_REM of an enabled queue (R92, R95, R96, R104, R106, R109,
R110): what each does in its plain case, and that it changes nothing else; a QPOP that meets uncorrectable pointer
state finds the queue empty, its words lost (R424, class 4). It rests on choices of the model: assumptions 13, 14,
131, 132, 168. -/
def Obligations.QueueCommands : Prop :=
  (∀ s p (c : Fin 64) (q : Fin 128) w, s.live = true → s.dev.fb (F.cluQcfg_EN c q) = true → tagOf w ≠ 1 →
    s.dev.qPkt c q = false → s.dev.qTweed c q = false → (s.dev.qu c q).ents.length < s.dev.qDepth c q →
    (mget s.dev.qTie (c * 128 + q)).edge ≠ s.dev.epo.edges + 1 → (s.dev.qu c q).badPtr = false →
    exec (.qpush p c q w) s = .next (s.after fun d =>
      (d.store (d.qAddr c q (((d.qu c q).rd + (d.qu c q).ents.length) % d.qDepth c q)) w).modQ c q fun u =>
        { u with ents := u.ents ++ [{ kind := 0, ep := none }] })) ∧
  (∀ s p (c : Fin 64) (q : Fin 128) (l : Fin 8) w, s.live = true → s.dev.fb (F.cluQcfg_EN c q) = true → tagOf w ≠ 1 →
    s.dev.qPkt c q = false → s.dev.qTweed c q = true → mget (s.dev.qu c q).lvCnt l < s.dev.qDepth c q / 8 →
    (s.dev.qu c q).badPtr = false →
    exec (.qtpush p c q l w) s = .next (s.after fun d =>
      let u := d.qu c q
      let lv := d.qDepth c q / 8
      (d.store (d.qAddr c q (l * lv + (mget u.lvRd l + mget u.lvCnt l) % lv)) w).modQ c q fun u =>
        { u with lvCnt := mset u.lvCnt l (mget u.lvCnt l + 1) })) ∧
  (∀ s p (c : Fin 64) (q : Fin 128), s.live = true → s.dev.fb (F.cluQcfg_EN c q) = true →
    s.dev.qPkt c q = false → s.dev.qTweed c q = false → (s.dev.qu c q).ents ≠ [] →
    mget s.dev.parBad (s.dev.qAddr c q (s.dev.qu c q).rd) = 0 → (s.dev.qu c q).badPtr = false →
    exec (.qpop p c q) s = .next (s.after fun d =>
      (d.modQ c q fun u => { u with rd := (u.rd + 1) % d.qDepth c q, ents := u.ents.drop 1 }).emit
        (.readData p (R.cluQpop c q) (d.rd (d.qAddr c q (d.qu c q).rd))))) ∧
  (∀ s p (c : Fin 64) (q : Fin 128), s.live = true → s.dev.fb (F.cluQcfg_EN c q) = true → s.dev.qPkt c q = false →
    s.dev.qTweed c q = false → (s.dev.qu c q).badPtr = true →
    exec (.qpop p c q) s = .next (s.after fun d =>
      (((d.qLost c q (d.qu c q).ents.length).modQ c q fun _ => default).error 4 2 c 0 0 0).emit
        (.readData p (R.cluQpop c q) idleW))) ∧
  (∀ s p (c : Fin 64) w, s.live = true → s.dev.fb (F.cluQcfg_EN c (bitsOf w 6 0)) = true →
    s.dev.qPkt c (bitsOf w 6 0) = false → (s.dev.qu c (bitsOf w 6 0)).badPtr = false →
    exec (.qdrop p c w) s = .next (s.after fun d =>
      ((d.modQ c (bitsOf w 6 0) fun u => { u with
        rd := (u.rd + u.ents.length) % d.qDepth c (bitsOf w 6 0), ents := [], lvRd := [], lvCnt := [] }).inc
        (F.cluQerrcnt_DROP_CNT c (bitsOf w 6 0)) (d.qCount c (bitsOf w 6 0))).qNoteDrop c (bitsOf w 6 0) d)) ∧
  (∀ s p (c : Fin 64) (q : Fin 128) w, s.live = true → bitOf (s.dev.reg (R.cluQcfg c q)) 35 = false →
    4 ≤ bitsOf w 32 28 → bitsOf w 32 28 ≤ 15 → bitOf w 33 = false → s.dev.violates (R.cluQcfg c q) w = false → bitOf w 35 = true →
    exec (.qcfgWrite p c q w) s = .next (s.after fun d =>
      (d.setReg (R.cluQcfg c q) (writeFields (d.locked (R.cluQcfg c q)) (fieldsOf (R.cluQcfg c q))
        (d.reg (R.cluQcfg c q)) w).1).modQ c q fun _ => default)) ∧
  (∀ s (n : Mbx) (c : Fin 64) (q : Fin 128), s.served n 0x110 1 = true → bitsOf (s.dev.arg n 1) 35 13 = 0 →
    bitsOf (s.dev.arg n 1) 12 7 = c → bitsOf (s.dev.arg n 1) 6 0 = q →
    s.dev.fb (F.cluQcfg_EN c q) = true → s.dev.qPkt c q = false → (s.dev.qu c q).badPtr = false →
    exec (.queueDropRem n) s = .next (s.afterCmd fun d =>
      let k := d.qCount c q
      let w := mkW [(35, 35, 0), (23, 0, Nat.min k 0xFFFFFF)]
      let d := ((d.modQ c q fun u => { u with
        rd := (u.rd + u.ents.length) % d.qDepth c q, ents := [], lvRd := [], lvCnt := [] }).inc
        (F.cluQerrcnt_DROP_CNT c q) k).qNoteDrop c q d
      -- R105: a write of this edge to the queue that was full amends the response.
      let d := if k = 0 || (mget d.qTie (c * 128 + q)).edge ≠ d.epo.edges + 1 then d
        else { d with qTie := mmod d.qTie (c * 128 + q) fun t => { t with rsp := some (n.val, d.rspWords n stOK [w]) } }
      d.reply n stOK [w]))

/-- The ten scheduler actions (R140): an occurrence that issues at this edge performs its action; then its completion,
event 0x210, and the freeing of the entry after its last occurrence follow (R143, R146, R150). What the issue did is
noted for a cancel of its own edge (R149). It rests on choices of the model: assumptions 60, 93, 114, 116, 117, 140,
141, 143, 170, 171, 172. -/
def Obligations.SchedulerActions : Prop :=
  (∀ s (e : Fin 4096) late, s.issues e 0 false late = true →
    exec (.nop e) s = .next (s.issueNoted e (s.after fun d => d.issueSlot.schAfter e stOK late))) ∧
  (∀ s (e : Fin 4096) late, s.issues e 1 true late = true →
    exec (.pinSet e) s = .next (s.issueNoted e (s.after fun d =>
      (d.pinAct e (bitsOf (d.schArg e 0) 3 0) (bitOf (d.schArg e 0) 8) (d.pinDelay e late) none).schAfter e stOK late))) ∧
  (∀ s (e : Fin 4096) late, s.issues e 2 true late = true →
    exec (.pinPulse e) s = .next (s.issueNoted e (s.after fun d =>
      (d.pinAct e (bitsOf (d.schArg e 0) 3 0) true (d.pinDelay e late)
        (some ((d.pinEpoch e late + fullEp (d.schArg e 1).toNat) % 2 ^ 101))).schAfter e stOK late))) ∧
  (∀ s (e : Fin 4096) late l, s.issues e 3 true late = true →
    ((List.range 16).filter fun l => nbit (bitsOf (s.dev.schArg e 0) 15 0) l && s.dev.f (F.felCfg1_SR_SRC l) = 0 &&
      s.dev.f (F.felCfg1_SR_PIN l) ≤ 3) = [l] →
    exec (.sysref e) s = .next (s.issueNoted e (s.after fun d =>
      ((d.pinAct e (8 + d.f (F.felCfg1_SR_PIN l)) true (d.pinDelay e late)
        (some ((d.pinEpoch e late + 64 * d.f F.epoInc_INC) % 2 ^ 101))).sysrefAt l
        (if d.schAxis e = 0 then d.schTarget e (d.schE e).issued else d.now)).schAfter e stOK late))) ∧
  (∀ s (e : Fin 4096) late, s.issues e 4 false late = true →
    (s.dev.issueSlot.maskWrite (bitsOf (s.dev.schArg e 0) 22 0) (s.dev.schArg e 1) (s.dev.schArg e 2)).1 = stOK →
    exec (.regWriteAction e) s = .next (s.issueNoted e (s.afterBb fun d =>
      (d.issueSlot.maskWrite (bitsOf (d.schArg e 0) 22 0) (d.schArg e 1) (d.schArg e 2)).2.schAfter e stOK late))) ∧
  (∀ s (e : Fin 4096), let d0 := s.dev.issueSlot.beforeEdge
    s.issues e 5 false false = true → s.dev.schAxis e = 0 → d0.fb F.calStat_INIT = true → d0.f F.calStat_PSTATE = 1 →
    d0.f F.calStat_PEND_GEN = bitsOf (s.dev.schArg e 0) 11 0 → s.dev.cal = none → d0.dieStale 0 = false →
    d0.dieStale 1 = false →
    exec (.calApply e) s = .next (s.issueNoted e (s.after fun d =>
      ((d.issueSlot.undoWrites.modTie fun t => { t with
        writes := [], applied := some d.pendBank }).calSwitch
        (d.schTarget e (d.schE e).issued) false).schAfter e stOK false))) ∧
  (∀ s (e : Fin 4096), s.issues e 6 false false = true → s.dev.schAxis e = 0 → s.dev.f F.rteGen_STATE = 2 →
    (s.dev.schArg e 0).toNat = s.dev.f F.rteGen_STG_GEN →
    exec (.routeSwitch e) s = .next (s.issueNoted e (s.after fun d =>
      let t := d.schTarget e (d.schE e).issued
      let d := (d.issueSlot.setF F.rteGen_ACT_GEN (d.f F.rteGen_STG_GEN)).setF F.rteGen_STATE 3
      let d := { d with rte := { d.rte with ers := some t } }
      (d.event 0x715 0 (toW (d.f F.rteGen_ACT_GEN))).schAfter e stOK false))) ∧
  (∀ s (e : Fin 4096) late (n : Fin 16), s.issues e 7 false late = true → bitsOf (s.dev.schArg e 0) 15 0 = 2 ^ n.val →
    exec (.trigger e) s = .next (s.issueNoted e (s.after fun d =>
      (d.issueSlot.epochFire n (d.issueSlot.epochMask n 7 0)
        (if d.schAxis e = 0 then d.schTarget e (d.schE e).issued else d.now)).schAfter e stOK late))) ∧
  (∀ s (e : Fin 4096) late, s.issues e 8 false late = true → bitsOf (s.dev.schArg e 0) 25 13 = 1 →
    s.dev.inputRuns (bitsOf (s.dev.schArg e 0) 12 0) = true →
    exec (.mark e) s = .next (s.issueNoted e (s.after fun d =>
      (d.issueSlot.modInp (bitsOf (d.schArg e 0) 12 0) fun x =>
        { x with marks := x.marks ++ [(d.now, bitsOf (d.schArg e 1) 31 0)] }).schAfter e stOK late))) ∧
  (∀ s (e : Fin 4096) late, s.issues e 9 false late = true →
    exec (.event e) s = .next (s.issueNoted e (s.after fun d => (d.issueSlot.event 0x212 0 (d.schArg e 0)).schAfter e stOK late)))

/-- SCHED_ADD and SCHED_CANCEL (R138, R139, R144, R149), and the falling edge of a pulse (R142, R147). A cancel takes
back an issue of its own edge. It rests on choices of the model: assumptions 142, 171. -/
def Obligations.SchedulerEntries : Prop :=
  (∀ s (n : Mbx) e late, s.served n 0x210 8 = true → schBadArg (fun i => s.dev.arg n (i + 1)) = false →
    bitsOf (s.dev.arg n 1) 31 29 = 0 →
    s.dev.graceTest ((s.dev.arg n 2).toNat * 2 ^ 36 + (s.dev.arg n 3).toNat) = some late → s.dev.schFreeIdx = some e →
    exec (.schedAdd n) s = .next (s.afterCmd fun d =>
      let d := d.schCommit e (fun i => d.arg n (i + 1)) late
      d.reply n stOK [mkW [(19, 12, d.schGen e), (11, 0, e)]])) ∧
  (∀ s (n : Mbx), let old := s.dev.taken.unissued (bitsOf (s.dev.arg n 1) 11 0)
    s.served n 0x211 1 = true → bitsOf (s.dev.arg n 1) 35 20 = 0 →
    (old.schE (bitsOf (s.dev.arg n 1) 11 0)).live = true →
    old.schGen (bitsOf (s.dev.arg n 1) 11 0) = bitsOf (s.dev.arg n 1) 19 12 →
    exec (.schedCancel n) s = .next (s.afterCmd fun d =>
      let e := bitsOf (d.arg n 1) 11 0
      let d := d.unissued e
      let occ := (d.schE e).issued
      (((d.schDone e stCANCELLED false true occ).setSchState e 0).modSch e fun _ => default).reply n stOK
        [toW (Nat.min occ 0xFFFF)])) ∧
  (∀ s (pin : Fin 16) t, s.live = true → mget s.dev.sch.fall pin.val = some t → s.dev.pinDue t = true →
    s.dev.pinLate t = false → nbit s.dev.sch.pins pin = true →
    exec (.pulseFallingEdge pin) s = .next (s.after fun d =>
      let d := { d with sch := { d.sch with fall := mset d.sch.fall pin.val none } }
      ({ d with sch := { d.sch with pins := setNbit d.sch.pins pin false } }).emit (.pin pin false (d.fineDelay t))))

/-- The axes (R134 to R137): AXS_POS_WRITE, a quadrature edge of A alone, an index edge that sets the origin once, and
an SSI frame; each position is given to the scheduler's crossing test (R145). It rests on choices of the model:
assumption 55. -/
def Obligations.AxisCommands : Prop :=
  (∀ s p (a : Fin 4) w, s.live = true →
    exec (.axsPosWrite p a w) s = .next (s.after (Dev.setPos a w.toNat))) ∧
  (∀ s (a : Fin 4) lvB, s.live = true → s.dev.f (F.axsCfg_MODE a) = 1 → mget s.dev.sch.enc a = bit lvB →
    exec (.quadEdge a true lvB) s = .next (s.after fun d =>
      let pos := d.f (F.axsPos_POS a)
      ({ d with sch := { d.sch with enc := mset d.sch.enc a (2 + bit lvB) } } : Dev).setPos a
        (if lvB then pos + 2 ^ 36 - 1 else pos + 1))) ∧
  (∀ s (a : Fin 4), s.live = true → s.dev.f (F.axsCfg_MODE a) = 1 → s.dev.f (F.axsCfg_IDX a) = 1 →
    exec (.indexEdge a) s = .next (s.after fun d =>
      ((d.setPos a 0).setF (F.axsStat_IDX_SEEN a) 1).setF (F.axsCfg_IDX a) 0)) ∧
  (∀ s (a : Fin 4), s.live = true → s.dev.f (F.axsCfg_MODE a) = 2 →
    exec (.ssiFrameStart a) s = .next (s.after fun d =>
      { d with sch := { d.sch with ssi := mset d.sch.ssi a.val true } })) ∧
  (∀ s (a : Fin 4) bits, s.live = true → mget s.dev.sch.ssi a = true → s.dev.f (F.axsCfg_MODE a) = 2 → s.dev.fb (F.axsCfg_GRAY a) = false →
    exec (.ssiFrameDone a bits true true) s = .next (s.after fun d =>
      ({ d with sch := { d.sch with ssi := mset d.sch.ssi a false } } : Dev).setPos a
        (bits.toNat % 2 ^ Nat.min 36 (d.f (F.axsCfg_BITS a)))))

/-- The epoch's references (R112, R114 to R117, R123 to R132): a source lost or returned, a candidate that qualifies
within the slew's bound, the first lock's step, a leap second announced and taken, a host write of TAI_UTC at a whole
second, the millisecond update in LOCKED; a stretched period; EPOCH_GET. It rests on choices of the model: assumptions
8, 52, 127, 139, 169. -/
def Obligations.EpochCommands : Prop :=
  (∀ s (r : Fin 3) (reason : Fin 16), s.live = true → nbit (s.dev.f F.epoStat_VALID) (2 - r) = true →
    exec (.sourceLost r reason) s = .next (s.after fun d =>
      let d := d.setF F.epoStat_VALID (setNbit (d.f F.epoStat_VALID) (2 - r) false)
      let d := { d with epo := { d.epo with failed := setNbit d.epo.failed r false } }
      (d.event 0x201 0 (mkW [(2, 0, r), (7, 4, reason)])).refEval)) ∧
  (∀ s (r : Fin 3), s.live = true → srcEn s.dev.refcfg r = true →
    exec (.sourceReturn r) s = .next (s.after fun d =>
      (d.setF F.epoStat_VALID (setNbit (d.f F.epoStat_VALID) (2 - r) true)).refEval)) ∧
  (∀ s t, s.live = true → s.dev.epoState = 3 → s.dev.srcUp s.dev.epoCand = true →
    s.dev.fb F.epoStat_EVER_LOCKED = true →
    (sdiff 72 t.toNat s.dev.now).natAbs ≤ epOf (Nat.min 1000000 (Nat.max 1 (bitsOf s.dev.slewcfg 19 0))) 1000000 →
    exec (.candQualifies t) s = .next (s.after fun d =>
      let delta := sdiff 72 t.toNat d.now
      let d := { d with epo := { d.epo with qLost := false } }
      ((d.refGo 4 d.epoSel d.epoCand).setResid (delta * 65536)).event 0x203 0 (toW (sTo 36 (satS 36 delta).1)))) ∧
  (∀ s t, s.live = true → s.dev.epo.stepPend = true → s.dev.epoState = 3 → s.dev.fb F.epoStat_EVER_LOCKED = false →
    s.dev.streamsOn = false → s.dev.sch.ents = [] →
    exec (.firstLockStep t) s = .next (s.after fun d =>
      let tai := if d.epoCand < 2 then t.toNat + d.f F.epoTai_TAI_UTC else t.toNat
      let sec := (tai + 2 ^ 48 - d.origin % 2 ^ 48) % 2 ^ 36
      let cand := d.epoCand
      let d := d.setNow (sec * 2 ^ 36)
      let d := { d with epo := { d.epo with stepEdge := some d.epo.edges } }
      (d.event 0x202 0 (toW sec)).settle.refGo 1 cand noSrc)) ∧
  (∀ s (r : Fin 3) (dir : Fin 3) e, s.live = true → s.dev.epoSel = r.val → s.dev.srcUp r = true → dir ≠ 0 →
    exec (.leapAnnounce r dir e) s = .next (s.after fun d =>
      let d := d.setF F.epoTai_LEAP_PEND dir
      { d with epo := { d.epo with leapAt := some e.toNat } })) ∧
  (∀ s t, s.live = true → s.dev.epo.leapAt = some t → notEarlier 36 s.dev.nowSec t = true →
    exec .taiUtcChange s = .next (s.after fun d =>
      let v := (d.f F.epoTai_TAI_UTC + (if d.f F.epoTai_LEAP_PEND = 1 then 1 else 511)) % 512
      let d := (d.setF F.epoTai_TAI_UTC v).setF F.epoTai_LEAP_PEND 0
      ({ d with epo := { d.epo with leapAt := none } } : Dev).event 0x204 0 (toW v))) ∧
  (∀ s v, s.live = true → s.dev.epo.taiPend = some v →
    exec .wholeEpochSecond s = .next (s.after fun d =>
      let d := d.setF F.epoTai_TAI_UTC v
      { d with epo := { d.epo with taiPend := none } })) ∧
  (∀ s t, s.live = true → s.dev.epoState = 1 → s.dev.refRow = s.dev → s.dev.epo.refOld = none → s.dev.epo.slewOld = none →
    s.dev.epo.slewStart = false → s.dev.epo.slewLocked = false →
    exec (.disciplineUpdate t) s = .next (s.after fun d =>
      let d := { (d.setF F.epoInc_INC (clampInc (Config.loopInc d.free))) with free := d.free + 1 }
      d.ocxoUpdate)) ∧
  (∀ s (n : Mbx), s.served n 0x200 0 = true →
    exec (.epochGet n) s = .next (s.afterCmd fun d =>
      d.reply n stOK [toW (d.now / 2 ^ 36), toW d.now, d.reg R.epoStat]))

/-- A link's life (R152 to R160, R168): LINK_START of a link that is DOWN and passes every check goes to SYNC; lane
lock goes to WAIT_SYSREF with every lane in LANES_UP; a SYSREF edge fixes E_sr; the first release point goes to RUN
and gives each enabled input its slot 0; the two time limits, LINK_STOP before RUN end the start with TIMEOUT or
CANCELLED. It rests on choices of the model: assumptions 61, 62, 173. -/
def Obligations.LinkLife : Prop :=
  (∀ s (n : Mbx) (l : Fin 16), s.served n 0x300 1 = true → (s.dev.arg n 1).toNat = l.val → s.dev.felState l = 0 →
    s.dev.linkReason l = none →
    exec (.linkStart n) s = .next (s.afterCmd fun d =>
      let d := (d.modFel l fun _ => default).reply n stOK [0]
      (d.setF (F.felStat_STATE l) 1).event 0x300 l (mkW [(35, 28, 0), (1, 0, 1)]))) ∧
  (∀ s (l : Fin 16), s.live = true → s.dev.felState l = 1 →
    exec (.linkLaneLock l) s = .next (s.after fun d =>
      let d := each (d.linkCfg l).lanes
        (fun j d => (d.modLane l j fun x => { x with lock := true }).setF (F.felLane_UP l j) 1) d
      let d := d.setF (F.felStat_LANES_UP l) (d.f (F.felCfg0_LANES l))
      (d.setF (F.felStat_STATE l) 2).event 0x300 l (mkW [(35, 28, 0), (1, 0, 2)]))) ∧
  (∀ s (l : Fin 16), s.live = true → s.dev.felState l = 1 →
    exec (.linkSyncTimeout l) s = .next (s.after fun d => (d.felDown l stTIMEOUT).modFel l fun x =>
      { x with fin := some (s.dev.epo.edges, stTIMEOUT) })) ∧
  (∀ s (l : Fin 16) e, s.live = true → (s.dev.fel l).esr = none → s.dev.felState l = 2 →
    exec (.sysrefEdge l e) s = .next (s.after fun d => d.modFel l fun x =>
      { x with esr := some e.toNat, k0 := (s.dev.linkCfg l).k0, next := (s.dev.linkCfg l).k0 })) ∧
  (∀ s (l : Fin 16), s.live = true → s.dev.felState l = 2 → (s.dev.fel l).esr = none →
    exec (.sysrefWaitTimeout l) s = .next (s.after fun d => (d.felDown l stTIMEOUT).modFel l fun x =>
      { x with fin := some (s.dev.epo.edges, stTIMEOUT) })) ∧
  (∀ s (l : Fin 16) e, s.live = true → s.dev.felState l = 2 → (s.dev.fel l).esr = some e →
    notEarlier 72 s.dev.now (s.dev.relEp l (s.dev.fel l).k0) = true →
    exec (.linkRun l) s = .next (s.after fun d =>
      let fs := (d.linkCfg l).fs
      let a := d.startNum l (d.fel l).k0
      let d := each (d.liveInputs l) (fun i d => d.startInput i {
        a := a, st := 2 ^ 36, den := fs, slots := 0
        res := (d.f (F.ingChSkew_SKEW i) * fs : Nat) - (d.skewK i fs * 2 ^ 36 : Nat) }) d
      let d := (d.setF (F.felSlotLo_SLOT l) 0).setF (F.felSlotHi_SLOT l) 0
      ((d.setF (F.felStat_STATE l) 3).event 0x300 l (mkW [(35, 28, 0), (1, 0, 3)])).modFel l fun x =>
        { x with fin := some (s.dev.epo.edges, stOK) })) ∧
  (∀ s (n : Mbx) (l : Fin 16), s.served n 0x301 1 = true → (s.dev.arg n 1).toNat = l.val →
    s.dev.felJust l = none → (s.dev.felState l = 1 ∨ s.dev.felState l = 2) →
    exec (.linkStop n) s = .next (s.afterCmd fun d => (d.reply n stOK []).felDown l stCANCELLED))

/-- Lanes and their release (R161 to R165): 16 invalid sync headers lose a lane with reason 1; lock regained; an EMB
that arrives in its window waits in the lane's buffer; the release of an EMB gives each enabled input its slots. It
rests on choices of the model: assumptions 17, 18, 19, 61, 63, 174, 175. -/
def Obligations.LinkLanes : Prop :=
  (∀ s (l j : Fin 16), s.live = true → s.dev.felState l = 3 → nbit (s.dev.f (F.felCfg0_LANES l)) j = true →
    s.dev.laneUp l j = true →
    exec (.invalidSyncHeaders l j) s = .next (s.after fun d =>
      let d := (d.setF (F.felLane_UP l j) 0).setF (F.felLane_LOST_RSN l j) 1
      let d := d.setF (F.felStat_LANES_UP l) (setNbit (d.f (F.felStat_LANES_UP l)) j false)
      let next := (d.fel l).next
      (d.modLane l j fun x => { x with
        buf := [], lateRun := 0, markRun := 0, good := none, lostFrom := next, lock := false }).event 0x302 l
        (mkW [(10, 8, 1), (4, 0, l.val / 8 * 16 + j)]))) ∧
  (∀ s (l j : Fin 16), s.live = true → s.dev.felState l = 3 → nbit (s.dev.f (F.felCfg0_LANES l)) j = true →
    exec (.laneLockRegained l j) s = .next (s.after fun d => d.modLane l j fun x => { x with lock := true })) ∧
  (∀ s (l j : Fin 16) k arr octets e, s.live = true → s.dev.felState l = 3 → (s.dev.fel l).esr = some e →
    nbit (s.dev.f (F.felCfg0_LANES l)) j = true → s.dev.laneUp l j = true →
    later 72 arr.toNat (ep72 (s.dev.relNum l k / ((s.dev.linkCfg l).fs : Int))) = false →
    earlier 72 arr.toNat (ep72 (ceilQ (s.dev.relNum l k * (s.dev.linkCfg l).f -
      (8 * 256 * (s.dev.linkCfg l).s * 2 ^ 36 : Nat)) ((s.dev.linkCfg l).fs * (s.dev.linkCfg l).f))) = false →
    (s.dev.fel l).next ≤ k →
    exec (.embArrival l j k arr [] true octets) s = .next (s.after fun d =>
      (d.laneLat l j k arr.toNat).modLane l j fun x => { x with
        markRun := 0, lateRun := if (d.fel l).k0 ≤ k then x.lateRun else 0, buf := x.buf ++ [⟨k, false, true, 0, octets⟩] })) ∧
  (∀ s (l : Fin 16), s.live = true → s.dev.felState l = 3 →
    notEarlier 72 s.dev.now (s.dev.relEp l (s.dev.fel l).next) = true → (s.dev.fel l).stopAt = none →
    exec (.embRelease l) s = .next (s.after fun d =>
      let k := (d.fel l).next
      let c := d.linkCfg l
      let r := c.lanes.foldl (fun (es, d) j => let (e, d) := d.laneTake l k j; (es ++ [e], d)) ([], d)
      let d := each c.inputs.zipIdx (fun (i, idx) d =>
        if d.fb (F.ingChCfg_EN i) then forN c.p (fun p d => d.releaseSlot l k i idx r.1 p) d else d) r.2
      let d := d.modFel l fun x => { x with next := k + 1 }
      let n := (k + 1 - (d.fel l).k0) * c.p
      (d.setF (F.felSlotLo_SLOT l) n).setF (F.felSlotHi_SLOT l) (n / 2 ^ 36)))

/-- Fiuth-borne inputs (R169 to R173): FCH_START, the word of the expected sequence, a slot released as FILL at its
deadline, FCH_STOP at the next multiple of 1,024 when no deadline has come; and ING_ANCHOR of a running input. It
rests on choices of the model: assumptions 58, 118. -/
def Obligations.FiuthInputs : Prop :=
  (∀ s (n : Mbx) (k : Fin 1024), s.served n 0x302 4 = true → (s.dev.arg n 1).toNat = k.val → s.dev.fchRun k = false →
    1 ≤ s.dev.f (F.ingFchRate_RATE k) → s.dev.f (F.ingFchRate_RATE k) ≤ 10000000000 →
    bitsOf (s.dev.arg n 4) 35 12 = 0 →
    earlier 72 ((s.dev.arg n 2).toNat * 2 ^ 36 + (s.dev.arg n 3).toNat) s.dev.now = false →
    exec (.fchStart n) s = .next (s.afterCmd fun d =>
      let t0 := (d.arg n 2).toNat * 2 ^ 36 + (d.arg n 3).toNat
      let rate := d.f (F.ingFchRate_RATE k)
      let d := d.setF (F.ingFchCfg_RUN k) 1
      let d := { d with ing := { d.ing with
        fch := mset d.ing.fch k (⟨t0, bitsOf (d.arg n 4) 11 0, 0, none, none⟩ : Fch) } }
      (d.startInput (4096 + k) { a := (t0 * rate : Nat), st := 1000 * 2 ^ 36, den := rate, res := 0, slots := 0 }).reply
        n stOK [])) ∧
  (∀ s (k : Fin 1024) w, s.live = true → s.dev.fchRun k = true → s.dev.fchDue k = false →
    s.dev.fb (F.ingFchCfg_FMT k) = false →
    bitsOf w 35 24 = ((s.dev.fch k).seq0 + (s.dev.fch k).next) % 4096 →
    later 72 (ep72 (ceilQ ((s.dev.inp (4096 + k)).num (s.dev.fch k).next) (s.dev.inp (4096 + k)).den)) s.dev.now = false →
    exec (.fchWord k w) s = .next (s.after fun d => d.fchRelease k (tagged 0 (bitsOf w 23 0 * 256)))) ∧
  (∀ s (k : Fin 1024), s.live = true → s.dev.fchDue k = true →
    exec (.fchDeadline k) s = .next (s.after fun d =>
      let d := (d.fchRelease k (tagged 7 0)).incEv (F.ingFchCnt_FILL k) 1 0x308 k fun _ => toW 1
      { d with ing := { d.ing with fch := mmod d.ing.fch k fun x => { x with dueEdge := some d.epo.edges } } })) ∧
  (∀ s (n : Mbx) (k : Fin 1024), s.served n 0x303 1 = true → (s.dev.arg n 1).toNat = k.val → s.dev.fchRun k = true →
    (s.dev.fch k).stopAt = none → (s.dev.fch k).next % 1024 = 0 →
    exec (.fchStop n) s = .next (s.afterCmd fun d =>
      let d := d.reply n stOK []
      let d := { d with ing := { d.ing with
        fch := mset d.ing.fch k ({ d.fch k with stopAt := some (d.fch k).next } : Fch) } }
      d.setF (F.ingFchCfg_RUN k) 0)) ∧
  (∀ s (n : Mbx), s.served n 0x304 1 = true → (s.dev.arg n 1).toNat ≤ 5119 →
    s.dev.inputRuns (s.dev.arg n 1).toNat = true →
    exec (.ingAnchor n) s = .next (s.afterCmd fun d =>
      let x := d.inp (d.arg n 1).toNat
      d.reply n stOK [toW (x.at 0 / 2 ^ 36), toW (x.at 0), toW (sTo 36 (roundHe x.res x.den)),
        toW (x.slots / 2 ^ 36), toW x.slots]))

/-- Droop (R113, R174): a CCLK_REF period with a rail below THRESH advances the epoch counter by INC and lengthens the
stretch, the first of a stretch counting it; a rail not below THRESH stretches nothing; the end of a stretch takes it
into MAX_STRETCH, and counts one over 64 periods. It rests on choices of the model: assumptions 19, 63. -/
def Obligations.DroopCommands : Prop :=
  (∀ s rail (mv : BitVec 12), s.live = true → mv.toNat < s.dev.f F.ingDroop_THRESH →
    (s.dev.ing.win.filter fun e => s.dev.epo.edges + (s.dev.ing.stretched + 1) < e + 3200).length < 640 →
    exec (.droopStretch ⟨rail, mv⟩) s = .next (s.after fun d =>
      let d := { d with epo := { d.epo with cnt := (d.epo.cnt + d.f F.epoInc_INC) % 2 ^ 101 } }
      let d := if d.ing.stretch = 0 then d.inc F.ingStat_STRETCH_CNT 1 else d
      let now := d.epo.edges + (d.ing.stretched + 1)
      { d with ing := { d.ing with
        stretch := d.ing.stretch + 1, stretched := d.ing.stretched + 1
        win := now :: d.ing.win.filter fun e => now < e + 3200 } })) ∧
  (∀ s rail (mv : BitVec 12), s.live = true → s.dev.f F.ingDroop_THRESH ≤ mv.toNat →
    exec (.droopStretch ⟨rail, mv⟩) s = .next (s.after id)) ∧
  (∀ s, s.live = true →
    exec .stretchEnd s = .next (s.after fun d =>
      let n := d.ing.stretch
      let d := { d with ing := { d.ing with stretch := 0 } }
      let d := d.maxF F.ingStat_MAX_STRETCH (Nat.min n 0x3FF)
      if 64 < n then (d.inc F.ingStat_LONG_CNT 1).event 0x307 0 (toW n) else d))

/-- RECIPE_SET, MODEL_LOAD, BEAM_SET and TABLE_SWITCH whose checks pass and whose load is admitted (R177, R185, R195,
R205, R206, R233): the new recipe, model, beam or table bank, and the answer. It rests on choices of the model:
assumptions 20, 37, 38, 39, 40, 65, 66, 91, 112. -/
def Obligations.RecipeCommands : Prop :=
  (∀ s (n : Mbx) cnt beam i, let d := s.dev.taken
    let k := if beam then 0x10000 + i else i
    let r := d.recipeSteps n cnt
    s.served n 0x400 (2 + 3 * cnt) = true → bitOf (d.arg n 1) 35 = beam → bitsOf (d.arg n 1) 13 0 = i →
    bitsOf (d.arg n 1) 34 14 = 0 → (beam = true ∨ i ≤ 5119) → (d.arg n 2).toNat = cnt → 0 < cnt → cnt ≤ 6 →
    (if beam then d.beamRuns i else d.inputRuns i) = false → d.recipeReason k beam r.1 = 0 →
    ((d.loadRegions k).all (d.admits (r.2.fresh.2.putRecipe k (r.2.fresh.1 % 2 ^ 18) r.1))) = true →
    exec (.recipeSet n) s = .next (s.afterCmd fun d =>
      let v := (d.recipeSteps n cnt).2.fresh
      (each (d.loadRegions k) Dev.loadUpdate (v.2.putRecipe k (v.1 % 2 ^ 18) (d.recipeSteps n cnt).1)).reply n stOK
        [0, toW (v.1 % 2 ^ 18)])) ∧
  (∀ s (n : Mbx) i na, s.served n 0x401 51 = true → (s.dev.arg n 1).toNat = i → i ≤ 5119 →
    (s.dev.arg n 2).toNat * 2 ^ 36 + (s.dev.arg n 3).toNat = na → s.dev.inputRuns i = true →
    ((List.range 48).all fun k => bitsOf (s.dev.arg n (4 + k)) 35 32 == 0) = true →
    ((s.dev.source i).recipe.any (·.code == 1) || (s.dev.source i).recipe.any (·.code == 2)) = true →
    ([1, 2].all fun c => !(s.dev.source i).recipe.any (·.code == c) ||
      decide ((mget (s.dev.source i).steps c).begun * 1024 ≤ na)) = true →
    exec (.modelLoad n) s = .next (s.afterCmd fun d =>
      let has := fun c => (d.source i).recipe.any (·.code == c)
      -- Of the loads that are pending, those stay that one of the two steps has reached.
      let kept := fun (p : Loads) => p.filter fun x => [1, 2].any fun c =>
        has c && decide (x.1 < (mget (d.source i).steps c).begun * 1024)
      -- Noted: a step that begins the anchor's block at this edge makes the load PAST.
      ((d.modSource i fun x => { x with
        dPend := if has 1 then kept x.dPend ++ [(na, (List.range 6).map fun k => d.arg128 n (4 + 4 * k))] else x.dPend
        pPend := if has 2 then kept x.pPend ++ [(na, (List.range 6).map fun k => d.arg128 n (28 + 4 * k))]
          else x.pPend }).noteCmd i {
        edge := d.epo.edges + 1, step := 0, slot := na, mbx := n, dPend := (d.source i).dPend, pPend := (d.source i).pPend
        rsp := d.rspWords n stOK (epWords ((d.inp i).at na % 2 ^ 72)) }).reply n stOK
          (epWords ((d.inp i).at na % 2 ^ 72)))) ∧
  (∀ s (n : Mbx), let d := s.dev.taken
    let w := d.arg n
    let tab0 := d.tableWords [] (rsaAddr (w 4)) (2 * Nat.min 5120 (bitsOf (w 6) 12 0))
    let tab1 := tab0.2.tableWords [] (rsaAddr (w 5)) (2 * Nat.min 5120 (bitsOf (w 6) 12 0))
    let x : Beam := {
      collect := bitOf (w 1) 35, clu := bitsOf (w 1) 19 14, area := rsaAddr (w 2), nContrib := bitsOf (w 3) 11 0
      rshift := bitsOf (w 3) 18 12, oshift := bitsOf (w 3) 24 19, tab0 := rsaAddr (w 4), tab1 := rsaAddr (w 5)
      count := bitsOf (w 6) 12 0, nMemb := bitsOf (w 7) 17 0, cost := tab1.2.fresh.1 % 256, members := membersOf tab0.1
      members1 := membersOf tab1.1, parts := [], expired := [], seen := [], asked := false }
    let b := bitsOf (w 1) 13 0
    let new := (tab1.2.fresh.2.modBeam b fun _ => x).modSource (0x10000 + b) fun y => { y with
      recipe := y.coming, next := none, steps := [], cancelAt := none, cancelled := 0 }
    s.served n 0x402 7 = true → d.beamRuns b = false → (x.members.any fun m => d.inputRuns m.1) = false →
    bitsOf (w 1) 34 20 = 0 → bitsOf (w 2) 35 28 = 0 → bitsOf (w 3) 35 25 = 0 → bitsOf (w 4) 35 28 = 0 →
    bitsOf (w 5) 35 28 = 0 → bitsOf (w 6) 35 13 = 0 → bitsOf (w 7) 35 18 = 0 →
    0 < x.nContrib → x.rshift ≤ 44 → x.oshift ≤ 35 → x.count ≤ 5120 → 0 < x.nMemb →
    x.area % 16 = 0 → x.tab0 % 16 = 0 → x.tab1 % 16 = 0 → d.rsaBacked x.area (4 * 3088) = true →
    (x.count = 0 ∨ d.rsaBacked x.tab0 (2 * x.count) = true ∧ d.rsaBacked x.tab1 (2 * x.count) = true) →
    d.tabLines x.tab0 (2 * x.count) ++ d.tabLines x.tab1 (2 * x.count) = [] →
    x.members.all d.memberOk = true → ((new.loadRegions (0x10000 + b)).all (d.admits new)) = true →
    exec (.beamSet n) s = .next (s.afterBb fun d => (d.cmdDone fun _ =>
      let d := (each (new.loadRegions (0x10000 + b)) Dev.loadUpdate new).reply n stOK []
      if x.collect then d.ringClear x else d).brgSettle)) ∧
  (∀ s (n : Mbx), let d := s.dev.taken
    let x := d.beamArg n
    let ls := d.tabLines x.tab0 (2 * x.count) ++ d.tabLines x.tab1 (2 * x.count)
    s.served n 0x402 7 = true → d.tabsBacked x = true → ls ≠ [] →
    exec (.beamSet n) s = .next (s.afterBb fun d => (d.cmdDone fun d => (d.hold n).tabAsk n ls).brgSettle)) ∧
  (∀ s (n : Mbx) beam i code slot, let k := if beam then 0x10000 + i else i
    s.served n 0x403 4 = true → bitOf (s.dev.arg n 1) 35 = beam → bitsOf (s.dev.arg n 1) 13 0 = i →
    bitsOf (s.dev.arg n 1) 34 14 = 0 → (beam = true ∨ i ≤ 5119) → (s.dev.arg n 2).toNat = code →
    (if beam then code == 4 && (s.dev.beam i).set
      else (code == 1 || code == 3) && (s.dev.source k).coming.any (·.code == code)) = true →
    (s.dev.arg n 3).toNat * 2 ^ 36 + (s.dev.arg n 4).toNat = slot → s.dev.begunSlots k code ≤ slot →
    exec (.tableSwitch n) s = .next (s.afterCmd fun d =>
      let d := ((d.modRun k code fun r => { r with
        switches := r.switches.filter (· < d.begunSlots k code) ++ [slot] }).noteCmd k {
          edge := d.epo.edges + 1, step := code, slot := slot, mbx := n, rsp := d.rspWords n stOK []
          switches := (d.stepRun k code).switches }).reply n stOK []
      if beam then (d.bankAsk i ((d.stepRun k 4).bank slot)).brgSettle else d))

/-- TASK_CANCEL and its end, UNIT_FENCE, UNIT_UNFENCE, TASK_LOAD_GET (R224, R225, R227, R229, R232, R233), and the
three detections that fence a unit (R226). It rests on choices of the model: assumptions 66, 109, 160, 171. -/
def Obligations.CancelFenceLoad : Prop :=
  (∀ s (n : Mbx) beam i g, let k := if beam then 0x10000 + i else i
    s.served n 0x410 3 = true → bitOf (s.dev.arg n 1) 35 = beam → bitsOf (s.dev.arg n 1) 13 0 = i →
    bitsOf (s.dev.arg n 1) 34 14 = 0 → bitsOf (s.dev.arg n 3) 35 26 = 0 → (beam = true ∨ i ≤ 5119) →
    (s.dev.arg n 2).toNat + (s.dev.arg n 3).toNat * 2 ^ 36 = g →
    ((s.dev.source k).coming ≠ [] ∨ beam = true ∧ (s.dev.beam i).set = true) → (s.dev.source k).cancelling = false →
    exec (.taskCancel n) s = .next (s.afterCmd fun d =>
      -- The steals of this edge that it wins over are taken back.
      let d := ((each d.ties (Dev.cancelStolen k g) d).reply n stOK []).modSource k fun x => { x with
        cancelAt := some (Nat.min g (x.cancelAt.getD g)), cancelled := 0, cancelling := true, cancelEdge := d.epo.edges }
      forN 1024 (Dev.cancelDeque k g) (forN 64 (Dev.cancelGen k g) d))) ∧
  (∀ s (src : Src) g, s.live = true → (s.dev.source (srcKey src)).cancelling = true →
    (s.dev.source (srcKey src)).cancelAt = some g →
    (s.dev.tsk.units.all fun x => (x.2.run.map (hit (srcKey src) g)) != some true) = true →
    exec (.cancelComplete src) s = .next (s.after fun d =>
      (d.modSource (srcKey src) fun x => { x with cancelling := false }).event 0x414 0
        (mkW [(35, 28, stCANCELLED), (27, 0, Nat.min (d.source (srcKey src)).cancelled 0xFFFFFFF)]))) ∧
  (∀ s (n : Mbx) u, s.served n 0x411 1 = true → (s.dev.arg n 1).toNat = u → u < 1024 → s.dev.fenced u = false →
    exec (.unitFence n) s = .next (s.afterCmd fun d => (d.fence u 4).reply n stOK [])) ∧
  (∀ s (n : Mbx) u, s.served n 0x412 1 = true → (s.dev.arg n 1).toNat = u → u < 1024 → s.dev.fenced u = true →
    exec (.unitUnfence n 0) s = .next (s.afterCmd fun d =>
      (((d.setF (F.tskUnit_FENCED u) 0).modUnit u fun x => { x with turned := d.epo.edges + 1 }).loadUpdate
        (u / 128)).reply n stOK [0])) ∧
  (∀ s (n : Mbx), s.served n 0x413 0 = true →
    exec (.taskLoadGet n) s = .next (s.afterCmd fun d =>
      let d := forN 8 Dev.loadUpdate d
      d.reply n stOK ((List.range 8).map fun r => d.reg (R.tskRgnLoad r)))) ∧
  (∀ s (u : Fin 1024), s.live = true → s.dev.fenced u = false →
    exec (.unitEccError u) s = .next (s.after (Dev.fence u 1))) ∧
  (∀ s (u : Fin 1024), s.live = true → s.dev.fenced u = false →
    exec (.residueMismatch u) s = .next (s.after (Dev.fence u 2))) ∧
  (∀ s (u : Fin 1024), s.live = true → s.dev.fenced u = false → (s.dev.unit u).run.isSome = true →
    exec (.taskWatchdogExpiry u) s = .next (s.after (Dev.fence u 3)))

/-- Tasks (R208 to R221, R230): a block made ready creates its task; the generator pushes it on the shortest deque; an
idle unit takes its top task, or steals one; a task whose reads and writes are done completes; ordered results are
released in turn; the wait for a beam's contributions expires. It rests on choices of the model: assumptions 3, 35,
36, 59, 106, 107, 108, 160, 171, 177. -/
def Obligations.TaskLife : Prop :=
  (∀ s (src : Src) (st : Fin 8) (c : Fin 64), let k := srcKey src
    let q := s.dev.outQueue k st
    let g := (s.dev.rowRun k st c).ready
    let home := if st = 4 then c.val else s.dev.srcHome k
    s.live = true → s.dev.readyNow k st c = true → ((q.map (s.dev.outrun k st)).getD false) = false →
    exec (.taskReady src st c) s = .next (s.afterBb fun d =>
      let t : Task := { step := st, beam := decide (0x10000 ≤ k), index := k % 0x10000, seq := 0, g := g, outq := q.getD 0
                        ordered := q.isSome, due := (d.now + d.budget st) % 2 ^ 72, home := home, cost := d.costOf k st
                        first := g == 0, orphan := false, rerun := 0 }
      let d := d.modRow k st c fun r => { r with ready := r.ready + 1 }
      ((d.setGen home (d.genInsert t (d.gen home))).genPush home).brgSettle)) ∧
  (∀ s (c : Fin 64) t u, s.live = true → s.dev.gen c = [t] → t.made = true → s.dev.leastUnit c = some u →
    (s.dev.unit u).cnt < 32 →
    exec (.generatorPush c) s = .next (s.after fun d => (d.pushBottom u t.desc).setGen c [])) ∧
  (∀ s (u : Fin 1024), s.live = true → s.dev.inService u = true → (s.dev.unit u).run = none → 0 < (s.dev.unit u).cnt →
    s.dev.shadowBusy u = false →
    exec (.taskStart u) s = .next (s.afterBb fun d => (d.takeTop u).2.begin u (d.takeTop u).1 false)) ∧
  (∀ s (u : Fin 1024) v ws, let own := (List.range 16).map (u.val / 16 * 16 + ·)
    s.live = true → s.dev.inService u = true → (s.dev.unit u).run = none → (s.dev.unit u).cnt = 0 →
    s.dev.shadowBusy u = false →
    ((List.range 1024).all fun v => (s.dev.unit v).cnt == 0 || !s.dev.fenced v || s.dev.turnedNow v) = true →
    s.dev.beatenThief u = none → (s.dev.tryVictims u (s.dev.victims own)).1 = some (v, ws) →
    exec (.stealSearch u) s = .next (
      let t := s.afterBb fun d =>
        let fl := F.tskRgnSteals_CLUSTER (u / 128)
        let d := (d.tryVictims u (d.victims own)).2
        let d' := d.inc fl 1
        (d'.modUnit u fun x => { x with steal := some {
          edge := d.epo.edges + 1, victim := v, top := false, ws := ws, counted := d.f fl != d'.f fl } }).begin u ws true
      -- Noted for a cancel of this edge.
      { t with dev := t.dev.note 1 u (t.dev.unit u).run.isSome s.dev })) ∧
  (∀ s (u : Fin 1024) ws, let d := s.dev.unitGo u 8
    let t := taskOf ws
    s.live = true → (d.unit u).run = some ws → (d.unit u).wait = 0 → (d.unit u).sent = 5 → (d.taskRun t).done = t.g →
    t.g < (d.taskRun t).ready → (d.taskResult u t).isSome = true →
    exec (.taskComplete u) s = .next (s.afterBb fun _ =>
      match d.taskResult u t with
      | none => d
      | some (out, sat, d) =>
        let d := (d.satCount t.home (if t.step = 7 then 4 else t.step) sat).unitFree u
        let d := if t.ordered then d.addDone t.home t.outq t.seq out else d
        if later 72 d.now t.due then d.incEv (F.tskRgnCnt_LATE (t.home / 8)) 1 0x410 (t.home / 8) toW else d)) ∧
  (∀ s (c : Fin 64) (q : Fin 128) seq ws rest, s.live = true → s.dev.f (F.tskQseq_NEXT_REL c q) = seq →
    mget s.dev.tsk.done (c.val * 128 + q.val) = (seq, ws) :: rest → rest.all (fun x => x.1 != seq) = true →
    exec (.taskRelease c q) s = .next (s.after fun d =>
      ((({ d with tsk := { d.tsk with done := mset d.tsk.done (c.val * 128 + q.val) rest } } : Dev).releaseWords c q ws).setF
        (F.tskQseq_NEXT_REL c q) (seq + 1)))) ∧
  (∀ s (b : Fin 16384) w, let x := s.dev.beam b
    let r := s.dev.stepRun (0x10000 + b) 4
    s.live = true → x.set = true → x.collect = true → r.done = r.ready → x.expired.contains r.ready = false →
    s.dev.rsPeek (x.ring r.ready) = some w → w.toNat ≠ x.nContrib →
    notEarlier 72 s.dev.now ((s.dev.beamAt b (r.ready * 1024 + 1023) + s.dev.budget 7 +
      epOf (s.dev.f F.tskCfg_BEAM_WAIT) 1000000) % 2 ^ 72) = true →
    exec (.beamWaitExpiry b) s = .next (s.afterBb fun d =>
      ((d.modBeam b fun y => { y with expired := y.expired ++ [r.ready] }).event 0x413 (x.clu / 8)
        (mkW [(31, 18, b), (11, 0, w.toNat)])).brgSettle)) ∧
  (∀ s (b : Fin 16384), let x := s.dev.beam b
    let r := s.dev.stepRun (0x10000 + b) 4
    s.live = true → x.set = true → x.collect = true → r.done = r.ready → s.dev.countFull b r.ready = false →
    s.dev.rsPeek (x.ring r.ready) = none →
    notEarlier 72 s.dev.now ((s.dev.beamAt b (r.ready * 1024 + 1023) + s.dev.budget 7 +
      epOf (s.dev.f F.tskCfg_BEAM_WAIT) 1000000) % 2 ^ 72) = true →
    exec (.beamWaitExpiry b) s = .next (s.afterBb fun d =>
      (d.cohSend (.countAt b r.ready) x.clu { code := 3, addr := x.ring r.ready, mask := 1 }).brgSettle))

/-- Each of the five capture commands completes, exec answering a next state, under conditions on the state and the
operands alone. CAP_CHAN_SET (R236, R237): of a channel that is disabled or not changed, that no engine out of IDLE
names, with a legal configuration, stores C0-C3 and, enabling, zeroes the counts. CAP_ARM (R241, R253): an engine in
IDLE or STOPPED that passes every check goes to ARMED with CONT; one in ARMED takes CONT only. CAP_DISARM (R241,
R250): ARMED goes to IDLE, POST and REARM are left when they end, IDLE and STOPPED stay, triggers of the same edge are
taken back; the answer counts the records. CAP_TRIGGER (R242, R244): the masked engines with a COMMAND condition
trigger at the epoch given, or now. DMK_MASK_LOAD (R260): the header, the start and the segments of a mask that no
engine uses are stored. It rests on choices of the model: assumptions 77, 79, 144, 162. -/
def Obligations.CaptureCommands : Prop :=
  (∀ s (n : Mbx) ch, let c := fun i => s.dev.arg n (2 + i)
    let words := 2 ^ bitsOf (c 0) 34 30 + 2 ^ bitsOf (c 0) 34 30 / 512
    let base := bitsOf (c 1) 33 0
    s.served n 0x500 5 = true → (s.dev.arg n 1).toNat = ch → ch ≤ 4095 →
    (s.dev.capEn ch = false ∨ putBits (c 0) 35 35 0 = putBits (s.dev.capW ch 0) 35 35 0 ∧ c 1 = s.dev.capW ch 1 ∧
      c 2 = s.dev.capW ch 2 ∧ c 3 = s.dev.capW ch 3) →
    ((List.range 16).all fun t => s.dev.trgState t == 0 || !s.dev.engineNames t ch) = true →
    12 ≤ bitsOf (c 0) 34 30 → bitsOf (c 0) 34 30 ≤ 30 → bitsOf (c 0) 29 26 ≤ 10 → bitsOf (c 0) 25 20 = 0 →
    ((c 2).toNat ≠ 0 ∨ (c 3).toNat ≠ 0) → base % 16 = 0 → bitsOf (c 1) 35 34 = 0 → hbmRange base words = true →
    s.dev.meetsChan base words (some ch) = false → s.dev.meetsRec base words none = false →
    s.dev.meetsBkl base words = false →
    exec (.capChanSet n) s = .next (s.afterCmd fun d =>
      let d := forN 4 (fun i d => d.store (capAddr ch i) (c i)) d
      (if bitOf (c 0) 35 then (forN 3 (fun i d => d.store (capAddr ch (4 + i)) 0) d).modChan ch fun _ => default
        else d).reply n stOK [])) ∧
  (∀ s (n : Mbx) t, s.served n 0x501 1 = true → bitsOf (s.dev.arg n 1) 3 0 = t → bitsOf (s.dev.arg n 1) 35 5 = 0 →
    (s.dev.trgState t = 0 ∨ s.dev.trgState t = 4) → s.dev.armReason t = 0 →
    exec (.capArm n) s = .next (s.afterCmd fun d =>
      (((d.setF (F.trgStat_CONT t) (bitsOf (d.arg n 1) 4 4)).modTrg t fun x => { x with
        ofs := 0, cut := none, disarm := false, stop := false }).trgGo t 1).reply n stOK [0])) ∧
  (∀ s (n : Mbx) t, s.served n 0x501 1 = true → bitsOf (s.dev.arg n 1) 3 0 = t → bitsOf (s.dev.arg n 1) 35 5 = 0 →
    s.dev.trgState t = 1 →
    exec (.capArm n) s = .next (s.afterCmd fun d =>
      (d.setF (F.trgStat_CONT t) (bitsOf (d.arg n 1) 4 4)).reply n stOK [0])) ∧
  (∀ s (n : Mbx) t, s.served n 0x502 1 = true → (s.dev.arg n 1).toNat = t → t ≤ 15 → s.dev.trgState t = 1 →
    s.dev.trgNow t = [] →
    exec (.capDisarm n) s = .next (s.afterCmd fun d =>
      (if (d.trg t).stop then (d.modTrg t fun x => { x with stop := false }).trgGo t 4 else d.trgGo t 0).reply n stOK [toW (Nat.min 255 (d.trg t).recs.length)])) ∧
  (∀ s (n : Mbx) t, s.served n 0x502 1 = true → (s.dev.arg n 1).toNat = t → t ≤ 15 →
    (s.dev.trgState t = 3 ∨ s.dev.trgState t = 2) → s.dev.trgNow t = [] →
    exec (.capDisarm n) s = .next (s.afterCmd fun d =>
      (d.modTrg t fun x => { x with disarm := true }).reply n stOK [toW (Nat.min 255 (d.trg t).recs.length)])) ∧
  (∀ s (n : Mbx) t, s.served n 0x502 1 = true → (s.dev.arg n 1).toNat = t → t ≤ 15 →
    (s.dev.trgState t = 0 ∨ s.dev.trgState t = 4) → s.dev.trgNow t = [] →
    exec (.capDisarm n) s = .next (s.afterCmd fun d =>
      d.reply n stOK [toW (Nat.min 255 (d.trg t).recs.length)])) ∧
  (∀ s (n : Mbx) t, let d := s.dev.taken.untrigger t
    s.served n 0x502 1 = true → (s.dev.arg n 1).toNat = t → t ≤ 15 → s.dev.trgNow t ≠ [] → d.trgState t = 1 →
    (d.trg t).stop = false →
    exec (.capDisarm n) s = .next (s.afterCmd fun d =>
      ((d.untrigger t).trgGo t 0).reply n stOK [toW (Nat.min 255 ((d.untrigger t).trg t).recs.length)])) ∧
  (∀ s (n : Mbx) mask e, s.served n 0x503 3 = true → (s.dev.arg n 1).toNat = mask → mask ≠ 0 → mask ≤ 0xFFFF →
    (s.dev.arg n 2).toNat * 2 ^ 36 + (s.dev.arg n 3).toNat = e →
    exec (.capTrigger n) s = .next (s.afterCmd fun d =>
      let took := (List.range 16).filter fun t =>
        nbit mask t && 1 ≤ d.trgState t && d.trgState t ≤ 3 && d.epochMask t 8 0 ≠ 0
      (each took (fun t d' => d'.epochFire t (d'.epochMask t 8 0) (if e = 0 then d.now else e)) d).reply n stOK
        [toW (took.foldl (fun m t => m + 2 ^ t) 0)])) ∧
  (∀ s (n : Mbx) k, let s0 := bitsOf (s.dev.arg n 1) 23 12
    let m := bitsOf (s.dev.arg n 1) 2 0
    let m0 := s.dev.arg n 2
    s.served n 0x504 (3 + 3 * k) = true → bitsOf (s.dev.arg n 1) 35 24 = 0 → bitsOf (s.dev.arg n 1) 11 3 = 0 →
    s0 + k ≤ bitsOf m0 11 0 → bitsOf m0 11 0 ≠ 0 → bitsOf m0 11 0 ≤ 2730 → bitsOf m0 35 33 ≤ 5 →
    bitsOf m0 31 12 = 0 →
    ((List.range 16).all fun t => s.dev.trgState t == 0 || !s.dev.fb (F.trgCfg_KIND t) ||
      s.dev.f (F.trgCfg_MASK t) != m) = true →
    exec (.dmkMaskLoad n) s = .next (s.afterCmd fun d =>
      (forN (3 * k) (fun i d => d.store (dmkAddr m (2 + 3 * s0 + i)) (d.arg n (4 + i)))
        ((d.store (dmkAddr m 0) m0).store (dmkAddr m 1) (d.arg n 3))).reply n stOK []))

/-- What happens to channels and engines (R238 to R245, R249, R252, R256, R261): a packet in sequence enters its ring,
an edge of a pin triggers, POST ends when POST x PER and TMO have passed, REARM ends 74 CCLK edges after POST, the
decimation follows the fill, a mask test passes. It rests on choices of the model: assumptions 78, 145, 162, 179. -/
def Obligations.CaptureEvents : Prop :=
  (∀ s (ch : Fin 4096) p ps, s.live = true → (s.dev.chan ch).pend = p :: ps → s.dev.capEn ch = true →
    (s.dev.chan ch).started = true → tagOf (p.ws.headD 0) = 3 →
    bitsOf (p.ws.headD 0) 31 12 = bitsOf (s.dev.capW ch 0) 19 0 → bitsOf (p.ws.headD 0) 11 0 = (s.dev.chan ch).seq →
    ((p.ws.drop 1).filter fun w => slotTag (tagOf w)).length = s.dev.capPlen ch →
    exec (.capturePacket ch) s = .next (s.after fun d =>
      ((d.modChan ch fun x => { x with pend := ps }).capPosition ch p.ep
        ((p.ws.drop 1).filter fun w => slotTag (tagOf w))).modChan ch fun x => { x with
          seq := ((d.chan ch).seq + 1) % 4096, started := true })) ∧
  (∀ s (pin : Fin 8) e, s.live = true →
    exec (.trigInEdge pin e) s = .next (s.after fun d =>
      let d := forN 16 (fun n d => d.epochFire n (d.epochMask n 6 pin) e.toNat) d
      each (d.sysrefLinks pin) (fun l d => d.sysrefAt l e.toNat) d)) ∧
  (∀ s (n : Fin 16) c, s.live = true → (s.dev.trg n).cut = some c → s.dev.trgState n = 2 →
    notEarlier 72 s.dev.now ((c.et + s.dev.perRound (s.dev.trgWatch n) (s.dev.trgPost n) +
      epOf (Nat.max 1 (s.dev.f (F.trgCfg_TMO n))) 1000) % 2 ^ 72) = true →
    exec (.postTimeout n) s = .next (s.after fun d => (d.postEnd n).dmkShow)) ∧
  (∀ s (n : Fin 16), s.live = true → s.dev.trgState n = 3 →
    (s.dev.trg n).postEdge + 75 ≤ s.dev.epo.edges →
    exec (.rearmEnd n) s = .next (s.after fun d =>
      let st := if (d.trg n).disarm then 0 else 1
      ((d.modTrg n fun x => { x with disarm := false }).setF (F.trgStat_STATE n) st).event 0x500 n (toW st))) ∧
  (∀ s, s.live = true → bitsOf (toW s.dev.now) 35 26 ≠ s.dev.cap.tick →
    exec .decimTick s = .next (s.after fun d => forN 16 (fun n d =>
    let pm := (d.trg n).fill (d.recLen n) * 1000 / d.recLen n
    let old := d.f (F.trgStat_DECIM n)
    let new := if pm > 750 && old < 4 then old + 1 else if pm < 250 && old > 0 then old - 1 else old
    -- Noted: a trigger of this edge comes before the tick.
    (if new = old then d
    else ((d.setF (F.trgStat_DECIM n) new).modTrg n fun x => { x with dcnt := 0 }).event 0x502 n
      (mkW [(12, 3, pm), (2, 0, new)])).note 3 n true d)
        { d with cap := { d.cap with tick := bitsOf (toW d.now) 35 26, tickEdge := d.epo.edges + 1 } })) ∧
  (∀ s n num rest r, s.live = true → s.dev.cap.dmk = (n, num) :: rest →
    (s.dev.trg n).recs.find? (fun r => r.num == num && !r.ready) = some r →
    ((List.range r.nch).flatMap fun c => dmkTest (bitsOf (s.dev.rd (dmkAddr (s.dev.f (F.trgCfg_MASK n)) 0)) 35 33)
      (bitOf (s.dev.rd (dmkAddr (s.dev.f (F.trgCfg_MASK n)) 0)) 32) (s.dev.dmkSegs (s.dev.f (F.trgCfg_MASK n))) r.pre
      ((r.body.drop (11 + c * r.npos)).take r.npos)) = [] →
    exec .damaskTestDone s = .next (s.after fun d =>
      ((({ d with cap := { d.cap with dmk := rest } } : Dev).dmkShow.inc F.dmkCnt_TESTED 1).recStore n r
        [markC 0xB0 0, markC 0xB1 0xFFFFFF, markC 0xB2 0xFFF])))

/-- The commands on the Canvas banks and the calibration job (R263 to R278). It rests on choices of the model:
assumptions 31, 90, 149. -/
def Obligations.CanvasCommands : Prop :=
  (∀ s (n : Mbx) mode, s.served n 0x600 1 = true → (s.dev.arg n 1).toNat = mode → s.dev.cal = none →
    s.dev.taken.banksOk = true →
    (mode = 0 ∧ s.dev.taken.runningInputs = [] ∨ mode = 1 ∧ s.dev.bankShut = false) →
    exec (.canvasPrep n) s = .next (s.afterCmd fun d =>
      (if mode = 0 then d.canvasInit else (d.noteWrite n 16 (bankWords - 16)).canvasCopy).reply n stOK [])) ∧
  (∀ s (n : Mbx), let d := s.dev.taken
    let w := d.arg n
    let ins := (List.range (bitsOf (w 2) 25 13)).map (bitsOf (w 2) 12 0 + ·)
    let clus := d.jobClusters ins
    let shq := bitsOf (w 6) 10 4
    s.served n 0x601 6 = true → d.cal = none → d.bankShut = false → calRange w = false →
    d.fb F.calStat_INIT = true →
    ((bitsOf (w 1) 12 0 :: ins).all fun i => d.inputRuns i && ((d.source i).step? 0).isSome) = true →
    (clus.all fun c => d.fb (F.cluQcfg_EN c shq) && d.qPkt c shq) = true →
    notEarlier 72 ((w 3).toNat * 2 ^ 36 + (w 4).toNat) d.now = true →
    (clus.all fun c => !d.fenced (d.shadowOf c)) = true →
    popcount 4 (bitsOf (w 6) 19 16) ≤ (List.range 4096).countP (fun e => !(d.schE e).live) →
    exec (.calRun n) s = .next (s.afterCmd fun d =>
      let d := if bitOf (w 1) 35 then d.canvasCopy else d.setF F.calStat_PSTATE 0
      let (ents, d) := ((List.range 4).filter fun k => nbit (bitsOf (w 6) 19 16) k).foldl
        (fun (a : List (Nat × Nat) × Dev) k =>
          match a.2.schFreeIdx with
          | none => a
          | some e =>
            let d := a.2.schCommit e (calEntry k ((w 3).toNat * 2 ^ 36 + (w 4).toNat) (bitsOf (w 5) 35 16)
              (bitsOf (w 5) 15 0)) false
            (a.1 ++ [(e, d.schGen e)], d)) ([], d)
      let job : CalJob := {
        ref := bitsOf (w 1) 12 0, first := bitsOf (w 2) 12 0, cnt := bitsOf (w 2) 25 13
        t0 := (w 3).toNat * 2 ^ 36 + (w 4).toNat, period := bitsOf (w 5) 35 16, guard := bitsOf (w 6) 35 20
        cycles := bitsOf (w 5) 15 0, shq := shq, lags := bitsOf (w 6) 3 0, mbx := n, seq := d.seqOf n, ents := ents
        refs := [], pairs := [], lost := [] }
      ((({ d with cal := some job } : Dev).setF F.calStat_JOB 1).reply n stOK [0, toW (bitsOf (w 2) 25 13)]))) ∧
  (∀ s (n : Mbx) j, s.served n 0x602 0 = true → s.dev.cal = some j →
    exec (.calAbort n) s = .next (s.afterCmd fun d =>
      ((each j.ents (fun x d => if (d.schE x.1).live && d.schGen x.1 == x.2 then d.schCancel x.1 else d) d).reply n stOK
        []).calDone j stCANCELLED 0 0)) ∧
  (∀ s (n : Mbx), let d := s.dev.taken
    let b := d.pendBank
    s.served n 0x603 1 = true → d.f F.calStat_PSTATE ≠ 2 → d.cal = none → d.entryReserved b = false →
    ((d.arg n 1).toNat = 0 ∨ (d.arg n 1).toNat = 1 ∧ d.bankRd b 3 = d.bankSum b) →
    exec (.calSeal n) s = .next (s.afterCmd fun d =>
      let gen := (d.f F.calStat_ACT_GEN + 1) % 4096
      let d' := ((d.modTie id).bankWr 68 b 0 [mkW [(35, 24, 1), (11, 0, gen)]]).bankWr 68 b 3 [d.bankSum b]
      ((((d'.setF F.calStat_PEND_GEN gen).setF F.calStat_PSTATE 1).sealSum b 0).sealSum b 1).reply n stOK [toW gen])) ∧
  (∀ s (n : Mbx) first cnt, s.served n 0x604 2 = true → bitsOf (s.dev.arg n 1) 34 16 = 0 →
    bitsOf (s.dev.arg n 1) 15 0 = first → (s.dev.arg n 2).toNat = cnt → 0 < cnt → cnt ≤ 254 → first + cnt ≤ bankWords →
    exec (.canvasRead n) s = .next (s.afterBb fun d =>
      (d.cmdDone fun d =>
        let a := d.bankAddr (bitsOf (d.arg n 1) 35 35) first
        let d := (d.modCoh fun c => { c with mbxRds := mset c.mbxRds n.val (some ⟨a, cnt, []⟩) }).hold n
        each (List.range ((a + cnt - 1) / 16 + 1 - a / 16)) (fun k d =>
          let lo := Nat.max a ((a / 16 + k) * 16)
          let hi := Nat.min (a + cnt) ((a / 16 + k + 1) * 16)
          d.cohSend (.mbx n) 64 { code := 3, addr := d.fullAddr lo, mask := lineMask (lo % 16) (hi - lo) })
          d).brgSettle)) ∧
  (∀ s (n : Mbx) len first, s.served n 0x605 (len + 2) = true → s.dev.f F.calStat_PSTATE ≠ 2 →
    s.dev.tieNow.applied = none → (s.dev.arg n 1).toNat = first →
    first + ((s.dev.mb n).req.drop 2).length ≤ bankWords →
    ((List.range ((s.dev.mb n).req.drop 2).length).all fun k => first + k == 3 || 16 ≤ first + k) = true →
    exec (.canvasWrite n) s = .next (s.afterCmd fun d =>
      let ws := (d.mb n).req.drop 2
      let old := (List.range ws.length).map fun k => d.bankRd d.pendBank (first + k)
      let d' := d.modTie fun t => { t with writes := (some (n.val, d.seqOf n), first, old) :: t.writes }
      ((d'.bankWr 64 d'.pendBank first ws).setF F.calStat_PSTATE 0).reply n stOK []))

/-- The end of a retirement, the solve of a job (R270, R274 to R276). It rests on choices of the model: assumptions 3,
87, 88, 89, 146, 150. -/
def Obligations.CalibrationEvents : Prop :=
  (∀ s, s.live = true → s.dev.f F.calStat_PSTATE = 2 → s.dev.runningInputs.all s.dev.retired = true →
    exec .retirementEnd s = .next (s.after fun d => d.setF F.calStat_PSTATE 0)) ∧
  (∀ s j, s.live = true → s.dev.cal = some j → notEarlier 72 s.dev.now j.endEp = true →
    exec .calSolve s = .next (s.after fun d =>
      let r := j.inputs.foldl (fun a i => Dev.solveInput j j.endEp i a) ((0, 0), d)
      let d' := r.2.modTie fun t => { t with
        done := some (j.mbx, j.seq, mkW [(35, 28, 0), (25, 13, r.1.1), (12, 0, r.1.2)], r.2.f F.calCnt_JOBS) }
      (d'.inc F.calCnt_JOBS 1).calDone j stOK r.1.1 r.1.2))

/-- The commands on a Fiuth segment that TM9 controls, a pulse of F_SYNC, and the enabling and disabling of a port
(R289, R301 to R304, R306): accepted, each starts its work; a disabled port enters OFF once no started cycle is under
way. It rests on choices of the model: assumption 154. -/
def Obligations.FiuthCommands : Prop :=
  (∀ s (n : Mbx) p sl, s.served n 0x700 1 = true → bitsOf (s.dev.arg n 1) 35 10 = 0 → bitsOf (s.dev.arg n 1) 9 8 = p →
    bitsOf (s.dev.arg n 1) 7 4 = sl → s.dev.fpState p = 2 → s.dev.fb (F.fiuMod_PRESENT p sl) = true →
    s.dev.fb (F.fiuMod_EN p sl) = false →
    exec (.fiuSlotAdmit n) s = .next (s.afterCmd fun d =>
      (d.admitCycle p sl (bitsOf (d.arg n 1) 3 0) (some n.val)).hold n)) ∧
  (∀ s (n : Mbx) p sl, s.served n 0x701 1 = true → bitsOf (s.dev.arg n 1) 35 10 = 0 → bitsOf (s.dev.arg n 1) 9 8 = p →
    bitsOf (s.dev.arg n 1) 7 4 = sl → bitsOf (s.dev.arg n 1) 3 0 = 0 → s.dev.fpState p = 2 →
    s.dev.fb (F.fiuMod_PRESENT p sl) = true →
    exec (.fiuSlotRemove n) s = .next (s.afterCmd fun d =>
      (((d.setF (F.fiuMod_EN p sl) 0).clearMaps p sl).modFp p fun x =>
        { x with removing := if x.removing.contains sl then x.removing else x.removing ++ [sl],
                 granted := if x.granted = some sl then none else x.granted }).reply n stOK [])) ∧
  (∀ s (n : Mbx) p, s.served n 0x702 1 = true → (s.dev.arg n 1).toNat = p → p < 4 → s.dev.fpState p = 2 →
    (s.dev.fp p).segReset = none →
    exec (.fiuSegReset n) s = .next (s.afterCmd fun d => (d.segResetStart p (some n.val)).hold n)) ∧
  (∀ s (n : Mbx) p wr, s.served n 0x703 2 = true → bitsOf (s.dev.arg n 1) 17 16 = p → bitOf (s.dev.arg n 1) 35 = wr →
    bitsOf (s.dev.arg n 1) 34 18 = 0 → (wr = true ∨ (s.dev.arg n 2).toNat = 0) → s.dev.fpState p = 2 →
    exec (.fiuGeo n) s = .next (s.afterCmd fun d =>
      (d.ownPush p (geoCycle wr (bitsOf (d.arg n 1) 15 12) (bitsOf (d.arg n 1) 11 0) (d.arg n 2) (.geo n wr))).hold n)) ∧
  (∀ s pa (p : Fin 4) w, s.live = true → bitOf w 0 = true → s.dev.fpState p = 2 → s.dev.f (F.fiuSyncCfg_MODE p) = 2 →
    exec (.syncPulse pa p w) s = .next (s.after fun d => d.emit (.fiuLine p 2 1))) ∧
  (∀ s pa (p : Fin 4) w, let d1 := s.dev.setReg (R.fiuCfg p) (putBits w 2 0 0)
    let d2 := d1.haltRefresh p
    s.live = true → s.dev.fb (F.fiuCfg_EN p) = false → d1.fb (F.fiuCfg_EN p) = true → d2.fpState p = 0 →
    exec (.fiuPortEnWrite pa p w) s = .next (s.after fun _ =>
      (d2.modFp p fun x => { x with latch := some (d2.cfgRole p) }).portOn p)) ∧
  (∀ s pa (p : Fin 4) w, let d1 := s.dev.setReg (R.fiuCfg p) (putBits w 2 0 0)
    s.live = true → s.dev.fb (F.fiuCfg_EN p) = true → d1.fb (F.fiuCfg_EN p) = false →
    (d1.haltRefresh p).fpState p ≠ 0 →
    exec (.fiuPortEnWrite pa p w) s = .next (s.after fun _ =>
      ((d1.haltRefresh p).modFp p fun x => { x with
        closing := true, offEdge := some (d1.haltRefresh p).epo.edges }).portIdle p))

/-- Fiuth cycles of TM9 as master, and Twill arbitration (R283 to R286, R290, R293, R294, R296, R297, R306, R381 to
R389): of a segment, a decision with no requester and one that grants; of an HBM channel that has nothing pending, one
new request, which is granted; of every kind, a grant that is not used; and, of every decision of the stores and
channels, no more grants in a direction than it has ports, one for a requester, to the bank of the cycle's role. It
rests on choices of the model: assumptions 23, 68, 69, 99, 152, 155, 158, 182. -/
def Obligations.FiuthCycles : Prop :=
  (∀ s (p : Fin 4) o b, let rd := o.isRead || o.cmd = 8 || o.cmd = 10
    s.live = true → (s.dev.fp p).cur = some o → o.k + 1 < o.cnt →
    exec (.slaveAnswer p (.accept b)) s = .next (s.after fun d =>
      (if rd && b.bad then d.fiuPar p 0 else d).modFp p fun x => { x with
        cur := some { o with k := o.k + 1, got := if rd then o.got ++ [(b.w, b.bad)] else o.got } })) ∧
  (∀ s (p : Fin 4) o b, let rd := o.isRead || o.cmd = 8 || o.cmd = 10
    let e := { o with k := o.k + 1, got := if rd then o.got ++ [(b.w, b.bad)] else o.got }
    s.live = true → (s.dev.fp p).cur = some o → o.k + 1 = o.cnt →
    exec (.slaveAnswer p (.accept b)) s = .next (s.after fun d =>
      (((((if rd && b.bad then d.fiuPar p 0 else d).ownOff p).slotAnswered p e true).ownEnd p e true 0).portIdle p))) ∧
  (∀ s (p : Fin 4) o, s.live = true → (s.dev.fp p).cur = some o →
    exec (.slaveAnswer p .reject) s = .next (s.after fun d => ((d.inc (F.fiuErrcnt_REJ p) 1).ownFail p 3).portIdle p)) ∧
  (∀ s (p : Fin 4) a, s.live = true → (s.dev.fp p).cur = none → (s.dev.fp p).late = true →
    exec (.slaveAnswer p a) s = .next (s.after fun d => (d.fiuProto p (d.fp p).lastCmd).portIdle p)) ∧
  (∀ s (p : Fin 4) o, s.live = true → (s.dev.fp p).cur = some o → o.retries < s.dev.f (F.fiuCfg_RTY_MAX p) →
    exec (.slaveAnswer p .retry) s = .next (s.after fun d => (d.ownRetry p o).portIdle p)) ∧
  (∀ s (p : Fin 4) o (src : Fin 17) t, s.live = true → (s.dev.fp p).cur = some o → o.isRead = true → o.k = 0 →
    exec (.slaveAnswer p (.defer src t)) s = .next (s.after fun d => (d.ownDefer p src t.toNat o).portIdle p)) ∧
  (∀ s (p : Fin 4) o, s.live = true → (s.dev.fp p).cur = some o →
    exec (.answerTimeout p) s = .next (s.after fun d =>
      ((((d.modFp p fun x => { x with late := true, lockReq := none, other := none }).fiuNoAns p o.addr).ownFail p 4).portIdle p))) ∧
  (∀ s (p : Fin 4) o os, s.live = true → (s.dev.fp p).wait = o :: os →
    exec (.retryWaitExpiry p) s = .next (s.after fun d => d.modFp p fun x =>
      { x with wait := os, queue := o :: x.queue })) ∧
  (∀ s (p : Fin 4) h ds r rest, s.live = true → (s.dev.fpState p = 2 ∨ s.dev.fpState p = 4) →
    s.dev.fpDeaf p = false → bitsOf h.w 12 8 = s.dev.myCode p → h.bad = false → bitOf h.w 24 = false → (s.dev.fp p).deferred = r :: rest →
    r.tag = bitsOf h.w 7 0 → r.src = bitsOf h.w 17 13 → ds.all (fun b => !b.bad) = true →
    exec (.reply p h ds) s = .next (s.after fun d =>
      ((d.headerSeen p 9).emit (.fiuAns p 0 0 [])).defEnd p 0 r true (ds.map fun b => (b.w, b.bad)))) ∧
  (∀ s (p : Fin 4) (src : Fin 17) tag r rest, s.live = true → (s.dev.fp p).deferred = r :: rest → r.tag = tag.toNat →
    r.src = src.val →
    exec (.deferTimeout p src tag) s = .next (s.after fun d =>
      (d.event 0x705 p (mkW [(12, 8, src.val), (7, 0, tag.toNat)])).defEnd p 0 r false [])) ∧
  (∀ s (p : Fin 4) (y : TwlIn), let x := FiuPort.refill (s.dev.fp p)
    let rs := (List.range 16).filter (fun sl => nbit y.breq.toNat sl && s.dev.fb (F.fiuMod_EN p sl))
    s.live = true → s.dev.fpState p = 2 → s.dev.fb (F.fiuStat_HALT_IN p) = false → x.cur = none → x.granted = none →
    x.lock = none → x.segReset = none → x.closing = false → x.queue = [] → rs = [] →
    exec (.grantDecision (.fiu p) y) s = .next (s.after fun d =>
      (((((d.modFp p FiuPort.refill).modFp p fun x => { x with waits := [] }).fiuBadSlot p).modFp p
        (FiuPort.waitMore [] none)).twillShow p none).twillStep p)) ∧
  (∀ s (p : Fin 4) (y : TwlIn) c aged, let x := FiuPort.refill (s.dev.fp p)
    let rs := (List.range 16).filter (fun sl => nbit y.breq.toNat sl && s.dev.fb (F.fiuMod_EN p sl)) ++
      (if x.pick.isSome then [16] else [])
    let d0 := (s.dev.modFp p FiuPort.refill).modFp p fun x => { x with waits := x.waits.filter (fun w => rs.contains w.1) }
    let d1 := (if x.queue.countP (fun o => o.waited ≥ 1) ≥ 4 then d0.inc (F.fiuTwlReq_STALL p 16) 1 else d0).fiuBadSlot p
    let w := if c = 16 then (((d1.fp p).pick.bind ((d1.fp p).queue[·]?)).map (·.waited)).getD 0
      else (mget (d1.fp p).waits c).getD 0
    s.live = true → s.dev.fpState p = 2 → s.dev.fb (F.fiuStat_HALT_IN p) = false → x.cur = none → x.granted = none →
    x.lock = none → x.segReset = none → x.closing = false → d1.twillPick p rs = some (c, aged) →
    exec (.grantDecision (.fiu p) y) s = .next (s.after fun _ =>
      let d := if aged then d1.incEv (F.fiuTwlCnt_AGED p) 1 0x811 (twlInst p) (fun _ => toW c) else d1
      let d := (d.inc (F.fiuTwlGnt_COUNT p c) 1).maxF (F.fiuTwlReq_MAX_WAIT p c) (Nat.min w 0xFFF)
      let d := d.modFp p (FiuPort.waitMore rs (some c))
      let d := forN 17 (fun r d => d.setF (F.fiuTwlReq_PEND p r)
        (if r = 16 then Nat.min 4 ((d.fp p).queue.length - bit (c == 16)) else bit ((mget (d.fp p).waits r).isSome))) d
      if c = 16 then (d.twillStep p).ownStart p
      else ((d.twillStep p).modFp p fun x => { x with granted := some c }).emit (.fiuLine p 3 c))) ∧
  (∀ s (h : Fin 32) (y : TwlIn) r, let inst := 128 + h.val
    s.live = true → y.asked = [r] → y.gone = [] → r.code.val < 8 → (s.dev.twlOf inst).pend = [] →
    exec (.grantDecision (.hbm h) y) s = .next (s.after fun d =>
      let d := ((d.twlRead inst (d.twlSlots inst)).inc (twlF inst (0x220 + r.code) 35 0) 1).maxF
        (twlF inst (0x200 + r.code) 32 21) 0
      let d := d.modTwl inst fun t => { t with pend := [], cycle := t.cycle + 1, ans := [⟨true, r.code, 0, none⟩] }
      (each (List.range 8) (fun c d => d.setF (twlF inst (0x200 + c) 35 33) 0) d).twlStep inst)) ∧
  (∀ s (p : Fin 4) c, s.live = true → (s.dev.fp p).granted = some c →
    exec (.headerAfterGrantMissed (.fiu p)) s = .next (s.after fun d =>
      (d.modFp p fun x => { x with granted := none, waits := mset x.waits c none }).incEv (F.fiuTwlCnt_DEAD p) 1 0x810
        (twlInst p) (fun _ => toW c))) ∧
  (∀ s a (code : Fin 32) rd g, let inst := twlInstance a
    let dir := if twlKind a = 0 then bit rd else 0
    s.live = true → (s.dev.twlOf inst).ans.find? (fun x => x.granted && x.code == code.val && x.dir == dir) = some g →
    exec (.headerAfterGrantMissed (.store a code rd)) s = .next (s.after fun d =>
      (d.modTwl inst fun t => { t with ans := t.ans.erase g }).incEv (twlF inst 0x102 35 18) 1 0x810 inst
        (fun _ => toW code))) ∧
  (∀ s (p : Fin 4), s.live = true → s.dev.fpState p ≠ 0 →
    exec (.tenureTimeout p) s = .next (s.after fun d =>
      let d' := ((d.modFp p fun x => { x with granted := none, other := none }).slaveAbandon p).ownFail p 2
      (if d'.fpState p = 2 then d'.fiuProto p (d.fp p).lastCmd else d').portIdle p)) ∧
  (∀ s (p : Fin 4), s.live = true → s.dev.fpState p = 4 → s.dev.fb (F.fiuStat_HALT_IN p) = false →
    (s.dev.fp p).cur = none → (s.dev.fp p).closing = false →
    exec (.memberPortGrant p) s = .next (s.after fun d => ((d.lockBreak p).modFp p FiuPort.refill).ownStart p)) ∧
  (∀ s (p : Fin 4) (src : Fin 17) cmd (a : BusWord), s.live = true → s.dev.fpState p = 2 →
    s.dev.fpDeaf p = false → a.bad = false → cmd.toNat < 12 → cmd.toNat ≠ 5 → cmd.toNat ≠ 6 →
    exec (.headerOnSegment p src cmd a) s = .next (s.after fun d =>
      let e := (d.headerSeen p cmd.toNat).otherWords cmd.toNat a.w
      e.2.modFp p fun x => { x with other := some e.1 })) ∧
  (∀ s (p : Fin 4) (src : Fin 17) cmd (a : BusWord), s.live = true → s.dev.fpState p = 2 →
    s.dev.fpDeaf p = false → a.bad = true →
    exec (.headerOnSegment p src cmd a) s = .next (s.after fun d =>
      (((d.headerSeen p cmd.toNat).emit (.fiuAns p 1 0 [])).fiuPar p 1).portIdle p)) ∧
  (∀ s (p : Fin 4) (src : Fin 17) (a : BusWord), s.live = true → s.dev.fpDeaf p = false → a.bad = false →
    (s.dev.fp p).lock = some (src.val, a.w, false) →
    exec (.headerOnSegment p src 6 a) s = .next (s.after fun d =>
      ((d.modFp p fun x => { x with lock := none }).headerSeen p 6).otherStart p 6 a.w)) ∧
  (∀ s (p : Fin 4) m a sl, s.live = true → (s.dev.fp p).lock = some (m, a, sl) →
    exec (.lockWindowExpiry p) s = .next (s.after fun d =>
      (((d.modFp p fun x => { x with lock := none, granted := none }).brgUnlock p).setF (F.fiuStat_LOCK_BRK p) 1).event
        0x707 p a)) ∧
  (∀ kind cycle maxWait slots rs dir, let got := (twlDecide kind cycle maxWait slots rs).got
    got.countP (fun g => g.dir == dir) ≤ twlPorts kind dir ∧ got.Pairwise (fun g h => g.dir = h.dir → g.code ≠ h.code) ∧
      ∀ g ∈ got, g ∈ rs ∧ (kind = 0 → g.bank = (cycle + g.dir) % 2))

/-- Interrupts and the side-band lines (R299 to R302, R330). It rests on choices of the model: assumption 3. -/
def Obligations.FiuthLines : Prop :=
  (∀ s (p : Fin 4) irq l sl rest, let d1 := (s.dev.setF (F.fiuStat_IRQ_IN p) irq.toNat).modFp p fun x => { x with
      pass := x.pass.filter (fun q => nbit irq.toNat q.1) }
    s.live = true → s.dev.fpState p = 2 →
    [7, 6, 5, 4, 3, 2, 1, 0].find? (fun l =>
      nbit irq.toNat l && s.dev.f (F.fiuIrqMap_SLOTS p l) ≠ 0 && !nbit (s.dev.fp p).holdoff l) = some l →
    d1.irqOrder p l = sl :: rest → mget (d1.fp p).pass l ≤ rest.length → (s.dev.fp p).iacking = false →
    (s.dev.fp p).msgs.length < 16 → (s.dev.fp p).nFill < 16 → (s.dev.fp p).closing = false →
    exec (.irqService p irq) s = .next (s.after fun _ =>
      d1.ownPush p { cmd := 8, addr := mkW [(35, 32, sl), (2, 0, l)], cnt := 1, ws := [], k := 0, got := []
                     retries := 0, owner := .iack l sl })) ∧
  (∀ s (p : Fin 4) (l : Fin 8), s.live = true →
    exec (.strayHoldoffExpiry p l) s = .next (s.after (Dev.modFp p fun x => { x with
      holdoff := setNbit x.holdoff l.val false }))) ∧
  (∀ s (p : Fin 4) lv, s.live = true → s.dev.haltOwn p = false → s.dev.fb (F.fiuStat_HALT_IN p) = !lv →
    s.dev.msgOn p 9 = false →
    exec (.haltChange p lv) s = .next (s.after fun d =>
      let d := ((d.modFp p fun x => { x with haltExt := lv }).setF (F.fiuStat_HALT_IN p) (bit lv)).event 0x703 p
        (toW (bit lv))
      if lv then d.modFp p fun x => { x with granted := none } else d)) ∧
  (∀ s (p : Fin 4), s.live = true → s.dev.fpState p = 2 → s.dev.f (F.fiuSyncCfg_MODE p) = 1 →
    s.dev.now % 2 ^ 36 * 1000 / 2 ^ 36 % Nat.min 1000 (Nat.max 1 (s.dev.f (F.fiuSyncCfg_PERIOD p))) = 0 →
    exec (.syncPeriodic p) s = .next (s.after fun d => d.emit (.fiuLine p 2 1))) ∧
  (∀ s (p : Fin 4), s.live = true → s.dev.fpState p ≠ 0 →
    exec (.syncEdge p) s = .next (s.after fun d =>
      let d := (d.setF (F.fiuSyncTsLo_FRAC p) (d.now % 2 ^ 36)).setF (F.fiuSyncTsHi_SEC p) d.nowSec
      if d.msgOn p 8 then d.brgMessage p 2 16 0 0 0 d.now else d)) ∧
  (∀ s (p : Fin 4), s.live = true →
    exec (.rstSampled p) s = .next (s.after fun d =>
      let e := (((d.ownFail p 2).slaveAbandon p).modFp p fun x => { x with other := none }).portIdle p
      let e := if d.fpState p = 4 && e.msgOn p 10 then e.brgMessage p 4 16 0 0 0 e.now else e
      if e.fpState p = 3 || e.fpState p = 4 then (e.modFp p fun x => { x with ctl := 0 }).setFpState p 3 else e)) ∧
  (∀ s (p : Fin 4) m, s.live = true → (s.dev.fp p).segReset = some m → (s.dev.fp p).rstOut = true →
    exec (.segResetDone p) s = .next (s.after fun d =>
      let d := (d.modFp p fun x => { x with
        segReset := none, rstOut := false
        represent := (List.range 16).filter fun sl => d.fb (F.fiuMod_PRESENT p sl) }).emit (.fiuLine p 1 0)
      let d := (d.haltRefresh p).failDeferred p
      let d := forN 16 (fun sl d => d.setF (F.fiuMod_EN p sl) 0) d
      let d := forN 8 (fun l d => d.setF (F.fiuIrqMap_SLOTS p l) 0) d
      match m with
      | some n => d.finish n stOK []
      | none => d))

/-- Modules of a segment and TM9 as a member of one (R291, R298, R303 to R306, R329). It rests on choices of the
model: assumptions 3, 22, 99, 151, 159. -/
def Obligations.FiuthModules : Prop :=
  (∀ s (p : Fin 4) (sl : Fin 16), s.live = true → s.dev.fpState p = 2 →
    (s.dev.fb (F.fiuMod_PRESENT p sl) = false ∨ (s.dev.fp p).represent.contains sl.val = true) → (s.dev.fp p).own = [] →
    exec (.modulePresence p sl) s = .next (s.after (Dev.ownPush p (geoCycle false sl 0 0 (.presence sl none))))) ∧
  (∀ s (p : Fin 4) (sl : Fin 16), s.live = true → s.dev.fpState p = 2 →
    (s.dev.fb (F.fiuMod_PRESENT p sl) = false ∨ (s.dev.fp p).represent.contains sl.val = true) → (s.dev.fp p).own = [] →
    exec (.presenceRetry p sl) s = .next (s.after (Dev.ownPush p (geoCycle false sl 0 0 (.presence sl none))))) ∧
  (∀ s (p : Fin 4) (sl : Fin 16), s.live = true → s.dev.fpState p = 2 → s.dev.fb (F.fiuMod_PRESENT p sl) = true →
    exec (.slotPoll p sl) s = .next (s.after (Dev.ownPush p (geoCycle false sl 0 0 (.poll sl))))) ∧
  (∀ s (p : Fin 4) (sl : Fin 16), s.live = true → (s.dev.fp p).removing.contains sl.val = true →
    ((s.dev.fp p).deferred.any fun r => r.src == sl.val) = false → (s.dev.fp p).tags = [] →
    exec (.slotRemovalComplete p sl) s = .next (s.after fun d =>
      (d.modFp p fun x => { x with removing := x.removing.filter (· != sl.val) }).ownPush p
        (geoCycle true sl 2 0 (.remove sl)))) ∧
  (∀ s (p : Fin 4) (sl : Fin 16) off, s.live = true → s.dev.isMember p sl = true → off.toNat < 3 →
    exec (.geoRead p sl ⟨off, false⟩) s = .next (s.after fun d =>
      let d := d.headerSeen p 10
      d.emit (.fiuAns p 0 0 [(toW (if off.toNat = 0 then Config.fiuId else if off.toNat = 1 then 0xF
        else (d.fp p).ctl), false)]))) ∧
  (∀ s (p : Fin 4) (sl : Fin 16) off, s.live = true → s.dev.isMember p sl = true →
    exec (.geoRead p sl ⟨off, true⟩) s = .next (s.after fun d =>
      ((d.headerSeen p 10).fiuPar p 1).emit (.fiuAns p 1 0 []))) ∧
  (∀ s (p : Fin 4) (sl : Fin 16) off (w : BusWord), s.live = true → s.dev.isMember p sl = true → w.bad = false →
    exec (.geoWrite p sl ⟨off, false⟩ w) s = .next (s.after fun d =>
      ((d.headerSeen p 11).geoApply p off.toNat w.w).emit (.fiuAns p 0 0 []))) ∧
  (∀ s (p : Fin 4) off (w : BusWord), s.live = true → (s.dev.fpState p = 3 ∨ s.dev.fpState p = 4) →
    s.dev.fpDeaf p = false → w.bad = false →
    exec (.bcastWrite p ⟨off, false⟩ w) s = .next (s.after fun d => (d.headerSeen p 7).geoApply p off.toNat w.w)) ∧
  (∀ s (p : Fin 4) (sl : Fin 16) (l : Fin 8), let d1 := s.dev.headerSeen p 8
    s.live = true → s.dev.fpState p = 4 → s.dev.isMember p sl = true → d1.fb F.brgCfg_MIRQ = true →
    nbit (d1.fp p).ctl 4 = true → (d1.fp p).ctl / 2 % 8 = l.val → d1.memberIrq p ≠ 0 →
    exec (.iack p sl ⟨l, false⟩) s = .next (s.after fun _ =>
      d1.emit (.fiuAns p 0 0 [(mkW [(10, 8, d1.memberIrq p), (7, 0, d1.f F.brgCfg_MVEC)], false)]))) ∧
  (∀ s (p : Fin 4), s.live = true → s.dev.fpState p = 1 →
    exec (.monitorEnd p true) s = .next (s.after fun d =>
      (((d.setFpState p 5).setF (F.fiuStat_CONFLICT p) 1).event 0x706 p 0).haltRefresh p)) ∧
  (∀ s (p : Fin 4), s.live = true → s.dev.fpState p = 1 → (s.dev.fp p).noRst = true →
    exec (.monitorEnd p false) s = .next (s.after fun d =>
      forN 16 (fun sl d => (d.setF (F.fiuMod_PRESENT p sl) 0).setF (F.fiuMod_EN p sl) 0)
        ((d.setFpState p 2).haltRefresh p))) ∧
  (∀ s (p : Fin 4), s.live = true → s.dev.fpState p = 1 → (s.dev.fp p).noRst = false →
    exec (.monitorEnd p false) s = .next (s.after fun d =>
      (forN 16 (fun sl d => (d.setF (F.fiuMod_PRESENT p sl) 0).setF (F.fiuMod_EN p sl) 0)
        ((d.setFpState p 2).haltRefresh p)).segResetStart p none))

/-- Inbound cycles that TM9 takes as a slave (R35, R36, R287 to R290, R309 to R313, R319, R324, R325): reads get a tag
and go to Lysith, a register is read at once, writes enter the posted buffer, a locked pair's write goes to its
target, a LOCK_WRITE without a pair that its window refuses is counted. It rests on choices of the model: assumptions
34, 98, 163. -/
def Obligations.InboundCycles : Prop :=
  (∀ s (p : Fin 4) (src : Fin 17) a w o i, s.live = true → s.dev.readOpen p src 1 a 1 w o i = true →
    exec (.read p src a) s = .next (s.afterBb fun d => ((d.headerSeen p 1).readTaken p src 1 a.w w o 1 i).brgSettle)) ∧
  (∀ s (p : Fin 4) (src : Fin 17) (a : BusWord) off,
    let d1 := (s.dev.headerSeen p 1).holdDrop p src 1 (.reg off) a.w 1
    s.live = true → s.dev.inTarget p a.w.toNat = .reg off → a.bad = false → d1.regRefused (fiuPath p) off = false →
    exec (.read p src a) s = .next (s.afterBb fun _ =>
      ((d1.regRead (fiuPath p) off).2.ack p [((d1.regRead (fiuPath p) off).1, false)]).brgSettle)) ∧
  (∀ s (p : Fin 4) (src : Fin 17) a (c : Fin 64) w o i, s.live = true →
    s.dev.readOpen p src 3 a (c.val + 1) w o i = true →
    exec (.blockRead p src a c) s = .next (s.afterBb fun d =>
      ((d.headerSeen p 3).readTaken p src 3 a.w w o (c.val + 1) i).brgSettle)) ∧
  (∀ s (p : Fin 4) (src : Fin 17) a w o i, let d1 := s.dev.headerSeen p 5
    s.live = true → s.dev.readOpen p src 5 a 1 w o i = true → d1.lockable (d1.inLys p w o).1 (d1.inLys p w o).2 = true →
    exec (.lockRead p src a) s = .next (s.afterBb fun d => ((d.headerSeen p 5).readTaken p src 5 a.w w o 1 i).brgSettle)) ∧
  (∀ s (p : Fin 4) (src : Fin 17) a b w o l, let d1 := s.dev.headerSeen p 2
    s.live = true → s.dev.winOpen p 2 a 1 w o = true →
    d1.takeWords p (d1.inLys p w o).1 (d1.inLys p w o).2 (d1.f (F.brgIwinCfg_WIDTH p w)) [b] = (l, none) →
    exec (.write p src a b) s = .next (s.afterBb fun _ => (d1.postOffer p src (d1.inLys p w o).2 l none).brgSettle)) ∧
  (∀ s (p : Fin 4) (src : Fin 17) a ds w o l, let d1 := s.dev.headerSeen p 4
    s.live = true → s.dev.winOpen p 4 a ds.length w o = true → ds ≠ [] → ds.length ≤ 64 →
    d1.takeWords p (d1.inLys p w o).1 (d1.inLys p w o).2 (d1.f (F.brgIwinCfg_WIDTH p w)) ds = (l, none) →
    exec (.blockWrite p src a ds) s = .next (s.afterBb fun _ => (d1.postOffer p src (d1.inLys p w o).2 l none).brgSettle)) ∧
  (∀ s (p : Fin 4) (src : Fin 17) (a b : BusWord) w o i r, s.live = true → s.dev.inTarget p a.w.toNat = .win w o →
    (s.dev.fp p).lock = some (src.val, a.w, true) → s.dev.pairOf p = some (i, r) → a.bad = false → b.bad = false →
    s.dev.inLys p w o = (r.lys, r.tweed) → s.dev.winRefused p w o 1 6 = false →
    exec (.lockWrite p src a b) s = .next (s.afterBb fun d =>
      let d := (d.modFp p fun x => { x with lock := none }).headerSeen p 6
      let la := d.inAddr r.lys r.tweed
      ((d.setRead p i { r with ans := 6 }).cohIssue (.fiuRd p i) 66 (some (p * 64 + i))
        { code := 7, sub := p, addr := la, mask := 2 ^ (la % 16), ws := [widthW (d.f (F.brgIwinCfg_WIDTH p w)) b.w] }).2.brgSettle)) ∧
  (∀ s (p : Fin 4) (src : Fin 17) (a b : BusWord) w o, s.live = true → s.dev.inTarget p a.w.toNat = .win w o →
    a.bad = false → s.dev.pairNamed p src a (.win w o) = none → (s.dev.headerSeen p 6).winRefused p w o 1 6 = true →
    exec (.lockWrite p src a b) s = .next (s.afterBb fun d =>
      (((d.headerSeen p 6).inc (F.brgPortCnt_WIN_REJ p) 1).rej p).brgSettle))

/-- The course of an inbound cycle (R295, R320 to R325, R333): the edges 12 and 96, a completion, the end of a hold, a
message delivered. It rests on choices of the model: assumptions 23, 54, 100. -/
def Obligations.InboundCourse : Prop :=
  (∀ s (p : Fin 4) (t : Fin 64) r, s.live = true → s.dev.inRead p t = some r → r.ans = 0 → r.cmd ≠ 5 →
    exec (.immEdge p t) s = .next (s.afterBb fun d =>
      (if d.defOk p r.src then (d.setRead p t { r with ans := 1 }).emit (.fiuAns p 2 (p * 64 + t) [])
        else if d.rtyOk p r.src then (d.setRead p t { r with ans := 2 }).retryAns p
        else d.setRead p t { r with ans := 3 }).brgSettle)) ∧
  (∀ s (p : Fin 4) (src : Fin 17) h, s.live = true → (s.dev.fp p).held = some h → h.src = src.val →
    exec (.edge96 p src) s = .next (s.afterBb fun d =>
      let d := (d.modFp p fun x => { x with held := none }).inc (F.brgPortCnt_PW_FULL p) 1
      (if d.rtyOk p src then d.retryAns p else d.rej p).brgSettle)) ∧
  (∀ s (p : Fin 4) (t : Fin 64) st ds r ws stn, let d := s.dev.brgSettle
    s.live = true → d.inRead p t = some r → r.data = some (stn, ws) → (r.ans = 0 ∨ r.ans = 3) →
    exec (.bridgeReadCompletion p t st ds) s = .next (s.afterBb fun _ => (d.inAnswer p t r stn ws).brgSettle)) ∧
  (∀ s (p : Fin 4) (t : Fin 64) st ds r ws stn, let d := s.dev.brgSettle
    s.live = true → d.inRead p t = some r → r.data = some (stn, ws) → r.ans = 1 →
    (d.fp p).replying t = false →
    exec (.bridgeReadCompletion p t st ds) s = .next (s.afterBb fun _ => (d.inReply p t r stn ws).brgSettle)) ∧
  (∀ s (p : Fin 4) (sl : Fin 17) i r, s.live = true → s.dev.holdOf p sl = some (i, r) →
    exec (.retryHoldExpiry p sl) s = .next (s.afterBb fun d => (d.holdEnd p i r).brgSettle)) ∧
  (∀ s (p : Fin 4) m ms, s.live = true → (s.dev.fp p).msgs = m :: ms →
    (m.ahead.all fun k => (s.dev.fp p).posted.all fun w => w.num != k) = true →
    exec (.bridgeMsgDelivery p) s = .next (s.afterBb fun d => Dev.brgSettle <|
      let cnt := (d.fp p).msgCnt
      let d := d.modFp p fun x => { x with msgs := ms, msgCnt := x.msgCnt + 1 }
      let d := if d.fb (F.brgMsg_EVT p) then d.eventAt 0x712 p m.ep (toW (m.m0 % 2 ^ 24)) else d
      if d.fb (F.brgMsg_PKT p) = false then d
      else if d.fb F.rteGen_FIXED = false then d.inc (F.brgMsg_MSG_DROP p) 1
      else d.modFp p fun x => { x with
        pkts := x.pkts ++ [⟨tagged 3 ((0xFFC30 + p) * 2 ^ 12 + cnt % 4096) :: m.marks ++ [tagged 4 0], some m.ep⟩] }))

/-- FIU_ACCESS, FIU_RESULT and the time limit of an access (R315, R316, R326, R327, R346). It rests on choices of the
model: assumptions 34, 100. -/
def Obligations.FiuthAccesses : Prop :=
  (∀ s (n : Mbx) wr w c ofs, let p := s.dev.f (F.brgOwinCfg_PORT w)
    let len := if wr then c + 2 else 2
    s.served n 0x710 len = true → bitOf (s.dev.arg n 1) 35 = wr → bitsOf (s.dev.arg n 1) 19 16 = w →
    bitsOf (s.dev.arg n 1) 5 0 + 1 = c → bitsOf (s.dev.arg n 1) 34 20 = 0 → bitsOf (s.dev.arg n 1) 15 6 = 0 →
    (s.dev.arg n 2).toNat = ofs → ofs < 2 ^ 26 → s.dev.fb (F.brgOwinCfg_EN w) = true →
    ofs + c ≤ s.dev.f (F.brgOwinCfg_LIMIT w) + 1 → s.dev.fiuAcc n = none →
    (s.dev.fpState p = 2 ∨ s.dev.fpState p = 4) →
    exec (.fiuAccess n) s = .next (s.afterCmd fun d =>
      let base := d.owinAddr w ofs
      let ws := ((d.mb n).req.drop 3).map fun x => (widthW (d.f (F.brgOwinCfg_WIDTH w)) x, false)
      let cut := cutRun (d.fb (F.brgOwinCfg_BLOCK w)) base c 0 c
      let acc : FiuAcc := {
        id := d.accNum, width := d.f (F.brgOwinCfg_WIDTH w), seq := d.seqOf n, port := p, win := w, write := wr, cnt := c, left := cut.length, got := [], poisoned := false
        failed := false, deferred := false }
      (each cut (fun x (d : Dev) =>
        d.ownPush p {
          cmd := runCmd wr x.2, addr := toW (base + x.1), cnt := x.2, ws := if wr then (ws.drop x.1).take x.2 else []
          k := 0, got := [], retries := 0, owner := .access n acc.id x.1 })
        { d with acc := mset d.acc n.val (some acc), accNum := d.accNum + 1 }).hold n)) ∧
  (∀ s (n : Mbx) r, s.served n 0x711 1 = true → bitsOf (s.dev.arg n 1) 35 12 = 0 →
    s.dev.fiuAcc (16 + bitsOf (s.dev.arg n 1) 11 8) = some r → r.seq = bitsOf (s.dev.arg n 1) 7 0 →
    exec (.fiuResult n) s = .next (s.afterCmd fun d => d.reply n r.status r.words)) ∧
  (∀ s (n : Mbx) a, s.live = true → s.dev.fiuAcc n = some a → a.deferred = false →
    exec (.fiuAccessTimeLimit n) s = .next (s.after fun d =>
      ({ d.accWithdraw n a.id a.port with acc := mset (d.accWithdraw n a.id a.port).acc n.val none } : Dev).finish n stTIMEOUT []))

/-- The host's requests to BAR0 and BAR2 (R27 to R33, R309, R310): a wide read and a wide write of a register's slot,
and a packed write and read through BAR2. It rests on choices of the model: assumptions 96, 97, 130, 184. -/
def Obligations.HostRequests : Prop :=
  (∀ s (off : BitVec 29) be, s.live = true → off.toNat < 0x7FE000 →
    exec (.hostWideRead false off be) s = .next (s.afterBb fun d =>
      let r := d.slotRead false off.toNat off.toNat be.toNat
      (r.2.emit (.hostData false (pickBytes be.toNat (leBytes 8 r.1.toNat)))).brgSettle)) ∧
  (∀ s (off : BitVec 29) (be : BitVec 8) data, s.live = true → off.toNat < 0x7FE000 → be.toNat % 32 = 31 →
    exec (.hostPartialWrite false off be data) s = .next (s.afterBb fun d =>
      (d.regWrite .pcie off.toNat (toW data.toNat)).brgSettle)) ∧
  (∀ s (addr : BitVec 32) (len : Fin 4097) bs, s.live = true → s.dev.fb F.pciBar2Ctl_MODE = true →
    addr.toNat + len.val ≤ 0x90000000 →
    exec (.bar2Request addr len (some bs)) s = .next (s.afterBb fun d =>
      (each (writeWords true addr.toNat (bs.take len)) (fun x d' => d'.hostPut (d.bar2Base + x.1) x.2.1 x.2.2)
        d).brgSettle)) ∧
  (∀ s (addr : BitVec 32) (len : Fin 4097), s.live = true → s.dev.fb F.pciBar2Ctl_MODE = true → 0 < len.val →
    addr.toNat + len.val ≤ 0x90000000 →
    exec (.bar2Request addr len none) s = .next (s.afterBb fun d =>
      let first := addr.toNat / 9 * 2
      let used := ((List.range len).flatMap fun i => (byteBits true (addr.toNat + i)).map (·.1)).eraseDups
      let all := (List.range ((addr.toNat + len - 1) / 9 * 2 + 2 - first)).map (first + ·)
      let h : HostRd := {
        num := 0, addr := d.bar2Base + first, cnt := all.length, skip := addr.toNat % 9, len := len, packed := true
        be := 2 ^ len.val - 1, merge := none
        got := (all.filter fun k => !used.contains k).foldl (fun g k => mset g (k - first) (some 0)) [] }
      (d.hostBegin h (used.map fun k => ⟨k - first, d.bar2Base + k, 0xFF⟩)).brgSettle))

/-- The route memory's commands (R338, R340 to R345), and the end of a switch. It rests on choices of the model:
assumptions 76, 153. -/
def Obligations.RouteCommands : Prop :=
  (∀ s (n : Mbx) ep, s.served n 0x712 3 = true → (s.dev.arg n 1).toNat = ep → ep < 2 ^ 20 →
    s.dev.stagedFor ep = none → s.dev.rteBad (s.dev.arg n 2) (s.dev.arg n 3) = false →
    exec (.routeSet n) s = .next (s.afterCmd fun d => (d.rtePut ep (d.arg n 2) (d.arg n 3)).reply n stOK [])) ∧
  (∀ s (n : Mbx) k, let body := s.dev.stageBody n k
    let l := (body.map (·.2)).foldl stageOne s.dev.rte.staged
    s.served n 0x713 (1 + 3 * k) = true → 0 < k → (s.dev.arg n 1).toNat = k → s.dev.f F.rteGen_STATE ≠ 3 →
    (body.all fun x => bitsOf x.1 35 20 == 0 && !s.dev.rteBad x.2.x0 x.2.x1) = true → l.length ≤ 8192 →
    exec (.routeStage n) s = .next (s.afterCmd fun d =>
      -- Each change stands in its four words of the table area too.
      let d := each body (fun x d => (l.findIdx? fun y => y.ep == x.2.ep).elim d fun i => d.stageWrite i (l.getD i x.2))
        ({ d with rte := { d.rte with staged := l } } : Dev)
      ((d.setF F.rteGen_STATE 1).setF F.rteStg_COUNT l.length).reply n stOK [])) ∧
  (∀ s (n : Mbx), s.served n 0x714 0 = true → (s.dev.f F.rteGen_STATE = 1 ∨ s.dev.f F.rteGen_STATE = 2) →
    exec (.routeCommit n) s = .next (s.afterCmd fun d =>
      let d := (d.setF F.rteGen_STG_GEN (d.f F.rteGen_ACT_GEN + 1)).setF F.rteGen_STATE 2
      d.reply n stOK [toW (d.f F.rteGen_STG_GEN)])) ∧
  (∀ s (n : Mbx) m, s.served n 0x715 1 = true → (s.dev.arg n 1).toNat = m →
    (m = 0 ∨ m = 1 ∧ s.dev.fixedUsed = false) →
    exec (.routeFixed n) s = .next (s.afterCmd fun d => (d.setF F.rteGen_FIXED m).reply n stOK [])) ∧
  (∀ s ers, s.live = true → s.dev.rte.ers = some ers → later 72 s.dev.now ((ers + 2 ^ 36) % 2 ^ 72) = true →
    exec .routeSwitchFinal s = .next (s.after fun d =>
      (({ each d.rte.staged (fun c => Dev.rtePut c.ep c.x0 c.x1) d with
        rte := { d.rte with staged := [], ers := none } } : Dev).setF F.rteGen_STATE 0).setF F.rteStg_COUNT 0))

/-- A whole packet of each kind of source is routed by its endpoint's entry, unless it waits (R235, R338 to R340). It
rests on choices of the model: assumptions 27, 72, 82, 83, 180. -/
def Obligations.RoutePackets : Prop :=
  (∀ s (c : Fin 64) (q : Fin 128), let u := s.dev.qu c q
    let pk := s.dev.popPkt c q u.firstPkt.1 [] none
    s.live = true → s.dev.fb (F.cluQcfg_EN c q) = true → s.dev.qPkt c q = true → u.rdIn = false → u.abort = none →
    u.firstPkt.2 = true → s.dev.routeWaits pk.1 = false →
    exec (.routePacket (.queue c q)) s = .next (s.afterBb fun _ => pk.2.2.routeWords false pk.1 pk.2.1)) ∧
  (∀ s (n : Fin 16) ws, s.live = true → s.dev.recPacket n = some ws → s.dev.routeWaits ws = false →
    exec (.routePacket (.record n)) s = .next (s.afterBb fun d => (d.recFree n).routeWords false ws none)) ∧
  (∀ s (p : Fin 4) k rest, s.live = true → (s.dev.fp p).pkts = k :: rest → s.dev.routeWaits k.ws = false →
    exec (.routePacket (.message p)) s = .next (s.afterBb fun d =>
      (d.modFp p fun x => { x with pkts := rest }).routeWords false k.ws k.ep)) ∧
  (∀ s ws rest, s.live = true → s.dev.rte.rx = ws :: rest → s.dev.routeWaits ws = false →
    exec (.routePacket .lysith) s = .next (s.afterBb fun d =>
      ({ d with rte := { d.rte with rx := rest } } : Dev).routeWords true ws none)) ∧
  (∀ s (k : Fin 16) x rest, s.live = true → (mget s.dev.pwr.loopIn k.val).pkts = x :: rest →
    s.dev.routeWaits x.ws = false →
    exec (.routePacket (.loopIn k)) s = .next (s.afterBb fun d =>
      ({ d with pwr := { d.pwr with loopIn := mmod d.pwr.loopIn k.val fun x => { x with pkts := rest } } } :
        Dev).routeWords false x.ws x.ep))

/-- Requests of the coherent fabric by an agent of this package whose TAG is free and whose cache does not answer
(R21, R348, R352, R357, R362, R366, R367): the request is issued, and what follows inside the package happens. It
rests on choices of the model: assumptions 28, 103, 148, 157, 164, 178. -/
def Obligations.FabricRequests : Prop :=
  (∀ s (a : BitVec 13) (tag : Byte) (line : BitVec 40), let m : CMsg := { code := 1, addr := lineOf line, mask := 0xFFFF }
    s.live = true → s.dev.mayIssue a.toNat tag.toNat m = true →
    exec (.rdS a tag line) s = .next (s.afterBb (Dev.issuedReq a.toNat tag.toNat m))) ∧
  (∀ s (a : BitVec 13) (tag : Byte) (line : BitVec 40), let m : CMsg := { code := 2, addr := lineOf line, mask := 0xFFFF }
    s.live = true → s.dev.mayIssue a.toNat tag.toNat m = true →
    exec (.rdX a tag line) s = .next (s.afterBb (Dev.issuedReq a.toNat tag.toNat m))) ∧
  (∀ s (a : BitVec 13) (tag : Byte) (addr : BitVec 40) (c : Fin 17), let m : CMsg := { code := 3, addr := addr.toNat, mask := lineMask (addr.toNat % 16) c }
    s.live = true → s.dev.mayIssue a.toNat tag.toNat m = true →
    exec (.naRd a tag addr c) s = .next (s.afterBb (Dev.issuedReq a.toNat tag.toNat m))) ∧
  (∀ s (a : BitVec 13) (tag : Byte) (addr : BitVec 40) (c : Fin 17), let m : CMsg := { code := 4, addr := addr.toNat, mask := lineMask (addr.toNat % 16) c }
    s.live = true → s.dev.mayIssue a.toNat tag.toNat m = true →
    exec (.rdNc a tag addr c) s = .next (s.afterBb (Dev.issuedReq a.toNat tag.toNat m))) ∧
  (∀ s (a : BitVec 13) (tag : Byte) (line : BitVec 40) (mask : BitVec 16) ws, let m : CMsg := { code := 9, addr := lineOf line, mask := mask.toNat, ws := maskFill mask.toNat ws }
    s.live = true → s.dev.mayIssue a.toNat tag.toNat m = true →
    exec (.wrNc a tag line mask ws) s = .next (s.afterBb (Dev.issuedReq a.toNat tag.toNat m))) ∧
  (∀ s (a : BitVec 13) (tag : Byte) (line : BitVec 40) (mask : BitVec 16) ws, let m : CMsg := { code := 5, sub := 0, addr := lineOf line, mask := mask.toNat, ws := maskFill mask.toNat ws }
    s.live = true → s.dev.mayIssue a.toNat tag.toNat m = true →
    exec (.acc36 a tag line mask ws) s = .next (s.afterBb (Dev.issuedReq a.toNat tag.toNat m))) ∧
  (∀ s (a : BitVec 13) (tag : Byte) (line : BitVec 40) (p : Fin 4), let m : CMsg := { code := 6, sub := p, addr := lineOf line, mask := 0xFFFF }
    s.live = true → s.dev.mayIssue a.toNat tag.toNat m = true →
    exec (.lockRd a tag line p) s = .next (s.afterBb (Dev.issuedReq a.toNat tag.toNat m))) ∧
  (∀ s (a : BitVec 13) (tag : Byte) (line : BitVec 40) (p : Fin 4) (mask : BitVec 16) ws, let m : CMsg := { code := 7, sub := p, addr := lineOf line, mask := mask.toNat, ws := maskFill mask.toNat ws }
    s.live = true → s.dev.mayIssue a.toNat tag.toNat m = true →
    exec (.lockWr a tag line p mask ws) s = .next (s.afterBb (Dev.issuedReq a.toNat tag.toNat m))) ∧
  (∀ s (a : BitVec 13) (tag : Byte) (addr : BitVec 40) (x : Word),
    let m : CMsg := { code := 5, sub := 1, addr := addr.toNat, mask := 2 ^ (addr.toNat % 16), ws := [x] }
    s.live = true → s.dev.mayIssue a.toNat tag.toNat m = true →
    exec (.add a tag addr x) s = .next (s.afterBb (Dev.issuedReq a.toNat tag.toNat m))) ∧
  (∀ s (a : BitVec 13) (tag : Byte) (addr : BitVec 40) (x : Word),
    let m : CMsg := { code := 5, sub := 2, addr := addr.toNat, mask := 2 ^ (addr.toNat % 16), ws := [x] }
    s.live = true → s.dev.mayIssue a.toNat tag.toNat m = true →
    exec (.min a tag addr x) s = .next (s.afterBb (Dev.issuedReq a.toNat tag.toNat m))) ∧
  (∀ s (a : BitVec 13) (tag : Byte) (addr : BitVec 40) (x : Word),
    let m : CMsg := { code := 5, sub := 3, addr := addr.toNat, mask := 2 ^ (addr.toNat % 16), ws := [x] }
    s.live = true → s.dev.mayIssue a.toNat tag.toNat m = true →
    exec (.max a tag addr x) s = .next (s.afterBb (Dev.issuedReq a.toNat tag.toNat m))) ∧
  (∀ s (a : BitVec 13) (tag : Byte) (addr : BitVec 40) (x : Word),
    let m : CMsg := { code := 5, sub := 4, addr := addr.toNat, mask := 2 ^ (addr.toNat % 16), ws := [x] }
    s.live = true → s.dev.mayIssue a.toNat tag.toNat m = true →
    exec (.swap a tag addr x) s = .next (s.afterBb (Dev.issuedReq a.toNat tag.toNat m))) ∧
  (∀ s (a : BitVec 13) (tag : Byte) (addr : BitVec 40) (c : Word) (x : Word),
    let m : CMsg := { code := 5, sub := 5, addr := addr.toNat, mask := 2 ^ (addr.toNat % 16), ws := [c, x] }
    s.live = true → s.dev.mayIssue a.toNat tag.toNat m = true →
    exec (.cas a tag addr c x) s = .next (s.afterBb (Dev.issuedReq a.toNat tag.toNat m)))

/-- Snoops that find the line where they change something, unlocks by the holder, the answers that caches and
requesters send and get (R354 to R361, R367): what is sent, which copies and directory entries change. It rests on
choices of the model: assumptions 28, 103, 105, 183. -/
def Obligations.CoherentMessages : Prop :=
  (∀ s (a : BitVec 13) (line : BitVec 40) (p : Fin 4) l, s.live = true → s.dev.target (lineOf line) = .here l →
    l = lineOf line % 2 ^ 34 → winOf l = .rstore → s.dev.ownAgent a.toNat = true → s.dev.coh.leave = none →
    s.dev.dirE (l / 16) = { (default : DirEnt) with st := 4, holder := a.toNat, port := p } →
    exec (.unlock a line p) s = .next (s.afterBb fun d => ((d.setDir (l / 16) default).homeNext).brgSettle)) ∧
  (∀ s (line : BitVec 40) (a : BitVec 13) (tag : Byte) (c : Fin 64) x,
    let m : CMsg := { code := 0x0A, agent := a.toNat, tag := tag.toNat, clu := c, addr := lineOf line }
    s.live = true → findLine (s.dev.cacheOf c) (lineOf line / 16) = some x → x.st = 1 →
    exec (.snpS line a tag c) s = .next (s.afterBb fun d =>
      ((((d.snoopData m 3 x.ws).snoopDirty m c x.ws).modCache c (setLine (lineOf line / 16) 3)).snoopAnswer m c 2).brgSettle)) ∧
  (∀ s (line : BitVec 40) (a : BitVec 13) (tag : Byte) (c : Fin 64) x,
    let m : CMsg := { code := 0x0A, agent := a.toNat, tag := tag.toNat, clu := c, addr := lineOf line }
    s.live = true → findLine (s.dev.cacheOf c) (lineOf line / 16) = some x → x.st = 2 →
    exec (.snpS line a tag c) s = .next (s.afterBb fun d =>
      (((d.snoopData m 3 x.ws).modCache c (setLine (lineOf line / 16) 3)).snoopAnswer m c 1).brgSettle)) ∧
  (∀ s (line : BitVec 40) (a : BitVec 13) (tag : Byte) (c : Fin 64) x,
    let m : CMsg := { code := 0x0B, agent := a.toNat, tag := tag.toNat, clu := c, addr := lineOf line }
    s.live = true → findLine (s.dev.cacheOf c) (lineOf line / 16) = some x → (x.st = 1 ∨ x.st = 2) →
    exec (.snpX line a tag c) s = .next (s.afterBb fun d =>
      (((d.snoopData m x.st x.ws).modCache c (dropLine (lineOf line / 16))).snoopAnswer m c 1).brgSettle)) ∧
  (∀ s (line : BitVec 40), let l := lineOf line / 16
    let m : CMsg := { code := 0x0C, addr := lineOf line }
    s.live = true → ((List.range 64).all fun c => ((findLine (s.dev.cacheOf c) l).map (·.st)) != some 4) = true →
    exec (.snpInv line) s = .next (s.afterBb fun d =>
      ((forN 64 (fun c (d : Dev) => if ((findLine (d.cacheOf c) l).map (·.st)) = some 3 then d.modCache c (dropLine l) else d)
        d).snoopAnswer m 0 0).brgSettle)) ∧
  (∀ s (line : BitVec 40) (a : BitVec 13) (tag : Byte) (c : Fin 64) (i : Fin 16) (k : Fin 17) x,
    let m : CMsg := { code := 0x0D, agent := a.toNat, tag := tag.toNat, clu := c, mask := lineMask i k, addr := lineOf line }
    s.live = true → findLine (s.dev.cacheOf c) (lineOf line / 16) = some x → (x.st = 1 ∨ x.st = 2) →
    exec (.snpNa line a tag c i k) s = .next (s.afterBb fun d =>
      ((d.snoopData m 0 (pickWords x.ws (lineMask i k))).snoopAnswer m c 1).brgSettle)) ∧
  (∀ s (line : BitVec 40) (c : Fin 64) x, let m : CMsg := { code := 0x0E, clu := c, addr := lineOf line }
    s.live = true → findLine (s.dev.cacheOf c) (lineOf line / 16) = some x → x.st = 1 →
    exec (.snpRcl line c) s = .next (s.afterBb fun d =>
      (((d.snoopDirty m c x.ws).modCache c (dropLine (lineOf line / 16))).snoopAnswer m c 2).brgSettle)) ∧
  (∀ s (a : BitVec 13) (line : BitVec 40) ws x, let l := lineOf line / 16
    s.live = true → s.dev.ownAgent a.toNat = true → isCache a.toNat = true →
    findLine (s.dev.cacheOf (a.toNat % 128)) l = some x → x.line = l → (x.st = 1 ∨ x.st = 2) →
    exec (.wb a line ws) s = .next (s.afterBb fun d =>
      ((d.modCache (a.toNat % 128) (setLine l 4)).cohTo (l / 2 ^ 30)
        { code := 0x10, agent := d.agentOf (a.toNat % 128), addr := l * 16, mask := 0xFFFF
          ws := maskFill 0xFFFF ws }).brgSettle)) ∧
  (∀ s (a : BitVec 13) (line : BitVec 40) ws l, s.live = true → s.dev.ownAgent a.toNat = false →
    s.dev.target (lineOf line) = .here l → s.dev.agentDead a.toNat = false → s.dev.txn (l / 16) = none →
    s.dev.dirE (l / 16) = { (default : DirEnt) with st := 2, owner := a.toNat } →
    exec (.wb a line ws) s = .next (s.afterBb fun d =>
      ((((d.dirtyWrite a.toNat (l / 16) (maskFill 0xFFFF ws)).setDir (l / 16) default).cohTo (a.toNat / 128)
        { code := 0x15, agent := a.toNat
          addr := (d.dirtyWrite a.toNat (l / 16) (maskFill 0xFFFF ws)).fullAddr (l / 16 * 16) }).homeNext).brgSettle)) ∧
  (∀ s (a : BitVec 13) (line : BitVec 40) x, let l := lineOf line / 16
    s.live = true → s.dev.ownAgent a.toNat = true → isCache a.toNat = true →
    findLine (s.dev.cacheOf (a.toNat % 128)) l = some x → x.line = l → x.st = 2 →
    exec (.evict a line) s = .next (s.afterBb fun d =>
      ((d.modCache (a.toNat % 128) (setLine l 4)).cohTo (l / 2 ^ 30)
        { code := 0x11, agent := d.agentOf (a.toNat % 128), addr := l * 16 }).brgSettle)) ∧
  (∀ s (a : BitVec 13) (line : BitVec 40) l, s.live = true → s.dev.ownAgent a.toNat = false →
    s.dev.target (lineOf line) = .here l → s.dev.agentDead a.toNat = false → s.dev.txn (l / 16) = none →
    s.dev.dirE (l / 16) = { (default : DirEnt) with st := 2, owner := a.toNat } →
    exec (.evict a line) s = .next (s.afterBb fun d =>
      (((d.setDir (l / 16) default).cohTo (a.toNat / 128)
        { code := 0x15, agent := a.toNat, addr := d.fullAddr (l / 16 * 16) }).homeNext).brgSettle)) ∧
  (∀ s (k : Fin 64) (line : BitVec 40) ans l t, s.live = true → s.dev.target (lineOf line) = .here l →
    s.dev.txn (l / 16) = some t → t.waits.contains k.val = true →
    exec (.srsp k line ans) s = .next (s.afterBb fun d =>
      ((d.setTxn (l / 16) (some { t with waits := t.waits.filter (· != k.val), fwd := t.fwd || ans == .fwd || (ans == .dirty && t.req.code == 1), dirty := t.dirty || ans == .dirty, cross := t.cross || ans == .cross })).homeAdvance
        (l / 16)).brgSettle)) ∧
  (∀ s (a : BitVec 13) (tag : Byte) st i o, s.live = true → s.dev.ownAgent a.toNat = true → st ≠ .timeout →
    s.dev.coh.outs.findIdx? (COut.is false (a.toNat % 128) tag.toNat) = some i → s.dev.coh.outs[i]? = some o →
    o.m.stores = false →
    exec (.cmp a tag st) s = .next (s.afterBb fun d =>
      (((d.modCoh fun c => { c with outs := c.outs.eraseIdx i }).sendCack o).cohDone o (cplSt st) []).brgSettle)) ∧
  (∀ s (a : BitVec 13) (line : BitVec 40) l t, s.live = true → s.dev.target (lineOf line) = .here l →
    s.dev.agentDead a.toNat = false → s.dev.txn (l / 16) = some t → t.cack = true → t.req.agent = a.toNat →
    exec (.cack a line) s = .next (s.afterBb fun d =>
      ((d.setTxn (l / 16) (some { t with cack := false })).homeClose (l / 16)).brgSettle)) ∧
  (∀ s (a : BitVec 13) (line : BitVec 40), s.live = true → s.dev.ownAgent a.toNat = true →
    exec (.wback a line) s = .next (s.afterBb fun d =>
      (d.modCache (a.toNat % 128) fun ls => ls.filter fun x => !(x.line == lineOf line / 16 && x.st == 4)).brgSettle)) ∧
  (∀ s (a : BitVec 13) (tag : Byte) st i o, s.live = true → s.dev.ownAgent a.toNat = true → st ≠ .timeout →
    s.dev.coh.outs.findIdx? (COut.is true (a.toNat % 128) tag.toNat) = some i → s.dev.coh.outs[i]? = some o →
    exec (.pack a tag st) s = .next (s.afterBb fun d =>
      (((d.modCoh fun c => { c with outs := c.outs.eraseIdx i }).sendCack o).cohDone o (cplSt st) []).brgSettle)) ∧
  (∀ s (a : BitVec 13) (tag : Byte) st ws i o, s.live = true → s.dev.ownAgent a.toNat = true → st ≠ .timeout →
    s.dev.coh.outs.findIdx? (COut.is false (a.toNat % 128) tag.toNat) = some i → s.dev.coh.outs[i]? = some o →
    o.m.stores = false →
    exec (.data a tag st .none ws) s = .next (s.afterBb fun d =>
      (((d.modCoh fun c => { c with outs := c.outs.eraseIdx i }).sendCack o).cohDone o (cplSt st) ws).brgSettle)) ∧
  (∀ s (a : BitVec 13) (tag : Byte) st g ws i o, s.live = true → s.dev.ownAgent a.toNat = true → st ≠ .timeout →
    s.dev.coh.outs.findIdx? (COut.is false (a.toNat % 128) tag.toNat) = some i → s.dev.coh.outs[i]? = some o →
    g ≠ .none → isCache o.m.agent = true → (o.m.code = 1 ∨ o.m.code = 2) →
    s.dev.fb (F.cohCache_OFF (o.m.agent % 128)) = false →
    exec (.data a tag st g ws) s = .next (s.afterBb fun d =>
      let d := ((d.modCoh fun c => { c with outs := c.outs.eraseIdx i }).cacheInstall (o.m.agent % 128) (o.m.addr / 16)
        (grantCode g) ws).sendCack o
      -- In a package that leaves its domain the line goes again at once.
      let drop := fun (d : Dev) => if d.coh.leave.isNone then d
        else each (findLine (d.cacheOf (o.m.agent % 128)) (o.m.addr / 16)).toList (Dev.cacheEvict (o.m.agent % 128)) d
      (if o.m.stores then (drop (d.cacheStore (o.m.agent % 128) (o.m.addr / 16) o.m.mask o.m.ws)).cohDone o stOK []
        else (drop d).cohDone o (cplSt st) ws).brgSettle)) ∧
  (∀ s (a : BitVec 13) (line : BitVec 40) ws l t, s.live = true → s.dev.target (lineOf line) = .here l →
    s.dev.agentDead a.toNat = false → s.dev.txn (l / 16) = some t → t.done = false →
    exec (.sdata a line ws) s = .next (s.afterBb fun d =>
      ((d.setTxn (l / 16) (some { t with sdata := some (maskFill 0xFFFF ws) })).homeAdvance (l / 16)).brgSettle))

/-- Formation, MAP, death, domain-down, joining, leaving, the system tree and packets over Lysith, and the timeouts of
the fabric (R45, R64, R367 to R376, R400, R406, R410, R417, R418). It rests on choices of the model: assumptions 3,
28, 29, 84, 129, 185, 186. -/
def Obligations.DomainMessages : Prop :=
  (∀ s (n : Fin 8) dom ser id, s.live = true → s.dev.cohState = 1 →
    dom.toNat = s.dev.f F.cohCfg_DOMAIN_ID → ser.toNat ≠ s.dev.serial →
    s.dev.coh.seen.any (fun x => x.serial == ser.toNat) = false →
    exec (.hello n dom ser id) s = .next (s.afterBb fun d =>
      (each (d.meshPorts.filter (· != n.val))
        (fun p (d : Dev) => d.ctrlPort p 0 0 (helloWords dom.toNat ser.toNat id.toNat))
        (d.modCoh fun c => { c with
          seen := insertSeen ⟨ser.toNat, id.toNat, some n.val, none⟩ c.seen })).formCheck.brgSettle)) ∧
  (∀ s, s.live = true → s.dev.cohState = 1 →
    exec .helloTimer s = .next (s.afterBb fun d =>
      each d.meshPorts (fun n (d : Dev) => d.ctrlPort n 0 0 (helloWords (d.f F.cohCfg_DOMAIN_ID) d.serial d.pkgId)) d)) ∧
  (∀ s, s.live = true → s.dev.cohState = 1 → s.dev.leads = true →
    exec .formTimeout s = .next (s.afterBb fun d => d.sendMap.brgSettle)) ∧
  (∀ s leader (es : List MapEntry) e, s.live = true → s.dev.cohState = 1 → s.dev.mapSelf (es.map mapLine) = some e →
    exec (.map leader es) s = .next (s.afterBb fun d =>
      (each ((d.mapJoin leader.toNat (es.map mapLine) e.idx).meshPorts) (Dev.mapPort leader.toNat (es.map mapLine))
        (d.mapJoin leader.toNat (es.map mapLine) e.idx)).brgSettle)) ∧
  (∀ s leader (es : List MapEntry), s.live = true → s.dev.cohState = 1 → s.dev.mapSelf (es.map mapLine) = none →
    exec (.map leader es) s = .next (s.afterBb fun d =>
      (each d.joinReject.meshPorts (Dev.mapPort leader.toNat (es.map mapLine)) d.joinReject).brgSettle)) ∧
  (∀ s leader (es : List MapEntry), s.live = true → s.dev.cohState = 2 → s.dev.f F.cohStat_LEADER ≠ s.dev.myIdx →
    exec (.map leader es) s = .next (s.afterBb fun d => (d.mapMember leader.toNat (es.map mapLine)).brgSettle)) ∧
  (∀ s (k : Fin 64) (r : Fin 16), s.live = true → s.dev.cohState = 2 → k.val ≠ s.dev.myIdx →
    s.dev.fb (F.cohMap_VALID k) = true → s.dev.fb (F.cohMap_DEAD k) = false → s.dev.f F.cohStat_SIZE ≠ 2 →
    exec (.dead (.pkg k) r) s = .next (s.afterBb fun d =>
      (d.withJoinMap fun d => (d.deadEvent (k * 128) r).poisonPkg k).brgSettle)) ∧
  (∀ s (a : BitVec 13) (r : Fin 16), s.live = true → s.dev.cohState = 2 → s.dev.coh.deadAgents.contains a.toNat = false →
    exec (.dead (.agent a) r) s = .next (s.afterBb fun d =>
      (d.withJoinMap fun d => (d.deadEvent a.toNat r).agentGone a.toNat).brgSettle)) ∧
  (∀ s, s.live = true → s.dev.f F.cohStat_SIZE = 2 →
    exec .down s = .next (s.afterBb fun d => d.domainDown.brgSettle)) ∧
  (∀ s (n : Fin 8) (q : BitVec 12) rt dest, s.live = true → s.dev.resyncRoute n = some (rt, dest) →
    exec (.resync n false q) s = .next (s.afterBb fun d =>
      (d.sendRoute true rt dest [ctrlMsg rt dest 4 0 (resyncWords (d.f (F.lnkStat_PEER_PORT n)) true
        (((d.port n).rx + 4095) % 4096))]).2.brgSettle)) ∧
  (∀ s (n : Fin 8) (q : BitVec 12), s.live = true → (s.dev.port n).recovering = true →
    exec (.resync n true q) s = .next (s.afterBb fun d =>
      (d.recoverEnd n stOK (((d.port n).unsent (unaccepted q.toNat (d.port n).unacked)).filter (·.rt < 2))).brgSettle)) ∧
  (∀ s (n : Fin 8) l r h, let key := linkKey s.dev.myIdx n
    s.live = true → s.dev.treeActs = true →
    exec (.tree n ⟨.link, .announce l r h⟩) s = .next (s.afterBb fun d =>
      ((d.modTree fun t => { t with
        links := if t.links.contains key then t.links else t.links ++ [key]
        heard := mset t.heard key (some (l.toNat, r.toNat, h)) }).treeChange key).brgSettle)) ∧
  (∀ s (n : Fin 8) first ss ids, let key := linkKey s.dev.myIdx n
    s.live = true → s.dev.treeActs = true →
    exec (.tree n ⟨.link, .subtree first ss ids⟩) s = .next (s.afterBb fun d =>
      let l := (ss.zip ids).map fun (x : BitVec 72 × BitVec 16) => (x.1.toNat, x.2.toNat)
      (d.modTree fun t => { t with
        below := ((t.below.filter fun b => b.1 != key) ++
          [(key, (if first then [] else mget t.below key) ++ l)]).filter fun b => !b.2.isEmpty }).treeUp.brgSettle)) ∧
  (∀ s (n : Fin 8) first r ss ids, s.live = true → s.dev.treeActs = true →
    s.dev.coh.tree.uplink = some (linkKey s.dev.myIdx n) →
    exec (.tree n ⟨.link, .full first r ss ids⟩) s = .next (s.afterBb fun d =>
      let was := d.coh.tree.ids
      ((d.modTree fun t => { t with
        ids := (if first then [] else was) ++ (ss.zip ids).map fun (x : BitVec 72 × BitVec 16) =>
          (x.1.toNat, x.2.toNat) }).treeDown r.toNat was).brgSettle)) ∧
  (∀ s (n : Fin 8) up, s.live = true → s.dev.treeActs = true →
    exec (.tree n ⟨.link, .linkUp up⟩) s = .next (s.afterBb fun d =>
      (d.treeLinkGo (linkKey d.myIdx n) up).brgSettle)) ∧
  (∀ s (n : Fin 8) b, s.live = true → s.dev.treeLed = true →
    exec (.tree n ⟨.link, b⟩) s = .next (s.afterBb fun d =>
      (d.ctrlTo (d.f F.cohStat_LEADER) 5 (treeWords ⟨.up (Fin.ofNat 64 d.myIdx) (Fin.ofNat 8 n), b⟩)).brgSettle)) ∧
  (∀ s (n : Fin 8) k p b, s.live = true → s.dev.treeActs = true →
    exec (.tree n ⟨.up k p, b⟩) s = .next (s.afterBb fun d => (d.treeTake (linkKey k p) b).brgSettle)) ∧
  (∀ s (n : Fin 8) (p : Fin 8) b, s.live = true → s.dev.treeLed = true → s.dev.trunkPorts.contains p.val = true →
    exec (.tree n ⟨.out p, b⟩) s = .next (s.afterBb fun d => (d.ctrlPort p 5 0 (treeWords ⟨.link, b⟩)).brgSettle)) ∧
  (∀ s (n : Fin 8) ids ws, s.live = true → s.dev.treeLed = true →
    exec (.tree n ⟨.member, .fill ids ws⟩) s = .next (s.afterBb fun d =>
      (d.srtFill ((((ids.map fun (x : BitVec 16) => x.toNat)).zip ws).filter fun e =>
        !(d.fb F.topPkg_ASSIGNED && e.1 == d.pkgId))).brgSettle)) ∧
  (∀ s (n : Fin 8) (src : BitVec 16) (k : Fin 4) ws, s.live = true →
    (s.dev.fb (F.lnkStat_PEER_ID_OK n) = true ∨ s.dev.f (F.lnkStat_PEER_ID n) ≠ src.toNat) →
    exec (.pkt n src k true true ws) s = .next (s.afterBb fun d =>
      ({ d with rxPkt := mset d.rxPkt src.toNat none }).pktDone (.lysith src n) src.toNat k ws)) ∧
  (∀ s (line : BitVec 40) (k : Fin 64) l t, s.live = true → s.dev.target (lineOf line) = .here l →
    s.dev.txn (l / 16) = some t → t.waits.contains k.val = true → s.dev.cohState = 2 →
    s.dev.fb (F.cohMap_VALID k) = true → s.dev.fb (F.cohMap_DEAD k) = false → k.val ≠ s.dev.myIdx →
    exec (.snoopTimeout line k) s = .next (s.afterBb fun d =>
      (d.withJoinMap fun d => d.deadAct k 1 true).brgSettle)) ∧
  (∀ s (a : BitVec 13) (tag : Byte) o k, s.live = true →
    (s.dev.coh.outs.find? fun o => o.m.agent == a.toNat && o.m.tag == tag.toNat && (s.dev.remoteHome o).isSome) = some o →
    o.m.addr < 2 ^ 40 → s.dev.target o.m.addr = .remote k →
    exec (.requestTimeout a tag) s = .next (s.afterBb fun d =>
      ((((d.modCoh fun c => { c with outs := c.outs.erase o }).cohTimeout o.m.addr).cohDone o stTIMEOUT []).withJoinMap
        (Dev.declareDead k 2)).brgSettle)) ∧
  (∀ s (c : Fin 64), s.live = true → s.dev.fb (F.cohCache_OFF c) = false → s.dev.cohState ≠ 2 →
    exec (.cacheSnoopTimeout c) s = .next (s.afterBb fun d =>
      ((((((d.setF (F.cohCache_OFF c) 1).error 7 3 c 0 0x805 0).event 0x805 c 0).modCache c fun _ => []).agentGone
        (d.agentOf c))).brgSettle)) ∧
  (∀ s (line : BitVec 40) l, s.live = true → s.dev.target (lineOf line) = .here l → (s.dev.dirE (l / 16)).st = 4 →
    (s.dev.dirE (l / 16)).wasDp = false →
    exec (.lockHoldTimeout line) s = .next (s.afterBb fun d =>
      (((d.setDir (l / 16) default).event 0x806 (d.dirE (l / 16)).port
        (toW ((d.setDir (l / 16) default).fullAddr (l / 16 * 16) / 16))).homeNext).brgSettle)) ∧
  (∀ s (n : Mbx) suits k, let id := (s.dev.arg n 1).toNat
    s.served n 0x903 1 = true → s.dev.domainBusy = false → id ≤ 0xFFFF → s.dev.cohState = 2 → suits = true →
    (s.dev.routeOf 1 id).isSome = true → firstN 64 (fun k => !s.dev.fb (F.cohMap_VALID k)) = some k →
    s.dev.f F.cohStat_LEADER ≠ s.dev.myIdx →
    exec (.domainJoin n suits) s = .next (s.afterBb fun d =>
      (Dev.cmdDone (fun d =>
        let d := d.reply n stOK []
        -- The leader's mailbox performs the command.
        (d.sendRoute false 0 (d.f F.cohStat_LEADER) (({ src := d.pkgId, kind := 1 : PktInfo }).msgs 0
          (d.f F.cohStat_LEADER) false [mkW [(35, 24, 0x903), (15, 8, 1)], toW id])).2.modCoh fun c =>
            { c with joining := some id }) d).brgSettle)) ∧
  (∀ s (n : Mbx) suits k, let id := (s.dev.arg n 1).toNat
    s.served n 0x903 1 = true → s.dev.domainBusy = false → id ≤ 0xFFFF → s.dev.cohState = 2 → suits = true →
    (s.dev.routeOf 1 id).isSome = true → firstN 64 (fun k => !s.dev.fb (F.cohMap_VALID k)) = some k →
    s.dev.f F.cohStat_LEADER = s.dev.myIdx →
    exec (.domainJoin n suits) s = .next (s.afterBb fun d =>
      (Dev.cmdDone (fun d =>
        let d1 := (d.reply n stOK []).serialOf id
        let es := d1.2.mapNow ++ [⟨k, true, false, id, d1.1⟩]
        let d := d1.2.modCoh fun c => { c with joinEdge := d1.2.epo.edges + 1 }
        (d.mapSend d.serial es (some id)).mapMember d.serial es) d).brgSettle)) ∧
  (∀ s (n : Mbx), s.served n 0x904 1 = true → s.dev.domainBusy = false → (s.dev.arg n 1).toNat < 2 ^ 16 →
    s.dev.cohState = 2 →
    exec (.domainLeave n false) s = .next (s.afterBb fun d =>
      (Dev.cmdDone (fun d =>
        ((d.reply n stOK []).modCoh fun c => { c with leave := some ⟨none, 1, []⟩ }).leaveRecall.leaveFlush.cohSettle 8)
        d).brgSettle)) ∧
  (∀ s h held, s.live = true → s.dev.coh.leave = some ⟨h, 1, held⟩ → s.dev.f F.cohStat_LEADER ≠ s.dev.myIdx →
    exec .leaveCopyDone s = .next (s.afterBb fun d =>
      let d := d.modCoh fun c => { c with leave := some ⟨h, 2, held⟩ }
      let rest := d.mapNow.filter fun e => e.idx != d.myIdx
      let x : List MapLine × Dev := match h with
        | some h => (rest ++ [⟨d.myIdx, true, false, h, (d.serialOf h).1⟩], (d.serialOf h).2)
        | none => (rest, d)
      let l := x.2.f F.cohStat_LEADER
      (each (mapMsgs 0 l (mget x.2.coh.serials l) x.1) (fun m (d : Dev) => (d.sendRt 0 l m).2) x.2).brgSettle)) ∧
  (∀ s h held, s.live = true → s.dev.coh.leave = some ⟨h, 1, held⟩ → s.dev.f F.cohStat_LEADER = s.dev.myIdx →
    exec .leaveCopyDone s = .next (s.afterBb fun d =>
      let d := d.modCoh fun c => { c with leave := some ⟨h, 2, held⟩ }
      let rest := d.mapNow.filter fun e => e.idx != d.myIdx
      let x : List MapLine × Dev := match h with
        | some h => (rest ++ [⟨d.myIdx, true, false, h, (d.serialOf h).1⟩], (d.serialOf h).2)
        | none => (rest, d)
      let live := x.1.filter fun e => !e.dead
      let lead := ((live.find? fun e => live.all fun f => e.serial ≤ f.serial).map (·.serial)).getD 0
      ((x.2.mapSend lead x.1 h).mapMember lead x.1).brgSettle)) ∧
  (∀ s h held, s.live = true → s.dev.coh.leave = some ⟨h, 3, held⟩ →
    exec .leaveForwardEnd s = .next (s.afterBb fun d =>
      ((((d.modCoh fun c => { c with leave := none }).setF F.cohCfg_EN 0).cohOff d.myIdx).domainEvent stOK d.myIdx
        (if h.isSome then 3 else 2)).brgSettle))

/-- COH_INFO, COH_LINE, LNK_INFO, PKG_ID_SET, SRT_SET and LNK_RETRAIN when their arguments pass (R351, R402, R404,
R409, R448): what each answers, and what it changes. It rests on choices of the model: assumptions 56, 166, 167. -/
def Obligations.FabricCommands : Prop :=
  (∀ s (n : Mbx), s.served n 0x800 0 = true →
    exec (.cohInfo n) s = .next (s.afterCmd fun d => d.reply n stOK
      ([d.reg R.cohStat, d.reg R.cohCfg] ++ (List.range 64).map fun k => d.reg (R.cohMap k)))) ∧
  (∀ s (n : Mbx) l, s.served n 0x801 2 = true → (s.dev.arg n 1).toNat ≤ 15 →
    s.dev.target ((s.dev.arg n 1).toNat * 2 ^ 36 + (s.dev.arg n 2).toNat) = .here l → winOf l = .rstore →
    exec (.cohLine n) s = .next (s.afterCmd fun d =>
      let e := d.dirE (l / 16)
      d.reply n stOK
        [mkW [(35, 33, e.st), (32, 32, bit (d.txn (l / 16)).isSome), (31, 19, if e.st = 2 then e.owner else 0), (15, 0, e.wmask)],
          toW (e.pkg / 2 ^ 36 % 2 ^ 28), toW e.pkg])) ∧
  (∀ s (n : Mbx) (p : Fin 8), s.served n 0x900 1 = true → (s.dev.arg n 1).toNat = p.val →
    exec (.lnkInfo n) s = .next (s.afterCmd fun d =>
      d.reply n stOK [d.reg (R.lnkStat p), d.reg (R.lnkCnt p), d.reg (R.lnkPeerSerHi p), d.reg (R.lnkPeerSerLo p)])) ∧
  (∀ s (n : Mbx) (id : BitVec 16), s.served n 0x901 1 = true → (s.dev.arg n 1).toNat = id.toNat →
    s.dev.fb F.topPkg_ASSIGNED = false → s.dev.taken.ksBusy = false →
    exec (.pkgIdSet n) s = .next (pkgIdRecord s (s.dev.cmdDone fun d =>
      (((d.setF F.topPkg_ID id.toNat).setF F.topPkg_ASSIGNED 1).reply n stOK []).treeStart)).settle) ∧
  (∀ s (n : Mbx) (id : BitVec 16), s.served n 0x901 1 = true → (s.dev.arg n 1).toNat = id.toNat →
    s.dev.fb F.topPkg_ASSIGNED = false → s.dev.taken.ksBusy = false → s.dev.cohState = 1 →
    exec (.pkgIdSet n) s = .next (
      let t := s.afterCmd fun d => ((d.setF F.topPkg_ID id.toNat).setF F.topPkg_ASSIGNED 1).reply n stOK []
      { t with ks := s.ks.writeOwner 0x10 [toW id.toNat] })) ∧
  (∀ s (n : Mbx) k, s.served n 0x902 (1 + k) = true → (s.dev.mb n).req.length = k + 2 →
    (s.dev.arg n 1).toNat + k ≤ 65536 → (s.dev.arg n 1).toNat ≤ 0xFFFF →
    (((s.dev.mb n).req.drop 2).all fun w => bitsOf w 20 0 == 0) = true →
    exec (.srtSet n) s = .next (s.afterCmdBb fun d =>
      ((d.wrs (srtTab + (d.arg n 1).toNat) ((d.mb n).req.drop 2)).drainUnrouted).reply n stOK [])) ∧
  (∀ s (n : Mbx) (p : Fin 8), s.served n 0x905 1 = true → (s.dev.arg n 1).toNat = p.val → s.dev.lnkState p ≠ 0 →
    exec (.lnkRetrain n) s = .next (s.afterCmd fun d => (d.retrain p).reply n stOK []))

/-- What happens on a port of the links, where the port's state lets it change something: training, lanes, DATA, IDLE
and NAK frames, retraining, DOWN and its recovery, firmware forwarding (R395 to R397, R401 to R403, R406, R421). It
rests on choices of the model: assumptions 3, 10, 12, 30, 85, 86, 187. -/
def Obligations.PortEvents : Prop :=
  (∀ s (n : Fin 8), s.live = true → s.dev.fb (F.lnkCfg_EN n) = true → s.dev.portUp n = false →
    (s.dev.port n).recovering = false →
    exec (.trainingRetry n) s = .next (s.afterBb fun d => ((d.lnkGo n 1).emit (.training n ((d.lnkGo n 1).ownPeer n))).brgSettle)) ∧
  (∀ s (n : Fin 8) (lanes : BitVec 4) (p : Peer), let on := lanes.toNat &&& (15 - (s.dev.port n).cutNow)
    s.live = true → s.dev.fb (F.lnkCfg_EN n) = true → 2 ≤ popcount 4 on → p.trunk = s.dev.fb (F.lnkCfg_TRUNK n) → (s.dev.port n).recovering = false →
    s.dev.portUp n = false → (s.dev.port n).retraining = false →
    exec (.trainingDone n lanes p) s = .next (s.afterBb fun d =>
      ((((((d.modPort n fun x => { x with
        tx := 0, rx := 0, unacked := [], nakSent := false, naks := 0, credit := [], owed := startOwed, pktLast := false
        rxPart := [], txPart := none, rejoin := 0 }).setF
        (F.lnkStat_LANES n) on).setPeer n p).lnkGo n 2).pump n).creditOut n).brgSettle)) ∧
  (∀ s (n : Fin 8) (lanes : BitVec 4) (p : Peer), let on := lanes.toNat &&& (15 - (s.dev.port n).cutNow)
    s.live = true → s.dev.fb (F.lnkCfg_EN n) = true → 2 ≤ popcount 4 on → p.trunk = s.dev.fb (F.lnkCfg_TRUNK n) → (s.dev.port n).recovering = false →
    (s.dev.port n).retraining = true →
    exec (.trainingDone n lanes p) s = .next (s.afterBb fun d =>
      (((((d.modPort n fun x => { x with
        retraining := false, naks := 0, rejoin := x.rejoin &&& (15 - on) }).setF (F.lnkStat_LANES n) on).setPeer n
        p).lnkGo n 2).pump n).brgSettle)) ∧
  (∀ s (n : Fin 8) (p : Peer), s.live = true → s.dev.portUp n = true →
    exec (.partnerRefresh n p) s = .next (s.afterBb fun d =>
      (d.setPeer n p).emit (.refresh n ((d.setPeer n p).ownPeer n)))) ∧
  (∀ s (n : Fin 8) ws, s.live = true → s.dev.portUp n = true → frameCrc ws = true →
    bitsOf (nth ws 0) 35 24 = (s.dev.port n).rx →
    exec (.dataFrame n true ws) s = .next (s.afterBb fun d =>
      (each (d.frameAccept n true ws).1 (fun m (d : Dev) => (d.msgIn n m).brgSettle) (d.frameAccept n true ws).2).pumpAck n)) ∧
  (∀ s (n : Fin 8) good ws, s.live = true → s.dev.portUp n = true → (s.dev.port n).nakSent = false →
    (good = false ∨ frameCrc ws = false ∨ bitsOf (nth ws 0) 35 24 ≠ (s.dev.port n).rx) →
    exec (.dataFrame n good ws) s = .next (s.afterBb fun d =>
      (((d.modPort n fun x => { x with nakSent := true }).inc (F.lnkCnt_NAK n) 1).sendFrame n 2 0 []).pumpAck n)) ∧
  (∀ s (n : Fin 8) ws, s.live = true → s.dev.portUp n = true → frameCrc ws = true →
    exec (.idleFrame n ws) s = .next (s.afterBb fun d => (d.frameHead n (nth ws 0)).pump n)) ∧
  (∀ s (n : Fin 8) ws, let ack := bitsOf (nth ws 0) 23 12
    let x := (s.dev.frameHead n (nth ws 0)).port n
    s.live = true → s.dev.portUp n = true → frameCrc ws = true → (x.naks = 0 ∨ x.nakSeq ≠ ack) →
    exec (.nakFrame n ws) s = .next (s.afterBb fun d =>
      ((((d.frameHead n (nth ws 0)).modPort n fun x => { x with nakSeq := ack, naks := 1 }).replay n).pump n))) ∧
  (∀ s (n : Fin 8) (lane : Fin 4), let left := setNbit (s.dev.f (F.lnkStat_LANES n)) lane false
    let det := mkW [(5, 4, 1), (1, 0, lane)]
    s.live = true → s.dev.portUp n = true → nbit (s.dev.f (F.lnkStat_LANES n)) lane = true → 2 ≤ popcount 4 left →
    exec (.laneRemoval n lane) s = .next (s.afterBb fun d =>
      let d1 := (((((d.setF (F.lnkStat_LANES n) left).modPort n fun x =>
        { x.cutLane (d.epo.edges + 1) lane with rejoin := setNbit x.rejoin lane true }).inc (F.lnkCnt_LANE_LOSS n) 1).lnkError n 0x901 det).event 0x901 n det).lnkGo n 3
      (d1.fresh.2.event 0xA02 0 (mkW [(35, 32, 1), (17, 0, d1.fresh.1)])).brgSettle)) ∧
  (∀ s (n : Fin 8) (lane : Fin 4), let back := setNbit (s.dev.f (F.lnkStat_LANES n)) lane true
    s.live = true → s.dev.portUp n = true → s.dev.fb (F.lnkCfg_AUTO_REJOIN n) = true →
    nbit (s.dev.port n).rejoin lane = true → setNbit (s.dev.port n).rejoin lane false ≠ 0 →
    exec (.lysithLaneRejoin n lane) s = .next (s.afterBb fun d =>
      (((d.modPort n fun x => { x with rejoin := setNbit x.rejoin lane false }).setF (F.lnkStat_LANES n) back).event 0x901 n
        (mkW [(5, 4, 2), (1, 0, lane)])).brgSettle)) ∧
  (∀ s (n : Fin 8) (lane : Fin 4), let back := setNbit (s.dev.f (F.lnkStat_LANES n)) lane true
    s.live = true → s.dev.portUp n = true → s.dev.fb (F.lnkCfg_AUTO_REJOIN n) = true →
    nbit (s.dev.port n).rejoin lane = true → setNbit (s.dev.port n).rejoin lane false = 0 →
    exec (.lysithLaneRejoin n lane) s = .next (s.afterBb fun d =>
      ((((d.modPort n fun x => { x with rejoin := setNbit x.rejoin lane false }).setF (F.lnkStat_LANES n) back).event 0x901 n
        (mkW [(5, 4, 2), (1, 0, lane)])).lnkGo n 2).brgSettle)) ∧
  (∀ s (n : Fin 8), s.live = true → (s.dev.port n).retraining = true →
    exec (.retrainTimeout n) s = .next (s.afterBb fun d => (d.linkDown n).brgSettle)) ∧
  (∀ s (n : Fin 8), s.live = true → s.dev.portUp n = true →
    exec (.downTimeout n) s = .next (s.afterBb fun d => (d.linkDown n).brgSettle)) ∧
  (∀ s (n : Fin 8), s.live = true → (s.dev.port n).recovering = true →
    exec (.resyncTimeout n) s = .next (s.afterBb fun d => (d.modPort n fun x => { x with expired := true }).brgSettle)) ∧
  (∀ (d : Dev) (n : Fin 8), (d.port n).recovering = true → (d.port n).expired = true →
    d.lnkEdge n = each ((d.port n).unsent (d.port n).unacked) Dev.destGone (d.recoverEnd n stTIMEOUT [])) ∧
  (∀ (d : Dev) (n : Fin 8) rt dest, let e := d.modPort n fun x => { x with sync := false }
    (d.port n).recovering = true → (d.port n).expired = false → (d.port n).sync = true →
    e.resyncRoute n = some (rt, dest) →
    d.lnkEdge n = (e.sendRoute true rt dest [ctrlMsg rt dest 4 0 (resyncWords (e.f (F.lnkStat_PEER_PORT n)) false
      (((((e.port n).unacked.head?).map (·.seq)).getD (e.port n).tx + 4095) % 4096))]).2) ∧
  (∀ s (n : Fin 8) (st : Byte) (fail : BitVec 5), s.live = true → s.dev.running = true →
    s.dev.fb (F.lnkCfg_FW_FWD n) = true → s.dev.portUp n = true → s.dev.f (F.lnkStat_PEER_BOOT n) = 2 →
    (s.dev.port n).fwd = none → (s.dev.port n).fwdWait = false → s.dev.hbmHeld 0 = false →
    exec (.firmwareForward n st fail) s = .next (s.afterBb fun d =>
      (d.sendLink n 1 [mkW [(35, 24, 0x010), (15, 8, 1)], toW d.cp.loader.retLen]).modPort n fun x =>
        { x with fwd := some 0, fwdHeld := false })) ∧
  (∀ s (n : Fin 8) (st : Byte) (fail : BitVec 5) k, s.live = true → s.dev.running = true →
    (s.dev.port n).fwd = some k → (s.dev.port n).fwdHeld = false → st.toNat = stOK → k ≤ s.dev.fwdChunks →
    s.dev.hbmHeld 0 = false →
    exec (.firmwareForward n st fail) s = .next (s.afterBb fun d =>
      (d.sendLink n 1 (d.fwdRequest (k + 1))).modPort n fun x => { x with fwd := some (k + 1), fwdHeld := false })) ∧
  (∀ s (n : Fin 8) (st : Byte) (fail : BitVec 5) k, s.live = true → s.dev.running = true →
    (s.dev.port n).fwd = some k → (s.dev.port n).fwdHeld = false → (st.toNat ≠ stOK ∨ s.dev.fwdChunks < k) →
    exec (.firmwareForward n st fail) s = .next (s.afterBb fun d =>
      (d.modPort n fun x => { x with fwd := none, fwdWait := k = 0 && st.toNat == stBUSY }).event 0x908 n
        (mkW [(35, 28, st.toNat), (4, 0, fail.toNat)])))

/-- The host link and its resets, MSI-X masks and the backlog's report (R412, R413, R416, R437, R443). It rests on
choices of the model: assumptions 11, 74. -/
def Obligations.HostLinkCommands : Prop :=
  (∀ s, s.live = true → exec .dlDown s = .next (s.after fun d =>
    let d := (d.setF F.pciStat_LINK_UP 0).inc F.pciStat_DOWN_CNT 1
    ({ d with pci := { d.pci with stalled := true } } : Dev).dropHostRsp.pciEvent 0)) ∧
  (∀ s (speed : Fin 8) (width : Fin 32), s.live = true → exec (.dlUp speed width) s = .next (s.after fun d =>
    let d := ((d.setF F.pciStat_LINK_UP 1).setF F.pciStat_SPEED speed).setF F.pciStat_WIDTH width
    (({ d with pci := { d.pci with stalled := false } } : Dev).pciEvent 1).hostResume)) ∧
  (∀ s, s.live = true → exec .hotReset s = .next (s.after fun d =>
    (({ d with pci := { d.pci with stalled := true } } : Dev).dropHostRsp.hostReset).pciEvent 3)) ∧
  (∀ s, s.live = true → exec .perstAssert s = .next (s.after fun d =>
    (({ d with pci := { d.pci with stalled := true, perst := true, cfgOk := false } } : Dev).dropHostRsp.hostReset).pciEvent
      4)) ∧
  (∀ s, s.live = true → exec .perstDeassert s = .next (s.after fun d =>
    { d with pci := { d.pci with perst := false, cfgOk := false } })) ∧
  (∀ s, s.live = true → s.dev.pci.perst = false → s.dev.f F.cpBoot_STATE ≠ 0 →
    exec .crsEnd s = .next (s.after fun d => { d with pci := { d.pci with cfgOk := true } })) ∧
  (∀ s, s.live = true → exec .flr s = .next (s.after fun d =>
    let d := d.inc F.pciStat_FLR_CNT 1
    (({ d with pci := { d.pci with flr := true } } : Dev).dropHostRsp.hostReset).pciEvent 2)) ∧
  (∀ s, s.live = true →
    exec .flrComplete s = .next (s.after fun d => ({ d with pci := { d.pci with flr := false } } : Dev).hostResume)) ∧
  (∀ s, s.live = true → exec .d3hotEntry s = .next (s.after fun d => (d.setF F.pciStat_D3HOT 1).pciEvent 5)) ∧
  (∀ s, s.live = true →
    exec .d0Entry s = .next (s.after fun d => ((d.setF F.pciStat_D3HOT 0).pciEvent 6).hostResume)) ∧
  (∀ s (v : Fin 2048), s.live = true → mget s.dev.pci.pba v.val = true → s.dev.pci.fmask = false →
    s.dev.fb F.pciStat_D3HOT = false → s.dev.fb F.pciStat_LINK_UP = true → s.dev.pci.flr = false →
    exec (.msixUnmask (.entry v)) s = .next (s.after fun d =>
      let e := mget d.pci.msix v.val
      ({ d with pci := { d.pci with
        msix := mset d.pci.msix v.val { e with unmasked := true }, pba := mset d.pci.pba v.val false } } : Dev).emit
          (.msix v.val e.addr e.data))) ∧
  (∀ s, s.live = true → exec (.msixUnmask (.function true)) s = .next (s.after fun d =>
    { d with pci := { d.pci with fmask := true } })) ∧
  (∀ s, s.live = true → exec (.msixUnmask (.function false)) s = .next (s.after fun d =>
    each (d.pci.pba.map (·.1)) (fun v d =>
      let e := mget d.pci.msix v
      if mget d.pci.pba v ∧ e.unmasked ∧ d.fb F.pciStat_D3HOT = false ∧ d.fb F.pciStat_LINK_UP ∧ d.pci.flr = false then
        ({ d with pci := { d.pci with pba := mset d.pci.pba v false } } : Dev).emit (.msix v e.addr e.data)
      else d) { d with pci := { d.pci with fmask := false } }))

/-- Host stream queues (R34, R414, R415): a write of PCI_HQ_CFG, a read and a write of BAR4, and the flush of a
partial group. It rests on choices of the model: assumptions 73, 119, 184. -/
def Obligations.HostStreams : Prop :=
  (∀ s p (q : Fin 256) w, let d1 := s.dev.writeByType p (R.pciHqCfg q) w
    s.live = true → (d1.hq q).hold = false → (d1.hq q).push = d1.fb (F.pciHqCfg_PUSH q) →
    exec (.pciHqCfgWrite p q w) s = .next (s.after fun d => d.writeByType p (R.pciHqCfg q) w)) ∧
  (∀ s p (q : Fin 256) w, let d1 := s.dev.writeByType p (R.pciHqCfg q) w
    s.live = true → (d1.hq q).hold = false → (d1.hq q).push = false → d1.fb (F.pciHqCfg_PUSH q) = true →
    ((d1.hq q).inPkt = false ∨ 1024 ≤ (d1.hq q).pull.length) →
    exec (.pciHqCfgWrite p q w) s = .next (s.after fun d => ((d.writeByType p (R.pciHqCfg q) w).modHq q fun x => { x with
      push := true, grp := x.grp ++ x.pull, pull := [] }).hqPump q)) ∧
  (∀ s p (q : Fin 256) w, let d1 := s.dev.writeByType p (R.pciHqCfg q) w
    s.live = true → (d1.hq q).hold = true → bitOf w 35 = true → (d1.hq q).push = d1.fb (F.pciHqCfg_PUSH q) →
    exec (.pciHqCfgWrite p q w) s = .next (s.after fun d =>
      let d := (d.writeByType p (R.pciHqCfg q) w).modHq q fun x => { x with hold := false }
      if ((d.chain q).pkts.head?.map fun k => k.cont || k.begun) = some true then (d.bklPopPkt q).rteDiscard 1 else d)) ∧
  (∀ s (q : Fin 256) (off : BitVec 22) (len : Fin 4097), s.live = true → off.toNat % 72 = 0 → len.val % 72 = 0 →
    s.dev.fb (F.pciHqCfg_PUSH q) = false → s.dev.fb (F.pciHqCfg_EN q) = true →
    exec (.bar4Read q off len) s = .next (s.after fun d =>
      let r := (List.range (len.val / 72 * 16)).foldl (fun (a : List Word × Dev) _ =>
        (a.1 ++ [(a.2.hqPop q).1], (a.2.hqPop q).2)) ([], d)
      r.2.emit (.hostData false (packBytes r.1)))) ∧
  (∀ s (q : Fin 256) (off : BitVec 22), s.live = true →
    exec (.bar4Write q off) s = .next (s.after fun d => (d.inc F.pciBarErr_ALIGN_CNT 1).hostUr)) ∧
  (∀ s (q : Fin 256) (off : BitVec 22) (len : Fin 4097), s.live = true → (off.toNat % 72 ≠ 0 ∨ len.val % 72 ≠ 0) →
    exec (.bar4Read q off len) s = .next (s.after fun d => (d.inc F.pciBarErr_ALIGN_CNT 1).hostUr)) ∧
  (∀ s (q : Fin 256), s.live = true → (s.dev.hq q).push = true → (s.dev.hq q).grp ≠ [] → (s.dev.hq q).grp.length < 16 →
    s.dev.ringFull q = false → s.dev.hostStalled = false → (s.dev.hq q).hold = false →
    exec (.flushTimeout q) s = .next (s.after fun d =>
      (d.modHq q fun x => { x with grp := [] }).hqWrite q
        ((d.hq q).grp ++ List.replicate (16 - (d.hq q).grp.length) (tagged 15 0))))

/-- The backlog's commands and events (R437 to R443). It rests on choices of the model: assumptions 24, 75, 166. -/
def Obligations.BacklogCommands : Prop :=
  (∀ s (n : Mbx) e, s.served n 0xA20 1 = true → (s.dev.arg n 1).toNat = e → e ≤ 268 →
    exec (.bklInfo n) s = .next (s.afterCmd fun d =>
      d.reply n stOK [d.reg R.errBklStat, putBits (d.reg (R.errBklEgr e)) 35 34 (d.egState e),
        toW (d.chain e).pkts.length])) ∧
  (∀ s (e : Fin 269), s.live = true → s.dev.egWaits e = true →
    exec (.egressStall e) s = .next (s.afterBb fun d =>
      let d := d.modChain e fun c => { c with stalled := true }
      if e.val < 264 then d.spillLys (e.val - 256) else d.spillFiu (e.val - 264))) ∧
  (∀ s (e : Fin 269), let d0 := (if e.val < 256 then s.dev.hqPump e else s.dev).egFlow e
    s.live = true → e.val < 268 → ((d0.chain e).pkts = [] ∨ d0.egStalled e = true) →
    exec (.backlogDrain e) s = .next (s.afterBb fun _ => d0)) ∧
  (∀ s (e : Fin 269) p ps, let d0 := (s.dev.hqPump e).egFlow e
    s.live = true → e.val < 256 → (d0.chain e).pkts = p :: ps → d0.egStalled e = false → d0.bklHeld p = false →
    d0.fb (F.pciHqCfg_EN e) = true → ((d0.bklOut p).2.hqDeliver e (d0.bklOut p).1).1 = [] →
    exec (.backlogDrain e) s = .next (s.afterBb fun _ =>
      (((d0.bklOut p).2.hqDeliver e (d0.bklOut p).1).2.bklPopPkt e).drain e)) ∧
  (∀ s (e : Fin 269) p ps, let d0 := s.dev.egFlow e
    let m := p.info.seg 1 p.dest (!p.cont && !p.begun) (decide ((d0.bklOut p).1.length ≤ 31)) ((d0.bklOut p).1.take 31)
    s.live = true → 256 ≤ e.val → e.val < 264 → (d0.chain e).pkts = p :: ps → d0.egStalled e = false →
    d0.bklHeld p = false → d0.linkOpen (e.val - 256) = true → (d0.port (e.val - 256)).canSend m = true →
    ((d0.port (e.val - 256)).txq.any fun m => m.cls == 5) = false → (d0.port (e.val - 256)).unacked.length < 512 →
    exec (.backlogDrain e) s = .next (s.afterBb fun _ =>
      (((d0.bklOut p).2.sendOn (e.val - 256) m).bklTake e (d0.bklOut p).1.length 31).drain e)) ∧
  (∀ s (e : Fin 269) p ps, let d0 := s.dev.egFlow e
    s.live = true → 264 ≤ e.val → e.val < 268 → (d0.chain e).pkts = p :: ps → d0.egStalled e = false →
    d0.bklHeld p = false → d0.fb (F.brgOwinCfg_EN (p.dest / 2 ^ 26 % 16)) = false →
    exec (.backlogDrain e) s = .next (s.afterBb fun _ => ((d0.rteDiscard 1).bklPopPkt e).drain e)) ∧
  (∀ s (e : Fin 269) p ps k r, let d0 := s.dev.egFlow e
    let w := p.dest / 2 ^ 26 % 16
    s.live = true → 264 ≤ e.val → e.val < 268 → (d0.chain e).pkts = p :: ps → d0.egStalled e = false →
    d0.bklHeld p = false → d0.fb (F.brgOwinCfg_EN w) = true → p.run = some r →
    d0.nextCycle w (p.dest % 2 ^ 26) (d0.bklOut p).1.length = some k → (d0.fp (e.val - 264)).pFill + k ≤ 1024 →
    d0.postedWaits (e.val - 264) = false →
    exec (.backlogDrain e) s = .next (s.afterBb fun _ =>
      let d := (d0.bklOut p).2.modChain e fun c => { c with
        pkts := { p with dest := fiuDest w (p.dest % 2 ^ 26 + k) } :: ps }
      ((d.fiuCycles w (p.dest % 2 ^ 26) r p.head ((d0.bklOut p).1.take k)).bklTake e (d0.bklOut p).1.length k).drain e)) ∧
  (∀ s, s.live = true → ((s.dev.chain 268).pkts.all fun p => (s.dev.routeOf 1 p.dest).isNone) = true →
    exec (.backlogDrain 268) s = .next (s.afterBb id)) ∧
  (∀ s p ps, s.live = true → (s.dev.chain 268).pkts = p :: ps → (s.dev.routeOf 1 p.dest).isSome = true →
    s.dev.bklHeld p = false →
    exec (.backlogDrain 268) s = .next (s.afterBb fun d =>
      let d1 := (((d.bklOut p).2.modChain 268 fun c => { c with pkts := ps }).bklTrim 268 []).bklEmptied 268
      (d1.sendSrt { p with spans := [], cont := p.cont || p.begun, begun := false, abort := none }
        (d.bklOut p).1).drainUnrouted))

/-- The CP log, the hardware error queue and HBM channel failure (R427 to R429, R434, R435). It rests on choices of
the model: assumptions 3, 15, 81. -/
def Obligations.ErrorReports : Prop :=
  (∀ s (n : Mbx) c, s.served n 0xA00 2 = true → (s.dev.arg n 2).toNat = c → 0 < c → c ≤ 50 →
    exec (.errLogRead n) s = .next (s.afterCmd fun d =>
      let first := (d.arg n 1).toNat
      let skip := if later 36 first d.logOldest then (first + 2 ^ 36 - d.logOldest) % 2 ^ 36 else 0
      d.reply n stOK ([toW d.logOldest, toW d.cp.logSeq] ++ ((d.cp.log.drop skip).take c).flatMap logWords))) ∧
  (∀ s p e es, s.live = true → s.dev.err.queue = e :: es →
    exec (.errQpop p) s = .next (s.after fun d =>
      (if d.err.rd < 3 then { d with err := { d.err with rd := d.err.rd + 1 } }
        else { d with err := { d.err with queue := es, rd := 0 } } : Dev).emit (.readData p R.errQpop (nth e d.err.rd)))) ∧
  (∀ s p, s.live = true → s.dev.err.queue = [] →
    exec (.errQpop p) s = .next (s.after fun d => d.emit (.readData p R.errQpop idleW))) ∧
  (∀ s (st : Fin 2) (ch : Fin 16), s.live = true → mget s.dev.err.hbmFail st.val = 0 → s.dev.hbmSpare st = true →
    exec (.hbmChannelFailure st ch) s = .next (s.after fun d =>
      let d := { d with err := { d.err with
        hbmFail := mset d.err.hbmFail st.val (2 ^ ch.val), hbmStop := mset d.err.hbmStop st.val true } }
      (((d.setF (F.errHbmStat_FAILED st) 1).setF (F.errHbmStat_CH st) ch).setF (F.errHbmStat_NFAIL st)
        (Nat.min 3 (d.f (F.errHbmStat_NFAIL st) + 1))).error 11 2 0 0 0xA03 (hbmDetail true st ch))) ∧
  (∀ s (st : Fin 2), s.live = true → mget s.dev.err.hbmStop st.val = true →
    exec (.remapComplete st) s = .next (s.afterBb fun d =>
      let mine := d.err.hbmKept.filter fun x => hbmStack x.1 == st.val
      let d := d.setF (F.errHbmStat_REMAP st) 1
      let d := { d with err := { d.err with
        hbmStop := mset d.err.hbmStop st.val false
        hbmKept := d.err.hbmKept.filter fun x => hbmStack x.1 != st.val
        hbmWritten := d.err.hbmWritten.filter fun g => hbmStack g.1 != st.val } }
      let d := (each mine (fun r d => d.wrs r.1 r.2) d).hbmResume
      let d := d.event 0xA03 0 (hbmDetail true st (d.f (F.errHbmStat_CH st)))
      (d.fresh.2.event 0xA02 0 (mkW [(35, 32, 4), (17, 0, d.fresh.1)])).oweBbFree))

/-- The keep store's commands and the end of an operation (R444 to R446, R449, R450). It rests on choices of the
model: assumptions 7, 122, 124. -/
def Obligations.KeepStoreCommands : Prop :=
  (∀ s (n : Mbx) a c, s.served n 0xA10 2 = true → s.dev.ksBusy = false → (s.dev.arg n 1).toNat = a →
    (s.dev.arg n 2).toNat = c → 0 < c → c ≤ 254 → a + c ≤ 0x10000 →
    ((List.range c).all fun i => !s.ks.bad.contains (a + i)) = true →
    exec (.ksRead n) s = .next (s.afterCmd fun d => d.reply n stOK ((List.range c).map fun i => s.ks.rd (a + i)))) ∧
  (∀ s (n : Mbx) a c, s.served n 0xA10 2 = true → s.dev.ksBusy = false → (s.dev.arg n 1).toNat = a →
    (s.dev.arg n 2).toNat = c → 0 < c → c ≤ 254 → a + c ≤ 0x10000 →
    ((List.range c).any fun i => s.ks.bad.contains (a + i)) = true →
    exec (.ksRead n) s = .next (s.afterCmd fun d =>
      (d.error 21 1 0 0 0 0).reply n stPOISONED ((List.range c).map fun i => s.ks.rd (a + i)))) ∧
  (∀ s (n : Mbx) sec, s.served n 0xA11 1 = true → s.dev.ksBusy = false → (s.dev.arg n 1).toNat = sec → 12 ≤ sec →
    sec ≤ 63 → n.val < 14 →
    exec (.ksErase n) s = .next (
      let new := !s.ks.pend.contains sec
      let k : KeepStore := { s.ks with pend := if new then s.ks.pend ++ [sec] else s.ks.pend }
      { s with ks := k }.afterCmd fun d =>
        let d := (d.ksStart (.erase n sec) 1).hold n
        ({ d with err := { d.err with ksNew := new } } : Dev).ksPendShow k)) ∧
  (∀ s (n : Mbx) len a, let ws := (s.dev.mb n).req.drop 2
    s.served n 0xA12 (len + 2) = true → s.dev.ksBusy = false → (s.dev.arg n 1).toNat = a → 0x3000 ≤ a → a ≤ 0xFFFF →
    a % 1024 + ws.length ≤ 1024 → (ws.all fun w => bitsOf w 35 32 == 0) = true → n.val < 14 →
    s.ks.pend.contains (a / 1024) = false → ((List.range ws.length).all fun i => s.ks.rd (a + i) == erasedW) = true →
    exec (.ksProgram n) s = .next (s.afterCmd fun d => (d.ksStart (.program n a ws) 2).hold n)) ∧
  (∀ s (n : Mbx) len t f, s.served n 0xA13 len = true → (len = 1 ∨ len = 2) → s.dev.ksBusy = false →
    (s.dev.arg n 1).toNat = t → (s.dev.arg n 2).toNat = f → t < 0x80 → t ≠ 0x20 → f ≤ 1021 →
    exec (.ksRecord n) s = .next (s.afterCmd fun d => (d.ksStart (.record n t f) 3).hold n)) ∧
  (∀ s n sec, s.live = true → s.dev.err.ksOp = some (.erase n sec) →
    exec .ksOperationDone s = .next ({ s with ks := s.ks.erase sec }.afterBb fun d =>
      ((d.ksEnd.inc F.ksStat_ERASES 1).ksPendShow (s.ks.erase sec)).finish n stOK [])) ∧
  (∀ s n a ws, s.live = true → s.dev.err.ksOp = some (.program n a ws) →
    exec .ksOperationDone s = .next ({ s with ks := s.ks.wrs a ws }.afterBb fun d => d.ksEnd.finish n stOK [])) ∧
  (∀ s n t f, s.live = true → s.dev.err.ksOp = some (.record n t f) →
    exec .ksOperationDone s = .next (s.afterBb fun d => d.ksEnd.ksRecordAnswer n t f s.ks))

/-- Reset and the power states (R47, R451, R455, R457, R458, R461, R463): VAON, reset release, RST_N, die pairing,
PWR_STANDBY and standby entry, wake, and the loss of the supply. It rests on choices of the model: assumptions 6, 7,
25, 43, 44, 188, 189. -/
def Obligations.ResetAndStandby : Prop :=
  (∀ s, exec .vaonApplied s = .next { s with
    dev := ((forN 16 (fun k d => d.emit (.drive 1 k (d.failLevel k)))
      ({ s.dev with cp := { s.dev.cp with bbHalt := false } } : Dev).toReset).modPwr fun p => { p with src := 2 }).railEn
        true }) ∧
  (∀ s, s.dev.pwr.railOff = false → s.dev.pwr.held = true → s.dev.pwr.src ≠ 0 →
    exec .resetRelease s = .next { s with dev := (forN 8 (fun n d =>
        if d.fb (F.lnkCfg_EN n) then (d.setF (F.lnkStat_STATE n) 1).emit (.training n (d.ownPeer n)) else d)
      (forN 4 (fun p d => if d.fb (F.fiuCfg_EN p) then d.portOn p else d)
        (forN 16 (fun k d => d.emit (.drive 1 k 0)) ((s.dev.toReset.modPwr fun p => { p with held := false, src := 0 }).setF
          F.pwrStat_WAKE_SRC s.dev.pwr.src)))) }) ∧
  (∀ s, s.live = true → exec .rstNAsserted s = .next { ksInterrupt s with dev := (ksInterrupt s).dev.quiet.toReset }) ∧
  (∀ s, s.live = true → s.dev.bootState = 0 → exec .diePairingDone s = .next (s.after fun d =>
    let z := s.fuses
    let k := s.ks
    let d := ((d.setBoot 1).setF F.cpDebug_FUSE_OWNER (bit z.owner)).setF F.cpDebug_FUSE_DEBUG (bit z.debug)
    let d := if z.debug then d.setF F.cpDebug_LOCK 1 else d
    let d := each [0x01, 0x02, 0x03, 0x10] (fun t d => d.ksReport t (k.choose t)) d
    let pl := fun (t : Nat) => (k.choose t).used.map (·.payload)
    let d := { d with serial := ((pl 0x01).map fun ws => Config.serialOf ws % 2 ^ 72).getD 0 }
    let trim := fun (i : Nat) => ((pl 0x02).map fun ws => Config.sensorTrim ws i).getD 0
    let d := forN 8 (fun i d => d.modPwr fun p => { p with
      fact := mset p.fact i (trim i), trim := mset p.trim i (trim i) }) d
    let d := match pl 0x10 with
      | some ws => (d.setF F.topPkg_ID (bitsOf (nth ws 0) 15 0)).setF F.topPkg_ASSIGNED 1
      | none => d
    d.ksShowPend k)) ∧
  (∀ s (n : Mbx), s.served n 0xB00 0 = true → ((List.range 16).all fun l => s.dev.felState l == 0) = true →
    ((List.range 1024).all fun k => !s.dev.fchRun k) = true → s.dev.f F.cohStat_STATE ≠ 2 →
    exec (.pwrStandby n) s = .next (s.afterCmd fun d => (d.modPwr fun p => { p with standby := true }).reply n stOK [])) ∧
  (∀ s, s.live = true → s.dev.pwr.standby = true →
    exec .standbyEntry s = .next (State.settle { ksFinish { s with dev := s.dev.event 0xB01 0 0 } with
      dev := ((ksFinish { s with dev := s.dev.event 0xB01 0 0 }).dev.settle).stop 3 false })) ∧
  (∀ s, (s.dev.pwr.railOff || s.dev.pwr.standby) = true → s.dev.pwr.cool = 0 →
    exec .wakeRequest s = .next { s with dev := s.dev.modPwr fun p => { p with wake := true } }) ∧
  (∀ s, 0 < s.dev.pwr.cool → exec .wakeRequest s = .next s) ∧
  (∀ s, s.dev.pwr.railOff = true → s.dev.pwr.wake = true →
    exec .wakeRailEnable s = .next { s with
      dev := (s.dev.modPwr fun p => { p with wake := false, src := 1 }).railEn true }) ∧
  (∀ s, s.live = true →
    exec .supplyLoss s = .next (State.settle { ksInterrupt { s with dev := (s.dev.error 22 3 0 0 0 0).settle } with
      dev := ((ksInterrupt { s with dev := (s.dev.error 22 3 0 0 0 0).settle }).dev.stop 2 true).modPwr fun p =>
        { p with src := 3 } })) ∧
  (∀ s x, s.dev.pwr.held = true → s.dev.pwr.stopNow = some x → x.cause = 3 →
    exec .supplyLoss s = .next { s with dev := (((s.dev.setF F.errStop_CAUSE 2).modPwr fun p => { p with
      stopNow := some { x with cause := 2 }, src := 3 })).railEn true })

/-- Rails, sensors, throttling and trims (R280, R458, R460, R464 to R467). It rests on choices of the model:
assumptions 25, 26, 70, 71. -/
def Obligations.RailsAndSensors : Prop :=
  (∀ s mv cur, s.live = true → exec (.railMonitorSample mv cur) s = .next (s.after fun d =>
    let v := fun r => (mv.getD r 0).toNat
    let c := fun r => (cur.getD r 0).toNat
    let d := forN 16 (fun r d => d.railSample r (v r) (c r)) d
    let sum := (List.range 16).foldl (fun a r => a + v r * c r) 0
    d.fresh.2.setF F.pwrTotal_P (sum / 10000 + (if sum % 10000 = 0 then 0 else d.fresh.1 % 2)))) ∧
  (∀ s (i : Fin 12) t, s.live = true →
    (10 ≤ i.val ∨ mget s.dev.pwr.hot i = false ∨ (s.dev.sensorRead i t.toNat).1 < 0x730) →
    exec (.sensorConversion i t) s = .next (s.after fun d =>
      let r := d.sensorRead i t.toNat
      let d := r.2.warnEval i r.1
      if 10 ≤ i.val then d
      else (d.coldEval i r.1).modPwr fun p => { p with hot := mset p.hot i.val (decide (r.1 ≥ 0x730)) })) ∧
  (∀ s (i : Fin 12) (t : BitVec 12), let r := s.dev.sensorRead i t.toNat
    let d := ((r.2.warnEval i r.1).coldEval i r.1).modPwr fun p => { p with hot := mset p.hot i.val true }
    let det := toW (bitsOf (d.reg (R.thmSens i)) 11 0)
    s.live = true → i.val < 10 → mget s.dev.pwr.hot i = true → r.1 ≥ 0x730 →
    exec (.sensorConversion i t) s = .next (
      let u := ksShutdown { s with dev := ((d.error 22 3 i 0 0xB12 det).event 0xB12 i det).settle }
      State.settle { u with dev := (u.dev.stop 1 false).modPwr fun p => { p with cool := edgesPerSec } })) ∧
  (∀ s, s.live = true → exec .throttleUpdate s = .next (s.after fun d => forN 8 (fun r d =>
    let old := d.thrStep r
    let thr := sOf 12 (F.thmCfg_THROTTLE.of d.thmCfg)
    let new := if d.temp r ≥ thr && old < 4 then old + 1
      else if d.temp r < thr - F.thmCfg_HYST.of d.thmCfg && old > 0 then old - 1 else old
    let d := if old > 0 then d.inc F.thmCnt_THR_MS 10 else d
    if new = old then d
    else
      let det := mkW [(14, 12, new), (2, 0, r)]
      ((((d.setF F.thmStat_STEP (d.f F.thmStat_STEP - old * 2 ^ (3 * r) + new * 2 ^ (3 * r))).inc
        F.thmCnt_STEP_CNT 1).error 22 2 r 0 0xB11 det).event 0xB11 r det)) d)) ∧
  (∀ s, s.live = true → exec .trimUpdate s = .next (s.after fun d => forN 8 (fun i d =>
    let diff := d.temp i - d.temp (8 + i / 4)
    let old := mget d.pwr.trim i
    let want := if diff > 0 then old - 1 else if diff < 0 then old + 1 else old
    let far := (want - mget d.pwr.fact i).natAbs
    if want = old ∨ far > 64 then d
    else
      let d := (d.modPwr fun p => { p with trim := mset p.trim i want }).inc F.calTrim_TRIM_STEPS 1
      if far = 64 then d.event 0x604 0 (toW i) else d) d))

/-- Loop inputs and outputs (R468 to R473): a sample of an enabled input, the write of a setpoint, a sample of an
enabled output, its watchdog, and LOOP_GET. It rests on choices of the model: assumptions 171, 181, 189. -/
def Obligations.LoopChannels : Prop :=
  (∀ s (k : Fin 16) raw, s.live = true → s.dev.fb (F.loopInCfg_EN k) = true →
    exec (.loopInSample k raw) s = .next (s.after fun d =>
      let i := loopScale raw.toNat (d.f (F.loopInTrim_GAIN k)) (d.f (F.loopInTrim_OFS k))
      let cls := loopClass i
      let was := d.f (F.loopInVal_CLASS k)
      let d := (d.setF (F.loopInVal_I k) i).setF (F.loopInVal_CLASS k) cls
      let d := if cls = was ∨ cls = 0 then d
        else if cls ≤ 2 then d.inc (F.loopInCnt_RANGE k) 1
        else (d.inc (F.loopInCnt_FAIL k) 1).event 0xB20 k (toW cls)
      d.loopSlot k cls i)) ∧
  (∀ s p (k : Fin 16) w, s.live = true → s.dev.tieOf 4 k = none →
    exec (.loopSetWrite p k w) s = .next (s.after fun d =>
      ((d.writeByType p (R.loopOutSet k) w).setF (F.loopOutAct_FAILSAFE k) 0).modLoopOut k fun x => { x with
        pend := some (bitsOf w 24 0), setEdge := s.dev.epo.edges + 1 })) ∧
  (∀ s p (k : Fin 16) w x, s.live = true → s.dev.tieOf 4 k = some x →
    exec (.loopSetWrite p k w) s = .next (s.after fun d =>
      let d := ({ d.undo x.before x.after with ties := d.ties.erase x } : Dev)
      let d := (d.modLoopOut k fun x => { x with fail := false }).loopDrive k
      let d := (d.writeByType p (R.loopOutSet k) w).setF (F.loopOutAct_FAILSAFE k) 0
      d.modLoopOut k fun x => { x with pend := some (bitsOf w 24 0), setEdge := d.epo.edges + 1 })) ∧
  (∀ s (k : Fin 16) cur vloop v, s.live = true → s.dev.fb (F.loopOutCfg_EN k) = true → 1800 ≤ vloop.toNat →
    (mget s.dev.pwr.loopOut k.val).pend = some v →
    exec (.loopOutSample k cur vloop) s = .next (s.after fun d =>
      let d := (d.setF F.loopStat_VLOOP vloop.toNat).modLoopOut k fun x => { x with pend := none, set := v, fail := false }
      let d := if d.loopCmd k = (mget d.pwr.loopOut k).level then d
        else (d.modLoopOut k fun x => { x with level := d.loopCmd k }).emit (.drive 1 k (d.loopCmd k))
      (d.setF (F.loopOutAct_I k) cur.toNat).loopJudge k cur.toNat)) ∧
  (∀ s (k : Fin 16), s.live = true → s.dev.f (F.loopOutCfg_WDOG k) ≠ 0 →
    (mget s.dev.pwr.loopOut k).setEdge ≠ s.dev.epo.edges + 1 →
    exec (.loopWatchdogExpiry k) s = .next (
      let t := s.after fun d =>
        let d := d.modLoopOut k fun x => { x with fail := true }
        let d := (d.setF (F.loopOutAct_FAILSAFE k) 1).event 0xB22 k 0
        if d.failLevel k = (mget d.pwr.loopOut k).level then d
        else (d.modLoopOut k fun x => { x with level := d.failLevel k }).emit (.drive 1 k (d.failLevel k))
      { t with dev := t.dev.note 4 k (!s.dev.fb (F.loopOutAct_FAILSAFE k)) s.dev })) ∧
  (∀ s (k : Fin 16), s.live = true → (mget s.dev.pwr.loopOut k).setEdge = s.dev.epo.edges + 1 →
    exec (.loopWatchdogExpiry k) s = .next (s.after id)) ∧
  (∀ s (n : Mbx), s.served n 0xB01 0 = true →
    exec (.loopGet n) s = .next (s.afterCmd fun d => d.reply n stOK
      ((List.range 16).map (fun k => d.reg (R.loopInVal k)) ++ (List.range 16).map (fun k => d.reg (R.loopOutAct k)) ++
        [d.reg R.loopStat])))
end

