-- ==== Sys2Proof/Laws/Command.lean ====
section
/-! SUPPORT. What the shared frame of the meanings does: the gate of reset, and the taking of a mailbox command. -/

namespace Sys2Proof.Machine

/-- What a memory read depends on. -/
theorem hbmLoc_congr {d e : Dev} (h1 : d.regs = e.regs) (h2 : d.err = e.err) (s a : Nat) :
    d.hbmLoc s a = e.hbmLoc s a := by
  have hb : d.fb = e.fb := by funext fl; simp only [Dev.fb, Dev.f, Dev.reg, h1]
  have hf : d.f = e.f := by funext fl; simp only [Dev.f, Dev.reg, h1]
  unfold Dev.hbmLoc
  rw [hb, hf, h2]

theorem rdP_congr {d e : Dev} (h1 : d.regs = e.regs) (h2 : d.err = e.err) (h3 : d.mem = e.mem)
    (h4 : d.uncorr = e.uncorr) (a : Nat) : d.rdP a = e.rdP a := by
  have : d.hbmLoc = e.hbmLoc := by funext s a; exact hbmLoc_congr h1 h2 s a
  unfold Dev.rdP
  rw [this, h2, h3, h4]

theorem live_held {s : State} (h : s.live = true) : s.dev.pwr.held = false := by
  simpa [State.live] using h

theorem gate_live {s : State} (h : s.live = true) (f : State → State) : gate f s = .next (f s).settle := by
  simp [gate, live_held h]

theorem lift_live {s : State} (h : s.live = true) (f : Dev → Dev) : lift f s = .next (s.after f) := by
  simp [lift, gate_live h, State.after, State.settle]

theorem liftBb_live {s : State} (h : s.live = true) (f : Dev → Dev) : liftBb f s = .next (s.afterBb f) := by
  simp [liftBb, gate_live h, State.afterBb]

theorem liftRd_live {s : State} (h : s.live = true) (f : Fuses → KeepStore → Dev → Dev) :
    liftRd f s = .next (s.after (f s.fuses s.ks)) := by
  simp [liftRd, gate_live h, State.after, State.settle]

theorem gate_held {s : State} (h : s.live = false) (f : State → State) : gate f s = .next s := by
  have : s.dev.pwr.held = true := by simpa [State.live] using h
  simp [gate, this]

theorem lift_held {s : State} (h : s.live = false) (f : Dev → Dev) : lift f s = .next s := gate_held h _

theorem liftBb_held {s : State} (h : s.live = false) (f : Dev → Dev) : liftBb f s = .next s := gate_held h _

theorem liftRd_held {s : State} (h : s.live = false) (f : Fuses → KeepStore → Dev → Dev) :
    liftRd f s = .next s := gate_held h _

theorem served_live {s : State} {n op len : Nat} (h : s.served n op len = true) : s.live = true := by
  simp only [State.served, Bool.and_eq_true] at h; exact h.1.1.1

/-- A served command is executed. -/
theorem takeCmd_served {s : State} {n op len : Nat} (h : s.served n op len = true) (lenOk : Nat → Bool)
    (hl : lenOk len = true) (k : Dev → Dev) : s.dev.takeCmd n op lenOk k = s.dev.cmdDone k := by
  simp only [State.served, Dev.front, Bool.and_eq_true, beq_iff_eq, Bool.not_eq_eq_eq_not, Bool.not_true] at h
  obtain ⟨⟨⟨_, hr⟩, hb⟩, ⟨hd, hop⟩, hlen⟩ := h
  have hl' : lenOk (hdrLen (s.dev.popMbx.arg n 0)) = true := by
    have : hdrLen (s.dev.popMbx.arg n 0) = len := hlen
    rw [this]; exact hl
  simp only [Dev.takeCmd, hd, Dev.serves, hr, hop, Bool.true_or, and_self, if_true, hb, Bool.false_and, hl',
    Bool.not_true, Dev.cmdDone, Dev.taken]
  rfl

/-- A served command of the boot set is executed. -/
theorem takeCmd_servedBoot {s : State} {n op len : Nat} (h : s.servedBoot n op len = true) (lenOk : Nat → Bool)
    (hl : lenOk len = true) (k : Dev → Dev) : s.dev.takeCmd n op lenOk k = s.dev.cmdDone k := by
  simp only [State.servedBoot, Dev.front, Bool.and_eq_true, beq_iff_eq, Bool.not_eq_eq_eq_not, Bool.not_true,
    bne_iff_ne, ne_eq] at h
  obtain ⟨⟨⟨⟨⟨⟨_, hr⟩, hb⟩, ha⟩, hv⟩, hp⟩, ⟨hd, hop⟩, hlen⟩ := h
  have hl' : lenOk (hdrLen (s.dev.popMbx.arg n 0)) = true := by
    have : hdrLen (s.dev.popMbx.arg n 0) = len := hlen
    rw [this]; exact hl
  have hp' : ¬ (s.dev.popMbx.pathOf n = 3) := hp
  have hr' : s.dev.popMbx.running = false := hr
  simp only [Dev.takeCmd, hd, Dev.serves, ha, hv, hop, Bool.or_true, Bool.and_self, and_self, if_true, hb,
    hr', hl', Bool.not_true, Dev.cmdDone, Dev.taken, Bool.false_or, Bool.true_and, beq_iff_eq, hp']
  rfl

theorem lift_served {s : State} {n op len : Nat} (h : s.served n op len = true) (lenOk : Nat → Bool)
    (hl : lenOk len = true) (k : Dev → Dev) : lift (Dev.takeCmd n op lenOk k) s = .next (s.afterCmd k) := by
  rw [lift_live (served_live h), State.afterCmd, State.after, State.after, takeCmd_served h lenOk hl]

theorem servedBoot_live {s : State} {n op len : Nat} (h : s.servedBoot n op len = true) : s.live = true := by
  simp only [State.servedBoot, Bool.and_eq_true] at h; exact h.1.1.1.1.1.1

theorem lift_servedBoot {s : State} {n op len : Nat} (h : s.servedBoot n op len = true) (lenOk : Nat → Bool)
    (hl : lenOk len = true) (k : Dev → Dev) : lift (Dev.takeCmd n op lenOk k) s = .next (s.afterCmd k) := by
  rw [lift_live (servedBoot_live h), State.afterCmd, State.after, State.after, takeCmd_servedBoot h lenOk hl]

theorem liftRd_served {s : State} {n op len : Nat} (h : s.served n op len = true) (lenOk : Nat → Bool)
    (hl : lenOk len = true) (k : Fuses → KeepStore → Dev → Dev) :
    liftRd (fun f ks => Dev.takeCmd n op lenOk (k f ks)) s = .next (s.afterCmd (k s.fuses s.ks)) := by
  rw [liftRd_live (served_live h), State.afterCmd, State.after, State.after, takeCmd_served h lenOk hl]

theorem liftBb_served {s : State} {n op len : Nat} (h : s.served n op len = true) (lenOk : Nat → Bool)
    (hl : lenOk len = true) (k : Dev → Dev) : liftBb (Dev.takeCmd n op lenOk k) s = .next (s.afterCmdBb k) := by
  rw [liftBb_live (served_live h), State.afterCmdBb, State.afterBb, State.afterBb, takeCmd_served h lenOk hl]

theorem reaches_live {s : State} {p : Path} {off : Nat} (h : s.reaches p off = true) : s.live = true := by
  simp only [State.reaches, Bool.and_eq_true] at h; exact h.1.1

/-- An access that reaches a register passes the tests of refusal. -/
theorem reaches_passes {s : State} {p : Path} {off : Nat} (h : s.reaches p off = true) :
    s.dev.regRefused p off = false ∧ ¬ off ≥ 0x7FE000 := by
  simp only [State.reaches, Bool.and_eq_true, Bool.not_eq_eq_eq_not, Bool.not_true, decide_eq_true_eq] at h
  exact ⟨h.1.2, Nat.not_le.mpr h.2⟩

theorem issues_live {s : State} {e code : Nat} {pin late : Bool} (h : s.issues e code pin late = true) :
    s.live = true := by
  simp only [State.issues, Bool.and_eq_true] at h; exact h.1.1.1.1.1

/-- An occurrence that issues: its action, then what every occurrence leaves (R143, R146, R148, R150). -/
theorem schIssue_issues {s : State} {e code : Nat} {pin late : Bool} (h : s.issues e code pin late = true)
    (act : Bool → Dev → Nat × Dev) :
    s.dev.schIssue e code pin act =
      (act late (if pin then s.dev else s.dev.issueSlot)).2.schAfter e
        (act late (if pin then s.dev else s.dev.issueSlot)).1 late := by
  simp only [State.issues, Bool.and_eq_true, beq_iff_eq, Option.isNone_iff_eq_none, Bool.or_eq_true,
    decide_eq_true_eq] at h
  obtain ⟨⟨⟨⟨⟨_, ha⟩, hd⟩, hp⟩, hc⟩, ht⟩ := h
  unfold Dev.schIssue
  rw [if_neg (by simp [ha]), hd, hp]
  cases pin with
  | true => simp [ht]
  | false =>
    have : ¬ (16 ≤ s.dev.issuedHere) := by simpa using hc
    simp [this, ht, Dev.issueSlot]

/-! Taking the request leaves everything but the doorbell order. -/

@[simp] theorem taken_regs (d : Dev) : d.taken.regs = d.regs := rfl
@[simp] theorem taken_reg (d : Dev) (o : Nat) : d.taken.reg o = d.reg o := rfl
@[simp] theorem taken_f (d : Dev) (fl : Fld) : d.taken.f fl = d.f fl := rfl
@[simp] theorem taken_fb (d : Dev) (fl : Fld) : d.taken.fb fl = d.fb fl := rfl
@[simp] theorem taken_mbx (d : Dev) : d.taken.mbx = d.mbx := rfl
@[simp] theorem taken_mb (d : Dev) (n : Nat) : d.taken.mb n = d.mb n := rfl
@[simp] theorem taken_arg (d : Dev) (n i : Nat) : d.taken.arg n i = d.arg n i := rfl
@[simp] theorem taken_mem (d : Dev) : d.taken.mem = d.mem := rfl
@[simp] theorem taken_queues (d : Dev) : d.taken.queues = d.queues := rfl
@[simp] theorem taken_epo (d : Dev) : d.taken.epo = d.epo := rfl
@[simp] theorem taken_now (d : Dev) : d.taken.now = d.now := rfl
@[simp] theorem taken_running (d : Dev) : d.taken.running = d.running := rfl
@[simp] theorem taken_err (d : Dev) : d.taken.err = d.err := rfl
@[simp] theorem taken_sch (d : Dev) : d.taken.sch = d.sch := rfl
@[simp] theorem taken_ing (d : Dev) : d.taken.ing = d.ing := rfl
@[simp] theorem taken_tsk (d : Dev) : d.taken.tsk = d.tsk := rfl
@[simp] theorem taken_fiu (d : Dev) : d.taken.fiu = d.fiu := rfl
@[simp] theorem taken_acc (d : Dev) : d.taken.acc = d.acc := rfl
@[simp] theorem taken_rte (d : Dev) : d.taken.rte = d.rte := rfl
@[simp] theorem taken_pwr (d : Dev) : d.taken.pwr = d.pwr := rfl
@[simp] theorem taken_cap (d : Dev) : d.taken.cap = d.cap := rfl
@[simp] theorem taken_coh (d : Dev) : d.taken.coh = d.coh := rfl
@[simp] theorem taken_cal (d : Dev) : d.taken.cal = d.cal := rfl
@[simp] theorem taken_uncorr (d : Dev) : d.taken.uncorr = d.uncorr := rfl
@[simp] theorem taken_hbmLoc (d : Dev) (s a : Nat) : d.taken.hbmLoc s a = d.hbmLoc s a := rfl
@[simp] theorem taken_rdP (d : Dev) (a : Nat) : d.taken.rdP a = d.rdP a := rdP_congr rfl rfl rfl rfl a
@[simp] theorem taken_rd (d : Dev) (a : Nat) : d.taken.rd a = d.rd a := by rw [Dev.rd, Dev.rd, taken_rdP]

/-! The count of an issue leaves everything but the scheduler's count. -/

@[simp] theorem issueSlot_regs (d : Dev) : d.issueSlot.regs = d.regs := rfl
@[simp] theorem issueSlot_mbx (d : Dev) : d.issueSlot.mbx = d.mbx := rfl
@[simp] theorem issueSlot_mem (d : Dev) : d.issueSlot.mem = d.mem := rfl
@[simp] theorem issueSlot_queues (d : Dev) : d.issueSlot.queues = d.queues := rfl
@[simp] theorem issueSlot_epo (d : Dev) : d.issueSlot.epo = d.epo := rfl
@[simp] theorem issueSlot_err (d : Dev) : d.issueSlot.err = d.err := rfl
@[simp] theorem issueSlot_ing (d : Dev) : d.issueSlot.ing = d.ing := rfl
@[simp] theorem issueSlot_tsk (d : Dev) : d.issueSlot.tsk = d.tsk := rfl
@[simp] theorem issueSlot_fiu (d : Dev) : d.issueSlot.fiu = d.fiu := rfl
@[simp] theorem issueSlot_acc (d : Dev) : d.issueSlot.acc = d.acc := rfl
@[simp] theorem issueSlot_rte (d : Dev) : d.issueSlot.rte = d.rte := rfl
@[simp] theorem issueSlot_pwr (d : Dev) : d.issueSlot.pwr = d.pwr := rfl
@[simp] theorem issueSlot_cap (d : Dev) : d.issueSlot.cap = d.cap := rfl
@[simp] theorem issueSlot_coh (d : Dev) : d.issueSlot.coh = d.coh := rfl
@[simp] theorem issueSlot_cal (d : Dev) : d.issueSlot.cal = d.cal := rfl
@[simp] theorem issueSlot_uncorr (d : Dev) : d.issueSlot.uncorr = d.uncorr := rfl
@[simp] theorem issueSlot_cp (d : Dev) : d.issueSlot.cp = d.cp := rfl
@[simp] theorem issueSlot_reg (d : Dev) (o : Nat) : d.issueSlot.reg o = d.reg o := rfl
@[simp] theorem issueSlot_f (d : Dev) (fl : Fld) : d.issueSlot.f fl = d.f fl := rfl
@[simp] theorem issueSlot_fb (d : Dev) (fl : Fld) : d.issueSlot.fb fl = d.fb fl := rfl
@[simp] theorem issueSlot_now (d : Dev) : d.issueSlot.now = d.now := rfl
@[simp] theorem issueSlot_ents (d : Dev) : d.issueSlot.sch.ents = d.sch.ents := rfl
@[simp] theorem issueSlot_schE (d : Dev) (e : Nat) : d.issueSlot.schE e = d.schE e := rfl
@[simp] theorem issueSlot_rdP (d : Dev) (a : Nat) : d.issueSlot.rdP a = d.rdP a := rdP_congr rfl rfl rfl rfl a
@[simp] theorem issueSlot_rd (d : Dev) (a : Nat) : d.issueSlot.rd a = d.rd a := by rw [Dev.rd, Dev.rd, issueSlot_rdP]
@[simp] theorem issueSlot_schW (d : Dev) (e i : Nat) : d.issueSlot.schW e i = d.schW e i := issueSlot_rd d _
@[simp] theorem issueSlot_schArg (d : Dev) (e i : Nat) : d.issueSlot.schArg e i = d.schArg e i := issueSlot_rd d _
@[simp] theorem issueSlot_schAxis (d : Dev) (e : Nat) : d.issueSlot.schAxis e = d.schAxis e := by
  rw [Dev.schAxis, Dev.schAxis, issueSlot_schW]
@[simp] theorem issueSlot_schPeriod (d : Dev) (e : Nat) : d.issueSlot.schPeriod e = d.schPeriod e := by
  rw [Dev.schPeriod, Dev.schPeriod, issueSlot_schW, issueSlot_schW]
@[simp] theorem issueSlot_schTarget (d : Dev) (e j : Nat) : d.issueSlot.schTarget e j = d.schTarget e j := by
  rw [Dev.schTarget, Dev.schTarget, issueSlot_schAxis, issueSlot_schW, issueSlot_schW, issueSlot_schPeriod]

end Sys2Proof.Machine
end

