-- ==== Sys2Proof/Laws/Map.lean ====
section
/-! SUPPORT. The laws of the sparse map and of the fields of a word: read after write, other keys and fields untouched,
the canonical form kept. -/

namespace Sys2Proof.Machine

/-! ### The sparse map -/

section Map
variable {α : Type} (dflt : Nat → α)

theorem mapGet_insert_same (m : SMap α) (k : Nat) (v : α) : mapGet dflt (mapInsert k v m) k = v := by
  induction m with
  | nil => simp [mapInsert, mapGet]
  | cons p m ih =>
    obtain ⟨k', v'⟩ := p
    by_cases h1 : k < k'
    · simp [mapInsert, h1, mapGet]
    · by_cases h2 : k = k'
      · simp [mapInsert, h2, mapGet]
      · simp [mapInsert, h1, h2, mapGet, ih]

theorem mapGet_insert_ne (m : SMap α) {k j : Nat} (v : α) (h : j ≠ k) :
    mapGet dflt (mapInsert k v m) j = mapGet dflt m j := by
  induction m with
  | nil => simp [mapInsert, mapGet, h]
  | cons p m ih =>
    obtain ⟨k', v'⟩ := p
    by_cases h1 : k < k'
    · simp [mapInsert, h1, mapGet, h]
    · by_cases h2 : k = k'
      · subst h2; simp [mapInsert, mapGet, h]
      · simp [mapInsert, h1, h2, mapGet, ih]

theorem mapGet_erase_same (m : SMap α) (k : Nat) : mapGet dflt (mapErase m k) k = dflt k := by
  induction m with
  | nil => rfl
  | cons p m ih =>
    obtain ⟨k', v'⟩ := p
    by_cases h : k' = k
    · simpa [mapErase, h] using ih
    · have h' : ¬ k = k' := fun e => h e.symm
      simpa [mapErase, h, mapGet, h'] using ih

theorem mapGet_erase_ne (m : SMap α) {k j : Nat} (h : j ≠ k) :
    mapGet dflt (mapErase m k) j = mapGet dflt m j := by
  induction m with
  | nil => rfl
  | cons p m ih =>
    obtain ⟨k', v'⟩ := p
    by_cases e : k' = k
    · have h' : ¬ j = k' := by omega
      simpa [mapErase, e, mapGet, h, h'] using ih
    · simp only [mapErase, List.filter_cons, bne_iff_ne, ne_eq, e, not_false_eq_true, if_true, mapGet]
      split
      · rfl
      · exact ih

variable [DecidableEq α]

@[simp] theorem mapGet_mapSet_same (m : SMap α) (k : Nat) (v : α) : mapGet dflt (mapSet dflt m k v) k = v := by
  unfold mapSet; split
  · next h => rw [mapGet_erase_same, h]
  · exact mapGet_insert_same dflt m k v

theorem mapGet_mapSet_ne (m : SMap α) {k j : Nat} (v : α) (h : j ≠ k) :
    mapGet dflt (mapSet dflt m k v) j = mapGet dflt m j := by
  unfold mapSet; split
  · exact mapGet_erase_ne dflt m h
  · exact mapGet_insert_ne dflt m v h

omit [DecidableEq α] in
theorem all_insert (m : SMap α) (k j : Nat) (v : α) (hj : j < k) (h : m.all (fun p => j < p.1) = true) :
    (mapInsert k v m).all (fun p => j < p.1) = true := by
  induction m with
  | nil => simpa [mapInsert] using hj
  | cons p m ih =>
    obtain ⟨k', v'⟩ := p
    simp only [List.all_cons, Bool.and_eq_true, decide_eq_true_eq] at h
    unfold mapInsert; split
    · simp [hj, h.1, h.2]
    · split
      · simp [hj, h.2]
      · simp [h.1, ih h.2]

omit [DecidableEq α] in
theorem all_lt_trans (m : SMap α) {j k : Nat} (hj : j < k) (h : m.all (fun p => k < p.1) = true) :
    m.all (fun p => j < p.1) = true := by
  simp only [List.all_eq_true, decide_eq_true_eq] at h ⊢
  exact fun p hp => Nat.lt_trans hj (h p hp)

theorem mapWf_insert (m : SMap α) (k : Nat) (v : α) (hv : v ≠ dflt k) (h : mapWf dflt m = true) :
    mapWf dflt (mapInsert k v m) = true := by
  induction m with
  | nil => simp [mapInsert, mapWf, hv]
  | cons p m ih =>
    obtain ⟨k', v'⟩ := p
    simp only [mapWf, Bool.and_eq_true, bne_iff_ne, ne_eq] at h
    obtain ⟨⟨h1, h2⟩, h3⟩ := h
    unfold mapInsert; split
    · next hk =>
      simp only [mapWf, Bool.and_eq_true, bne_iff_ne, ne_eq, List.all_cons, decide_eq_true_eq]
      exact ⟨⟨hv, hk, all_lt_trans m hk h2⟩, ⟨h1, h2⟩, h3⟩
    · split
      · next hk =>
        subst hk
        simp only [mapWf, Bool.and_eq_true, bne_iff_ne, ne_eq]
        exact ⟨⟨hv, h2⟩, h3⟩
      · next hk hk' =>
        simp only [mapWf, Bool.and_eq_true, bne_iff_ne, ne_eq]
        exact ⟨⟨h1, all_insert m k k' v (by omega) h2⟩, ih h3⟩

theorem mapWf_erase (m : SMap α) (k : Nat) (h : mapWf dflt m = true) : mapWf dflt (mapErase m k) = true := by
  induction m with
  | nil => rfl
  | cons p m ih =>
    obtain ⟨k', v'⟩ := p
    simp only [mapWf, Bool.and_eq_true, bne_iff_ne, ne_eq] at h
    obtain ⟨⟨h1, h2⟩, h3⟩ := h
    by_cases e : k' = k
    · simpa [mapErase, e] using ih h3
    · simp only [mapErase, List.filter_cons, bne_iff_ne, ne_eq, e, not_false_eq_true, if_true, mapWf, Bool.and_eq_true]
      refine ⟨⟨h1, ?_⟩, ih h3⟩
      simp only [List.all_eq_true, decide_eq_true_eq] at h2 ⊢
      exact fun p hp => h2 p (List.mem_of_mem_filter hp)

/-- Setting a key keeps the canonical form. -/
theorem mapWf_mapSet (m : SMap α) (k : Nat) (v : α) (h : mapWf dflt m = true) :
    mapWf dflt (mapSet dflt m k v) = true := by
  unfold mapSet; split
  · exact mapWf_erase dflt m k h
  · next hv => exact mapWf_insert dflt m k v hv h

end Map

@[simp] theorem mget_mset_same {α : Type} [DecidableEq α] [Inhabited α] (m : SMap α) (k : Nat) (v : α) :
    mget (mset m k v) k = v := mapGet_mapSet_same _ m k v

theorem mget_mset_ne {α : Type} [DecidableEq α] [Inhabited α] (m : SMap α) {k j : Nat} (v : α) (h : j ≠ k) :
    mget (mset m k v) j = mget m j := mapGet_mapSet_ne _ m v h

/-! ### Fields of words -/

theorem bitsOf_lt (w : Word) (hi lo : Nat) : bitsOf w hi lo < 2 ^ (hi + 1 - lo) :=
  Nat.mod_lt _ (Nat.two_pow_pos _)

theorem putBits_toNat (w : Word) {hi lo : Nat} (v : Nat) (h : lo ≤ hi) (h36 : hi < 36) :
    (putBits w hi lo v).toNat =
      w.toNat / 2 ^ (hi + 1) * 2 ^ (hi + 1) + v % 2 ^ (hi + 1 - lo) * 2 ^ lo + w.toNat % 2 ^ lo := by
  have hw : w.toNat < 2 ^ 36 := w.isLt
  have e1 : 2 ^ (hi + 1) = 2 ^ (hi + 1 - lo) * 2 ^ lo := by rw [← Nat.pow_add]; congr 1; omega
  have e2 : 2 ^ 36 = 2 ^ (36 - (hi + 1)) * 2 ^ (hi + 1) := by rw [← Nat.pow_add]; congr 1; omega
  have hv : v % 2 ^ (hi + 1 - lo) < 2 ^ (hi + 1 - lo) := Nat.mod_lt _ (Nat.two_pow_pos _)
  have hl : w.toNat % 2 ^ lo < 2 ^ lo := Nat.mod_lt _ (Nat.two_pow_pos _)
  have hq : w.toNat / 2 ^ (hi + 1) < 2 ^ (36 - (hi + 1)) := by
    rw [Nat.div_lt_iff_lt_mul (Nat.two_pow_pos _), ← e2]; exact hw
  have hb : v % 2 ^ (hi + 1 - lo) * 2 ^ lo + w.toNat % 2 ^ lo < 2 ^ (hi + 1) := by
    rw [e1]
    calc _ < v % 2 ^ (hi + 1 - lo) * 2 ^ lo + 2 ^ lo := by omega
      _ = (v % 2 ^ (hi + 1 - lo) + 1) * 2 ^ lo := by rw [Nat.add_mul, Nat.one_mul]
      _ ≤ _ := Nat.mul_le_mul_right _ hv
  unfold putBits toW
  rw [BitVec.toNat_ofNat, Nat.mod_eq_of_lt]
  rw [e2, Nat.add_assoc]
  calc _ < w.toNat / 2 ^ (hi + 1) * 2 ^ (hi + 1) + 2 ^ (hi + 1) := by omega
    _ = (w.toNat / 2 ^ (hi + 1) + 1) * 2 ^ (hi + 1) := by rw [Nat.add_mul, Nat.one_mul]
    _ ≤ _ := Nat.mul_le_mul_right _ hq

/-- A field reads back what was put there. -/
theorem bitsOf_putBits_same (w : Word) {hi lo : Nat} (v : Nat) (h : lo ≤ hi) (h36 : hi < 36) :
    bitsOf (putBits w hi lo v) hi lo = v % 2 ^ (hi + 1 - lo) := by
  have e1 : 2 ^ (hi + 1) = 2 ^ (hi + 1 - lo) * 2 ^ lo := by rw [← Nat.pow_add]; congr 1; omega
  have hl : w.toNat % 2 ^ lo < 2 ^ lo := Nat.mod_lt _ (Nat.two_pow_pos _)
  have : w.toNat / 2 ^ (hi + 1) * 2 ^ (hi + 1) + v % 2 ^ (hi + 1 - lo) * 2 ^ lo + w.toNat % 2 ^ lo =
      w.toNat % 2 ^ lo + (w.toNat / 2 ^ (hi + 1) * 2 ^ (hi + 1 - lo) + v % 2 ^ (hi + 1 - lo)) * 2 ^ lo := by
    rw [e1]; ring
  rw [bitsOf, putBits_toNat w v h h36, this, Nat.add_mul_div_right _ _ (Nat.two_pow_pos _), Nat.div_eq_of_lt hl,
    Nat.zero_add, Nat.add_comm, Nat.add_mul_mod_self_right, Nat.mod_mod]

/-- A field above the one put stays. -/
theorem bitsOf_putBits_above (w : Word) {hi lo hi' lo' : Nat} (v : Nat) (h : lo ≤ hi) (h36 : hi < 36) (hd : hi < lo') :
    bitsOf (putBits w hi lo v) hi' lo' = bitsOf w hi' lo' := by
  have e1 : 2 ^ (hi + 1) = 2 ^ (hi + 1 - lo) * 2 ^ lo := by rw [← Nat.pow_add]; congr 1; omega
  have e2 : 2 ^ lo' = 2 ^ (hi + 1) * 2 ^ (lo' - (hi + 1)) := by rw [← Nat.pow_add]; congr 1; omega
  have hv : v % 2 ^ (hi + 1 - lo) < 2 ^ (hi + 1 - lo) := Nat.mod_lt _ (Nat.two_pow_pos _)
  have hl : w.toNat % 2 ^ lo < 2 ^ lo := Nat.mod_lt _ (Nat.two_pow_pos _)
  have hb : v % 2 ^ (hi + 1 - lo) * 2 ^ lo + w.toNat % 2 ^ lo < 2 ^ (hi + 1) := by
    rw [e1]
    calc _ < v % 2 ^ (hi + 1 - lo) * 2 ^ lo + 2 ^ lo := by omega
      _ = (v % 2 ^ (hi + 1 - lo) + 1) * 2 ^ lo := by rw [Nat.add_mul, Nat.one_mul]
      _ ≤ _ := Nat.mul_le_mul_right _ hv
  have : w.toNat / 2 ^ (hi + 1) * 2 ^ (hi + 1) + v % 2 ^ (hi + 1 - lo) * 2 ^ lo + w.toNat % 2 ^ lo =
      (v % 2 ^ (hi + 1 - lo) * 2 ^ lo + w.toNat % 2 ^ lo) + w.toNat / 2 ^ (hi + 1) * 2 ^ (hi + 1) := by ring
  have hdiv : (putBits w hi lo v).toNat / 2 ^ lo' = w.toNat / 2 ^ lo' := by
    rw [putBits_toNat w v h h36, this, e2, ← Nat.div_div_eq_div_mul, ← Nat.div_div_eq_div_mul,
      Nat.add_mul_div_right _ _ (Nat.two_pow_pos _), Nat.div_eq_of_lt hb, Nat.zero_add]
  rw [bitsOf, bitsOf, hdiv]

/-- A field below the one put stays. -/
theorem bitsOf_putBits_below (w : Word) {hi lo hi' lo' : Nat} (v : Nat) (h : lo ≤ hi) (h36 : hi < 36) (hd : hi' < lo)
    (hf : lo' ≤ hi') : bitsOf (putBits w hi lo v) hi' lo' = bitsOf w hi' lo' := by
  have e1 : 2 ^ (hi + 1) = 2 ^ (hi + 1 - lo) * 2 ^ lo := by rw [← Nat.pow_add]; congr 1; omega
  have e3 : 2 ^ lo = 2 ^ (lo - (hi' + 1)) * 2 ^ (hi' + 1) := by rw [← Nat.pow_add]; congr 1; omega
  have key : ∀ n : Nat, n / 2 ^ lo' % 2 ^ (hi' + 1 - lo') = n % 2 ^ (hi' + 1) / 2 ^ lo' := by
    intro n
    have : 2 ^ (hi' + 1) = 2 ^ lo' * 2 ^ (hi' + 1 - lo') := by rw [← Nat.pow_add]; congr 1; omega
    rw [this, Nat.mod_mul_right_div_self]
  have hm : (putBits w hi lo v).toNat % 2 ^ (hi' + 1) = w.toNat % 2 ^ (hi' + 1) := by
    have : w.toNat / 2 ^ (hi + 1) * 2 ^ (hi + 1) + v % 2 ^ (hi + 1 - lo) * 2 ^ lo + w.toNat % 2 ^ lo =
        w.toNat % 2 ^ lo + (w.toNat / 2 ^ (hi + 1) * 2 ^ (hi + 1 - lo) + v % 2 ^ (hi + 1 - lo)) *
          2 ^ (lo - (hi' + 1)) * 2 ^ (hi' + 1) := by rw [e1, e3]; ring
    rw [putBits_toNat w v h h36, this, Nat.add_mul_mod_self_right, e3, Nat.mod_mul_left_mod]
  rw [bitsOf, bitsOf, key, key, hm]

/-! ### Registers -/

@[simp] theorem reg_setReg_same (d : Dev) (o : Nat) (w : Word) : (d.setReg o w).reg o = w :=
  mapGet_mapSet_same _ _ _ _

theorem reg_setReg_ne (d : Dev) {o o' : Nat} (w : Word) (h : o' ≠ o) : (d.setReg o w).reg o' = d.reg o' :=
  mapGet_mapSet_ne _ _ w h

/-- A field of another register stays. -/
theorem f_setF_reg (d : Dev) (fl g : Fld) (v : Nat) (h : g.off ≠ fl.off) : (d.setF fl v).f g = d.f g := by
  simp only [Dev.f, Dev.setF, reg_setReg_ne d _ h]

/-- A field set reads back, taken to its width. -/
theorem f_setF_same (d : Dev) (fl : Fld) (v : Nat) (h : fl.lo ≤ fl.hi) (h36 : fl.hi < 36) :
    (d.setF fl v).f fl = v % 2 ^ (fl.hi + 1 - fl.lo) := by
  simp only [Dev.f, Dev.setF, reg_setReg_same, bitsOf_putBits_same _ v h h36]

/-- A field of the same register that does not overlap stays. -/
theorem f_setF_apart (d : Dev) (fl g : Fld) (v : Nat) (h : fl.lo ≤ fl.hi) (h36 : fl.hi < 36) (hg : g.lo ≤ g.hi)
    (ho : g.off = fl.off) (hd : fl.hi < g.lo ∨ g.hi < fl.lo) : (d.setF fl v).f g = d.f g := by
  simp only [Dev.f, Dev.setF, ho, reg_setReg_same]
  rcases hd with hd | hd
  · exact bitsOf_putBits_above _ v h h36 hd
  · exact bitsOf_putBits_below _ v h h36 hd hg

end Sys2Proof.Machine
end

