-- ==== Sys2Proof/Laws/State.lean ====
section
/-! SUPPORT. What each basic update of the block leaves: one lemma for each field and update, and, for the updates that set
no register, the register file as it is read. -/

namespace Sys2Proof.Machine

/-! setReg -/

@[simp] theorem setReg_mem (d : Dev) (o : Nat) (w : Word) : (d.setReg o w).mem = d.mem := rfl
@[simp] theorem setReg_uncorr (d : Dev) (o : Nat) (w : Word) : (d.setReg o w).uncorr = d.uncorr := rfl
@[simp] theorem setReg_corr (d : Dev) (o : Nat) (w : Word) : (d.setReg o w).corr = d.corr := rfl
@[simp] theorem setReg_parBad (d : Dev) (o : Nat) (w : Word) : (d.setReg o w).parBad = d.parBad := rfl
@[simp] theorem setReg_shadow (d : Dev) (o : Nat) (w : Word) : (d.setReg o w).shadow = d.shadow := rfl
@[simp] theorem setReg_staged (d : Dev) (o : Nat) (w : Word) : (d.setReg o w).staged = d.staged := rfl
@[simp] theorem setReg_free (d : Dev) (o : Nat) (w : Word) : (d.setReg o w).free = d.free := rfl
@[simp] theorem setReg_out (d : Dev) (o : Nat) (w : Word) : (d.setReg o w).out = d.out := rfl
@[simp] theorem setReg_cp (d : Dev) (o : Nat) (w : Word) : (d.setReg o w).cp = d.cp := rfl
@[simp] theorem setReg_mbx (d : Dev) (o : Nat) (w : Word) : (d.setReg o w).mbx = d.mbx := rfl
@[simp] theorem setReg_queues (d : Dev) (o : Nat) (w : Word) : (d.setReg o w).queues = d.queues := rfl
@[simp] theorem setReg_qTie (d : Dev) (o : Nat) (w : Word) : (d.setReg o w).qTie = d.qTie := rfl
@[simp] theorem setReg_epo (d : Dev) (o : Nat) (w : Word) : (d.setReg o w).epo = d.epo := rfl
@[simp] theorem setReg_sch (d : Dev) (o : Nat) (w : Word) : (d.setReg o w).sch = d.sch := rfl
@[simp] theorem setReg_err (d : Dev) (o : Nat) (w : Word) : (d.setReg o w).err = d.err := rfl
@[simp] theorem setReg_lnk (d : Dev) (o : Nat) (w : Word) : (d.setReg o w).lnk = d.lnk := rfl
@[simp] theorem setReg_pci (d : Dev) (o : Nat) (w : Word) : (d.setReg o w).pci = d.pci := rfl
@[simp] theorem setReg_unreached (d : Dev) (o : Nat) (w : Word) : (d.setReg o w).unreached = d.unreached := rfl
@[simp] theorem setReg_serial (d : Dev) (o : Nat) (w : Word) : (d.setReg o w).serial = d.serial := rfl
@[simp] theorem setReg_bbOwed (d : Dev) (o : Nat) (w : Word) : (d.setReg o w).bbOwed = d.bbOwed := rfl
@[simp] theorem setReg_ing (d : Dev) (o : Nat) (w : Word) : (d.setReg o w).ing = d.ing := rfl
@[simp] theorem setReg_tsk (d : Dev) (o : Nat) (w : Word) : (d.setReg o w).tsk = d.tsk := rfl
@[simp] theorem setReg_fiu (d : Dev) (o : Nat) (w : Word) : (d.setReg o w).fiu = d.fiu := rfl
@[simp] theorem setReg_twl (d : Dev) (o : Nat) (w : Word) : (d.setReg o w).twl = d.twl := rfl
@[simp] theorem setReg_acc (d : Dev) (o : Nat) (w : Word) : (d.setReg o w).acc = d.acc := rfl
@[simp] theorem setReg_accNum (d : Dev) (o : Nat) (w : Word) : (d.setReg o w).accNum = d.accNum := rfl
@[simp] theorem setReg_rte (d : Dev) (o : Nat) (w : Word) : (d.setReg o w).rte = d.rte := rfl
@[simp] theorem setReg_pwr (d : Dev) (o : Nat) (w : Word) : (d.setReg o w).pwr = d.pwr := rfl
@[simp] theorem setReg_rxPkt (d : Dev) (o : Nat) (w : Word) : (d.setReg o w).rxPkt = d.rxPkt := rfl
@[simp] theorem setReg_cap (d : Dev) (o : Nat) (w : Word) : (d.setReg o w).cap = d.cap := rfl
@[simp] theorem setReg_coh (d : Dev) (o : Nat) (w : Word) : (d.setReg o w).coh = d.coh := rfl
@[simp] theorem setReg_cal (d : Dev) (o : Nat) (w : Word) : (d.setReg o w).cal = d.cal := rfl
@[simp] theorem setReg_calTie (d : Dev) (o : Nat) (w : Word) : (d.setReg o w).calTie = d.calTie := rfl
@[simp] theorem setReg_ties (d : Dev) (o : Nat) (w : Word) : (d.setReg o w).ties = d.ties := rfl

/-! setF -/

@[simp] theorem setF_mem (d : Dev) (fl : Fld) (v : Nat) : (d.setF fl v).mem = d.mem := rfl
@[simp] theorem setF_uncorr (d : Dev) (fl : Fld) (v : Nat) : (d.setF fl v).uncorr = d.uncorr := rfl
@[simp] theorem setF_corr (d : Dev) (fl : Fld) (v : Nat) : (d.setF fl v).corr = d.corr := rfl
@[simp] theorem setF_parBad (d : Dev) (fl : Fld) (v : Nat) : (d.setF fl v).parBad = d.parBad := rfl
@[simp] theorem setF_shadow (d : Dev) (fl : Fld) (v : Nat) : (d.setF fl v).shadow = d.shadow := rfl
@[simp] theorem setF_staged (d : Dev) (fl : Fld) (v : Nat) : (d.setF fl v).staged = d.staged := rfl
@[simp] theorem setF_free (d : Dev) (fl : Fld) (v : Nat) : (d.setF fl v).free = d.free := rfl
@[simp] theorem setF_out (d : Dev) (fl : Fld) (v : Nat) : (d.setF fl v).out = d.out := rfl
@[simp] theorem setF_cp (d : Dev) (fl : Fld) (v : Nat) : (d.setF fl v).cp = d.cp := rfl
@[simp] theorem setF_mbx (d : Dev) (fl : Fld) (v : Nat) : (d.setF fl v).mbx = d.mbx := rfl
@[simp] theorem setF_queues (d : Dev) (fl : Fld) (v : Nat) : (d.setF fl v).queues = d.queues := rfl
@[simp] theorem setF_qTie (d : Dev) (fl : Fld) (v : Nat) : (d.setF fl v).qTie = d.qTie := rfl
@[simp] theorem setF_epo (d : Dev) (fl : Fld) (v : Nat) : (d.setF fl v).epo = d.epo := rfl
@[simp] theorem setF_sch (d : Dev) (fl : Fld) (v : Nat) : (d.setF fl v).sch = d.sch := rfl
@[simp] theorem setF_err (d : Dev) (fl : Fld) (v : Nat) : (d.setF fl v).err = d.err := rfl
@[simp] theorem setF_lnk (d : Dev) (fl : Fld) (v : Nat) : (d.setF fl v).lnk = d.lnk := rfl
@[simp] theorem setF_pci (d : Dev) (fl : Fld) (v : Nat) : (d.setF fl v).pci = d.pci := rfl
@[simp] theorem setF_unreached (d : Dev) (fl : Fld) (v : Nat) : (d.setF fl v).unreached = d.unreached := rfl
@[simp] theorem setF_serial (d : Dev) (fl : Fld) (v : Nat) : (d.setF fl v).serial = d.serial := rfl
@[simp] theorem setF_bbOwed (d : Dev) (fl : Fld) (v : Nat) : (d.setF fl v).bbOwed = d.bbOwed := rfl
@[simp] theorem setF_ing (d : Dev) (fl : Fld) (v : Nat) : (d.setF fl v).ing = d.ing := rfl
@[simp] theorem setF_tsk (d : Dev) (fl : Fld) (v : Nat) : (d.setF fl v).tsk = d.tsk := rfl
@[simp] theorem setF_fiu (d : Dev) (fl : Fld) (v : Nat) : (d.setF fl v).fiu = d.fiu := rfl
@[simp] theorem setF_twl (d : Dev) (fl : Fld) (v : Nat) : (d.setF fl v).twl = d.twl := rfl
@[simp] theorem setF_acc (d : Dev) (fl : Fld) (v : Nat) : (d.setF fl v).acc = d.acc := rfl
@[simp] theorem setF_accNum (d : Dev) (fl : Fld) (v : Nat) : (d.setF fl v).accNum = d.accNum := rfl
@[simp] theorem setF_rte (d : Dev) (fl : Fld) (v : Nat) : (d.setF fl v).rte = d.rte := rfl
@[simp] theorem setF_pwr (d : Dev) (fl : Fld) (v : Nat) : (d.setF fl v).pwr = d.pwr := rfl
@[simp] theorem setF_rxPkt (d : Dev) (fl : Fld) (v : Nat) : (d.setF fl v).rxPkt = d.rxPkt := rfl
@[simp] theorem setF_cap (d : Dev) (fl : Fld) (v : Nat) : (d.setF fl v).cap = d.cap := rfl
@[simp] theorem setF_coh (d : Dev) (fl : Fld) (v : Nat) : (d.setF fl v).coh = d.coh := rfl
@[simp] theorem setF_cal (d : Dev) (fl : Fld) (v : Nat) : (d.setF fl v).cal = d.cal := rfl
@[simp] theorem setF_calTie (d : Dev) (fl : Fld) (v : Nat) : (d.setF fl v).calTie = d.calTie := rfl
@[simp] theorem setF_ties (d : Dev) (fl : Fld) (v : Nat) : (d.setF fl v).ties = d.ties := rfl

/-! inc -/

@[simp] theorem inc_mem (d : Dev) (fl : Fld) (n : Nat) : (d.inc fl n).mem = d.mem := rfl
@[simp] theorem inc_uncorr (d : Dev) (fl : Fld) (n : Nat) : (d.inc fl n).uncorr = d.uncorr := rfl
@[simp] theorem inc_corr (d : Dev) (fl : Fld) (n : Nat) : (d.inc fl n).corr = d.corr := rfl
@[simp] theorem inc_parBad (d : Dev) (fl : Fld) (n : Nat) : (d.inc fl n).parBad = d.parBad := rfl
@[simp] theorem inc_shadow (d : Dev) (fl : Fld) (n : Nat) : (d.inc fl n).shadow = d.shadow := rfl
@[simp] theorem inc_staged (d : Dev) (fl : Fld) (n : Nat) : (d.inc fl n).staged = d.staged := rfl
@[simp] theorem inc_free (d : Dev) (fl : Fld) (n : Nat) : (d.inc fl n).free = d.free := rfl
@[simp] theorem inc_out (d : Dev) (fl : Fld) (n : Nat) : (d.inc fl n).out = d.out := rfl
@[simp] theorem inc_cp (d : Dev) (fl : Fld) (n : Nat) : (d.inc fl n).cp = d.cp := rfl
@[simp] theorem inc_mbx (d : Dev) (fl : Fld) (n : Nat) : (d.inc fl n).mbx = d.mbx := rfl
@[simp] theorem inc_queues (d : Dev) (fl : Fld) (n : Nat) : (d.inc fl n).queues = d.queues := rfl
@[simp] theorem inc_qTie (d : Dev) (fl : Fld) (n : Nat) : (d.inc fl n).qTie = d.qTie := rfl
@[simp] theorem inc_epo (d : Dev) (fl : Fld) (n : Nat) : (d.inc fl n).epo = d.epo := rfl
@[simp] theorem inc_sch (d : Dev) (fl : Fld) (n : Nat) : (d.inc fl n).sch = d.sch := rfl
@[simp] theorem inc_err (d : Dev) (fl : Fld) (n : Nat) : (d.inc fl n).err = d.err := rfl
@[simp] theorem inc_lnk (d : Dev) (fl : Fld) (n : Nat) : (d.inc fl n).lnk = d.lnk := rfl
@[simp] theorem inc_pci (d : Dev) (fl : Fld) (n : Nat) : (d.inc fl n).pci = d.pci := rfl
@[simp] theorem inc_unreached (d : Dev) (fl : Fld) (n : Nat) : (d.inc fl n).unreached = d.unreached := rfl
@[simp] theorem inc_serial (d : Dev) (fl : Fld) (n : Nat) : (d.inc fl n).serial = d.serial := rfl
@[simp] theorem inc_bbOwed (d : Dev) (fl : Fld) (n : Nat) : (d.inc fl n).bbOwed = d.bbOwed := rfl
@[simp] theorem inc_ing (d : Dev) (fl : Fld) (n : Nat) : (d.inc fl n).ing = d.ing := rfl
@[simp] theorem inc_tsk (d : Dev) (fl : Fld) (n : Nat) : (d.inc fl n).tsk = d.tsk := rfl
@[simp] theorem inc_fiu (d : Dev) (fl : Fld) (n : Nat) : (d.inc fl n).fiu = d.fiu := rfl
@[simp] theorem inc_twl (d : Dev) (fl : Fld) (n : Nat) : (d.inc fl n).twl = d.twl := rfl
@[simp] theorem inc_acc (d : Dev) (fl : Fld) (n : Nat) : (d.inc fl n).acc = d.acc := rfl
@[simp] theorem inc_accNum (d : Dev) (fl : Fld) (n : Nat) : (d.inc fl n).accNum = d.accNum := rfl
@[simp] theorem inc_rte (d : Dev) (fl : Fld) (n : Nat) : (d.inc fl n).rte = d.rte := rfl
@[simp] theorem inc_pwr (d : Dev) (fl : Fld) (n : Nat) : (d.inc fl n).pwr = d.pwr := rfl
@[simp] theorem inc_rxPkt (d : Dev) (fl : Fld) (n : Nat) : (d.inc fl n).rxPkt = d.rxPkt := rfl
@[simp] theorem inc_cap (d : Dev) (fl : Fld) (n : Nat) : (d.inc fl n).cap = d.cap := rfl
@[simp] theorem inc_coh (d : Dev) (fl : Fld) (n : Nat) : (d.inc fl n).coh = d.coh := rfl
@[simp] theorem inc_cal (d : Dev) (fl : Fld) (n : Nat) : (d.inc fl n).cal = d.cal := rfl
@[simp] theorem inc_calTie (d : Dev) (fl : Fld) (n : Nat) : (d.inc fl n).calTie = d.calTie := rfl
@[simp] theorem inc_ties (d : Dev) (fl : Fld) (n : Nat) : (d.inc fl n).ties = d.ties := rfl

/-! emit -/

@[simp] theorem emit_regs (d : Dev) (o : Out) : (d.emit o).regs = d.regs := rfl
@[simp] theorem emit_mem (d : Dev) (o : Out) : (d.emit o).mem = d.mem := rfl
@[simp] theorem emit_uncorr (d : Dev) (o : Out) : (d.emit o).uncorr = d.uncorr := rfl
@[simp] theorem emit_corr (d : Dev) (o : Out) : (d.emit o).corr = d.corr := rfl
@[simp] theorem emit_parBad (d : Dev) (o : Out) : (d.emit o).parBad = d.parBad := rfl
@[simp] theorem emit_shadow (d : Dev) (o : Out) : (d.emit o).shadow = d.shadow := rfl
@[simp] theorem emit_staged (d : Dev) (o : Out) : (d.emit o).staged = d.staged := rfl
@[simp] theorem emit_free (d : Dev) (o : Out) : (d.emit o).free = d.free := rfl
@[simp] theorem emit_cp (d : Dev) (o : Out) : (d.emit o).cp = d.cp := rfl
@[simp] theorem emit_mbx (d : Dev) (o : Out) : (d.emit o).mbx = d.mbx := rfl
@[simp] theorem emit_queues (d : Dev) (o : Out) : (d.emit o).queues = d.queues := rfl
@[simp] theorem emit_qTie (d : Dev) (o : Out) : (d.emit o).qTie = d.qTie := rfl
@[simp] theorem emit_epo (d : Dev) (o : Out) : (d.emit o).epo = d.epo := rfl
@[simp] theorem emit_sch (d : Dev) (o : Out) : (d.emit o).sch = d.sch := rfl
@[simp] theorem emit_err (d : Dev) (o : Out) : (d.emit o).err = d.err := rfl
@[simp] theorem emit_lnk (d : Dev) (o : Out) : (d.emit o).lnk = d.lnk := rfl
@[simp] theorem emit_pci (d : Dev) (o : Out) : (d.emit o).pci = d.pci := rfl
@[simp] theorem emit_unreached (d : Dev) (o : Out) : (d.emit o).unreached = d.unreached := rfl
@[simp] theorem emit_serial (d : Dev) (o : Out) : (d.emit o).serial = d.serial := rfl
@[simp] theorem emit_bbOwed (d : Dev) (o : Out) : (d.emit o).bbOwed = d.bbOwed := rfl
@[simp] theorem emit_ing (d : Dev) (o : Out) : (d.emit o).ing = d.ing := rfl
@[simp] theorem emit_tsk (d : Dev) (o : Out) : (d.emit o).tsk = d.tsk := rfl
@[simp] theorem emit_fiu (d : Dev) (o : Out) : (d.emit o).fiu = d.fiu := rfl
@[simp] theorem emit_twl (d : Dev) (o : Out) : (d.emit o).twl = d.twl := rfl
@[simp] theorem emit_acc (d : Dev) (o : Out) : (d.emit o).acc = d.acc := rfl
@[simp] theorem emit_accNum (d : Dev) (o : Out) : (d.emit o).accNum = d.accNum := rfl
@[simp] theorem emit_rte (d : Dev) (o : Out) : (d.emit o).rte = d.rte := rfl
@[simp] theorem emit_pwr (d : Dev) (o : Out) : (d.emit o).pwr = d.pwr := rfl
@[simp] theorem emit_rxPkt (d : Dev) (o : Out) : (d.emit o).rxPkt = d.rxPkt := rfl
@[simp] theorem emit_cap (d : Dev) (o : Out) : (d.emit o).cap = d.cap := rfl
@[simp] theorem emit_coh (d : Dev) (o : Out) : (d.emit o).coh = d.coh := rfl
@[simp] theorem emit_cal (d : Dev) (o : Out) : (d.emit o).cal = d.cal := rfl
@[simp] theorem emit_calTie (d : Dev) (o : Out) : (d.emit o).calTie = d.calTie := rfl
@[simp] theorem emit_ties (d : Dev) (o : Out) : (d.emit o).ties = d.ties := rfl
@[simp] theorem emit_reg (d : Dev) (o : Out) (key : Nat) : (d.emit o).reg key = d.reg key := rfl
@[simp] theorem emit_f (d : Dev) (o : Out) (fld : Fld) : (d.emit o).f fld = d.f fld := rfl
@[simp] theorem emit_fb (d : Dev) (o : Out) (fld : Fld) : (d.emit o).fb fld = d.fb fld := rfl

/-! fresh -/

@[simp] theorem fresh_regs (d : Dev) : (d.fresh.2).regs = d.regs := rfl
@[simp] theorem fresh_mem (d : Dev) : (d.fresh.2).mem = d.mem := rfl
@[simp] theorem fresh_uncorr (d : Dev) : (d.fresh.2).uncorr = d.uncorr := rfl
@[simp] theorem fresh_corr (d : Dev) : (d.fresh.2).corr = d.corr := rfl
@[simp] theorem fresh_parBad (d : Dev) : (d.fresh.2).parBad = d.parBad := rfl
@[simp] theorem fresh_shadow (d : Dev) : (d.fresh.2).shadow = d.shadow := rfl
@[simp] theorem fresh_staged (d : Dev) : (d.fresh.2).staged = d.staged := rfl
@[simp] theorem fresh_out (d : Dev) : (d.fresh.2).out = d.out := rfl
@[simp] theorem fresh_cp (d : Dev) : (d.fresh.2).cp = d.cp := rfl
@[simp] theorem fresh_mbx (d : Dev) : (d.fresh.2).mbx = d.mbx := rfl
@[simp] theorem fresh_queues (d : Dev) : (d.fresh.2).queues = d.queues := rfl
@[simp] theorem fresh_qTie (d : Dev) : (d.fresh.2).qTie = d.qTie := rfl
@[simp] theorem fresh_epo (d : Dev) : (d.fresh.2).epo = d.epo := rfl
@[simp] theorem fresh_sch (d : Dev) : (d.fresh.2).sch = d.sch := rfl
@[simp] theorem fresh_err (d : Dev) : (d.fresh.2).err = d.err := rfl
@[simp] theorem fresh_lnk (d : Dev) : (d.fresh.2).lnk = d.lnk := rfl
@[simp] theorem fresh_pci (d : Dev) : (d.fresh.2).pci = d.pci := rfl
@[simp] theorem fresh_unreached (d : Dev) : (d.fresh.2).unreached = d.unreached := rfl
@[simp] theorem fresh_serial (d : Dev) : (d.fresh.2).serial = d.serial := rfl
@[simp] theorem fresh_bbOwed (d : Dev) : (d.fresh.2).bbOwed = d.bbOwed := rfl
@[simp] theorem fresh_ing (d : Dev) : (d.fresh.2).ing = d.ing := rfl
@[simp] theorem fresh_tsk (d : Dev) : (d.fresh.2).tsk = d.tsk := rfl
@[simp] theorem fresh_fiu (d : Dev) : (d.fresh.2).fiu = d.fiu := rfl
@[simp] theorem fresh_twl (d : Dev) : (d.fresh.2).twl = d.twl := rfl
@[simp] theorem fresh_acc (d : Dev) : (d.fresh.2).acc = d.acc := rfl
@[simp] theorem fresh_accNum (d : Dev) : (d.fresh.2).accNum = d.accNum := rfl
@[simp] theorem fresh_rte (d : Dev) : (d.fresh.2).rte = d.rte := rfl
@[simp] theorem fresh_pwr (d : Dev) : (d.fresh.2).pwr = d.pwr := rfl
@[simp] theorem fresh_rxPkt (d : Dev) : (d.fresh.2).rxPkt = d.rxPkt := rfl
@[simp] theorem fresh_cap (d : Dev) : (d.fresh.2).cap = d.cap := rfl
@[simp] theorem fresh_coh (d : Dev) : (d.fresh.2).coh = d.coh := rfl
@[simp] theorem fresh_cal (d : Dev) : (d.fresh.2).cal = d.cal := rfl
@[simp] theorem fresh_calTie (d : Dev) : (d.fresh.2).calTie = d.calTie := rfl
@[simp] theorem fresh_ties (d : Dev) : (d.fresh.2).ties = d.ties := rfl
@[simp] theorem fresh_reg (d : Dev) (key : Nat) : (d.fresh.2).reg key = d.reg key := rfl
@[simp] theorem fresh_f (d : Dev) (fld : Fld) : (d.fresh.2).f fld = d.f fld := rfl
@[simp] theorem fresh_fb (d : Dev) (fld : Fld) : (d.fresh.2).fb fld = d.fb fld := rfl

/-! setNow -/

@[simp] theorem setNow_regs (d : Dev) (e : Nat) : (d.setNow e).regs = d.regs := rfl
@[simp] theorem setNow_mem (d : Dev) (e : Nat) : (d.setNow e).mem = d.mem := rfl
@[simp] theorem setNow_uncorr (d : Dev) (e : Nat) : (d.setNow e).uncorr = d.uncorr := rfl
@[simp] theorem setNow_corr (d : Dev) (e : Nat) : (d.setNow e).corr = d.corr := rfl
@[simp] theorem setNow_parBad (d : Dev) (e : Nat) : (d.setNow e).parBad = d.parBad := rfl
@[simp] theorem setNow_shadow (d : Dev) (e : Nat) : (d.setNow e).shadow = d.shadow := rfl
@[simp] theorem setNow_staged (d : Dev) (e : Nat) : (d.setNow e).staged = d.staged := rfl
@[simp] theorem setNow_free (d : Dev) (e : Nat) : (d.setNow e).free = d.free := rfl
@[simp] theorem setNow_out (d : Dev) (e : Nat) : (d.setNow e).out = d.out := rfl
@[simp] theorem setNow_cp (d : Dev) (e : Nat) : (d.setNow e).cp = d.cp := rfl
@[simp] theorem setNow_mbx (d : Dev) (e : Nat) : (d.setNow e).mbx = d.mbx := rfl
@[simp] theorem setNow_queues (d : Dev) (e : Nat) : (d.setNow e).queues = d.queues := rfl
@[simp] theorem setNow_qTie (d : Dev) (e : Nat) : (d.setNow e).qTie = d.qTie := rfl
@[simp] theorem setNow_sch (d : Dev) (e : Nat) : (d.setNow e).sch = d.sch := rfl
@[simp] theorem setNow_err (d : Dev) (e : Nat) : (d.setNow e).err = d.err := rfl
@[simp] theorem setNow_lnk (d : Dev) (e : Nat) : (d.setNow e).lnk = d.lnk := rfl
@[simp] theorem setNow_pci (d : Dev) (e : Nat) : (d.setNow e).pci = d.pci := rfl
@[simp] theorem setNow_unreached (d : Dev) (e : Nat) : (d.setNow e).unreached = d.unreached := rfl
@[simp] theorem setNow_serial (d : Dev) (e : Nat) : (d.setNow e).serial = d.serial := rfl
@[simp] theorem setNow_bbOwed (d : Dev) (e : Nat) : (d.setNow e).bbOwed = d.bbOwed := rfl
@[simp] theorem setNow_ing (d : Dev) (e : Nat) : (d.setNow e).ing = d.ing := rfl
@[simp] theorem setNow_tsk (d : Dev) (e : Nat) : (d.setNow e).tsk = d.tsk := rfl
@[simp] theorem setNow_fiu (d : Dev) (e : Nat) : (d.setNow e).fiu = d.fiu := rfl
@[simp] theorem setNow_twl (d : Dev) (e : Nat) : (d.setNow e).twl = d.twl := rfl
@[simp] theorem setNow_acc (d : Dev) (e : Nat) : (d.setNow e).acc = d.acc := rfl
@[simp] theorem setNow_accNum (d : Dev) (e : Nat) : (d.setNow e).accNum = d.accNum := rfl
@[simp] theorem setNow_rte (d : Dev) (e : Nat) : (d.setNow e).rte = d.rte := rfl
@[simp] theorem setNow_pwr (d : Dev) (e : Nat) : (d.setNow e).pwr = d.pwr := rfl
@[simp] theorem setNow_rxPkt (d : Dev) (e : Nat) : (d.setNow e).rxPkt = d.rxPkt := rfl
@[simp] theorem setNow_cap (d : Dev) (e : Nat) : (d.setNow e).cap = d.cap := rfl
@[simp] theorem setNow_coh (d : Dev) (e : Nat) : (d.setNow e).coh = d.coh := rfl
@[simp] theorem setNow_cal (d : Dev) (e : Nat) : (d.setNow e).cal = d.cal := rfl
@[simp] theorem setNow_calTie (d : Dev) (e : Nat) : (d.setNow e).calTie = d.calTie := rfl
@[simp] theorem setNow_ties (d : Dev) (e : Nat) : (d.setNow e).ties = d.ties := rfl
@[simp] theorem setNow_reg (d : Dev) (e : Nat) (key : Nat) : (d.setNow e).reg key = d.reg key := rfl
@[simp] theorem setNow_f (d : Dev) (e : Nat) (fld : Fld) : (d.setNow e).f fld = d.f fld := rfl
@[simp] theorem setNow_fb (d : Dev) (e : Nat) (fld : Fld) : (d.setNow e).fb fld = d.fb fld := rfl

/-! logPut -/

@[simp] theorem logPut_regs (d : Dev) (k : Nat) (ws : List Word) : (d.logPut k ws).regs = d.regs := rfl
@[simp] theorem logPut_mem (d : Dev) (k : Nat) (ws : List Word) : (d.logPut k ws).mem = d.mem := rfl
@[simp] theorem logPut_uncorr (d : Dev) (k : Nat) (ws : List Word) : (d.logPut k ws).uncorr = d.uncorr := rfl
@[simp] theorem logPut_corr (d : Dev) (k : Nat) (ws : List Word) : (d.logPut k ws).corr = d.corr := rfl
@[simp] theorem logPut_parBad (d : Dev) (k : Nat) (ws : List Word) : (d.logPut k ws).parBad = d.parBad := rfl
@[simp] theorem logPut_shadow (d : Dev) (k : Nat) (ws : List Word) : (d.logPut k ws).shadow = d.shadow := rfl
@[simp] theorem logPut_staged (d : Dev) (k : Nat) (ws : List Word) : (d.logPut k ws).staged = d.staged := rfl
@[simp] theorem logPut_free (d : Dev) (k : Nat) (ws : List Word) : (d.logPut k ws).free = d.free := rfl
@[simp] theorem logPut_out (d : Dev) (k : Nat) (ws : List Word) : (d.logPut k ws).out = d.out := rfl
@[simp] theorem logPut_mbx (d : Dev) (k : Nat) (ws : List Word) : (d.logPut k ws).mbx = d.mbx := rfl
@[simp] theorem logPut_queues (d : Dev) (k : Nat) (ws : List Word) : (d.logPut k ws).queues = d.queues := rfl
@[simp] theorem logPut_qTie (d : Dev) (k : Nat) (ws : List Word) : (d.logPut k ws).qTie = d.qTie := rfl
@[simp] theorem logPut_epo (d : Dev) (k : Nat) (ws : List Word) : (d.logPut k ws).epo = d.epo := rfl
@[simp] theorem logPut_sch (d : Dev) (k : Nat) (ws : List Word) : (d.logPut k ws).sch = d.sch := rfl
@[simp] theorem logPut_err (d : Dev) (k : Nat) (ws : List Word) : (d.logPut k ws).err = d.err := rfl
@[simp] theorem logPut_lnk (d : Dev) (k : Nat) (ws : List Word) : (d.logPut k ws).lnk = d.lnk := rfl
@[simp] theorem logPut_pci (d : Dev) (k : Nat) (ws : List Word) : (d.logPut k ws).pci = d.pci := rfl
@[simp] theorem logPut_unreached (d : Dev) (k : Nat) (ws : List Word) : (d.logPut k ws).unreached = d.unreached := rfl
@[simp] theorem logPut_serial (d : Dev) (k : Nat) (ws : List Word) : (d.logPut k ws).serial = d.serial := rfl
@[simp] theorem logPut_bbOwed (d : Dev) (k : Nat) (ws : List Word) : (d.logPut k ws).bbOwed = d.bbOwed := rfl
@[simp] theorem logPut_ing (d : Dev) (k : Nat) (ws : List Word) : (d.logPut k ws).ing = d.ing := rfl
@[simp] theorem logPut_tsk (d : Dev) (k : Nat) (ws : List Word) : (d.logPut k ws).tsk = d.tsk := rfl
@[simp] theorem logPut_fiu (d : Dev) (k : Nat) (ws : List Word) : (d.logPut k ws).fiu = d.fiu := rfl
@[simp] theorem logPut_twl (d : Dev) (k : Nat) (ws : List Word) : (d.logPut k ws).twl = d.twl := rfl
@[simp] theorem logPut_acc (d : Dev) (k : Nat) (ws : List Word) : (d.logPut k ws).acc = d.acc := rfl
@[simp] theorem logPut_accNum (d : Dev) (k : Nat) (ws : List Word) : (d.logPut k ws).accNum = d.accNum := rfl
@[simp] theorem logPut_rte (d : Dev) (k : Nat) (ws : List Word) : (d.logPut k ws).rte = d.rte := rfl
@[simp] theorem logPut_pwr (d : Dev) (k : Nat) (ws : List Word) : (d.logPut k ws).pwr = d.pwr := rfl
@[simp] theorem logPut_rxPkt (d : Dev) (k : Nat) (ws : List Word) : (d.logPut k ws).rxPkt = d.rxPkt := rfl
@[simp] theorem logPut_cap (d : Dev) (k : Nat) (ws : List Word) : (d.logPut k ws).cap = d.cap := rfl
@[simp] theorem logPut_coh (d : Dev) (k : Nat) (ws : List Word) : (d.logPut k ws).coh = d.coh := rfl
@[simp] theorem logPut_cal (d : Dev) (k : Nat) (ws : List Word) : (d.logPut k ws).cal = d.cal := rfl
@[simp] theorem logPut_calTie (d : Dev) (k : Nat) (ws : List Word) : (d.logPut k ws).calTie = d.calTie := rfl
@[simp] theorem logPut_ties (d : Dev) (k : Nat) (ws : List Word) : (d.logPut k ws).ties = d.ties := rfl
@[simp] theorem logPut_reg (d : Dev) (k : Nat) (ws : List Word) (key : Nat) : (d.logPut k ws).reg key = d.reg key := rfl
@[simp] theorem logPut_f (d : Dev) (k : Nat) (ws : List Word) (fld : Fld) : (d.logPut k ws).f fld = d.f fld := rfl
@[simp] theorem logPut_fb (d : Dev) (k : Nat) (ws : List Word) (fld : Fld) : (d.logPut k ws).fb fld = d.fb fld := rfl

/-! modMb -/

@[simp] theorem modMb_regs (d : Dev) (n : Nat) (f : Mailbox → Mailbox) : (d.modMb n f).regs = d.regs := rfl
@[simp] theorem modMb_mem (d : Dev) (n : Nat) (f : Mailbox → Mailbox) : (d.modMb n f).mem = d.mem := rfl
@[simp] theorem modMb_uncorr (d : Dev) (n : Nat) (f : Mailbox → Mailbox) : (d.modMb n f).uncorr = d.uncorr := rfl
@[simp] theorem modMb_corr (d : Dev) (n : Nat) (f : Mailbox → Mailbox) : (d.modMb n f).corr = d.corr := rfl
@[simp] theorem modMb_parBad (d : Dev) (n : Nat) (f : Mailbox → Mailbox) : (d.modMb n f).parBad = d.parBad := rfl
@[simp] theorem modMb_shadow (d : Dev) (n : Nat) (f : Mailbox → Mailbox) : (d.modMb n f).shadow = d.shadow := rfl
@[simp] theorem modMb_staged (d : Dev) (n : Nat) (f : Mailbox → Mailbox) : (d.modMb n f).staged = d.staged := rfl
@[simp] theorem modMb_free (d : Dev) (n : Nat) (f : Mailbox → Mailbox) : (d.modMb n f).free = d.free := rfl
@[simp] theorem modMb_out (d : Dev) (n : Nat) (f : Mailbox → Mailbox) : (d.modMb n f).out = d.out := rfl
@[simp] theorem modMb_cp (d : Dev) (n : Nat) (f : Mailbox → Mailbox) : (d.modMb n f).cp = d.cp := rfl
@[simp] theorem modMb_queues (d : Dev) (n : Nat) (f : Mailbox → Mailbox) : (d.modMb n f).queues = d.queues := rfl
@[simp] theorem modMb_qTie (d : Dev) (n : Nat) (f : Mailbox → Mailbox) : (d.modMb n f).qTie = d.qTie := rfl
@[simp] theorem modMb_epo (d : Dev) (n : Nat) (f : Mailbox → Mailbox) : (d.modMb n f).epo = d.epo := rfl
@[simp] theorem modMb_sch (d : Dev) (n : Nat) (f : Mailbox → Mailbox) : (d.modMb n f).sch = d.sch := rfl
@[simp] theorem modMb_err (d : Dev) (n : Nat) (f : Mailbox → Mailbox) : (d.modMb n f).err = d.err := rfl
@[simp] theorem modMb_lnk (d : Dev) (n : Nat) (f : Mailbox → Mailbox) : (d.modMb n f).lnk = d.lnk := rfl
@[simp] theorem modMb_pci (d : Dev) (n : Nat) (f : Mailbox → Mailbox) : (d.modMb n f).pci = d.pci := rfl
@[simp] theorem modMb_unreached (d : Dev) (n : Nat) (f : Mailbox → Mailbox) : (d.modMb n f).unreached = d.unreached := rfl
@[simp] theorem modMb_serial (d : Dev) (n : Nat) (f : Mailbox → Mailbox) : (d.modMb n f).serial = d.serial := rfl
@[simp] theorem modMb_bbOwed (d : Dev) (n : Nat) (f : Mailbox → Mailbox) : (d.modMb n f).bbOwed = d.bbOwed := rfl
@[simp] theorem modMb_ing (d : Dev) (n : Nat) (f : Mailbox → Mailbox) : (d.modMb n f).ing = d.ing := rfl
@[simp] theorem modMb_tsk (d : Dev) (n : Nat) (f : Mailbox → Mailbox) : (d.modMb n f).tsk = d.tsk := rfl
@[simp] theorem modMb_fiu (d : Dev) (n : Nat) (f : Mailbox → Mailbox) : (d.modMb n f).fiu = d.fiu := rfl
@[simp] theorem modMb_twl (d : Dev) (n : Nat) (f : Mailbox → Mailbox) : (d.modMb n f).twl = d.twl := rfl
@[simp] theorem modMb_acc (d : Dev) (n : Nat) (f : Mailbox → Mailbox) : (d.modMb n f).acc = d.acc := rfl
@[simp] theorem modMb_accNum (d : Dev) (n : Nat) (f : Mailbox → Mailbox) : (d.modMb n f).accNum = d.accNum := rfl
@[simp] theorem modMb_rte (d : Dev) (n : Nat) (f : Mailbox → Mailbox) : (d.modMb n f).rte = d.rte := rfl
@[simp] theorem modMb_pwr (d : Dev) (n : Nat) (f : Mailbox → Mailbox) : (d.modMb n f).pwr = d.pwr := rfl
@[simp] theorem modMb_rxPkt (d : Dev) (n : Nat) (f : Mailbox → Mailbox) : (d.modMb n f).rxPkt = d.rxPkt := rfl
@[simp] theorem modMb_cap (d : Dev) (n : Nat) (f : Mailbox → Mailbox) : (d.modMb n f).cap = d.cap := rfl
@[simp] theorem modMb_coh (d : Dev) (n : Nat) (f : Mailbox → Mailbox) : (d.modMb n f).coh = d.coh := rfl
@[simp] theorem modMb_cal (d : Dev) (n : Nat) (f : Mailbox → Mailbox) : (d.modMb n f).cal = d.cal := rfl
@[simp] theorem modMb_calTie (d : Dev) (n : Nat) (f : Mailbox → Mailbox) : (d.modMb n f).calTie = d.calTie := rfl
@[simp] theorem modMb_ties (d : Dev) (n : Nat) (f : Mailbox → Mailbox) : (d.modMb n f).ties = d.ties := rfl
@[simp] theorem modMb_reg (d : Dev) (n : Nat) (f : Mailbox → Mailbox) (key : Nat) : (d.modMb n f).reg key = d.reg key := rfl
@[simp] theorem modMb_f (d : Dev) (n : Nat) (f : Mailbox → Mailbox) (fld : Fld) : (d.modMb n f).f fld = d.f fld := rfl
@[simp] theorem modMb_fb (d : Dev) (n : Nat) (f : Mailbox → Mailbox) (fld : Fld) : (d.modMb n f).fb fld = d.fb fld := rfl

/-! eventAt -/

@[simp] theorem eventAt_regs (d : Dev) (c i e : Nat) (x : Word) : (d.eventAt c i e x).regs = d.regs := rfl
@[simp] theorem eventAt_mem (d : Dev) (c i e : Nat) (x : Word) : (d.eventAt c i e x).mem = d.mem := rfl
@[simp] theorem eventAt_uncorr (d : Dev) (c i e : Nat) (x : Word) : (d.eventAt c i e x).uncorr = d.uncorr := rfl
@[simp] theorem eventAt_corr (d : Dev) (c i e : Nat) (x : Word) : (d.eventAt c i e x).corr = d.corr := rfl
@[simp] theorem eventAt_parBad (d : Dev) (c i e : Nat) (x : Word) : (d.eventAt c i e x).parBad = d.parBad := rfl
@[simp] theorem eventAt_shadow (d : Dev) (c i e : Nat) (x : Word) : (d.eventAt c i e x).shadow = d.shadow := rfl
@[simp] theorem eventAt_staged (d : Dev) (c i e : Nat) (x : Word) : (d.eventAt c i e x).staged = d.staged := rfl
@[simp] theorem eventAt_free (d : Dev) (c i e : Nat) (x : Word) : (d.eventAt c i e x).free = d.free := rfl
@[simp] theorem eventAt_out (d : Dev) (c i e : Nat) (x : Word) : (d.eventAt c i e x).out = d.out := rfl
@[simp] theorem eventAt_mbx (d : Dev) (c i e : Nat) (x : Word) : (d.eventAt c i e x).mbx = d.mbx := rfl
@[simp] theorem eventAt_queues (d : Dev) (c i e : Nat) (x : Word) : (d.eventAt c i e x).queues = d.queues := rfl
@[simp] theorem eventAt_qTie (d : Dev) (c i e : Nat) (x : Word) : (d.eventAt c i e x).qTie = d.qTie := rfl
@[simp] theorem eventAt_epo (d : Dev) (c i e : Nat) (x : Word) : (d.eventAt c i e x).epo = d.epo := rfl
@[simp] theorem eventAt_sch (d : Dev) (c i e : Nat) (x : Word) : (d.eventAt c i e x).sch = d.sch := rfl
@[simp] theorem eventAt_err (d : Dev) (c i e : Nat) (x : Word) : (d.eventAt c i e x).err = d.err := rfl
@[simp] theorem eventAt_lnk (d : Dev) (c i e : Nat) (x : Word) : (d.eventAt c i e x).lnk = d.lnk := rfl
@[simp] theorem eventAt_pci (d : Dev) (c i e : Nat) (x : Word) : (d.eventAt c i e x).pci = d.pci := rfl
@[simp] theorem eventAt_unreached (d : Dev) (c i e : Nat) (x : Word) : (d.eventAt c i e x).unreached = d.unreached := rfl
@[simp] theorem eventAt_serial (d : Dev) (c i e : Nat) (x : Word) : (d.eventAt c i e x).serial = d.serial := rfl
@[simp] theorem eventAt_bbOwed (d : Dev) (c i e : Nat) (x : Word) : (d.eventAt c i e x).bbOwed = d.bbOwed := rfl
@[simp] theorem eventAt_ing (d : Dev) (c i e : Nat) (x : Word) : (d.eventAt c i e x).ing = d.ing := rfl
@[simp] theorem eventAt_tsk (d : Dev) (c i e : Nat) (x : Word) : (d.eventAt c i e x).tsk = d.tsk := rfl
@[simp] theorem eventAt_fiu (d : Dev) (c i e : Nat) (x : Word) : (d.eventAt c i e x).fiu = d.fiu := rfl
@[simp] theorem eventAt_twl (d : Dev) (c i e : Nat) (x : Word) : (d.eventAt c i e x).twl = d.twl := rfl
@[simp] theorem eventAt_acc (d : Dev) (c i e : Nat) (x : Word) : (d.eventAt c i e x).acc = d.acc := rfl
@[simp] theorem eventAt_accNum (d : Dev) (c i e : Nat) (x : Word) : (d.eventAt c i e x).accNum = d.accNum := rfl
@[simp] theorem eventAt_rte (d : Dev) (c i e : Nat) (x : Word) : (d.eventAt c i e x).rte = d.rte := rfl
@[simp] theorem eventAt_pwr (d : Dev) (c i e : Nat) (x : Word) : (d.eventAt c i e x).pwr = d.pwr := rfl
@[simp] theorem eventAt_rxPkt (d : Dev) (c i e : Nat) (x : Word) : (d.eventAt c i e x).rxPkt = d.rxPkt := rfl
@[simp] theorem eventAt_cap (d : Dev) (c i e : Nat) (x : Word) : (d.eventAt c i e x).cap = d.cap := rfl
@[simp] theorem eventAt_coh (d : Dev) (c i e : Nat) (x : Word) : (d.eventAt c i e x).coh = d.coh := rfl
@[simp] theorem eventAt_cal (d : Dev) (c i e : Nat) (x : Word) : (d.eventAt c i e x).cal = d.cal := rfl
@[simp] theorem eventAt_calTie (d : Dev) (c i e : Nat) (x : Word) : (d.eventAt c i e x).calTie = d.calTie := rfl
@[simp] theorem eventAt_ties (d : Dev) (c i e : Nat) (x : Word) : (d.eventAt c i e x).ties = d.ties := rfl
@[simp] theorem eventAt_reg (d : Dev) (c i e : Nat) (x : Word) (key : Nat) : (d.eventAt c i e x).reg key = d.reg key := rfl
@[simp] theorem eventAt_f (d : Dev) (c i e : Nat) (x : Word) (fld : Fld) : (d.eventAt c i e x).f fld = d.f fld := rfl
@[simp] theorem eventAt_fb (d : Dev) (c i e : Nat) (x : Word) (fld : Fld) : (d.eventAt c i e x).fb fld = d.fb fld := rfl

/-! event -/

@[simp] theorem event_regs (d : Dev) (c i : Nat) (x : Word) : (d.event c i x).regs = d.regs := rfl
@[simp] theorem event_mem (d : Dev) (c i : Nat) (x : Word) : (d.event c i x).mem = d.mem := rfl
@[simp] theorem event_uncorr (d : Dev) (c i : Nat) (x : Word) : (d.event c i x).uncorr = d.uncorr := rfl
@[simp] theorem event_corr (d : Dev) (c i : Nat) (x : Word) : (d.event c i x).corr = d.corr := rfl
@[simp] theorem event_parBad (d : Dev) (c i : Nat) (x : Word) : (d.event c i x).parBad = d.parBad := rfl
@[simp] theorem event_shadow (d : Dev) (c i : Nat) (x : Word) : (d.event c i x).shadow = d.shadow := rfl
@[simp] theorem event_staged (d : Dev) (c i : Nat) (x : Word) : (d.event c i x).staged = d.staged := rfl
@[simp] theorem event_free (d : Dev) (c i : Nat) (x : Word) : (d.event c i x).free = d.free := rfl
@[simp] theorem event_out (d : Dev) (c i : Nat) (x : Word) : (d.event c i x).out = d.out := rfl
@[simp] theorem event_mbx (d : Dev) (c i : Nat) (x : Word) : (d.event c i x).mbx = d.mbx := rfl
@[simp] theorem event_queues (d : Dev) (c i : Nat) (x : Word) : (d.event c i x).queues = d.queues := rfl
@[simp] theorem event_qTie (d : Dev) (c i : Nat) (x : Word) : (d.event c i x).qTie = d.qTie := rfl
@[simp] theorem event_epo (d : Dev) (c i : Nat) (x : Word) : (d.event c i x).epo = d.epo := rfl
@[simp] theorem event_sch (d : Dev) (c i : Nat) (x : Word) : (d.event c i x).sch = d.sch := rfl
@[simp] theorem event_err (d : Dev) (c i : Nat) (x : Word) : (d.event c i x).err = d.err := rfl
@[simp] theorem event_lnk (d : Dev) (c i : Nat) (x : Word) : (d.event c i x).lnk = d.lnk := rfl
@[simp] theorem event_pci (d : Dev) (c i : Nat) (x : Word) : (d.event c i x).pci = d.pci := rfl
@[simp] theorem event_unreached (d : Dev) (c i : Nat) (x : Word) : (d.event c i x).unreached = d.unreached := rfl
@[simp] theorem event_serial (d : Dev) (c i : Nat) (x : Word) : (d.event c i x).serial = d.serial := rfl
@[simp] theorem event_bbOwed (d : Dev) (c i : Nat) (x : Word) : (d.event c i x).bbOwed = d.bbOwed := rfl
@[simp] theorem event_ing (d : Dev) (c i : Nat) (x : Word) : (d.event c i x).ing = d.ing := rfl
@[simp] theorem event_tsk (d : Dev) (c i : Nat) (x : Word) : (d.event c i x).tsk = d.tsk := rfl
@[simp] theorem event_fiu (d : Dev) (c i : Nat) (x : Word) : (d.event c i x).fiu = d.fiu := rfl
@[simp] theorem event_twl (d : Dev) (c i : Nat) (x : Word) : (d.event c i x).twl = d.twl := rfl
@[simp] theorem event_acc (d : Dev) (c i : Nat) (x : Word) : (d.event c i x).acc = d.acc := rfl
@[simp] theorem event_accNum (d : Dev) (c i : Nat) (x : Word) : (d.event c i x).accNum = d.accNum := rfl
@[simp] theorem event_rte (d : Dev) (c i : Nat) (x : Word) : (d.event c i x).rte = d.rte := rfl
@[simp] theorem event_pwr (d : Dev) (c i : Nat) (x : Word) : (d.event c i x).pwr = d.pwr := rfl
@[simp] theorem event_rxPkt (d : Dev) (c i : Nat) (x : Word) : (d.event c i x).rxPkt = d.rxPkt := rfl
@[simp] theorem event_cap (d : Dev) (c i : Nat) (x : Word) : (d.event c i x).cap = d.cap := rfl
@[simp] theorem event_coh (d : Dev) (c i : Nat) (x : Word) : (d.event c i x).coh = d.coh := rfl
@[simp] theorem event_cal (d : Dev) (c i : Nat) (x : Word) : (d.event c i x).cal = d.cal := rfl
@[simp] theorem event_calTie (d : Dev) (c i : Nat) (x : Word) : (d.event c i x).calTie = d.calTie := rfl
@[simp] theorem event_ties (d : Dev) (c i : Nat) (x : Word) : (d.event c i x).ties = d.ties := rfl
@[simp] theorem event_reg (d : Dev) (c i : Nat) (x : Word) (key : Nat) : (d.event c i x).reg key = d.reg key := rfl
@[simp] theorem event_f (d : Dev) (c i : Nat) (x : Word) (fld : Fld) : (d.event c i x).f fld = d.f fld := rfl
@[simp] theorem event_fb (d : Dev) (c i : Nat) (x : Word) (fld : Fld) : (d.event c i x).fb fld = d.fb fld := rfl

/-! store -/

@[simp] theorem store_regs (d : Dev) (a : Nat) (w : Word) : (d.store a w).regs = d.regs := rfl
@[simp] theorem store_shadow (d : Dev) (a : Nat) (w : Word) : (d.store a w).shadow = d.shadow := rfl
@[simp] theorem store_staged (d : Dev) (a : Nat) (w : Word) : (d.store a w).staged = d.staged := rfl
@[simp] theorem store_free (d : Dev) (a : Nat) (w : Word) : (d.store a w).free = d.free := rfl
@[simp] theorem store_out (d : Dev) (a : Nat) (w : Word) : (d.store a w).out = d.out := rfl
@[simp] theorem store_cp (d : Dev) (a : Nat) (w : Word) : (d.store a w).cp = d.cp := rfl
@[simp] theorem store_mbx (d : Dev) (a : Nat) (w : Word) : (d.store a w).mbx = d.mbx := rfl
@[simp] theorem store_queues (d : Dev) (a : Nat) (w : Word) : (d.store a w).queues = d.queues := rfl
@[simp] theorem store_qTie (d : Dev) (a : Nat) (w : Word) : (d.store a w).qTie = d.qTie := rfl
@[simp] theorem store_epo (d : Dev) (a : Nat) (w : Word) : (d.store a w).epo = d.epo := rfl
@[simp] theorem store_sch (d : Dev) (a : Nat) (w : Word) : (d.store a w).sch = d.sch := rfl
@[simp] theorem store_err (d : Dev) (a : Nat) (w : Word) : (d.store a w).err = d.err := rfl
@[simp] theorem store_lnk (d : Dev) (a : Nat) (w : Word) : (d.store a w).lnk = d.lnk := rfl
@[simp] theorem store_pci (d : Dev) (a : Nat) (w : Word) : (d.store a w).pci = d.pci := rfl
@[simp] theorem store_unreached (d : Dev) (a : Nat) (w : Word) : (d.store a w).unreached = d.unreached := rfl
@[simp] theorem store_serial (d : Dev) (a : Nat) (w : Word) : (d.store a w).serial = d.serial := rfl
@[simp] theorem store_bbOwed (d : Dev) (a : Nat) (w : Word) : (d.store a w).bbOwed = d.bbOwed := rfl
@[simp] theorem store_ing (d : Dev) (a : Nat) (w : Word) : (d.store a w).ing = d.ing := rfl
@[simp] theorem store_tsk (d : Dev) (a : Nat) (w : Word) : (d.store a w).tsk = d.tsk := rfl
@[simp] theorem store_fiu (d : Dev) (a : Nat) (w : Word) : (d.store a w).fiu = d.fiu := rfl
@[simp] theorem store_twl (d : Dev) (a : Nat) (w : Word) : (d.store a w).twl = d.twl := rfl
@[simp] theorem store_acc (d : Dev) (a : Nat) (w : Word) : (d.store a w).acc = d.acc := rfl
@[simp] theorem store_accNum (d : Dev) (a : Nat) (w : Word) : (d.store a w).accNum = d.accNum := rfl
@[simp] theorem store_rte (d : Dev) (a : Nat) (w : Word) : (d.store a w).rte = d.rte := rfl
@[simp] theorem store_pwr (d : Dev) (a : Nat) (w : Word) : (d.store a w).pwr = d.pwr := rfl
@[simp] theorem store_rxPkt (d : Dev) (a : Nat) (w : Word) : (d.store a w).rxPkt = d.rxPkt := rfl
@[simp] theorem store_cap (d : Dev) (a : Nat) (w : Word) : (d.store a w).cap = d.cap := rfl
@[simp] theorem store_coh (d : Dev) (a : Nat) (w : Word) : (d.store a w).coh = d.coh := rfl
@[simp] theorem store_cal (d : Dev) (a : Nat) (w : Word) : (d.store a w).cal = d.cal := rfl
@[simp] theorem store_calTie (d : Dev) (a : Nat) (w : Word) : (d.store a w).calTie = d.calTie := rfl
@[simp] theorem store_ties (d : Dev) (a : Nat) (w : Word) : (d.store a w).ties = d.ties := rfl
@[simp] theorem store_reg (d : Dev) (a : Nat) (w : Word) (key : Nat) : (d.store a w).reg key = d.reg key := rfl
@[simp] theorem store_f (d : Dev) (a : Nat) (w : Word) (fld : Fld) : (d.store a w).f fld = d.f fld := rfl
@[simp] theorem store_fb (d : Dev) (a : Nat) (w : Word) (fld : Fld) : (d.store a w).fb fld = d.fb fld := rfl

/-! modLoader -/

@[simp] theorem modLoader_regs (d : Dev) (f : Loader → Loader) : (d.modLoader f).regs = d.regs := rfl
@[simp] theorem modLoader_mem (d : Dev) (f : Loader → Loader) : (d.modLoader f).mem = d.mem := rfl
@[simp] theorem modLoader_uncorr (d : Dev) (f : Loader → Loader) : (d.modLoader f).uncorr = d.uncorr := rfl
@[simp] theorem modLoader_corr (d : Dev) (f : Loader → Loader) : (d.modLoader f).corr = d.corr := rfl
@[simp] theorem modLoader_parBad (d : Dev) (f : Loader → Loader) : (d.modLoader f).parBad = d.parBad := rfl
@[simp] theorem modLoader_shadow (d : Dev) (f : Loader → Loader) : (d.modLoader f).shadow = d.shadow := rfl
@[simp] theorem modLoader_staged (d : Dev) (f : Loader → Loader) : (d.modLoader f).staged = d.staged := rfl
@[simp] theorem modLoader_free (d : Dev) (f : Loader → Loader) : (d.modLoader f).free = d.free := rfl
@[simp] theorem modLoader_out (d : Dev) (f : Loader → Loader) : (d.modLoader f).out = d.out := rfl
@[simp] theorem modLoader_mbx (d : Dev) (f : Loader → Loader) : (d.modLoader f).mbx = d.mbx := rfl
@[simp] theorem modLoader_queues (d : Dev) (f : Loader → Loader) : (d.modLoader f).queues = d.queues := rfl
@[simp] theorem modLoader_qTie (d : Dev) (f : Loader → Loader) : (d.modLoader f).qTie = d.qTie := rfl
@[simp] theorem modLoader_epo (d : Dev) (f : Loader → Loader) : (d.modLoader f).epo = d.epo := rfl
@[simp] theorem modLoader_sch (d : Dev) (f : Loader → Loader) : (d.modLoader f).sch = d.sch := rfl
@[simp] theorem modLoader_err (d : Dev) (f : Loader → Loader) : (d.modLoader f).err = d.err := rfl
@[simp] theorem modLoader_lnk (d : Dev) (f : Loader → Loader) : (d.modLoader f).lnk = d.lnk := rfl
@[simp] theorem modLoader_pci (d : Dev) (f : Loader → Loader) : (d.modLoader f).pci = d.pci := rfl
@[simp] theorem modLoader_unreached (d : Dev) (f : Loader → Loader) : (d.modLoader f).unreached = d.unreached := rfl
@[simp] theorem modLoader_serial (d : Dev) (f : Loader → Loader) : (d.modLoader f).serial = d.serial := rfl
@[simp] theorem modLoader_bbOwed (d : Dev) (f : Loader → Loader) : (d.modLoader f).bbOwed = d.bbOwed := rfl
@[simp] theorem modLoader_ing (d : Dev) (f : Loader → Loader) : (d.modLoader f).ing = d.ing := rfl
@[simp] theorem modLoader_tsk (d : Dev) (f : Loader → Loader) : (d.modLoader f).tsk = d.tsk := rfl
@[simp] theorem modLoader_fiu (d : Dev) (f : Loader → Loader) : (d.modLoader f).fiu = d.fiu := rfl
@[simp] theorem modLoader_twl (d : Dev) (f : Loader → Loader) : (d.modLoader f).twl = d.twl := rfl
@[simp] theorem modLoader_acc (d : Dev) (f : Loader → Loader) : (d.modLoader f).acc = d.acc := rfl
@[simp] theorem modLoader_accNum (d : Dev) (f : Loader → Loader) : (d.modLoader f).accNum = d.accNum := rfl
@[simp] theorem modLoader_rte (d : Dev) (f : Loader → Loader) : (d.modLoader f).rte = d.rte := rfl
@[simp] theorem modLoader_pwr (d : Dev) (f : Loader → Loader) : (d.modLoader f).pwr = d.pwr := rfl
@[simp] theorem modLoader_rxPkt (d : Dev) (f : Loader → Loader) : (d.modLoader f).rxPkt = d.rxPkt := rfl
@[simp] theorem modLoader_cap (d : Dev) (f : Loader → Loader) : (d.modLoader f).cap = d.cap := rfl
@[simp] theorem modLoader_coh (d : Dev) (f : Loader → Loader) : (d.modLoader f).coh = d.coh := rfl
@[simp] theorem modLoader_cal (d : Dev) (f : Loader → Loader) : (d.modLoader f).cal = d.cal := rfl
@[simp] theorem modLoader_calTie (d : Dev) (f : Loader → Loader) : (d.modLoader f).calTie = d.calTie := rfl
@[simp] theorem modLoader_ties (d : Dev) (f : Loader → Loader) : (d.modLoader f).ties = d.ties := rfl
@[simp] theorem modLoader_reg (d : Dev) (f : Loader → Loader) (key : Nat) : (d.modLoader f).reg key = d.reg key := rfl
@[simp] theorem modLoader_f (d : Dev) (f : Loader → Loader) (fld : Fld) : (d.modLoader f).f fld = d.f fld := rfl
@[simp] theorem modLoader_fb (d : Dev) (f : Loader → Loader) (fld : Fld) : (d.modLoader f).fb fld = d.fb fld := rfl

/-! modQ -/

@[simp] theorem modQ_regs (d : Dev) (c q : Nat) (f : Queue → Queue) : (d.modQ c q f).regs = d.regs := rfl
@[simp] theorem modQ_mem (d : Dev) (c q : Nat) (f : Queue → Queue) : (d.modQ c q f).mem = d.mem := rfl
@[simp] theorem modQ_uncorr (d : Dev) (c q : Nat) (f : Queue → Queue) : (d.modQ c q f).uncorr = d.uncorr := rfl
@[simp] theorem modQ_corr (d : Dev) (c q : Nat) (f : Queue → Queue) : (d.modQ c q f).corr = d.corr := rfl
@[simp] theorem modQ_parBad (d : Dev) (c q : Nat) (f : Queue → Queue) : (d.modQ c q f).parBad = d.parBad := rfl
@[simp] theorem modQ_shadow (d : Dev) (c q : Nat) (f : Queue → Queue) : (d.modQ c q f).shadow = d.shadow := rfl
@[simp] theorem modQ_staged (d : Dev) (c q : Nat) (f : Queue → Queue) : (d.modQ c q f).staged = d.staged := rfl
@[simp] theorem modQ_free (d : Dev) (c q : Nat) (f : Queue → Queue) : (d.modQ c q f).free = d.free := rfl
@[simp] theorem modQ_out (d : Dev) (c q : Nat) (f : Queue → Queue) : (d.modQ c q f).out = d.out := rfl
@[simp] theorem modQ_cp (d : Dev) (c q : Nat) (f : Queue → Queue) : (d.modQ c q f).cp = d.cp := rfl
@[simp] theorem modQ_mbx (d : Dev) (c q : Nat) (f : Queue → Queue) : (d.modQ c q f).mbx = d.mbx := rfl
@[simp] theorem modQ_qTie (d : Dev) (c q : Nat) (f : Queue → Queue) : (d.modQ c q f).qTie = d.qTie := rfl
@[simp] theorem modQ_epo (d : Dev) (c q : Nat) (f : Queue → Queue) : (d.modQ c q f).epo = d.epo := rfl
@[simp] theorem modQ_sch (d : Dev) (c q : Nat) (f : Queue → Queue) : (d.modQ c q f).sch = d.sch := rfl
@[simp] theorem modQ_err (d : Dev) (c q : Nat) (f : Queue → Queue) : (d.modQ c q f).err = d.err := rfl
@[simp] theorem modQ_lnk (d : Dev) (c q : Nat) (f : Queue → Queue) : (d.modQ c q f).lnk = d.lnk := rfl
@[simp] theorem modQ_pci (d : Dev) (c q : Nat) (f : Queue → Queue) : (d.modQ c q f).pci = d.pci := rfl
@[simp] theorem modQ_unreached (d : Dev) (c q : Nat) (f : Queue → Queue) : (d.modQ c q f).unreached = d.unreached := rfl
@[simp] theorem modQ_serial (d : Dev) (c q : Nat) (f : Queue → Queue) : (d.modQ c q f).serial = d.serial := rfl
@[simp] theorem modQ_bbOwed (d : Dev) (c q : Nat) (f : Queue → Queue) : (d.modQ c q f).bbOwed = d.bbOwed := rfl
@[simp] theorem modQ_ing (d : Dev) (c q : Nat) (f : Queue → Queue) : (d.modQ c q f).ing = d.ing := rfl
@[simp] theorem modQ_tsk (d : Dev) (c q : Nat) (f : Queue → Queue) : (d.modQ c q f).tsk = d.tsk := rfl
@[simp] theorem modQ_fiu (d : Dev) (c q : Nat) (f : Queue → Queue) : (d.modQ c q f).fiu = d.fiu := rfl
@[simp] theorem modQ_twl (d : Dev) (c q : Nat) (f : Queue → Queue) : (d.modQ c q f).twl = d.twl := rfl
@[simp] theorem modQ_acc (d : Dev) (c q : Nat) (f : Queue → Queue) : (d.modQ c q f).acc = d.acc := rfl
@[simp] theorem modQ_accNum (d : Dev) (c q : Nat) (f : Queue → Queue) : (d.modQ c q f).accNum = d.accNum := rfl
@[simp] theorem modQ_rte (d : Dev) (c q : Nat) (f : Queue → Queue) : (d.modQ c q f).rte = d.rte := rfl
@[simp] theorem modQ_pwr (d : Dev) (c q : Nat) (f : Queue → Queue) : (d.modQ c q f).pwr = d.pwr := rfl
@[simp] theorem modQ_rxPkt (d : Dev) (c q : Nat) (f : Queue → Queue) : (d.modQ c q f).rxPkt = d.rxPkt := rfl
@[simp] theorem modQ_cap (d : Dev) (c q : Nat) (f : Queue → Queue) : (d.modQ c q f).cap = d.cap := rfl
@[simp] theorem modQ_coh (d : Dev) (c q : Nat) (f : Queue → Queue) : (d.modQ c q f).coh = d.coh := rfl
@[simp] theorem modQ_cal (d : Dev) (c q : Nat) (f : Queue → Queue) : (d.modQ c q f).cal = d.cal := rfl
@[simp] theorem modQ_calTie (d : Dev) (c q : Nat) (f : Queue → Queue) : (d.modQ c q f).calTie = d.calTie := rfl
@[simp] theorem modQ_ties (d : Dev) (c q : Nat) (f : Queue → Queue) : (d.modQ c q f).ties = d.ties := rfl
@[simp] theorem modQ_reg (d : Dev) (c q : Nat) (f : Queue → Queue) (key : Nat) : (d.modQ c q f).reg key = d.reg key := rfl
@[simp] theorem modQ_f (d : Dev) (c q : Nat) (f : Queue → Queue) (fld : Fld) : (d.modQ c q f).f fld = d.f fld := rfl
@[simp] theorem modQ_fb (d : Dev) (c q : Nat) (f : Queue → Queue) (fld : Fld) : (d.modQ c q f).fb fld = d.fb fld := rfl

/-! modSch -/

@[simp] theorem modSch_regs (d : Dev) (e : Nat) (f : SchEnt → SchEnt) : (d.modSch e f).regs = d.regs := rfl
@[simp] theorem modSch_mem (d : Dev) (e : Nat) (f : SchEnt → SchEnt) : (d.modSch e f).mem = d.mem := rfl
@[simp] theorem modSch_uncorr (d : Dev) (e : Nat) (f : SchEnt → SchEnt) : (d.modSch e f).uncorr = d.uncorr := rfl
@[simp] theorem modSch_corr (d : Dev) (e : Nat) (f : SchEnt → SchEnt) : (d.modSch e f).corr = d.corr := rfl
@[simp] theorem modSch_parBad (d : Dev) (e : Nat) (f : SchEnt → SchEnt) : (d.modSch e f).parBad = d.parBad := rfl
@[simp] theorem modSch_shadow (d : Dev) (e : Nat) (f : SchEnt → SchEnt) : (d.modSch e f).shadow = d.shadow := rfl
@[simp] theorem modSch_staged (d : Dev) (e : Nat) (f : SchEnt → SchEnt) : (d.modSch e f).staged = d.staged := rfl
@[simp] theorem modSch_free (d : Dev) (e : Nat) (f : SchEnt → SchEnt) : (d.modSch e f).free = d.free := rfl
@[simp] theorem modSch_out (d : Dev) (e : Nat) (f : SchEnt → SchEnt) : (d.modSch e f).out = d.out := rfl
@[simp] theorem modSch_cp (d : Dev) (e : Nat) (f : SchEnt → SchEnt) : (d.modSch e f).cp = d.cp := rfl
@[simp] theorem modSch_mbx (d : Dev) (e : Nat) (f : SchEnt → SchEnt) : (d.modSch e f).mbx = d.mbx := rfl
@[simp] theorem modSch_queues (d : Dev) (e : Nat) (f : SchEnt → SchEnt) : (d.modSch e f).queues = d.queues := rfl
@[simp] theorem modSch_qTie (d : Dev) (e : Nat) (f : SchEnt → SchEnt) : (d.modSch e f).qTie = d.qTie := rfl
@[simp] theorem modSch_epo (d : Dev) (e : Nat) (f : SchEnt → SchEnt) : (d.modSch e f).epo = d.epo := rfl
@[simp] theorem modSch_err (d : Dev) (e : Nat) (f : SchEnt → SchEnt) : (d.modSch e f).err = d.err := rfl
@[simp] theorem modSch_lnk (d : Dev) (e : Nat) (f : SchEnt → SchEnt) : (d.modSch e f).lnk = d.lnk := rfl
@[simp] theorem modSch_pci (d : Dev) (e : Nat) (f : SchEnt → SchEnt) : (d.modSch e f).pci = d.pci := rfl
@[simp] theorem modSch_unreached (d : Dev) (e : Nat) (f : SchEnt → SchEnt) : (d.modSch e f).unreached = d.unreached := rfl
@[simp] theorem modSch_serial (d : Dev) (e : Nat) (f : SchEnt → SchEnt) : (d.modSch e f).serial = d.serial := rfl
@[simp] theorem modSch_bbOwed (d : Dev) (e : Nat) (f : SchEnt → SchEnt) : (d.modSch e f).bbOwed = d.bbOwed := rfl
@[simp] theorem modSch_ing (d : Dev) (e : Nat) (f : SchEnt → SchEnt) : (d.modSch e f).ing = d.ing := rfl
@[simp] theorem modSch_tsk (d : Dev) (e : Nat) (f : SchEnt → SchEnt) : (d.modSch e f).tsk = d.tsk := rfl
@[simp] theorem modSch_fiu (d : Dev) (e : Nat) (f : SchEnt → SchEnt) : (d.modSch e f).fiu = d.fiu := rfl
@[simp] theorem modSch_twl (d : Dev) (e : Nat) (f : SchEnt → SchEnt) : (d.modSch e f).twl = d.twl := rfl
@[simp] theorem modSch_acc (d : Dev) (e : Nat) (f : SchEnt → SchEnt) : (d.modSch e f).acc = d.acc := rfl
@[simp] theorem modSch_accNum (d : Dev) (e : Nat) (f : SchEnt → SchEnt) : (d.modSch e f).accNum = d.accNum := rfl
@[simp] theorem modSch_rte (d : Dev) (e : Nat) (f : SchEnt → SchEnt) : (d.modSch e f).rte = d.rte := rfl
@[simp] theorem modSch_pwr (d : Dev) (e : Nat) (f : SchEnt → SchEnt) : (d.modSch e f).pwr = d.pwr := rfl
@[simp] theorem modSch_rxPkt (d : Dev) (e : Nat) (f : SchEnt → SchEnt) : (d.modSch e f).rxPkt = d.rxPkt := rfl
@[simp] theorem modSch_cap (d : Dev) (e : Nat) (f : SchEnt → SchEnt) : (d.modSch e f).cap = d.cap := rfl
@[simp] theorem modSch_coh (d : Dev) (e : Nat) (f : SchEnt → SchEnt) : (d.modSch e f).coh = d.coh := rfl
@[simp] theorem modSch_cal (d : Dev) (e : Nat) (f : SchEnt → SchEnt) : (d.modSch e f).cal = d.cal := rfl
@[simp] theorem modSch_calTie (d : Dev) (e : Nat) (f : SchEnt → SchEnt) : (d.modSch e f).calTie = d.calTie := rfl
@[simp] theorem modSch_ties (d : Dev) (e : Nat) (f : SchEnt → SchEnt) : (d.modSch e f).ties = d.ties := rfl
@[simp] theorem modSch_reg (d : Dev) (e : Nat) (f : SchEnt → SchEnt) (key : Nat) : (d.modSch e f).reg key = d.reg key := rfl
@[simp] theorem modSch_f (d : Dev) (e : Nat) (f : SchEnt → SchEnt) (fld : Fld) : (d.modSch e f).f fld = d.f fld := rfl
@[simp] theorem modSch_fb (d : Dev) (e : Nat) (f : SchEnt → SchEnt) (fld : Fld) : (d.modSch e f).fb fld = d.fb fld := rfl

/-! modInp -/

@[simp] theorem modInp_regs (d : Dev) (i : Nat) (f : Inp → Inp) : (d.modInp i f).regs = d.regs := rfl
@[simp] theorem modInp_mem (d : Dev) (i : Nat) (f : Inp → Inp) : (d.modInp i f).mem = d.mem := rfl
@[simp] theorem modInp_uncorr (d : Dev) (i : Nat) (f : Inp → Inp) : (d.modInp i f).uncorr = d.uncorr := rfl
@[simp] theorem modInp_corr (d : Dev) (i : Nat) (f : Inp → Inp) : (d.modInp i f).corr = d.corr := rfl
@[simp] theorem modInp_parBad (d : Dev) (i : Nat) (f : Inp → Inp) : (d.modInp i f).parBad = d.parBad := rfl
@[simp] theorem modInp_shadow (d : Dev) (i : Nat) (f : Inp → Inp) : (d.modInp i f).shadow = d.shadow := rfl
@[simp] theorem modInp_staged (d : Dev) (i : Nat) (f : Inp → Inp) : (d.modInp i f).staged = d.staged := rfl
@[simp] theorem modInp_free (d : Dev) (i : Nat) (f : Inp → Inp) : (d.modInp i f).free = d.free := rfl
@[simp] theorem modInp_out (d : Dev) (i : Nat) (f : Inp → Inp) : (d.modInp i f).out = d.out := rfl
@[simp] theorem modInp_cp (d : Dev) (i : Nat) (f : Inp → Inp) : (d.modInp i f).cp = d.cp := rfl
@[simp] theorem modInp_mbx (d : Dev) (i : Nat) (f : Inp → Inp) : (d.modInp i f).mbx = d.mbx := rfl
@[simp] theorem modInp_queues (d : Dev) (i : Nat) (f : Inp → Inp) : (d.modInp i f).queues = d.queues := rfl
@[simp] theorem modInp_qTie (d : Dev) (i : Nat) (f : Inp → Inp) : (d.modInp i f).qTie = d.qTie := rfl
@[simp] theorem modInp_epo (d : Dev) (i : Nat) (f : Inp → Inp) : (d.modInp i f).epo = d.epo := rfl
@[simp] theorem modInp_sch (d : Dev) (i : Nat) (f : Inp → Inp) : (d.modInp i f).sch = d.sch := rfl
@[simp] theorem modInp_err (d : Dev) (i : Nat) (f : Inp → Inp) : (d.modInp i f).err = d.err := rfl
@[simp] theorem modInp_lnk (d : Dev) (i : Nat) (f : Inp → Inp) : (d.modInp i f).lnk = d.lnk := rfl
@[simp] theorem modInp_pci (d : Dev) (i : Nat) (f : Inp → Inp) : (d.modInp i f).pci = d.pci := rfl
@[simp] theorem modInp_unreached (d : Dev) (i : Nat) (f : Inp → Inp) : (d.modInp i f).unreached = d.unreached := rfl
@[simp] theorem modInp_serial (d : Dev) (i : Nat) (f : Inp → Inp) : (d.modInp i f).serial = d.serial := rfl
@[simp] theorem modInp_bbOwed (d : Dev) (i : Nat) (f : Inp → Inp) : (d.modInp i f).bbOwed = d.bbOwed := rfl
@[simp] theorem modInp_tsk (d : Dev) (i : Nat) (f : Inp → Inp) : (d.modInp i f).tsk = d.tsk := rfl
@[simp] theorem modInp_fiu (d : Dev) (i : Nat) (f : Inp → Inp) : (d.modInp i f).fiu = d.fiu := rfl
@[simp] theorem modInp_twl (d : Dev) (i : Nat) (f : Inp → Inp) : (d.modInp i f).twl = d.twl := rfl
@[simp] theorem modInp_acc (d : Dev) (i : Nat) (f : Inp → Inp) : (d.modInp i f).acc = d.acc := rfl
@[simp] theorem modInp_accNum (d : Dev) (i : Nat) (f : Inp → Inp) : (d.modInp i f).accNum = d.accNum := rfl
@[simp] theorem modInp_rte (d : Dev) (i : Nat) (f : Inp → Inp) : (d.modInp i f).rte = d.rte := rfl
@[simp] theorem modInp_pwr (d : Dev) (i : Nat) (f : Inp → Inp) : (d.modInp i f).pwr = d.pwr := rfl
@[simp] theorem modInp_rxPkt (d : Dev) (i : Nat) (f : Inp → Inp) : (d.modInp i f).rxPkt = d.rxPkt := rfl
@[simp] theorem modInp_cap (d : Dev) (i : Nat) (f : Inp → Inp) : (d.modInp i f).cap = d.cap := rfl
@[simp] theorem modInp_coh (d : Dev) (i : Nat) (f : Inp → Inp) : (d.modInp i f).coh = d.coh := rfl
@[simp] theorem modInp_cal (d : Dev) (i : Nat) (f : Inp → Inp) : (d.modInp i f).cal = d.cal := rfl
@[simp] theorem modInp_calTie (d : Dev) (i : Nat) (f : Inp → Inp) : (d.modInp i f).calTie = d.calTie := rfl
@[simp] theorem modInp_ties (d : Dev) (i : Nat) (f : Inp → Inp) : (d.modInp i f).ties = d.ties := rfl
@[simp] theorem modInp_reg (d : Dev) (i : Nat) (f : Inp → Inp) (key : Nat) : (d.modInp i f).reg key = d.reg key := rfl
@[simp] theorem modInp_f (d : Dev) (i : Nat) (f : Inp → Inp) (fld : Fld) : (d.modInp i f).f fld = d.f fld := rfl
@[simp] theorem modInp_fb (d : Dev) (i : Nat) (f : Inp → Inp) (fld : Fld) : (d.modInp i f).fb fld = d.fb fld := rfl

/-! modFel -/

@[simp] theorem modFel_regs (d : Dev) (l : Nat) (f : Fel → Fel) : (d.modFel l f).regs = d.regs := rfl
@[simp] theorem modFel_mem (d : Dev) (l : Nat) (f : Fel → Fel) : (d.modFel l f).mem = d.mem := rfl
@[simp] theorem modFel_uncorr (d : Dev) (l : Nat) (f : Fel → Fel) : (d.modFel l f).uncorr = d.uncorr := rfl
@[simp] theorem modFel_corr (d : Dev) (l : Nat) (f : Fel → Fel) : (d.modFel l f).corr = d.corr := rfl
@[simp] theorem modFel_parBad (d : Dev) (l : Nat) (f : Fel → Fel) : (d.modFel l f).parBad = d.parBad := rfl
@[simp] theorem modFel_shadow (d : Dev) (l : Nat) (f : Fel → Fel) : (d.modFel l f).shadow = d.shadow := rfl
@[simp] theorem modFel_staged (d : Dev) (l : Nat) (f : Fel → Fel) : (d.modFel l f).staged = d.staged := rfl
@[simp] theorem modFel_free (d : Dev) (l : Nat) (f : Fel → Fel) : (d.modFel l f).free = d.free := rfl
@[simp] theorem modFel_out (d : Dev) (l : Nat) (f : Fel → Fel) : (d.modFel l f).out = d.out := rfl
@[simp] theorem modFel_cp (d : Dev) (l : Nat) (f : Fel → Fel) : (d.modFel l f).cp = d.cp := rfl
@[simp] theorem modFel_mbx (d : Dev) (l : Nat) (f : Fel → Fel) : (d.modFel l f).mbx = d.mbx := rfl
@[simp] theorem modFel_queues (d : Dev) (l : Nat) (f : Fel → Fel) : (d.modFel l f).queues = d.queues := rfl
@[simp] theorem modFel_qTie (d : Dev) (l : Nat) (f : Fel → Fel) : (d.modFel l f).qTie = d.qTie := rfl
@[simp] theorem modFel_epo (d : Dev) (l : Nat) (f : Fel → Fel) : (d.modFel l f).epo = d.epo := rfl
@[simp] theorem modFel_sch (d : Dev) (l : Nat) (f : Fel → Fel) : (d.modFel l f).sch = d.sch := rfl
@[simp] theorem modFel_err (d : Dev) (l : Nat) (f : Fel → Fel) : (d.modFel l f).err = d.err := rfl
@[simp] theorem modFel_lnk (d : Dev) (l : Nat) (f : Fel → Fel) : (d.modFel l f).lnk = d.lnk := rfl
@[simp] theorem modFel_pci (d : Dev) (l : Nat) (f : Fel → Fel) : (d.modFel l f).pci = d.pci := rfl
@[simp] theorem modFel_unreached (d : Dev) (l : Nat) (f : Fel → Fel) : (d.modFel l f).unreached = d.unreached := rfl
@[simp] theorem modFel_serial (d : Dev) (l : Nat) (f : Fel → Fel) : (d.modFel l f).serial = d.serial := rfl
@[simp] theorem modFel_bbOwed (d : Dev) (l : Nat) (f : Fel → Fel) : (d.modFel l f).bbOwed = d.bbOwed := rfl
@[simp] theorem modFel_tsk (d : Dev) (l : Nat) (f : Fel → Fel) : (d.modFel l f).tsk = d.tsk := rfl
@[simp] theorem modFel_fiu (d : Dev) (l : Nat) (f : Fel → Fel) : (d.modFel l f).fiu = d.fiu := rfl
@[simp] theorem modFel_twl (d : Dev) (l : Nat) (f : Fel → Fel) : (d.modFel l f).twl = d.twl := rfl
@[simp] theorem modFel_acc (d : Dev) (l : Nat) (f : Fel → Fel) : (d.modFel l f).acc = d.acc := rfl
@[simp] theorem modFel_accNum (d : Dev) (l : Nat) (f : Fel → Fel) : (d.modFel l f).accNum = d.accNum := rfl
@[simp] theorem modFel_rte (d : Dev) (l : Nat) (f : Fel → Fel) : (d.modFel l f).rte = d.rte := rfl
@[simp] theorem modFel_pwr (d : Dev) (l : Nat) (f : Fel → Fel) : (d.modFel l f).pwr = d.pwr := rfl
@[simp] theorem modFel_rxPkt (d : Dev) (l : Nat) (f : Fel → Fel) : (d.modFel l f).rxPkt = d.rxPkt := rfl
@[simp] theorem modFel_cap (d : Dev) (l : Nat) (f : Fel → Fel) : (d.modFel l f).cap = d.cap := rfl
@[simp] theorem modFel_coh (d : Dev) (l : Nat) (f : Fel → Fel) : (d.modFel l f).coh = d.coh := rfl
@[simp] theorem modFel_cal (d : Dev) (l : Nat) (f : Fel → Fel) : (d.modFel l f).cal = d.cal := rfl
@[simp] theorem modFel_calTie (d : Dev) (l : Nat) (f : Fel → Fel) : (d.modFel l f).calTie = d.calTie := rfl
@[simp] theorem modFel_ties (d : Dev) (l : Nat) (f : Fel → Fel) : (d.modFel l f).ties = d.ties := rfl
@[simp] theorem modFel_reg (d : Dev) (l : Nat) (f : Fel → Fel) (key : Nat) : (d.modFel l f).reg key = d.reg key := rfl
@[simp] theorem modFel_f (d : Dev) (l : Nat) (f : Fel → Fel) (fld : Fld) : (d.modFel l f).f fld = d.f fld := rfl
@[simp] theorem modFel_fb (d : Dev) (l : Nat) (f : Fel → Fel) (fld : Fld) : (d.modFel l f).fb fld = d.fb fld := rfl

/-! modPort -/

@[simp] theorem modPort_regs (d : Dev) (n : Nat) (f : Lnk → Lnk) : (d.modPort n f).regs = d.regs := rfl
@[simp] theorem modPort_mem (d : Dev) (n : Nat) (f : Lnk → Lnk) : (d.modPort n f).mem = d.mem := rfl
@[simp] theorem modPort_uncorr (d : Dev) (n : Nat) (f : Lnk → Lnk) : (d.modPort n f).uncorr = d.uncorr := rfl
@[simp] theorem modPort_corr (d : Dev) (n : Nat) (f : Lnk → Lnk) : (d.modPort n f).corr = d.corr := rfl
@[simp] theorem modPort_parBad (d : Dev) (n : Nat) (f : Lnk → Lnk) : (d.modPort n f).parBad = d.parBad := rfl
@[simp] theorem modPort_shadow (d : Dev) (n : Nat) (f : Lnk → Lnk) : (d.modPort n f).shadow = d.shadow := rfl
@[simp] theorem modPort_staged (d : Dev) (n : Nat) (f : Lnk → Lnk) : (d.modPort n f).staged = d.staged := rfl
@[simp] theorem modPort_free (d : Dev) (n : Nat) (f : Lnk → Lnk) : (d.modPort n f).free = d.free := rfl
@[simp] theorem modPort_out (d : Dev) (n : Nat) (f : Lnk → Lnk) : (d.modPort n f).out = d.out := rfl
@[simp] theorem modPort_cp (d : Dev) (n : Nat) (f : Lnk → Lnk) : (d.modPort n f).cp = d.cp := rfl
@[simp] theorem modPort_mbx (d : Dev) (n : Nat) (f : Lnk → Lnk) : (d.modPort n f).mbx = d.mbx := rfl
@[simp] theorem modPort_queues (d : Dev) (n : Nat) (f : Lnk → Lnk) : (d.modPort n f).queues = d.queues := rfl
@[simp] theorem modPort_qTie (d : Dev) (n : Nat) (f : Lnk → Lnk) : (d.modPort n f).qTie = d.qTie := rfl
@[simp] theorem modPort_epo (d : Dev) (n : Nat) (f : Lnk → Lnk) : (d.modPort n f).epo = d.epo := rfl
@[simp] theorem modPort_sch (d : Dev) (n : Nat) (f : Lnk → Lnk) : (d.modPort n f).sch = d.sch := rfl
@[simp] theorem modPort_err (d : Dev) (n : Nat) (f : Lnk → Lnk) : (d.modPort n f).err = d.err := rfl
@[simp] theorem modPort_pci (d : Dev) (n : Nat) (f : Lnk → Lnk) : (d.modPort n f).pci = d.pci := rfl
@[simp] theorem modPort_unreached (d : Dev) (n : Nat) (f : Lnk → Lnk) : (d.modPort n f).unreached = d.unreached := rfl
@[simp] theorem modPort_serial (d : Dev) (n : Nat) (f : Lnk → Lnk) : (d.modPort n f).serial = d.serial := rfl
@[simp] theorem modPort_bbOwed (d : Dev) (n : Nat) (f : Lnk → Lnk) : (d.modPort n f).bbOwed = d.bbOwed := rfl
@[simp] theorem modPort_ing (d : Dev) (n : Nat) (f : Lnk → Lnk) : (d.modPort n f).ing = d.ing := rfl
@[simp] theorem modPort_tsk (d : Dev) (n : Nat) (f : Lnk → Lnk) : (d.modPort n f).tsk = d.tsk := rfl
@[simp] theorem modPort_fiu (d : Dev) (n : Nat) (f : Lnk → Lnk) : (d.modPort n f).fiu = d.fiu := rfl
@[simp] theorem modPort_twl (d : Dev) (n : Nat) (f : Lnk → Lnk) : (d.modPort n f).twl = d.twl := rfl
@[simp] theorem modPort_acc (d : Dev) (n : Nat) (f : Lnk → Lnk) : (d.modPort n f).acc = d.acc := rfl
@[simp] theorem modPort_accNum (d : Dev) (n : Nat) (f : Lnk → Lnk) : (d.modPort n f).accNum = d.accNum := rfl
@[simp] theorem modPort_rte (d : Dev) (n : Nat) (f : Lnk → Lnk) : (d.modPort n f).rte = d.rte := rfl
@[simp] theorem modPort_pwr (d : Dev) (n : Nat) (f : Lnk → Lnk) : (d.modPort n f).pwr = d.pwr := rfl
@[simp] theorem modPort_rxPkt (d : Dev) (n : Nat) (f : Lnk → Lnk) : (d.modPort n f).rxPkt = d.rxPkt := rfl
@[simp] theorem modPort_cap (d : Dev) (n : Nat) (f : Lnk → Lnk) : (d.modPort n f).cap = d.cap := rfl
@[simp] theorem modPort_coh (d : Dev) (n : Nat) (f : Lnk → Lnk) : (d.modPort n f).coh = d.coh := rfl
@[simp] theorem modPort_cal (d : Dev) (n : Nat) (f : Lnk → Lnk) : (d.modPort n f).cal = d.cal := rfl
@[simp] theorem modPort_calTie (d : Dev) (n : Nat) (f : Lnk → Lnk) : (d.modPort n f).calTie = d.calTie := rfl
@[simp] theorem modPort_ties (d : Dev) (n : Nat) (f : Lnk → Lnk) : (d.modPort n f).ties = d.ties := rfl
@[simp] theorem modPort_reg (d : Dev) (n : Nat) (f : Lnk → Lnk) (key : Nat) : (d.modPort n f).reg key = d.reg key := rfl
@[simp] theorem modPort_f (d : Dev) (n : Nat) (f : Lnk → Lnk) (fld : Fld) : (d.modPort n f).f fld = d.f fld := rfl
@[simp] theorem modPort_fb (d : Dev) (n : Nat) (f : Lnk → Lnk) (fld : Fld) : (d.modPort n f).fb fld = d.fb fld := rfl

/-! modFp -/

@[simp] theorem modFp_regs (d : Dev) (p : Nat) (f : FiuPort → FiuPort) : (d.modFp p f).regs = d.regs := rfl
@[simp] theorem modFp_mem (d : Dev) (p : Nat) (f : FiuPort → FiuPort) : (d.modFp p f).mem = d.mem := rfl
@[simp] theorem modFp_uncorr (d : Dev) (p : Nat) (f : FiuPort → FiuPort) : (d.modFp p f).uncorr = d.uncorr := rfl
@[simp] theorem modFp_corr (d : Dev) (p : Nat) (f : FiuPort → FiuPort) : (d.modFp p f).corr = d.corr := rfl
@[simp] theorem modFp_parBad (d : Dev) (p : Nat) (f : FiuPort → FiuPort) : (d.modFp p f).parBad = d.parBad := rfl
@[simp] theorem modFp_shadow (d : Dev) (p : Nat) (f : FiuPort → FiuPort) : (d.modFp p f).shadow = d.shadow := rfl
@[simp] theorem modFp_staged (d : Dev) (p : Nat) (f : FiuPort → FiuPort) : (d.modFp p f).staged = d.staged := rfl
@[simp] theorem modFp_free (d : Dev) (p : Nat) (f : FiuPort → FiuPort) : (d.modFp p f).free = d.free := rfl
@[simp] theorem modFp_out (d : Dev) (p : Nat) (f : FiuPort → FiuPort) : (d.modFp p f).out = d.out := rfl
@[simp] theorem modFp_cp (d : Dev) (p : Nat) (f : FiuPort → FiuPort) : (d.modFp p f).cp = d.cp := rfl
@[simp] theorem modFp_mbx (d : Dev) (p : Nat) (f : FiuPort → FiuPort) : (d.modFp p f).mbx = d.mbx := rfl
@[simp] theorem modFp_queues (d : Dev) (p : Nat) (f : FiuPort → FiuPort) : (d.modFp p f).queues = d.queues := rfl
@[simp] theorem modFp_qTie (d : Dev) (p : Nat) (f : FiuPort → FiuPort) : (d.modFp p f).qTie = d.qTie := rfl
@[simp] theorem modFp_epo (d : Dev) (p : Nat) (f : FiuPort → FiuPort) : (d.modFp p f).epo = d.epo := rfl
@[simp] theorem modFp_sch (d : Dev) (p : Nat) (f : FiuPort → FiuPort) : (d.modFp p f).sch = d.sch := rfl
@[simp] theorem modFp_err (d : Dev) (p : Nat) (f : FiuPort → FiuPort) : (d.modFp p f).err = d.err := rfl
@[simp] theorem modFp_lnk (d : Dev) (p : Nat) (f : FiuPort → FiuPort) : (d.modFp p f).lnk = d.lnk := rfl
@[simp] theorem modFp_pci (d : Dev) (p : Nat) (f : FiuPort → FiuPort) : (d.modFp p f).pci = d.pci := rfl
@[simp] theorem modFp_unreached (d : Dev) (p : Nat) (f : FiuPort → FiuPort) : (d.modFp p f).unreached = d.unreached := rfl
@[simp] theorem modFp_serial (d : Dev) (p : Nat) (f : FiuPort → FiuPort) : (d.modFp p f).serial = d.serial := rfl
@[simp] theorem modFp_bbOwed (d : Dev) (p : Nat) (f : FiuPort → FiuPort) : (d.modFp p f).bbOwed = d.bbOwed := rfl
@[simp] theorem modFp_ing (d : Dev) (p : Nat) (f : FiuPort → FiuPort) : (d.modFp p f).ing = d.ing := rfl
@[simp] theorem modFp_tsk (d : Dev) (p : Nat) (f : FiuPort → FiuPort) : (d.modFp p f).tsk = d.tsk := rfl
@[simp] theorem modFp_twl (d : Dev) (p : Nat) (f : FiuPort → FiuPort) : (d.modFp p f).twl = d.twl := rfl
@[simp] theorem modFp_acc (d : Dev) (p : Nat) (f : FiuPort → FiuPort) : (d.modFp p f).acc = d.acc := rfl
@[simp] theorem modFp_accNum (d : Dev) (p : Nat) (f : FiuPort → FiuPort) : (d.modFp p f).accNum = d.accNum := rfl
@[simp] theorem modFp_rte (d : Dev) (p : Nat) (f : FiuPort → FiuPort) : (d.modFp p f).rte = d.rte := rfl
@[simp] theorem modFp_pwr (d : Dev) (p : Nat) (f : FiuPort → FiuPort) : (d.modFp p f).pwr = d.pwr := rfl
@[simp] theorem modFp_rxPkt (d : Dev) (p : Nat) (f : FiuPort → FiuPort) : (d.modFp p f).rxPkt = d.rxPkt := rfl
@[simp] theorem modFp_cap (d : Dev) (p : Nat) (f : FiuPort → FiuPort) : (d.modFp p f).cap = d.cap := rfl
@[simp] theorem modFp_coh (d : Dev) (p : Nat) (f : FiuPort → FiuPort) : (d.modFp p f).coh = d.coh := rfl
@[simp] theorem modFp_cal (d : Dev) (p : Nat) (f : FiuPort → FiuPort) : (d.modFp p f).cal = d.cal := rfl
@[simp] theorem modFp_calTie (d : Dev) (p : Nat) (f : FiuPort → FiuPort) : (d.modFp p f).calTie = d.calTie := rfl
@[simp] theorem modFp_ties (d : Dev) (p : Nat) (f : FiuPort → FiuPort) : (d.modFp p f).ties = d.ties := rfl
@[simp] theorem modFp_reg (d : Dev) (p : Nat) (f : FiuPort → FiuPort) (key : Nat) : (d.modFp p f).reg key = d.reg key := rfl
@[simp] theorem modFp_f (d : Dev) (p : Nat) (f : FiuPort → FiuPort) (fld : Fld) : (d.modFp p f).f fld = d.f fld := rfl
@[simp] theorem modFp_fb (d : Dev) (p : Nat) (f : FiuPort → FiuPort) (fld : Fld) : (d.modFp p f).fb fld = d.fb fld := rfl

/-! modCoh -/

@[simp] theorem modCoh_regs (d : Dev) (f : Coh → Coh) : (d.modCoh f).regs = d.regs := rfl
@[simp] theorem modCoh_mem (d : Dev) (f : Coh → Coh) : (d.modCoh f).mem = d.mem := rfl
@[simp] theorem modCoh_uncorr (d : Dev) (f : Coh → Coh) : (d.modCoh f).uncorr = d.uncorr := rfl
@[simp] theorem modCoh_corr (d : Dev) (f : Coh → Coh) : (d.modCoh f).corr = d.corr := rfl
@[simp] theorem modCoh_parBad (d : Dev) (f : Coh → Coh) : (d.modCoh f).parBad = d.parBad := rfl
@[simp] theorem modCoh_shadow (d : Dev) (f : Coh → Coh) : (d.modCoh f).shadow = d.shadow := rfl
@[simp] theorem modCoh_staged (d : Dev) (f : Coh → Coh) : (d.modCoh f).staged = d.staged := rfl
@[simp] theorem modCoh_free (d : Dev) (f : Coh → Coh) : (d.modCoh f).free = d.free := rfl
@[simp] theorem modCoh_out (d : Dev) (f : Coh → Coh) : (d.modCoh f).out = d.out := rfl
@[simp] theorem modCoh_cp (d : Dev) (f : Coh → Coh) : (d.modCoh f).cp = d.cp := rfl
@[simp] theorem modCoh_mbx (d : Dev) (f : Coh → Coh) : (d.modCoh f).mbx = d.mbx := rfl
@[simp] theorem modCoh_queues (d : Dev) (f : Coh → Coh) : (d.modCoh f).queues = d.queues := rfl
@[simp] theorem modCoh_qTie (d : Dev) (f : Coh → Coh) : (d.modCoh f).qTie = d.qTie := rfl
@[simp] theorem modCoh_epo (d : Dev) (f : Coh → Coh) : (d.modCoh f).epo = d.epo := rfl
@[simp] theorem modCoh_sch (d : Dev) (f : Coh → Coh) : (d.modCoh f).sch = d.sch := rfl
@[simp] theorem modCoh_err (d : Dev) (f : Coh → Coh) : (d.modCoh f).err = d.err := rfl
@[simp] theorem modCoh_lnk (d : Dev) (f : Coh → Coh) : (d.modCoh f).lnk = d.lnk := rfl
@[simp] theorem modCoh_pci (d : Dev) (f : Coh → Coh) : (d.modCoh f).pci = d.pci := rfl
@[simp] theorem modCoh_unreached (d : Dev) (f : Coh → Coh) : (d.modCoh f).unreached = d.unreached := rfl
@[simp] theorem modCoh_serial (d : Dev) (f : Coh → Coh) : (d.modCoh f).serial = d.serial := rfl
@[simp] theorem modCoh_bbOwed (d : Dev) (f : Coh → Coh) : (d.modCoh f).bbOwed = d.bbOwed := rfl
@[simp] theorem modCoh_ing (d : Dev) (f : Coh → Coh) : (d.modCoh f).ing = d.ing := rfl
@[simp] theorem modCoh_tsk (d : Dev) (f : Coh → Coh) : (d.modCoh f).tsk = d.tsk := rfl
@[simp] theorem modCoh_fiu (d : Dev) (f : Coh → Coh) : (d.modCoh f).fiu = d.fiu := rfl
@[simp] theorem modCoh_twl (d : Dev) (f : Coh → Coh) : (d.modCoh f).twl = d.twl := rfl
@[simp] theorem modCoh_acc (d : Dev) (f : Coh → Coh) : (d.modCoh f).acc = d.acc := rfl
@[simp] theorem modCoh_accNum (d : Dev) (f : Coh → Coh) : (d.modCoh f).accNum = d.accNum := rfl
@[simp] theorem modCoh_rte (d : Dev) (f : Coh → Coh) : (d.modCoh f).rte = d.rte := rfl
@[simp] theorem modCoh_pwr (d : Dev) (f : Coh → Coh) : (d.modCoh f).pwr = d.pwr := rfl
@[simp] theorem modCoh_rxPkt (d : Dev) (f : Coh → Coh) : (d.modCoh f).rxPkt = d.rxPkt := rfl
@[simp] theorem modCoh_cap (d : Dev) (f : Coh → Coh) : (d.modCoh f).cap = d.cap := rfl
@[simp] theorem modCoh_cal (d : Dev) (f : Coh → Coh) : (d.modCoh f).cal = d.cal := rfl
@[simp] theorem modCoh_calTie (d : Dev) (f : Coh → Coh) : (d.modCoh f).calTie = d.calTie := rfl
@[simp] theorem modCoh_ties (d : Dev) (f : Coh → Coh) : (d.modCoh f).ties = d.ties := rfl
@[simp] theorem modCoh_reg (d : Dev) (f : Coh → Coh) (key : Nat) : (d.modCoh f).reg key = d.reg key := rfl
@[simp] theorem modCoh_f (d : Dev) (f : Coh → Coh) (fld : Fld) : (d.modCoh f).f fld = d.f fld := rfl
@[simp] theorem modCoh_fb (d : Dev) (f : Coh → Coh) (fld : Fld) : (d.modCoh f).fb fld = d.fb fld := rfl

/-! modPwr -/

@[simp] theorem modPwr_regs (d : Dev) (f : Pwr → Pwr) : (d.modPwr f).regs = d.regs := rfl
@[simp] theorem modPwr_mem (d : Dev) (f : Pwr → Pwr) : (d.modPwr f).mem = d.mem := rfl
@[simp] theorem modPwr_uncorr (d : Dev) (f : Pwr → Pwr) : (d.modPwr f).uncorr = d.uncorr := rfl
@[simp] theorem modPwr_corr (d : Dev) (f : Pwr → Pwr) : (d.modPwr f).corr = d.corr := rfl
@[simp] theorem modPwr_parBad (d : Dev) (f : Pwr → Pwr) : (d.modPwr f).parBad = d.parBad := rfl
@[simp] theorem modPwr_shadow (d : Dev) (f : Pwr → Pwr) : (d.modPwr f).shadow = d.shadow := rfl
@[simp] theorem modPwr_staged (d : Dev) (f : Pwr → Pwr) : (d.modPwr f).staged = d.staged := rfl
@[simp] theorem modPwr_free (d : Dev) (f : Pwr → Pwr) : (d.modPwr f).free = d.free := rfl
@[simp] theorem modPwr_out (d : Dev) (f : Pwr → Pwr) : (d.modPwr f).out = d.out := rfl
@[simp] theorem modPwr_cp (d : Dev) (f : Pwr → Pwr) : (d.modPwr f).cp = d.cp := rfl
@[simp] theorem modPwr_mbx (d : Dev) (f : Pwr → Pwr) : (d.modPwr f).mbx = d.mbx := rfl
@[simp] theorem modPwr_queues (d : Dev) (f : Pwr → Pwr) : (d.modPwr f).queues = d.queues := rfl
@[simp] theorem modPwr_qTie (d : Dev) (f : Pwr → Pwr) : (d.modPwr f).qTie = d.qTie := rfl
@[simp] theorem modPwr_epo (d : Dev) (f : Pwr → Pwr) : (d.modPwr f).epo = d.epo := rfl
@[simp] theorem modPwr_sch (d : Dev) (f : Pwr → Pwr) : (d.modPwr f).sch = d.sch := rfl
@[simp] theorem modPwr_err (d : Dev) (f : Pwr → Pwr) : (d.modPwr f).err = d.err := rfl
@[simp] theorem modPwr_lnk (d : Dev) (f : Pwr → Pwr) : (d.modPwr f).lnk = d.lnk := rfl
@[simp] theorem modPwr_pci (d : Dev) (f : Pwr → Pwr) : (d.modPwr f).pci = d.pci := rfl
@[simp] theorem modPwr_unreached (d : Dev) (f : Pwr → Pwr) : (d.modPwr f).unreached = d.unreached := rfl
@[simp] theorem modPwr_serial (d : Dev) (f : Pwr → Pwr) : (d.modPwr f).serial = d.serial := rfl
@[simp] theorem modPwr_bbOwed (d : Dev) (f : Pwr → Pwr) : (d.modPwr f).bbOwed = d.bbOwed := rfl
@[simp] theorem modPwr_ing (d : Dev) (f : Pwr → Pwr) : (d.modPwr f).ing = d.ing := rfl
@[simp] theorem modPwr_tsk (d : Dev) (f : Pwr → Pwr) : (d.modPwr f).tsk = d.tsk := rfl
@[simp] theorem modPwr_fiu (d : Dev) (f : Pwr → Pwr) : (d.modPwr f).fiu = d.fiu := rfl
@[simp] theorem modPwr_twl (d : Dev) (f : Pwr → Pwr) : (d.modPwr f).twl = d.twl := rfl
@[simp] theorem modPwr_acc (d : Dev) (f : Pwr → Pwr) : (d.modPwr f).acc = d.acc := rfl
@[simp] theorem modPwr_accNum (d : Dev) (f : Pwr → Pwr) : (d.modPwr f).accNum = d.accNum := rfl
@[simp] theorem modPwr_rte (d : Dev) (f : Pwr → Pwr) : (d.modPwr f).rte = d.rte := rfl
@[simp] theorem modPwr_rxPkt (d : Dev) (f : Pwr → Pwr) : (d.modPwr f).rxPkt = d.rxPkt := rfl
@[simp] theorem modPwr_cap (d : Dev) (f : Pwr → Pwr) : (d.modPwr f).cap = d.cap := rfl
@[simp] theorem modPwr_coh (d : Dev) (f : Pwr → Pwr) : (d.modPwr f).coh = d.coh := rfl
@[simp] theorem modPwr_cal (d : Dev) (f : Pwr → Pwr) : (d.modPwr f).cal = d.cal := rfl
@[simp] theorem modPwr_calTie (d : Dev) (f : Pwr → Pwr) : (d.modPwr f).calTie = d.calTie := rfl
@[simp] theorem modPwr_ties (d : Dev) (f : Pwr → Pwr) : (d.modPwr f).ties = d.ties := rfl
@[simp] theorem modPwr_reg (d : Dev) (f : Pwr → Pwr) (key : Nat) : (d.modPwr f).reg key = d.reg key := rfl
@[simp] theorem modPwr_f (d : Dev) (f : Pwr → Pwr) (fld : Fld) : (d.modPwr f).f fld = d.f fld := rfl
@[simp] theorem modPwr_fb (d : Dev) (f : Pwr → Pwr) (fld : Fld) : (d.modPwr f).fb fld = d.fb fld := rfl

/-! modUnit -/

@[simp] theorem modUnit_regs (d : Dev) (u : Nat) (f : UnitS → UnitS) : (d.modUnit u f).regs = d.regs := rfl
@[simp] theorem modUnit_mem (d : Dev) (u : Nat) (f : UnitS → UnitS) : (d.modUnit u f).mem = d.mem := rfl
@[simp] theorem modUnit_uncorr (d : Dev) (u : Nat) (f : UnitS → UnitS) : (d.modUnit u f).uncorr = d.uncorr := rfl
@[simp] theorem modUnit_corr (d : Dev) (u : Nat) (f : UnitS → UnitS) : (d.modUnit u f).corr = d.corr := rfl
@[simp] theorem modUnit_parBad (d : Dev) (u : Nat) (f : UnitS → UnitS) : (d.modUnit u f).parBad = d.parBad := rfl
@[simp] theorem modUnit_shadow (d : Dev) (u : Nat) (f : UnitS → UnitS) : (d.modUnit u f).shadow = d.shadow := rfl
@[simp] theorem modUnit_staged (d : Dev) (u : Nat) (f : UnitS → UnitS) : (d.modUnit u f).staged = d.staged := rfl
@[simp] theorem modUnit_free (d : Dev) (u : Nat) (f : UnitS → UnitS) : (d.modUnit u f).free = d.free := rfl
@[simp] theorem modUnit_out (d : Dev) (u : Nat) (f : UnitS → UnitS) : (d.modUnit u f).out = d.out := rfl
@[simp] theorem modUnit_cp (d : Dev) (u : Nat) (f : UnitS → UnitS) : (d.modUnit u f).cp = d.cp := rfl
@[simp] theorem modUnit_mbx (d : Dev) (u : Nat) (f : UnitS → UnitS) : (d.modUnit u f).mbx = d.mbx := rfl
@[simp] theorem modUnit_queues (d : Dev) (u : Nat) (f : UnitS → UnitS) : (d.modUnit u f).queues = d.queues := rfl
@[simp] theorem modUnit_qTie (d : Dev) (u : Nat) (f : UnitS → UnitS) : (d.modUnit u f).qTie = d.qTie := rfl
@[simp] theorem modUnit_epo (d : Dev) (u : Nat) (f : UnitS → UnitS) : (d.modUnit u f).epo = d.epo := rfl
@[simp] theorem modUnit_sch (d : Dev) (u : Nat) (f : UnitS → UnitS) : (d.modUnit u f).sch = d.sch := rfl
@[simp] theorem modUnit_err (d : Dev) (u : Nat) (f : UnitS → UnitS) : (d.modUnit u f).err = d.err := rfl
@[simp] theorem modUnit_lnk (d : Dev) (u : Nat) (f : UnitS → UnitS) : (d.modUnit u f).lnk = d.lnk := rfl
@[simp] theorem modUnit_pci (d : Dev) (u : Nat) (f : UnitS → UnitS) : (d.modUnit u f).pci = d.pci := rfl
@[simp] theorem modUnit_unreached (d : Dev) (u : Nat) (f : UnitS → UnitS) : (d.modUnit u f).unreached = d.unreached := rfl
@[simp] theorem modUnit_serial (d : Dev) (u : Nat) (f : UnitS → UnitS) : (d.modUnit u f).serial = d.serial := rfl
@[simp] theorem modUnit_bbOwed (d : Dev) (u : Nat) (f : UnitS → UnitS) : (d.modUnit u f).bbOwed = d.bbOwed := rfl
@[simp] theorem modUnit_ing (d : Dev) (u : Nat) (f : UnitS → UnitS) : (d.modUnit u f).ing = d.ing := rfl
@[simp] theorem modUnit_fiu (d : Dev) (u : Nat) (f : UnitS → UnitS) : (d.modUnit u f).fiu = d.fiu := rfl
@[simp] theorem modUnit_twl (d : Dev) (u : Nat) (f : UnitS → UnitS) : (d.modUnit u f).twl = d.twl := rfl
@[simp] theorem modUnit_acc (d : Dev) (u : Nat) (f : UnitS → UnitS) : (d.modUnit u f).acc = d.acc := rfl
@[simp] theorem modUnit_accNum (d : Dev) (u : Nat) (f : UnitS → UnitS) : (d.modUnit u f).accNum = d.accNum := rfl
@[simp] theorem modUnit_rte (d : Dev) (u : Nat) (f : UnitS → UnitS) : (d.modUnit u f).rte = d.rte := rfl
@[simp] theorem modUnit_pwr (d : Dev) (u : Nat) (f : UnitS → UnitS) : (d.modUnit u f).pwr = d.pwr := rfl
@[simp] theorem modUnit_rxPkt (d : Dev) (u : Nat) (f : UnitS → UnitS) : (d.modUnit u f).rxPkt = d.rxPkt := rfl
@[simp] theorem modUnit_cap (d : Dev) (u : Nat) (f : UnitS → UnitS) : (d.modUnit u f).cap = d.cap := rfl
@[simp] theorem modUnit_coh (d : Dev) (u : Nat) (f : UnitS → UnitS) : (d.modUnit u f).coh = d.coh := rfl
@[simp] theorem modUnit_cal (d : Dev) (u : Nat) (f : UnitS → UnitS) : (d.modUnit u f).cal = d.cal := rfl
@[simp] theorem modUnit_calTie (d : Dev) (u : Nat) (f : UnitS → UnitS) : (d.modUnit u f).calTie = d.calTie := rfl
@[simp] theorem modUnit_ties (d : Dev) (u : Nat) (f : UnitS → UnitS) : (d.modUnit u f).ties = d.ties := rfl
@[simp] theorem modUnit_reg (d : Dev) (u : Nat) (f : UnitS → UnitS) (key : Nat) : (d.modUnit u f).reg key = d.reg key := rfl
@[simp] theorem modUnit_f (d : Dev) (u : Nat) (f : UnitS → UnitS) (fld : Fld) : (d.modUnit u f).f fld = d.f fld := rfl
@[simp] theorem modUnit_fb (d : Dev) (u : Nat) (f : UnitS → UnitS) (fld : Fld) : (d.modUnit u f).fb fld = d.fb fld := rfl

/-! modBeam -/

@[simp] theorem modBeam_regs (d : Dev) (b : Nat) (f : Beam → Beam) : (d.modBeam b f).regs = d.regs := rfl
@[simp] theorem modBeam_mem (d : Dev) (b : Nat) (f : Beam → Beam) : (d.modBeam b f).mem = d.mem := rfl
@[simp] theorem modBeam_uncorr (d : Dev) (b : Nat) (f : Beam → Beam) : (d.modBeam b f).uncorr = d.uncorr := rfl
@[simp] theorem modBeam_corr (d : Dev) (b : Nat) (f : Beam → Beam) : (d.modBeam b f).corr = d.corr := rfl
@[simp] theorem modBeam_parBad (d : Dev) (b : Nat) (f : Beam → Beam) : (d.modBeam b f).parBad = d.parBad := rfl
@[simp] theorem modBeam_shadow (d : Dev) (b : Nat) (f : Beam → Beam) : (d.modBeam b f).shadow = d.shadow := rfl
@[simp] theorem modBeam_staged (d : Dev) (b : Nat) (f : Beam → Beam) : (d.modBeam b f).staged = d.staged := rfl
@[simp] theorem modBeam_free (d : Dev) (b : Nat) (f : Beam → Beam) : (d.modBeam b f).free = d.free := rfl
@[simp] theorem modBeam_out (d : Dev) (b : Nat) (f : Beam → Beam) : (d.modBeam b f).out = d.out := rfl
@[simp] theorem modBeam_cp (d : Dev) (b : Nat) (f : Beam → Beam) : (d.modBeam b f).cp = d.cp := rfl
@[simp] theorem modBeam_mbx (d : Dev) (b : Nat) (f : Beam → Beam) : (d.modBeam b f).mbx = d.mbx := rfl
@[simp] theorem modBeam_queues (d : Dev) (b : Nat) (f : Beam → Beam) : (d.modBeam b f).queues = d.queues := rfl
@[simp] theorem modBeam_qTie (d : Dev) (b : Nat) (f : Beam → Beam) : (d.modBeam b f).qTie = d.qTie := rfl
@[simp] theorem modBeam_epo (d : Dev) (b : Nat) (f : Beam → Beam) : (d.modBeam b f).epo = d.epo := rfl
@[simp] theorem modBeam_sch (d : Dev) (b : Nat) (f : Beam → Beam) : (d.modBeam b f).sch = d.sch := rfl
@[simp] theorem modBeam_err (d : Dev) (b : Nat) (f : Beam → Beam) : (d.modBeam b f).err = d.err := rfl
@[simp] theorem modBeam_lnk (d : Dev) (b : Nat) (f : Beam → Beam) : (d.modBeam b f).lnk = d.lnk := rfl
@[simp] theorem modBeam_pci (d : Dev) (b : Nat) (f : Beam → Beam) : (d.modBeam b f).pci = d.pci := rfl
@[simp] theorem modBeam_unreached (d : Dev) (b : Nat) (f : Beam → Beam) : (d.modBeam b f).unreached = d.unreached := rfl
@[simp] theorem modBeam_serial (d : Dev) (b : Nat) (f : Beam → Beam) : (d.modBeam b f).serial = d.serial := rfl
@[simp] theorem modBeam_bbOwed (d : Dev) (b : Nat) (f : Beam → Beam) : (d.modBeam b f).bbOwed = d.bbOwed := rfl
@[simp] theorem modBeam_ing (d : Dev) (b : Nat) (f : Beam → Beam) : (d.modBeam b f).ing = d.ing := rfl
@[simp] theorem modBeam_fiu (d : Dev) (b : Nat) (f : Beam → Beam) : (d.modBeam b f).fiu = d.fiu := rfl
@[simp] theorem modBeam_twl (d : Dev) (b : Nat) (f : Beam → Beam) : (d.modBeam b f).twl = d.twl := rfl
@[simp] theorem modBeam_acc (d : Dev) (b : Nat) (f : Beam → Beam) : (d.modBeam b f).acc = d.acc := rfl
@[simp] theorem modBeam_accNum (d : Dev) (b : Nat) (f : Beam → Beam) : (d.modBeam b f).accNum = d.accNum := rfl
@[simp] theorem modBeam_rte (d : Dev) (b : Nat) (f : Beam → Beam) : (d.modBeam b f).rte = d.rte := rfl
@[simp] theorem modBeam_pwr (d : Dev) (b : Nat) (f : Beam → Beam) : (d.modBeam b f).pwr = d.pwr := rfl
@[simp] theorem modBeam_rxPkt (d : Dev) (b : Nat) (f : Beam → Beam) : (d.modBeam b f).rxPkt = d.rxPkt := rfl
@[simp] theorem modBeam_cap (d : Dev) (b : Nat) (f : Beam → Beam) : (d.modBeam b f).cap = d.cap := rfl
@[simp] theorem modBeam_coh (d : Dev) (b : Nat) (f : Beam → Beam) : (d.modBeam b f).coh = d.coh := rfl
@[simp] theorem modBeam_cal (d : Dev) (b : Nat) (f : Beam → Beam) : (d.modBeam b f).cal = d.cal := rfl
@[simp] theorem modBeam_calTie (d : Dev) (b : Nat) (f : Beam → Beam) : (d.modBeam b f).calTie = d.calTie := rfl
@[simp] theorem modBeam_ties (d : Dev) (b : Nat) (f : Beam → Beam) : (d.modBeam b f).ties = d.ties := rfl
@[simp] theorem modBeam_reg (d : Dev) (b : Nat) (f : Beam → Beam) (key : Nat) : (d.modBeam b f).reg key = d.reg key := rfl
@[simp] theorem modBeam_f (d : Dev) (b : Nat) (f : Beam → Beam) (fld : Fld) : (d.modBeam b f).f fld = d.f fld := rfl
@[simp] theorem modBeam_fb (d : Dev) (b : Nat) (f : Beam → Beam) (fld : Fld) : (d.modBeam b f).fb fld = d.fb fld := rfl

/-! modHq -/

@[simp] theorem modHq_regs (d : Dev) (q : Nat) (f : HostQ → HostQ) : (d.modHq q f).regs = d.regs := rfl
@[simp] theorem modHq_mem (d : Dev) (q : Nat) (f : HostQ → HostQ) : (d.modHq q f).mem = d.mem := rfl
@[simp] theorem modHq_uncorr (d : Dev) (q : Nat) (f : HostQ → HostQ) : (d.modHq q f).uncorr = d.uncorr := rfl
@[simp] theorem modHq_corr (d : Dev) (q : Nat) (f : HostQ → HostQ) : (d.modHq q f).corr = d.corr := rfl
@[simp] theorem modHq_parBad (d : Dev) (q : Nat) (f : HostQ → HostQ) : (d.modHq q f).parBad = d.parBad := rfl
@[simp] theorem modHq_shadow (d : Dev) (q : Nat) (f : HostQ → HostQ) : (d.modHq q f).shadow = d.shadow := rfl
@[simp] theorem modHq_staged (d : Dev) (q : Nat) (f : HostQ → HostQ) : (d.modHq q f).staged = d.staged := rfl
@[simp] theorem modHq_free (d : Dev) (q : Nat) (f : HostQ → HostQ) : (d.modHq q f).free = d.free := rfl
@[simp] theorem modHq_out (d : Dev) (q : Nat) (f : HostQ → HostQ) : (d.modHq q f).out = d.out := rfl
@[simp] theorem modHq_cp (d : Dev) (q : Nat) (f : HostQ → HostQ) : (d.modHq q f).cp = d.cp := rfl
@[simp] theorem modHq_mbx (d : Dev) (q : Nat) (f : HostQ → HostQ) : (d.modHq q f).mbx = d.mbx := rfl
@[simp] theorem modHq_queues (d : Dev) (q : Nat) (f : HostQ → HostQ) : (d.modHq q f).queues = d.queues := rfl
@[simp] theorem modHq_qTie (d : Dev) (q : Nat) (f : HostQ → HostQ) : (d.modHq q f).qTie = d.qTie := rfl
@[simp] theorem modHq_epo (d : Dev) (q : Nat) (f : HostQ → HostQ) : (d.modHq q f).epo = d.epo := rfl
@[simp] theorem modHq_sch (d : Dev) (q : Nat) (f : HostQ → HostQ) : (d.modHq q f).sch = d.sch := rfl
@[simp] theorem modHq_err (d : Dev) (q : Nat) (f : HostQ → HostQ) : (d.modHq q f).err = d.err := rfl
@[simp] theorem modHq_lnk (d : Dev) (q : Nat) (f : HostQ → HostQ) : (d.modHq q f).lnk = d.lnk := rfl
@[simp] theorem modHq_unreached (d : Dev) (q : Nat) (f : HostQ → HostQ) : (d.modHq q f).unreached = d.unreached := rfl
@[simp] theorem modHq_serial (d : Dev) (q : Nat) (f : HostQ → HostQ) : (d.modHq q f).serial = d.serial := rfl
@[simp] theorem modHq_bbOwed (d : Dev) (q : Nat) (f : HostQ → HostQ) : (d.modHq q f).bbOwed = d.bbOwed := rfl
@[simp] theorem modHq_ing (d : Dev) (q : Nat) (f : HostQ → HostQ) : (d.modHq q f).ing = d.ing := rfl
@[simp] theorem modHq_tsk (d : Dev) (q : Nat) (f : HostQ → HostQ) : (d.modHq q f).tsk = d.tsk := rfl
@[simp] theorem modHq_fiu (d : Dev) (q : Nat) (f : HostQ → HostQ) : (d.modHq q f).fiu = d.fiu := rfl
@[simp] theorem modHq_twl (d : Dev) (q : Nat) (f : HostQ → HostQ) : (d.modHq q f).twl = d.twl := rfl
@[simp] theorem modHq_acc (d : Dev) (q : Nat) (f : HostQ → HostQ) : (d.modHq q f).acc = d.acc := rfl
@[simp] theorem modHq_accNum (d : Dev) (q : Nat) (f : HostQ → HostQ) : (d.modHq q f).accNum = d.accNum := rfl
@[simp] theorem modHq_rte (d : Dev) (q : Nat) (f : HostQ → HostQ) : (d.modHq q f).rte = d.rte := rfl
@[simp] theorem modHq_pwr (d : Dev) (q : Nat) (f : HostQ → HostQ) : (d.modHq q f).pwr = d.pwr := rfl
@[simp] theorem modHq_rxPkt (d : Dev) (q : Nat) (f : HostQ → HostQ) : (d.modHq q f).rxPkt = d.rxPkt := rfl
@[simp] theorem modHq_cap (d : Dev) (q : Nat) (f : HostQ → HostQ) : (d.modHq q f).cap = d.cap := rfl
@[simp] theorem modHq_coh (d : Dev) (q : Nat) (f : HostQ → HostQ) : (d.modHq q f).coh = d.coh := rfl
@[simp] theorem modHq_cal (d : Dev) (q : Nat) (f : HostQ → HostQ) : (d.modHq q f).cal = d.cal := rfl
@[simp] theorem modHq_calTie (d : Dev) (q : Nat) (f : HostQ → HostQ) : (d.modHq q f).calTie = d.calTie := rfl
@[simp] theorem modHq_ties (d : Dev) (q : Nat) (f : HostQ → HostQ) : (d.modHq q f).ties = d.ties := rfl
@[simp] theorem modHq_reg (d : Dev) (q : Nat) (f : HostQ → HostQ) (key : Nat) : (d.modHq q f).reg key = d.reg key := rfl
@[simp] theorem modHq_f (d : Dev) (q : Nat) (f : HostQ → HostQ) (fld : Fld) : (d.modHq q f).f fld = d.f fld := rfl
@[simp] theorem modHq_fb (d : Dev) (q : Nat) (f : HostQ → HostQ) (fld : Fld) : (d.modHq q f).fb fld = d.fb fld := rfl

/-! The state -/

@[simp] theorem settle_pending (s : State) : s.settle.pending = s.pending := rfl
@[simp] theorem settle_fuses (s : State) : s.settle.fuses = s.fuses := rfl
@[simp] theorem settle_ks (s : State) : s.settle.ks = s.ks := rfl
@[simp] theorem settle_dev (s : State) : s.settle.dev = s.dev.settle := rfl
@[simp] theorem after_pending (s : State) (f : Dev → Dev) : (s.after f).pending = s.pending := rfl
@[simp] theorem after_fuses (s : State) (f : Dev → Dev) : (s.after f).fuses = s.fuses := rfl
@[simp] theorem after_ks (s : State) (f : Dev → Dev) : (s.after f).ks = s.ks := rfl
@[simp] theorem after_dev (s : State) (f : Dev → Dev) : (s.after f).dev = (f s.dev).settle := rfl

end Sys2Proof.Machine
end

