-- ==== Sys2Proof/Laws/Shared.lean ====
section
/-! SUPPORT. The shared operations, each with everything it can do: the gate of the meanings by its two outcomes, the taking
of a mailbox command by its five, the answer, the memory operations and the canonical form they keep. -/

namespace Sys2Proof.Machine

/-! ### The gate -/

/-- A gated meaning answers next of the same state in reset, else of the settled effect. -/
theorem gate_cases {f : State → State} {s t : State} (h : gate f s = .next t) :
    (s.live = false ∧ t = s) ∨ (s.live = true ∧ t = (f s).settle) := by
  cases hl : s.live with
  | false => rw [gate_held hl] at h; injection h with h; exact .inl ⟨rfl, h.symm⟩
  | true => rw [gate_live hl] at h; injection h with h; exact .inr ⟨rfl, h.symm⟩

theorem lift_cases {f : Dev → Dev} {s t : State} (h : lift f s = .next t) :
    (s.live = false ∧ t = s) ∨ (s.live = true ∧ t = s.after f) := gate_cases h

theorem liftRd_cases {f : Fuses → KeepStore → Dev → Dev} {s t : State} (h : liftRd f s = .next t) :
    (s.live = false ∧ t = s) ∨ (s.live = true ∧ t = s.after (f s.fuses s.ks)) := gate_cases h

theorem liftBb_cases {f : Dev → Dev} {s t : State} (h : liftBb f s = .next t) :
    (s.live = false ∧ t = s) ∨ (s.live = true ∧ t = s.afterBb f) := gate_cases h

/-- Every gated meaning answers a next state. -/
theorem gate_next (f : State → State) (s : State) : ∃ t, gate f s = .next t := ⟨_, rfl⟩

/-! Writing owed black-box records leaves queue and fuses, and of the block all but what is owed and the keep-store registers
of the erases that it takes. -/

@[simp] theorem flushBb_pending (s : State) : (flushBb s).pending = s.pending := by unfold flushBb; split <;> rfl
@[simp] theorem flushBb_fuses (s : State) : (flushBb s).fuses = s.fuses := by unfold flushBb; split <;> rfl

theorem flushBb_cases (s : State) :
    flushBb s = s ∨ ∃ n k, flushBb s = { s with ks := k, dev := { s.dev.ksErased n k with bbOwed := [] } } := by
  unfold flushBb; split
  · exact .inr ⟨_, _, rfl⟩
  · exact .inl rfl

/-- With none owed nothing is written. -/
theorem flushBb_none {s : State} (h : s.dev.bbOwed = []) : flushBb s = s := by
  obtain ⟨_, _, _, _⟩ := s
  simp only at h
  unfold flushBb
  split
  · simp only [h, each, List.foldl, KeepStore.bbEraseCount, Dev.ksErased, if_true]
    rw [← h]
  · rfl

/-! ### Mailbox commands -/

/-- A mailbox command's row: nothing happens, or the request at the front is answered LOCKED or BAD_ARG or executed; then
requests with an undefined opcode at the front are answered. -/
theorem takeCmd_cases (n op : Nat) (lenOk : Nat → Bool) (k : Dev → Dev) (d : Dev) :
    d.takeCmd n op lenOk k = d ∨
    (d.nextMbx = some n ∧ hdrOp (d.arg n 0) = op ∧ d.serves n op = true ∧
      (d.takeCmd n op lenOk k = (d.taken.reply n stLOCKED []).serveUnknown 16 ∨
        d.takeCmd n op lenOk k = (d.taken.reply n stBAD_ARG []).serveUnknown 16 ∨
        d.takeCmd n op lenOk k = d.cmdDone k)) := by
  cases hd : d.nextMbx with
  | none => exact .inl (by simp only [Dev.takeCmd, hd])
  | some m =>
    by_cases hc : m = n ∧ hdrOp (d.arg n 0) = op ∧ d.serves n op = true
    · refine .inr ⟨by rw [hc.1], hc.2.1, hc.2.2, ?_⟩
      simp only [Dev.takeCmd, hd, if_pos hc]
      split
      · exact .inl rfl
      · split
        · exact .inr (.inl rfl)
        · exact .inr (.inr rfl)
    · exact .inl (by simp only [Dev.takeCmd, hd, if_neg hc])

/-! ### Memory and its form -/

/-- A store keeps the canonical form. -/
theorem store_wf {d : Dev} (h : Memory.wf d.mem = true) (a : Nat) (w : Word) : Memory.wf (d.store a w).mem = true :=
  mapWf_mapSet _ d.mem a w h

/-- A write changes one word of memory or none. -/
theorem wrPart_cases (d : Dev) (more : Bool) (a : Nat) (w : Word) :
    (d.wrPart more a w).mem = d.mem ∨ ∃ b, (d.wrPart more a w).mem = (d.store b w).mem := by
  unfold Dev.wrPart
  split
  · rename_i s _
    obtain ⟨b, lost, g⟩ := d.hbmLoc s a
    cases lost with
    | true =>
      left
      simp only [if_true]
      split <;> rfl
    | false => exact .inr ⟨b, rfl⟩
  · exact .inr ⟨a, rfl⟩

theorem wr_cases (d : Dev) (a : Nat) (w : Word) :
    (d.wr a w).mem = d.mem ∨ ∃ b, (d.wr a w).mem = (d.store b w).mem := wrPart_cases d false a w

theorem wrPart_wf {d : Dev} (h : Memory.wf d.mem = true) (more : Bool) (a : Nat) (w : Word) :
    Memory.wf (d.wrPart more a w).mem = true := by
  obtain hm | ⟨b, hm⟩ := wrPart_cases d more a w
  · rw [hm]; exact h
  · rw [hm]; exact store_wf h b w

theorem wr_wf {d : Dev} (h : Memory.wf d.mem = true) (a : Nat) (w : Word) : Memory.wf (d.wr a w).mem = true :=
  wrPart_wf h false a w

/-- What holds of the start and is kept by every step of a fold holds of its end. -/
theorem foldl_keeps {α β : Type} {P : α → Prop} {f : α → β → α} (hf : ∀ a b, P a → P (f a b)) (l : List β) {a : α}
    (h : P a) : P (l.foldl f a) := by
  induction l generalizing a with
  | nil => exact h
  | cons b l ih => exact ih (hf a b h)

theorem each_keeps {α β : Type} {P : α → Prop} {f : β → α → α} (hf : ∀ b a, P a → P (f b a)) (l : List β) {a : α}
    (h : P a) : P (each l f a) := foldl_keeps (fun a b => hf b a) l h

theorem forN_keeps {α : Type} {P : α → Prop} {f : Nat → α → α} (hf : ∀ i a, P a → P (f i a)) (n : Nat) {a : α}
    (h : P a) : P (forN n f a) := foldl_keeps (fun a i => hf i a) _ h

/-- A redirected group marked whole leaves memory as it is. -/
@[simp] theorem groupWhole_mem (d : Dev) (a : Nat) : (d.groupWhole a).mem = d.mem := by
  unfold Dev.groupWhole
  split
  · split <;> rfl
  · rfl

/-- Writes of consecutive words keep the form. -/
theorem wrs_wf {d : Dev} (h : Memory.wf d.mem = true) (a : Nat) (ws : List Word) :
    Memory.wf (d.wrs a ws).mem = true := by
  unfold Dev.wrs
  have h1 : Memory.wf ((ws.zipIdx).foldl (fun d (w, i) => d.wrPart (i != 0) (a + i) w) d).mem = true :=
    foldl_keeps (P := fun d : Dev => Memory.wf d.mem = true) (fun d x hd => wrPart_wf hd _ _ _) _ h
  exact forN_keeps (P := fun d : Dev => Memory.wf d.mem = true) (fun i d hd => by rw [groupWhole_mem]; exact hd) _ h1

/-- A unit that loses its memory leaves the form. -/
theorem unitLost_wf {d : Dev} (h : Memory.wf d.mem = true) (u : Nat) : Memory.wf (d.unitLost u).mem = true := by
  simp only [Dev.unitLost]
  generalize List.range 4096 = l
  exact foldl_keeps (P := fun m : SMap Word => Memory.wf m = true) (fun m _ hm => mapWf_mapSet _ m _ _ hm) l h

/-- Reset memory has the form. -/
theorem reset_wf : Memory.wf State.reset.dev.mem = true := rfl

/-! ### The queues -/

/-- A word stored at the write position of a ring: its place in memory and its record. -/
theorem qStore_queue (c q : Nat) (w : Word) (e : QEnt) (d : Dev) :
    (d.qStore c q w e).qu c q = { d.qu c q with ents := (d.qu c q).ents ++ [e] } := by
  simp [Dev.qStore, Dev.qu, Dev.modQ, mmod, mget_mset_same]

/-! ### Requests of the package's agents, own cycles of a Fiuth port -/

/-- A request is answered or issued at once, or waits behind everything else. -/
theorem cohAsk_cases (w : CWait) (d : Dev) :
    (d.mayGo w = true ∧ d.cohAsk w = d.cohGo w) ∨
      d.cohAsk w = d.modCoh fun c => { c with tagWait := c.tagWait ++ [w] } := by
  unfold Dev.cohAsk
  split
  · rename_i h; exact .inl ⟨by simpa using (Bool.and_eq_true_iff.mp h).1, rfl⟩
  · exact .inr rfl

/-- An own cycle joins the queue of the bus, or those that wait for room. -/
theorem enter_cases (x : FiuPort) (o : Own) :
    x.enter o = { x with queue := x.queue ++ [o] } ∨ x.enter o = { x with outer := x.outer ++ [o] } := by
  unfold FiuPort.enter
  split
  · exact .inl rfl
  · exact .inr rfl

/-! ### What another command of the edge wins over (R149, R225, R256, R474) -/

/-- A note changes the notes alone. -/
theorem note_eq (kind idx : Nat) (has : Bool) (old d : Dev) : ∃ ts, d.note kind idx has old = { d with ties := ts } := by
  unfold Dev.note
  split
  · exact ⟨_, rfl⟩
  · exact ⟨d.ties, rfl⟩

/-- A meaning that can be won over answers as it does otherwise, with a note. -/
theorem tied_cases {kind idx : Nat} {has : Dev → Dev → Bool} {m : State → R} {s t : State}
    (h : tied kind idx has m s = .next t) :
    ∃ u, m s = .next u ∧ t = { u with dev := u.dev.note kind idx (has s.dev u.dev) s.dev } := by
  unfold tied at h
  split at h
  · rename_i u hu
    injection h with h
    exact ⟨u, hu, h.symm⟩
  · rename_i hn
    exact absurd h (hn t)

/-- Nothing is taken back where the edge has noted nothing. -/
theorem untie_none {d : Dev} {kind idx : Nat} (h : d.tieOf kind idx = none) : d.untie kind idx = d := by
  unfold Dev.untie
  rw [h]

end Sys2Proof.Machine
end

