-- ==== Sys2Proof/WellFormed.lean ====
section
/-! DEFINITION. Well-formed commands: what the spec says of a row's operands beyond their types (the lengths of word
lists, a line's alignment, one word per mask bit). A meaning is total all the same: it takes an ill-formed command as
its definition reads it. -/

namespace Sys2Proof

/-- The address is that of a line of 16 words (R29, R348). -/
def lineAt (a : BitVec 40) : Bool := a.toNat % 16 == 0

/-- `n` words from word address `a` on, at least one, all in one line (R352). -/
def inLine (a n : Nat) : Bool := decide (1 ≤ n ∧ a % 16 + n ≤ 16)

/-- At least one mask bit, and one word for each (R352). -/
def oneEach (mask : BitVec 16) (ws : List Word) : Bool :=
  decide (mask ≠ 0) && ws.length == ((List.range 16).filter fun i => mask.getLsbD i).length

/-- A frame has 64 words (R396). -/
def frame (ws : List Word) : Bool := ws.length == 64

/-- The lists of a TREE message: one package ID per serial of a subtree; at most 65,536 packages. -/
def TreeMsg.wf (m : TreeMsg) : Bool :=
  match m.body with
  | .announce _ _ _ => true
  | .subtree _ ss ids => decide (ss.length = ids.length ∧ ids.length ≤ 65536)
  | .full _ _ ss ids => decide (ss.length = ids.length ∧ ids.length ≤ 65536)
  | .fill ids ws => decide (ids.length = ws.length ∧ ids.length ≤ 65536)
  | .linkUp _ => true

/-- The command is well-formed. -/
def Instr.wf : Instr → Bool
  | .ping _ => true
  | .getInfo _ => true
  | .regRead _ => true
  | .regWrite _ => true
  | .imgBegin _ => true
  | .imgChunk _ => true
  | .imgBoot _ => true
  | .imgAbort _ => true
  | .ownerFuse _ => true
  | .debugFuse _ => true
  | .queueDropRem _ => true
  | .epochGet _ => true
  | .schedAdd _ => true
  | .schedCancel _ => true
  | .linkStart _ => true
  | .linkStop _ => true
  | .fchStart _ => true
  | .fchStop _ => true
  | .ingAnchor _ => true
  | .recipeSet _ => true
  | .modelLoad _ => true
  | .beamSet _ => true
  | .tableSwitch _ => true
  | .taskCancel _ => true
  | .unitFence _ => true
  | .unitUnfence _ _ => true
  | .taskLoadGet _ => true
  | .capChanSet _ => true
  | .capArm _ => true
  | .capDisarm _ => true
  | .capTrigger _ => true
  | .dmkMaskLoad _ => true
  | .canvasPrep _ => true
  | .calRun _ => true
  | .calAbort _ => true
  | .calSeal _ => true
  | .canvasRead _ => true
  | .canvasWrite _ => true
  | .fiuSlotAdmit _ => true
  | .fiuSlotRemove _ => true
  | .fiuSegReset _ => true
  | .fiuGeo _ => true
  | .fiuAccess _ => true
  | .fiuResult _ => true
  | .routeSet _ => true
  | .routeStage _ => true
  | .routeCommit _ => true
  | .routeFixed _ => true
  | .cohInfo _ => true
  | .cohLine _ => true
  | .lnkInfo _ => true
  | .pkgIdSet _ => true
  | .srtSet _ => true
  | .domainJoin _ _ => true
  | .domainLeave _ _ => true
  | .lnkRetrain _ => true
  | .errLogRead _ => true
  | .ksRead _ => true
  | .ksErase _ => true
  | .ksProgram _ => true
  | .ksRecord _ => true
  | .bklInfo _ => true
  | .pwrStandby _ => true
  | .loopGet _ => true
  | .nop _ => true
  | .pinSet _ => true
  | .pinPulse _ => true
  | .pulseFallingEdge _ => true
  | .sysref _ => true
  | .regWriteAction _ => true
  | .calApply _ => true
  | .routeSwitch _ => true
  | .trigger _ => true
  | .mark _ => true
  | .event _ => true
  | .mbxReqWrite _ _ _ => true
  | .doorbell _ _ _ => true
  | .mbxRspRead _ _ => true
  | .mbxEvtRead _ _ => true
  | .mgmtFrame _ bs => decide (1 ≤ bs.length ∧ bs.length ≤ 1500)
  | .registerWrite _ _ _ => true
  | .rcFieldRead _ _ => true
  | .shadowLoRead _ _ => true
  | .shadowHiRead _ _ => true
  | .stagedLoWrite _ _ _ => true
  | .hiWriteCommit _ _ _ => true
  | .blockLock _ _ _ => true
  | .reboot _ _ => true
  | .topViewWrite _ _ => true
  | .qpush _ _ _ _ => true
  | .qtpush _ _ _ _ _ => true
  | .qpop _ _ _ => true
  | .qdrop _ _ _ => true
  | .qcfgWrite _ _ _ _ => true
  | .syncPulse _ _ _ => true
  | .fiuPortEnWrite _ _ _ => true
  | .cohEnWrite _ _ => true
  | .pciHqCfgWrite _ _ _ => true
  | .axsPosWrite _ _ _ => true
  | .loopSetWrite _ _ _ => true
  | .errQpop _ => true
  | .msixUnmask _ => true
  | .hostWideRead _ _ _ => true
  | .hostPartialWrite _ _ _ _ => true
  | .bar2Request addr len dat => decide (1 ≤ len.val ∧ addr.toNat + len.val ≤ 2 ^ 32) && (dat.map fun bs => decide (bs.length = len.val)).getD true
  | .bar4Read _ off len => decide (1 ≤ len.val ∧ off.toNat + len.val ≤ 2 ^ 22)
  | .bar4Write _ _ => true
  | .vaonApplied => true
  | .resetRelease => true
  | .diePairingDone => true
  | .romInitDone => true
  | .imgClaimTimeout => true
  | .cpWdtExpiry => true
  | .cpFatalException => true
  | .cpMemoryUe _ => true
  | .warmRestartDone => true
  | .disciplineUpdate _ => true
  | .sourceLost _ _ => true
  | .sourceReturn _ => true
  | .candQualifies _ => true
  | .firstLockStep _ => true
  | .leapAnnounce _ _ _ => true
  | .taiUtcChange => true
  | .quadEdge _ _ _ => true
  | .indexEdge _ => true
  | .ssiFrameStart _ => true
  | .ssiFrameDone _ _ _ _ => true
  | .linkLaneLock _ => true
  | .linkSyncTimeout _ => true
  | .sysrefEdge _ _ => true
  | .sysrefWaitTimeout _ => true
  | .linkRun _ => true
  | .embArrival _ _ _ _ bad _ os => decide (1 ≤ os.length ∧ os.length % 256 = 0 ∧ bad.Nodup)
  | .embRelease _ => true
  | .droopStretch _ => true
  | .fchWord _ _ => true
  | .fchDeadline _ => true
  | .taskReady _ _ _ => true
  | .generatorPush _ => true
  | .taskStart _ => true
  | .stealSearch _ => true
  | .taskComplete _ => true
  | .taskRelease _ _ => true
  | .cancelComplete _ => true
  | .unitEccError _ => true
  | .residueMismatch _ => true
  | .taskWatchdogExpiry _ => true
  | .beamWaitExpiry _ => true
  | .capturePacket _ => true
  | .trigInEdge _ _ => true
  | .postTimeout _ => true
  | .rearmEnd _ => true
  | .decimTick => true
  | .damaskTestDone => true
  | .retirementEnd => true
  | .calSolve => true
  | .trimUpdate => true
  | .read _ _ _ => true
  | .write _ _ _ _ => true
  | .blockRead _ _ _ _ => true
  | .blockWrite _ _ _ ds => decide (1 ≤ ds.length ∧ ds.length ≤ 64)
  | .lockRead _ _ _ => true
  | .lockWrite _ _ _ _ => true
  | .bcastWrite _ _ _ => true
  | .iack _ _ _ => true
  | .reply _ _ ds => decide (ds.length ≤ 64)
  | .geoRead _ _ _ => true
  | .geoWrite _ _ _ _ => true
  | .answerTimeout _ => true
  | .deferTimeout _ _ _ => true
  | .retryWaitExpiry _ => true
  | .lockWindowExpiry _ => true
  | .grantDecision _ _ => true
  | .headerAfterGrantMissed _ => true
  | .tenureTimeout _ => true
  | .irqService _ _ => true
  | .strayHoldoffExpiry _ _ => true
  | .haltChange _ _ => true
  | .syncPeriodic _ => true
  | .syncEdge _ => true
  | .rstSampled _ => true
  | .segResetDone _ => true
  | .modulePresence _ _ => true
  | .presenceRetry _ _ => true
  | .slotPoll _ _ => true
  | .slotRemovalComplete _ _ => true
  | .monitorEnd _ _ => true
  | .immEdge _ _ => true
  | .edge96 _ _ => true
  | .bridgeReadCompletion _ _ _ ds => decide (ds.length ≤ 64)
  | .retryHoldExpiry _ _ => true
  | .bridgeMsgDelivery _ => true
  | .routePacket _ => true
  | .routeSwitchFinal => true
  | .rdS _ _ line => lineAt line
  | .rdX _ _ line => lineAt line
  | .naRd _ _ addr cnt => inLine addr.toNat cnt
  | .rdNc _ _ addr cnt => inLine addr.toNat cnt
  | .wrNc _ _ line mask ws => lineAt line && oneEach mask ws
  | .acc36 _ _ line mask ws => lineAt line && oneEach mask ws
  | .add _ _ _ _ => true
  | .min _ _ _ _ => true
  | .max _ _ _ _ => true
  | .swap _ _ _ _ => true
  | .cas _ _ _ _ _ => true
  | .lockRd _ _ line _ => lineAt line
  | .lockWr _ _ line _ mask ws => lineAt line && oneEach mask ws
  | .unlock _ line _ => lineAt line
  | .snpS line _ _ _ => lineAt line
  | .snpX line _ _ _ => lineAt line
  | .snpInv line => lineAt line
  | .snpNa line _ _ _ first cnt => lineAt line && inLine first cnt
  | .snpRcl line _ => lineAt line
  | .wb _ line ws => lineAt line && decide (ws.length = 16)
  | .evict _ line => lineAt line
  | .srsp _ line _ => lineAt line
  | .cmp _ _ _ => true
  | .cack _ line => lineAt line
  | .wback _ line => lineAt line
  | .pack _ _ _ => true
  | .data _ _ _ _ ws => decide (ws.length ≤ 16)
  | .sdata _ line ws => lineAt line && decide (ws.length = 16)
  | .hello _ _ _ _ => true
  | .helloTimer => true
  | .formTimeout => true
  | .map _ es => decide (1 ≤ es.length ∧ es.length ≤ 64 ∧ (es.map (·.idx)).Nodup)
  | .dead _ _ => true
  | .down => true
  | .resync _ _ _ => true
  | .tree _ m => m.wf
  | .pkt _ _ _ _ _ ws => decide (1 ≤ ws.length ∧ ws.length ≤ 31)
  | .snoopTimeout line _ => lineAt line
  | .requestTimeout _ _ => true
  | .cacheSnoopTimeout _ => true
  | .lockHoldTimeout line => lineAt line
  | .trainingRetry _ => true
  | .trainingDone _ _ _ => true
  | .partnerRefresh _ _ => true
  | .dataFrame _ _ ws => frame ws
  | .idleFrame _ ws => frame ws
  | .nakFrame _ ws => frame ws
  | .laneRemoval _ _ => true
  | .lysithLaneRejoin _ _ => true
  | .retrainTimeout _ => true
  | .downTimeout _ => true
  | .resyncTimeout _ => true
  | .firmwareForward _ _ _ => true
  | .leaveCopyDone => true
  | .leaveForwardEnd => true
  | .dlDown => true
  | .dlUp _ _ => true
  | .hotReset => true
  | .perstAssert => true
  | .flr => true
  | .flrComplete => true
  | .d3hotEntry => true
  | .d0Entry => true
  | .crsEnd => true
  | .flushTimeout _ => true
  | .hbmChannelFailure _ _ => true
  | .remapComplete _ => true
  | .egressStall _ => true
  | .backlogDrain _ => true
  | .supplyLoss => true
  | .railMonitorSample mv cur => decide (mv.length = 16 ∧ cur.length = 16)
  | .standbyEntry => true
  | .wakeRequest => true
  | .wakeRailEnable => true
  | .sensorConversion _ _ => true
  | .throttleUpdate => true
  | .loopInSample _ _ => true
  | .loopOutSample _ _ _ => true
  | .loopWatchdogExpiry _ => true
  | .verifyDone => true
  | .reloadDone => true
  | .ksOperationDone => true
  | .fiuAccessTimeLimit _ => true
  | .slaveAnswer _ _ => true
  | .headerOnSegment _ _ _ _ => true
  | .memberPortGrant _ => true
  | .invalidSyncHeaders _ _ => true
  | .laneLockRegained _ _ => true
  | .stretchEnd => true
  | .perstDeassert => true
  | .rstNAsserted => true
  | .wholeEpochSecond => true

end Sys2Proof
end

