-- ==== Sys2Proof/Tests/Slice0.lean ====
section
/-! SUPPORT. Tests: for every clause of the statements a small state and operands that meet its hypotheses, and the next
state that the command then answers; the spec's worked examples; an ill-formed command for each check of WellFormed. -/

open Sys2Proof Sys2Proof.Machine

set_option maxRecDepth 20000

/-- Out of reset, with a change. -/
def up (f : Dev → Dev) : State :=
  { State.reset with dev := f { State.reset.dev with pwr := { State.reset.dev.pwr with held := false } } }

/-- Out of reset with the firmware running. -/
def fw (f : Dev → Dev) : State := up fun d => f (d.setF F.cpBoot_STATE 5)

/-- Mailbox 0 holds a request of opcode `op` and body `ws`, the only one. -/
def asked (op : Nat) (ws : List Word) (d : Dev) : Dev :=
  { d.modMb 0 fun m => { m with req := mkW [(35, 24, op), (15, 8, ws.length)] :: ws, busy := true } with
    cp := { d.cp with doorbells := [0] } }

/-- The firmware is about to take that request. -/
def cmd (op : Nat) (ws : List Word) (f : Dev → Dev) : State := fw fun d => f (asked op ws d)

/-- Scheduler entry 3 is committed with target 0, an action and two argument words; it is its last occurrence. -/
def sched (code : Nat) (a0 a1 : Word) (d : Dev) : Dev :=
  (d.wrs (schAddr 3 0) [mkW [(35, 32, code), (26, 25, 1), (15, 0, 1)], 0, 0, 0, 0, a0, a1, 0]).modSch 3 fun x =>
    { x with live := true }

/-- The boot ROM waits for an image, and mailbox 0 holds a request of opcode `op` and body `ws`. -/
def rom (op : Nat) (ws : List Word) (f : Dev → Dev) : State :=
  up fun d => f (asked op ws (d.setF F.cpBoot_STATE 2))

/-- PCI Express holds the claim of an image of 100 words. -/
def claimed (d : Dev) : Dev :=
  { d with cp := { d.cp with loader := { d.cp.loader with claim := 1, len := 100 } } }

/-- Link `l` is configured with one lane, one converter and 400 MS/s, and is in a state. -/
def link (l st : Nat) (d : Dev) : Dev :=
  ((d.setF (F.felCfg0_LANES l) 1).setF (F.felRate_FS l) 400000000).setF (F.felStat_STATE l) st

/-! Witnesses of the statements about every command and about the shared operations. -/

/-- The owner fuse programmed with a hash that is no SHA-384 value, an image of nothing in VERIFY. -/
def fused : State :=
  { up (fun d => { claimed d with cp := { (claimed d).cp with loader := { (claimed d).cp.loader with verify := some 0 } } }) with
    fuses := { owner := true, hash := 2 ^ 384, debug := false } }

theorem test_step_runs_front : ∃ (s : State) (c : Instr) (rest : List Instr), s.pending = c :: rest :=
  ⟨{ State.reset with pending := [.ping 3, .formTimeout] }, .ping 3, [.formTimeout], rfl⟩

theorem test_empty_queue : ((up id).pending = [] ∧ (up id).live = true) ∧ State.reset.pending = [] ∧
    ({ State.reset with dev := { State.reset.dev with pwr := { State.reset.dev.pwr with held := true } } } : State).live = false := by
  decide

theorem test_in_order : ∃ s t : State, stepsTo s t ∧ s.pending = [.ping 3, .formTimeout] :=
  ⟨{ State.reset with pending := [.ping 3, .formTimeout] }, _, rfl, rfl⟩

theorem test_fuse_kept : ∃ s t : State, stepsTo s t ∧ s.fuses.owner = true :=
  ⟨{ State.reset with fuses := { owner := true, hash := 7, debug := false } }, _, rfl, rfl⟩

theorem test_fuse_other_key : fused.live = true ∧ fused.dev.cp.loader.verify = some 0 ∧ fused.fuses.owner = true ∧
    sha384 (fused.dev.imgBytes 4 24) ≠ fused.fuses.hash := by
  decide +kernel

theorem test_fuse_second : ∃ s : State, s.servedBoot 0 0x018 13 = true ∧ s.dev.arg 0 13 = toW 0x2795C9C52 ∧
    ((List.range 12).all fun i => !nonetBad (s.dev.arg 0 (i + 1))) = true ∧ s.dev.fb F.cpDebug_FUSE_OWNER = true ∧
    s.fuses.owner = true :=
  ⟨{ rom 0x018 (List.replicate 12 0 ++ [toW 0x2795C9C52]) (fun d => d.setF F.cpDebug_FUSE_OWNER 1) with
      fuses := { owner := true, hash := 7, debug := false } }, by decide⟩

/-- TM9 held in reset. -/
def inReset : State := { State.reset with dev := { State.reset.dev with pwr := { State.reset.dev.pwr with held := true } } }

theorem test_held : inReset.live = false ∧ actsInReset .formTimeout = false := by decide

theorem test_release : ∃ t, inReset.live = false ∧ exec .resetRelease inReset = .next t ∧ t.live = true :=
  ⟨_, rfl, rfl, by decide⟩

theorem test_quiet : State.reset.quiet ∧ ∃ t, stepsTo State.reset t := ⟨⟨rfl, rfl⟩, _, rfl⟩

theorem test_settle_reg : (∀ n, n < 16 → R.topView ≠ R.mbxStat n) ∧ R.topView ≠ R.errQstat := by decide

theorem test_push_memory : ∃ (s t : State) (c : Fin 64) (q : Fin 128) (w : Word), s.live = true ∧
    s.dev.fb (F.cluQcfg_EN c q) = true ∧ tagOf w ≠ 1 ∧ s.dev.qPkt c q = false ∧ s.dev.qTweed c q = false ∧
    (s.dev.qu c q).ents.length < s.dev.qDepth c q ∧ (mget s.dev.qTie (c.val * 128 + q.val)).edge ≠ s.dev.epo.edges + 1 ∧
    (∀ k, k < s.dev.qDepth c q → 0x200000000 ≠ s.dev.qAddr c q k) ∧
    4 ≤ s.dev.f (F.cluQcfg_DEPTH c q) ∧ exec (.qpush .cp c q w) s = .next t :=
  ⟨up fun d => d.setF (F.cluQcfg_EN 3 5) 1, _, 3, 5, 0x10, by decide, by decide, by decide, by decide, by decide,
    by decide, by decide, by decide, by decide, rfl⟩

theorem test_push_level : ∃ (s t : State) (c : Fin 64) (q : Fin 128) (w : Word),
    4 ≤ s.dev.f (F.cluQcfg_DEPTH c q) ∧ exec (.qtpush .cp c q 2 w) s = .next t :=
  ⟨up fun d => d.setF (F.cluQcfg_EN 3 5) 1, _, 3, 5, 0x10, by decide, rfl⟩

theorem test_stores_nothing : ∃ t, storesNothing (.ping 0) = true ∧ exec (.ping 0) (cmd 0x001 [] id) = .next t := ⟨_, rfl, rfl⟩

theorem test_atoms : winOf (0x200000010 + 3) = .rstore ∧ State.reset.dev.coh.leave = none ∧
    mget State.reset.dev.uncorr (0x200000010 + 3) = false := by decide

theorem test_idle_word : ∃ s : State, s.live = true ∧ s.dev.fb (F.cluQcfg_EN 3 5) = true ∧ tagOf (0x100000000 : Word) = 1 :=
  ⟨up fun d => d.setF (F.cluQcfg_EN 3 5) 1, by decide⟩

theorem test_reserved : (∀ f ∈ fieldsOf R.topView, f.lo ≤ f.hi ∧ f.hi < 36) ∧
    ∀ f ∈ fieldsOf R.topView, ¬ (f.lo ≤ 7 ∧ 7 ≤ f.hi) := by decide

theorem test_write_once : apart blockLockFields = true ∧ ∃ f ∈ blockLockFields, f.acc = .w1 := by decide

theorem test_fields_apart : (regTable.all fun r => apart r.fields) = true := by decide +kernel

theorem test_read_back : State.reset.dev.lostAt 0x200000010 = false ∧
    State.reset.dev.locOf 0x200000010 ≠ State.reset.dev.locOf 0x200000011 := by decide

theorem test_read_lost : ∃ d : Dev, d.lostAt 0x20 = true :=
  ⟨{ State.reset.dev with err := { State.reset.dev.err with hbmFail := [(0, 4)] } }, by decide⟩

/-! Worked examples of the spec. -/

/-- R3's example: 1 µs is 68,719 ep; a pulse of 10 µs is 687,195 ep (R150's example). -/
theorem test_ep_of_time : epOf 1 1000000 = 0x10C6F ∧ epOf 10 1000000 = 0xA7C5B := by decide

/-- R118's example: the short epoch 0x0012_0000 is later than 0xFFE8_0000 across the wrap. -/
theorem test_short_epoch : later 32 0x00120000 0xFFE80000 = true ∧ earlier 32 0x00120000 0xFFE80000 = false := by decide

/-- R92's example: ring index 37 of queue 5 of cluster 12 with DEPTH 6 and BASE 0x0200. -/
theorem test_queue_place : ((State.reset.dev.setF (F.cluQcfg_DEPTH 12 5) 6).setF (F.cluQcfg_BASE 12 5) 0x0200).qAddr 12 5 37
    = 0x3004C8212 := by decide

/-- The example of R20: word 0x123 of RGN5 of the package with domain index 2, seen by that package. -/
theorem test_full_address : ((State.reset.dev.setF F.cohStat_STATE 2).setF F.cohStat_MY_IDX 2).target 0x0A00280123
    = .here 0x200280123 := by decide

/-- The example of R42: Tweed address 0x0_4D6A_0040. -/
theorem test_tweed_address : tweedOf 0x04D6A0040 = (0x0135, 0x2002A0040) := by decide

/-- The example of R378: a line of a former member is reached by its package ID. -/
theorem test_former_member : ((((State.reset.dev.setF F.cohStat_STATE 3).setF F.cohStat_FORMER_IDX 2).setF (F.cohMap_VALID 5) 1).setF
    (F.cohMap_PKG_ID 5) 0x135).target 0x1600280123 = .tweed 0x135 0x200280123 := by decide

/-- R32's example: the packed form of a pair of words. -/
theorem test_packed_pair : (packBytes ([0xABCDEF012, 0x3456789AB] ++ List.replicate 14 0)).take 9
    = [0x12, 0xF0, 0xDE, 0xBC, 0xBA, 0x9A, 0x78, 0x56, 0x34] := by decide

/-- R317's example: "OWNR" through a NONET window and through a W32 window. -/
theorem test_window_widths : widthW 2 0x2795C9C52 = 0x29138AE4F ∧ widthW 1 0x2795C9C52 = 0x0795C9C52 := by decide

/-- R434's example: group 1,000,037 of stack 1 after the failure of channel 5. -/
theorem test_hbm_spare :
    let d := ((((State.reset.dev.setF (F.errHbmStat_CH 1) 5).setF (F.errHbmStat_REMAP 1) 1).setF (F.errHbmUse_GROUPS 1)
      0x0C000000).setF (F.errHbmSpare_BASE 1) 0x0D000000)
    ({ d with err := { d.err with hbmFail := [(1, 32)] } } : Dev).locOf (0x100000000 + 1000037 * 16) =
      0x100000000 + 0x0D01046D * 16 := by decide

/-- The example of R158: F = 4 and P = 64 for link 3. -/
theorem test_link_config :
    let d := (((State.reset.dev.setF (F.felCfg0_LANES 3) 0xFF).setF (F.felCfg0_M_M1 3) 15).setF (F.felCfg0_N_M1 3) 13).setF
      (F.felCfg0_CS 3) 2
    (d.linkCfg 3).f = 4 ∧ (d.linkCfg 3).p = 64 := by decide

/-- A drop-remainder in word mode discards every word present (R104). -/
theorem test_drop_remainder :
    let s := up fun d => (List.range 3).foldl (fun d i => d.qPush 0 3 0 (tagged 2 i) none)
      ((d.setF (F.cluQcfg_EN 0 3) 1).setF (F.cluQcfg_DEPTH 0 3) 4)
    (s.dev.qu 0 3).ents.length = 3 ∧
      (match exec (.qdrop .cp 0 3) s with | .next t => (t.dev.qu 0 3).ents.length | _ => 9) = 0 := by decide +kernel

/-- R250: a trigger of the edge of CAP_DISARM is not captured, and its event is none. -/
theorem test_disarm_wins :
    let s := up fun d => ((d.setF (F.trgStat_STATE 2) 1).setF (F.trgRecLen_LEN 2) 5000).setF (F.mbxEvtMask_GROUP 3) 0xFFFF
    let out := fun (r : R) => match r with | .next t => (t.dev.trgState 2, (t.dev.mb 3).evts.length) | _ => (9, 9)
    let t := lift (Dev.arrive 2 ⟨1, 1, 0, 0⟩) s
    out t = (2, 1) ∧ (match t with | .next t => out (lift (Dev.disarmTrg 2) t) | _ => (9, 9)) = (0, 1) := by decide +kernel

/-! What each check of WellFormed refuses, and what it lets pass. -/

theorem test_wf_lines : ([.rdS 1 2 0x11, .rdX 1 2 0x11, .lockRd 1 2 0x11 0, .unlock 1 0x11 0, .snpS 0x11 1 2 3, .snpX 0x11 1 2 3,
    .snpInv 0x11, .snpRcl 0x11 3, .evict 1 0x11, .srsp 1 0x11 .inv, .cack 1 0x11, .wback 1 0x11, .snoopTimeout 0x11 1,
    .lockHoldTimeout 0x11] : List Instr).all (fun i => !i.wf) = true := by decide

theorem test_wf_masks : ([.wrNc 1 2 0x11 1 [5], .wrNc 1 2 0x10 3 [5], .wrNc 1 2 0x10 0 [], .acc36 1 2 0x11 1 [5], .acc36 1 2 0x10 1 [],
    .lockWr 1 2 0x11 0 1 [5], .lockWr 1 2 0x10 0 1 []] : List Instr).all (fun i => !i.wf) = true := by decide

theorem test_wf_words : ([.naRd 1 2 0x1F 2, .naRd 1 2 0x10 0, .rdNc 1 2 0x1F 2, .snpNa 0x11 1 2 3 0 1, .snpNa 0x10 1 2 3 15 2,
    .wb 1 0x11 (List.replicate 16 0), .wb 1 0x10 [0], .sdata 1 0x11 (List.replicate 16 0), .sdata 1 0x10 [0],
    .data 1 2 .ok .e (List.replicate 17 0)] : List Instr).all (fun i => !i.wf) = true := by decide

theorem test_wf_lengths : ([.mgmtFrame 1 [], .bar2Request 0 0 none, .bar2Request 0xFFFFFFFF 2 none, .bar2Request 0 2 (some [1]),
    .bar4Read 1 0 0, .embArrival 1 2 3 4 [] true [], .embArrival 1 2 3 4 [0, 0] true (List.replicate 256 0),
    .blockWrite 1 2 ⟨0, false⟩ [], .reply 1 ⟨2, false⟩ (List.replicate 65 ⟨0, false⟩),
    .bridgeReadCompletion 1 2 .ok (List.replicate 65 ⟨0, false⟩)] : List Instr).all (fun i => !i.wf) = true := by decide

theorem test_wf_links : ([.map 1 [], .map 1 [⟨3, true, false, 1, 1⟩, ⟨3, true, false, 2, 2⟩], .tree 1 ⟨.link, .fill [1] []⟩,
    .tree 1 ⟨.link, .subtree true [1] [1, 2]⟩, .tree 1 ⟨.link, .full true 1 [1] []⟩, .pkt 1 2 3 true true [], .dataFrame 1 true [0], .idleFrame 1 [0],
    .nakFrame 1 [0], .railMonitorSample [0] [0]] : List Instr).all (fun i => !i.wf) = true := by decide

theorem test_wf_accepts : ([.ping 1, .rdS 1 2 0x10, .wrNc 1 2 0x10 3 [5, 6], .naRd 1 2 0x1F 1, .wb 1 0x10 (List.replicate 16 0),
    .tree 1 ⟨.link, .subtree true [1] [2]⟩, .dataFrame 1 true (List.replicate 64 0), .mgmtFrame 1 [0]] : List Instr).all Instr.wf = true := by
  decide

/-! Witnesses of the statements about single commands. -/

theorem test_mbxReqWrite :
    ∃ (s : State) (p : _) (n : Mbx) (w : _), (s.live = true ∧
    s.dev.mbxAllowed p n = true ∧
    (s.dev.mb n).busy = false ∧
    (s.dev.mb n).req.length < 256) ∧
    ∃ nx, exec (.mbxReqWrite p n w) s = .next nx :=
  ⟨up id, Path.cp, 0, (7 : Word), by decide, _, rfl⟩

theorem test_doorbell :
    ∃ (s : State) (p : _) (n : Mbx) (w : _) (h : _) (body : _), (s.live = true ∧
    s.dev.mbxAllowed p n = true ∧
    bitOf w 0 = true ∧
    s.dev.pathOf n < 4 ∧
    (s.dev.mb n).busy = false ∧
    (s.dev.mb n).req = h :: body ∧
    s.dev.bootBusy n (hdrOp h) = false ∧
    hdrLen h = body.length ∧
    hdrFlags h / 4 = 0 ∧
    nbit (hdrFlags h) 1 = false) ∧
    ∃ nx, exec (.doorbell p n w) s = .next nx :=
  ⟨fw fun d => d.modMb 0 fun m => { m with req := [mkW [(35, 24, 0x001), (15, 8, 1)], 7] }, Path.cp, 0, (1 : Word), mkW [(35, 24, 0x001), (15, 8, 1)], [7], by decide, _, rfl⟩

theorem test_mbxRspRead :
    ∃ (s : State) (p : _) (n : Mbx) (w : _) (ws : _), (s.live = true ∧
    s.dev.mbxAllowed p n = true ∧
    (s.dev.mb n).rsp = w :: ws) ∧
    ∃ nx, exec (.mbxRspRead p n) s = .next nx :=
  ⟨up fun d => d.modMb 0 fun m => { m with rsp := [7, 8] }, Path.cp, 0, (7 : Word), [8], by decide, _, rfl⟩

theorem test_mbxEvtRead :
    ∃ (s : State) (p : _) (n : Mbx) (e : _) (es : _), (s.live = true ∧
    s.dev.mbxAllowed p n = true ∧
    (s.dev.mb n).evts = e :: es) ∧
    ∃ nx, exec (.mbxEvtRead p n) s = .next nx :=
  ⟨up fun d => d.modMb 0 fun m => { m with evts := [[7, 8]] }, Path.cp, 0, [7, 8], [], by decide, _, rfl⟩

theorem test_mgmtFrame :
    ∃ (s : State) (mac : _) (bs : List Byte) (n : _), (s.live = true ∧
    s.dev.idleMbx 2 = some n ∧
    frameReq bs ≠ []) ∧
    ∃ nx, exec (.mgmtFrame mac bs) s = .next nx :=
  ⟨fw id, (5 : BitVec 48), packBytes [mkW [(35, 24, 0x001), (15, 8, 1)], 7], 12, by decide, _, rfl⟩

theorem test_registerWrite :
    ∃ (s : State) (p : _) (off : BitVec 23) (w : _), (s.reaches p off.toNat = true ∧
    s.dev.plainWrite p (s.dev.regKey p off.toNat) w = true ∧
    s.dev.violates (s.dev.regKey p off.toNat) w = false ∧
    offOfKey (s.dev.regKey p off.toNat) ≠ lockBase (s.dev.regKey p off.toNat) + 8) ∧
    ∃ nx, exec (.registerWrite p off w) s = .next nx :=
  ⟨up id, Path.cp, BitVec.ofNat 23 (R.brgMsg 1), mkW [(24, 24, 1), (11, 0, 3)], by decide, _, rfl⟩

theorem test_rcFieldRead :
    ∃ (s : State) (p : _) (off : BitVec 23), (s.reaches p off.toNat = true ∧
    plainRead (s.dev.regKey p off.toNat) = true) ∧
    ∃ nx, exec (.rcFieldRead p off) s = .next nx :=
  ⟨up id, Path.cp, BitVec.ofNat 23 (R.axsCfg 1), by decide, _, rfl⟩

theorem test_shadowLoRead :
    ∃ (s : State) (p : _) (off : BitVec 23), (s.reaches p off.toNat = true ∧
    isLo (s.dev.regKey p off.toNat) = true ∧
    (∀ b ∈ [R.mbxRsp 0, R.mbxEvt 0, R.cluQpop 0 0, R.errQpop], (regHome (s.dev.regKey p off.toNat)).1 ≠ b)) ∧
    ∃ nx, exec (.shadowLoRead p off) s = .next nx :=
  ⟨up id, Path.cp, BitVec.ofNat 23 R.epoOriginLo, by decide, _, rfl⟩

theorem test_shadowHiRead :
    ∃ (s : State) (p : _) (off : BitVec 23) (v : _), (s.reaches p off.toNat = true ∧
    isLo (s.dev.regKey p off.toNat) = false ∧
    isHi (s.dev.regKey p off.toNat) = true ∧
    (∀ b ∈ [R.mbxRsp 0, R.mbxEvt 0, R.cluQpop 0 0, R.errQpop], (regHome (s.dev.regKey p off.toNat)).1 ≠ b) ∧
    mget s.dev.shadow (pairKey p (s.dev.regKey p off.toNat - 1)) = some v) ∧
    ∃ nx, exec (.shadowHiRead p off) s = .next nx :=
  ⟨up fun d => { d with shadow := mset d.shadow (pairKey .cp R.epoOriginLo) (some 9) }, Path.cp, BitVec.ofNat 23 R.epoOriginHi, (9 : Word), by decide, _, rfl⟩

theorem test_stagedLoWrite :
    ∃ (s : State) (p : _) (off : BitVec 23) (w : _), (s.reaches p off.toNat = true ∧
    isLo (s.dev.regKey p off.toNat) = true) ∧
    ∃ nx, exec (.stagedLoWrite p off w) s = .next nx :=
  ⟨up id, Path.cp, BitVec.ofNat 23 R.epoOriginLo, (9 : Word), by decide, _, rfl⟩

theorem test_hiWriteCommit :
    ∃ (s : State) (p : _) (off : BitVec 23) (w : _) (lo : _), (s.reaches p off.toNat = true ∧
    isLo (s.dev.regKey p off.toNat) = false ∧
    isHi (s.dev.regKey p off.toNat) = true ∧
    mget s.dev.staged (pairKey p (s.dev.regKey p off.toNat - 1)) = some lo) ∧
    ∃ nx, exec (.hiWriteCommit p off w) s = .next nx :=
  ⟨up fun d => { d with staged := mset d.staged (pairKey .cp R.epoOriginLo) (some 9) }, Path.cp, BitVec.ofNat 23 R.epoOriginHi, (7 : Word), (9 : Word), by decide, _, rfl⟩

theorem test_blockLock :
    ∃ (s : State) (p : _) (off : BitVec 23) (w : _), (s.reaches p off.toNat = true ∧
    s.dev.plainWrite p (s.dev.regKey p off.toNat) w = true ∧
    s.dev.violates (s.dev.regKey p off.toNat) w = false ∧
    offOfKey (s.dev.regKey p off.toNat) = lockBase (s.dev.regKey p off.toNat) + 8 ∧
    mget s.dev.err.violEdge (lockBase (s.dev.regKey p off.toNat)) ≠ s.dev.epo.edges + 1) ∧
    ∃ nx, exec (.blockLock p off w) s = .next nx :=
  ⟨up id, Path.cp, BitVec.ofNat 23 (lockBase (R.axsCfg 0) + 8), (1 : Word), by decide, _, rfl⟩

theorem test_topViewWrite :
    ∃ (s : State) (p : _) (w : _), (s.reaches p R.topView = true ∧
    s.dev.f F.topView_VIEW = 0 ∧
    bitsOf w 0 0 = 1 ∧
    s.dev.cohState ≠ 2) ∧
    ∃ nx, exec (.topViewWrite p w) s = .next nx :=
  ⟨up id, Path.cp, (1 : Word), by decide, _, rfl⟩

theorem test_cohEnWrite :
    ∃ (s : State) (p : _) (w : _), (s.reaches p R.cohCfg = true) ∧
    ∃ nx, exec (.cohEnWrite p w) s = .next nx :=
  ⟨up id, Path.cp, mkW [(0, 0, 1)], by decide, _, rfl⟩

theorem test_regRead :
    ∃ (s : State) (n : Mbx), (s.served n 0x003 2 = true ∧
    bitsOf (s.dev.arg n 1) 35 23 = 0 ∧
    1 ≤ (s.dev.arg n 2).toNat ∧
    (s.dev.arg n 2).toNat ≤ 255 ∧
    bitsOf (s.dev.arg n 1) 22 0 + (s.dev.arg n 2).toNat ≤ 2 ^ 23) ∧
    ∃ nx, exec (.regRead n) s = .next nx :=
  ⟨cmd 0x003 [toW R.topView, 1] id, 0, by decide, _, rfl⟩

theorem test_regWrite_1 :
    ∃ (s : State) (n : Mbx), (let d := s.dev.taken
    let key := d.regKey .cp (bitsOf (d.arg n 1) 22 0)
    s.served n 0x004 3 = true ∧
    bitsOf (s.dev.arg n 1) 35 23 = 0 ∧
    s.reaches .cp (bitsOf (s.dev.arg n 1) 22 0) = true ∧
    isLo (s.dev.regKey .cp (bitsOf (s.dev.arg n 1) 22 0)) = false ∧
    isHi (s.dev.regKey .cp (bitsOf (s.dev.arg n 1) 22 0)) = false ∧
    woUntouched (fieldsOf (s.dev.regKey .cp (bitsOf (s.dev.arg n 1) 22 0))) (s.dev.arg n 2) = false ∧
    (regHome (s.dev.regKey .cp (bitsOf (s.dev.arg n 1) 22 0))).1 ≠ R.calShadow 0 ∧
    (bitsOf (s.dev.arg n 1) 22 0 = R.cpCtl → bitOf (s.dev.arg n 2) 0 = false ∨ bitOf (s.dev.arg n 3) 0 = false) ∧
    d.violates key (maskedWord (fieldsOf key) (d.liveReg key) (d.arg n 2) (d.arg n 3)) = false) ∧
    ∃ nx, exec (.regWrite n) s = .next nx :=
  ⟨cmd 0x004 [toW (R.axsCfg 1), mkW [(35, 34, 3)], mkW [(35, 34, 1)]] id, 0, by dsimp only; decide, _, rfl⟩

theorem test_regWrite_2 :
    ∃ (s : State) (n : Mbx), (s.served n 0x004 3 = true ∧
    s.dev.arg n 1 = toW R.cpCtl ∧
    bitOf (s.dev.arg n 2) 0 = true ∧
    bitOf (s.dev.arg n 3) 0 = true) ∧
    ∃ nx, exec (.regWrite n) s = .next nx :=
  ⟨cmd 0x004 [toW R.cpCtl, 1, 1] id, 0, by decide, _, rfl⟩

theorem test_ping :
    ∃ (s : State) (n : Mbx), (s.served n 0x001 0 = true) ∧
    ∃ nx, exec (.ping n) s = .next nx :=
  ⟨cmd 0x001 [] id, 0, by decide, _, rfl⟩

theorem test_getInfo :
    ∃ (s : State) (n : Mbx), (s.served n 0x002 0 = true) ∧
    ∃ nx, exec (.getInfo n) s = .next nx :=
  ⟨cmd 0x002 [] id, 0, by decide, _, rfl⟩

theorem test_imgBegin :
    ∃ (s : State) (n : Mbx), (s.servedBoot n 0x010 1 = true ∧
    s.dev.cp.loader.claim = 0 ∧
    56 ≤ (s.dev.arg n 1).toNat ∧
    (s.dev.arg n 1).toNat ≤ 1864128) ∧
    ∃ nx, exec (.imgBegin n) s = .next nx :=
  ⟨rom 0x010 [100] id, 0, by decide, _, rfl⟩

theorem test_imgChunk :
    ∃ (s : State) (n : Mbx) (len : _), (s.servedBoot n 0x011 len = true ∧
    2 ≤ len ∧
    s.dev.cp.loader.claim = s.dev.pathOf n + 1 ∧
    (s.dev.arg n 1).toNat = s.dev.cp.loader.staged ∧
    s.dev.cp.loader.staged + ((s.dev.mb n).req.drop 2).length ≤ s.dev.cp.loader.len) ∧
    ∃ nx, exec (.imgChunk n) s = .next nx :=
  ⟨rom 0x011 [0, 5, 6] claimed, 0, 3, by decide, _, rfl⟩

theorem test_imgBoot :
    ∃ (s : State) (n : Mbx), (s.servedBoot n 0x012 0 = true ∧
    s.dev.cp.loader.claim = s.dev.pathOf n + 1) ∧
    ∃ nx, exec (.imgBoot n) s = .next nx :=
  ⟨rom 0x012 [] claimed, 0, by decide, _, rfl⟩

theorem test_imgAbort :
    ∃ (s : State) (n : Mbx), (s.servedBoot n 0x013 0 = true ∧
    s.dev.cp.loader.claim = s.dev.pathOf n + 1) ∧
    ∃ nx, exec (.imgAbort n) s = .next nx :=
  ⟨rom 0x013 [] claimed, 0, by decide, _, rfl⟩

theorem test_imgClaimTimeout :
    ∃ (s : State), (s.live = true ∧
    s.dev.cp.loader.claim ≠ 0 ∧
    s.dev.cp.loader.verify = none) ∧
    ∃ nx, exec .imgClaimTimeout s = .next nx :=
  ⟨up claimed, by decide, _, rfl⟩

theorem test_romInitDone :
    ∃ (s : State), (s.live = true ∧
    s.dev.bootState = 1) ∧
    ∃ nx, exec .romInitDone s = .next nx :=
  ⟨up fun d => d.setF F.cpBoot_STATE 1, by decide, _, rfl⟩

theorem test_verifyDone :
    ∃ (s : State) (n : _), (s.live = true ∧
    s.dev.cp.loader.verify = some n) ∧
    ∃ nx, exec .verifyDone s = .next nx :=
  ⟨up fun d => { claimed d with cp := { (claimed d).cp with loader := { (claimed d).cp.loader with verify := some 0 } } }, 0, by decide, _, rfl⟩

theorem test_ownerFuse :
    ∃ (s : State), (s.servedBoot 0 0x018 13 = true ∧
    s.dev.arg 0 13 = toW 0x2795C9C52 ∧
    ((List.range 12).all fun i => !nonetBad (s.dev.arg 0 (i + 1))) = true ∧
    s.dev.fb F.cpDebug_FUSE_OWNER = false ∧
    s.fuses.owner = false) ∧
    ∃ nx, exec (.ownerFuse 0) s = .next nx :=
  ⟨rom 0x018 (List.replicate 12 0 ++ [toW 0x2795C9C52]) id, by decide, _, rfl⟩

theorem test_debugFuse :
    ∃ (s : State), (s.servedBoot 0 0x019 1 = true ∧
    s.dev.arg 0 1 = toW 0x221088E4C ∧
    s.dev.fb F.cpDebug_FUSE_DEBUG = false) ∧
    ∃ nx, exec (.debugFuse 0) s = .next nx :=
  ⟨rom 0x019 [toW 0x221088E4C] id, by decide, _, rfl⟩

theorem test_cpWdtExpiry :
    ∃ (s : State), (s.live = true ∧
    s.dev.running = true ∧
    s.dev.recentWarm < 2) ∧
    ∃ nx, exec .cpWdtExpiry s = .next nx :=
  ⟨fw id, by decide, _, rfl⟩

theorem test_cpFatalException :
    ∃ (s : State), (s.live = true ∧
    s.dev.running = true ∧
    s.dev.recentWarm < 2) ∧
    ∃ nx, exec .cpFatalException s = .next nx :=
  ⟨fw id, by decide, _, rfl⟩

theorem test_cpMemoryUe :
    ∃ (s : State) (a : BitVec 19), (s.live = true ∧
    s.dev.running = true ∧
    s.dev.recentWarm < 2) ∧
    ∃ nx, exec (.cpMemoryUe a) s = .next nx :=
  ⟨fw id, (5 : BitVec 19), by decide, _, rfl⟩

theorem test_reloadDone :
    ∃ (s : State), (s.live = true ∧
    s.dev.bootState = 6 ∧
    s.dev.cp.atEntry = false ∧
    ((List.range s.dev.cp.loader.retLen).all fun i => !(s.dev.rdP i).2) = true) ∧
    ∃ nx, exec .reloadDone s = .next nx :=
  ⟨up fun d => d.setF F.cpBoot_STATE 6, by decide, _, rfl⟩

theorem test_warmRestartDone :
    ∃ (s : State), (s.live = true ∧
    s.dev.bootState = 6 ∧
    s.dev.cp.atEntry = true) ∧
    ∃ nx, exec .warmRestartDone s = .next nx :=
  ⟨up fun d => { d.setF F.cpBoot_STATE 6 with cp := { (d.setF F.cpBoot_STATE 6).cp with atEntry := true } }, by decide, _, rfl⟩

theorem test_reboot :
    ∃ (s : State) (p : _) (w : _), (s.live = true ∧
    bitOf w 0 = true ∧
    s.dev.cp.executing = [] ∧
    s.dev.cp.doorbells = []) ∧
    ∃ nx, exec (.reboot p w) s = .next nx :=
  ⟨fw id, Path.cp, (1 : Word), by decide, _, rfl⟩

theorem test_qpush :
    ∃ (s : State) (p : _) (c : Fin 64) (q : Fin 128) (w : _), (s.live = true ∧
    s.dev.fb (F.cluQcfg_EN c q) = true ∧
    tagOf w ≠ 1 ∧
    s.dev.qPkt c q = false ∧
    s.dev.qTweed c q = false ∧
    (s.dev.qu c q).ents.length < s.dev.qDepth c q ∧
    (mget s.dev.qTie (c * 128 + q)).edge ≠ s.dev.epo.edges + 1 ∧
    (s.dev.qu c q).badPtr = false) ∧
    ∃ nx, exec (.qpush p c q w) s = .next nx :=
  ⟨up fun d => d.setF (F.cluQcfg_EN 3 5) 1, Path.cp, 3, 5, (0x10 : Word), by decide, _, rfl⟩

theorem test_qtpush :
    ∃ (s : State) (p : _) (c : Fin 64) (q : Fin 128) (l : Fin 8) (w : _), (s.live = true ∧
    s.dev.fb (F.cluQcfg_EN c q) = true ∧
    tagOf w ≠ 1 ∧
    s.dev.qPkt c q = false ∧
    s.dev.qTweed c q = true ∧
    mget (s.dev.qu c q).lvCnt l < s.dev.qDepth c q / 8 ∧
    (s.dev.qu c q).badPtr = false) ∧
    ∃ nx, exec (.qtpush p c q l w) s = .next nx :=
  ⟨up fun d => (d.setF (F.cluQcfg_EN 3 5) 1).setF (F.cluQcfg_ORDER 3 5) 1, Path.cp, 3, 5, 2, (0x10 : Word), by decide, _, rfl⟩

theorem test_qpop_1 :
    ∃ (s : State) (p : _) (c : Fin 64) (q : Fin 128), (s.live = true ∧
    s.dev.fb (F.cluQcfg_EN c q) = true ∧
    s.dev.qPkt c q = false ∧
    s.dev.qTweed c q = false ∧
    (s.dev.qu c q).ents ≠ [] ∧
    mget s.dev.parBad (s.dev.qAddr c q (s.dev.qu c q).rd) = 0 ∧
    (s.dev.qu c q).badPtr = false) ∧
    ∃ nx, exec (.qpop p c q) s = .next nx :=
  ⟨up fun d => (d.setF (F.cluQcfg_EN 3 5) 1).modQ 3 5 fun u => { u with ents := [⟨0, none, 0⟩] }, Path.cp, 3, 5, by decide, _, rfl⟩

theorem test_qpop_2 :
    ∃ (s : State) (p : _) (c : Fin 64) (q : Fin 128), (s.live = true ∧
    s.dev.fb (F.cluQcfg_EN c q) = true ∧
    s.dev.qPkt c q = false ∧
    s.dev.qTweed c q = false ∧
    (s.dev.qu c q).badPtr = true) ∧
    ∃ nx, exec (.qpop p c q) s = .next nx :=
  ⟨up fun d => (d.setF (F.cluQcfg_EN 3 5) 1).modQ 3 5 fun u => { u with ents := [⟨0, none, 0⟩], badPtr := true }, Path.cp, 3, 5, by decide, _, rfl⟩

theorem test_qdrop :
    ∃ (s : State) (p : _) (c : Fin 64) (w : _), (s.live = true ∧
    s.dev.fb (F.cluQcfg_EN c (bitsOf w 6 0)) = true ∧
    s.dev.qPkt c (bitsOf w 6 0) = false ∧
    (s.dev.qu c (bitsOf w 6 0)).badPtr = false) ∧
    ∃ nx, exec (.qdrop p c w) s = .next nx :=
  ⟨up fun d => (d.setF (F.cluQcfg_EN 3 5) 1).modQ 3 5 fun u => { u with ents := [⟨0, none, 0⟩] }, Path.cp, 3, (5 : Word), by decide, _, rfl⟩

theorem test_qcfgWrite :
    ∃ (s : State) (p : _) (c : Fin 64) (q : Fin 128) (w : _), (s.live = true ∧
    bitOf (s.dev.reg (R.cluQcfg c q)) 35 = false ∧
    4 ≤ bitsOf w 32 28 ∧
    bitsOf w 32 28 ≤ 15 ∧
    bitOf w 33 = false ∧
    s.dev.violates (R.cluQcfg c q) w = false ∧
    bitOf w 35 = true) ∧
    ∃ nx, exec (.qcfgWrite p c q w) s = .next nx :=
  ⟨up id, Path.cp, 3, 5, mkW [(35, 35, 1), (32, 28, 6)], by decide, _, rfl⟩

theorem test_queueDropRem :
    ∃ (s : State) (n : Mbx) (c : Fin 64) (q : Fin 128), (s.served n 0x110 1 = true ∧
    bitsOf (s.dev.arg n 1) 35 13 = 0 ∧
    bitsOf (s.dev.arg n 1) 12 7 = c ∧
    bitsOf (s.dev.arg n 1) 6 0 = q ∧
    s.dev.fb (F.cluQcfg_EN c q) = true ∧
    s.dev.qPkt c q = false ∧
    (s.dev.qu c q).badPtr = false) ∧
    ∃ nx, exec (.queueDropRem n) s = .next nx :=
  ⟨cmd 0x110 [mkW [(12, 7, 3), (6, 0, 5)]] fun d => (d.setF (F.cluQcfg_EN 3 5) 1).modQ 3 5 fun u => { u with ents := [⟨0, none, 0⟩] }, 0, 3, 5, by decide, _, rfl⟩

theorem test_nop :
    ∃ (s : State) (e : Fin 4096) (late : _), (s.issues e 0 false late = true) ∧
    ∃ nx, exec (.nop e) s = .next nx :=
  ⟨up (sched 0 0 0), 3, false, by decide, _, rfl⟩

theorem test_pinSet :
    ∃ (s : State) (e : Fin 4096) (late : _), (s.issues e 1 true late = true) ∧
    ∃ nx, exec (.pinSet e) s = .next nx :=
  ⟨up (sched 1 (mkW [(8, 8, 1), (3, 0, 2)]) 0), 3, false, by decide, _, rfl⟩

theorem test_pinPulse :
    ∃ (s : State) (e : Fin 4096) (late : _), (s.issues e 2 true late = true) ∧
    ∃ nx, exec (.pinPulse e) s = .next nx :=
  ⟨up (sched 2 2 0x100), 3, false, by decide, _, rfl⟩

theorem test_sysref :
    ∃ (s : State) (e : Fin 4096) (late : _) (l : _), (s.issues e 3 true late = true ∧
    ((List.range 16).filter fun l => nbit (bitsOf (s.dev.schArg e 0) 15 0) l && s.dev.f (F.felCfg1_SR_SRC l) = 0 &&
      s.dev.f (F.felCfg1_SR_PIN l) ≤ 3) = [l]) ∧
    ∃ nx, exec (.sysref e) s = .next nx :=
  ⟨up (sched 3 (2 ^ 5) 0), 3, false, 5, by decide, _, rfl⟩

theorem test_regWriteAction :
    ∃ (s : State) (e : Fin 4096) (late : _), (s.issues e 4 false late = true ∧
    (s.dev.issueSlot.maskWrite (bitsOf (s.dev.schArg e 0) 22 0) (s.dev.schArg e 1) (s.dev.schArg e 2)).1 = stOK) ∧
    ∃ nx, exec (.regWriteAction e) s = .next nx :=
  ⟨up (sched 4 (toW (R.axsCfg 1)) 0), 3, false, by decide, _, rfl⟩

theorem test_calApply :
    ∃ (s : State) (e : Fin 4096), (let d0 := s.dev.issueSlot.beforeEdge
    s.issues e 5 false false = true ∧
    s.dev.schAxis e = 0 ∧
    d0.fb F.calStat_INIT = true ∧
    d0.f F.calStat_PSTATE = 1 ∧
    d0.f F.calStat_PEND_GEN = bitsOf (s.dev.schArg e 0) 11 0 ∧
    s.dev.cal = none ∧
    d0.dieStale 0 = false ∧
    d0.dieStale 1 = false) ∧
    ∃ nx, exec (.calApply e) s = .next nx :=
  ⟨up fun d => sched 5 0 0 ((d.setF F.calStat_INIT 1).setF F.calStat_PSTATE 1), 3, by dsimp only; decide, _, rfl⟩

theorem test_routeSwitch :
    ∃ (s : State) (e : Fin 4096), (s.issues e 6 false false = true ∧
    s.dev.schAxis e = 0 ∧
    s.dev.f F.rteGen_STATE = 2 ∧
    (s.dev.schArg e 0).toNat = s.dev.f F.rteGen_STG_GEN) ∧
    ∃ nx, exec (.routeSwitch e) s = .next nx :=
  ⟨up fun d => sched 6 0 0 (d.setF F.rteGen_STATE 2), 3, by decide, _, rfl⟩

theorem test_trigger :
    ∃ (s : State) (e : Fin 4096) (late : _) (n : Fin 16), (s.issues e 7 false late = true ∧
    bitsOf (s.dev.schArg e 0) 15 0 = 2 ^ n.val) ∧
    ∃ nx, exec (.trigger e) s = .next nx :=
  ⟨up (sched 7 4 0), 3, false, 2, by decide, _, rfl⟩

theorem test_mark :
    ∃ (s : State) (e : Fin 4096) (late : _), (s.issues e 8 false late = true ∧
    bitsOf (s.dev.schArg e 0) 25 13 = 1 ∧
    s.dev.inputRuns (bitsOf (s.dev.schArg e 0) 12 0) = true) ∧
    ∃ nx, exec (.mark e) s = .next nx :=
  ⟨up fun d => sched 8 (mkW [(25, 13, 1), (12, 0, 4098)]) 7 (d.setF (F.ingFchCfg_RUN 2) 1), 3, false, by decide, _, rfl⟩

theorem test_event :
    ∃ (s : State) (e : Fin 4096) (late : _), (s.issues e 9 false late = true) ∧
    ∃ nx, exec (.event e) s = .next nx :=
  ⟨up (sched 9 7 0), 3, false, by decide, _, rfl⟩

theorem test_schedAdd :
    ∃ (s : State) (n : Mbx) (e : _) (late : _), (s.served n 0x210 8 = true ∧
    schBadArg (fun i => s.dev.arg n (i + 1)) = false ∧
    bitsOf (s.dev.arg n 1) 31 29 = 0 ∧
    s.dev.graceTest ((s.dev.arg n 2).toNat * 2 ^ 36 + (s.dev.arg n 3).toNat) = some late ∧
    s.dev.schFreeIdx = some e) ∧
    ∃ nx, exec (.schedAdd n) s = .next nx :=
  ⟨cmd 0x210 [1, 0, 0, 0, 0, 0, 0, 0] id, 0, 0, false, by decide, _, rfl⟩

theorem test_schedCancel :
    ∃ (s : State) (n : Mbx), (let old := s.dev.taken.unissued (bitsOf (s.dev.arg n 1) 11 0)
    s.served n 0x211 1 = true ∧
    bitsOf (s.dev.arg n 1) 35 20 = 0 ∧
    (old.schE (bitsOf (s.dev.arg n 1) 11 0)).live = true ∧
    old.schGen (bitsOf (s.dev.arg n 1) 11 0) = bitsOf (s.dev.arg n 1) 19 12) ∧
    ∃ nx, exec (.schedCancel n) s = .next nx :=
  ⟨cmd 0x211 [3] (sched 0 0 0), 0, by dsimp only; decide, _, rfl⟩

theorem test_pulseFallingEdge :
    ∃ (s : State) (pin : Fin 16) (t : _), (s.live = true ∧
    mget s.dev.sch.fall pin.val = some t ∧
    s.dev.pinDue t = true ∧
    s.dev.pinLate t = false ∧
    nbit s.dev.sch.pins pin = true) ∧
    ∃ nx, exec (.pulseFallingEdge pin) s = .next nx :=
  ⟨up fun d => { d with sch := { d.sch with fall := mset d.sch.fall 2 (some 0), pins := 4 } }, 2, 0, by decide, _, rfl⟩

theorem test_axsPosWrite :
    ∃ (s : State) (p : _) (a : Fin 4) (w : _), (s.live = true) ∧
    ∃ nx, exec (.axsPosWrite p a w) s = .next nx :=
  ⟨up id, Path.cp, 2, (9 : Word), by decide, _, rfl⟩

theorem test_quadEdge :
    ∃ (s : State) (a : Fin 4) (lvB : _), (s.live = true ∧
    s.dev.f (F.axsCfg_MODE a) = 1 ∧
    mget s.dev.sch.enc a = bit lvB) ∧
    ∃ nx, exec (.quadEdge a true lvB) s = .next nx :=
  ⟨up fun d => d.setF (F.axsCfg_MODE 2) 1, 2, false, by decide, _, rfl⟩

theorem test_indexEdge :
    ∃ (s : State) (a : Fin 4), (s.live = true ∧
    s.dev.f (F.axsCfg_MODE a) = 1 ∧
    s.dev.f (F.axsCfg_IDX a) = 1) ∧
    ∃ nx, exec (.indexEdge a) s = .next nx :=
  ⟨up fun d => (d.setF (F.axsCfg_MODE 2) 1).setF (F.axsCfg_IDX 2) 1, 2, by decide, _, rfl⟩

theorem test_ssiFrameStart :
    ∃ (s : State) (a : Fin 4), (s.live = true ∧
    s.dev.f (F.axsCfg_MODE a) = 2) ∧
    ∃ nx, exec (.ssiFrameStart a) s = .next nx :=
  ⟨up fun d => d.setF (F.axsCfg_MODE 2) 2, 2, by decide, _, rfl⟩

theorem test_ssiFrameDone :
    ∃ (s : State) (a : Fin 4) (bits : _), (s.live = true ∧
    mget s.dev.sch.ssi a = true ∧
    s.dev.f (F.axsCfg_MODE a) = 2 ∧
    s.dev.fb (F.axsCfg_GRAY a) = false) ∧
    ∃ nx, exec (.ssiFrameDone a bits true true) s = .next nx :=
  ⟨up fun d => { d.setF (F.axsCfg_MODE 2) 2 with sch := { d.sch with ssi := mset d.sch.ssi 2 true } }, 2, (77 : Word), by decide, _, rfl⟩

theorem test_sourceLost :
    ∃ (s : State) (r : Fin 3) (reason : Fin 16), (s.live = true ∧
    nbit (s.dev.f F.epoStat_VALID) (2 - r) = true) ∧
    ∃ nx, exec (.sourceLost r reason) s = .next nx :=
  ⟨up fun d => d.setF F.epoStat_VALID 7, 1, 3, by decide, _, rfl⟩

theorem test_sourceReturn :
    ∃ (s : State) (r : Fin 3), (s.live = true ∧
    srcEn s.dev.refcfg r = true) ∧
    ∃ nx, exec (.sourceReturn r) s = .next nx :=
  ⟨up fun d => d.setReg R.epoRefcfg (mkW [(29, 27, 7)]), 1, by decide, _, rfl⟩

theorem test_candQualifies :
    ∃ (s : State) (t : _), (s.live = true ∧
    s.dev.epoState = 3 ∧
    s.dev.srcUp s.dev.epoCand = true ∧
    s.dev.fb F.epoStat_EVER_LOCKED = true ∧
    (sdiff 72 t.toNat s.dev.now).natAbs ≤ epOf (Nat.min 1000000 (Nat.max 1 (bitsOf s.dev.slewcfg 19 0))) 1000000) ∧
    ∃ nx, exec (.candQualifies t) s = .next nx :=
  ⟨up fun d => ((((d.setReg R.epoRefcfg (mkW [(29, 27, 7)])).setF F.epoStat_VALID 7).setF F.epoStat_STATE 3).setF F.epoStat_CAND 1).setF F.epoStat_EVER_LOCKED 1, (5 : Epoch), by decide, _, rfl⟩

theorem test_firstLockStep :
    ∃ (s : State) (t : _), (s.live = true ∧
    s.dev.epo.stepPend = true ∧
    s.dev.epoState = 3 ∧
    s.dev.fb F.epoStat_EVER_LOCKED = false ∧
    s.dev.streamsOn = false ∧
    s.dev.sch.ents = []) ∧
    ∃ nx, exec (.firstLockStep t) s = .next nx :=
  ⟨up fun d => { (d.setF F.epoStat_STATE 3).setF F.epoStat_CAND 1 with epo := { (d.setF F.epoStat_STATE 3).epo with stepPend := true } }, (5 : BitVec 48), by decide, _, rfl⟩

theorem test_leapAnnounce :
    ∃ (s : State) (r : Fin 3) (dir : Fin 3) (e : _), (s.live = true ∧
    s.dev.epoSel = r.val ∧
    s.dev.srcUp r = true ∧
    dir ≠ 0) ∧
    ∃ nx, exec (.leapAnnounce r dir e) s = .next nx :=
  ⟨up fun d => ((d.setReg R.epoRefcfg (mkW [(29, 27, 7)])).setF F.epoStat_VALID 7).setF F.epoStat_SEL 1, 1, 1, (9 : BitVec 36), by decide, _, rfl⟩

theorem test_taiUtcChange :
    ∃ (s : State) (t : _), (s.live = true ∧
    s.dev.epo.leapAt = some t ∧
    notEarlier 36 s.dev.nowSec t = true) ∧
    ∃ nx, exec .taiUtcChange s = .next nx :=
  ⟨up fun d => { d with epo := { d.epo with leapAt := some 0 } }, 0, by decide, _, rfl⟩

theorem test_wholeEpochSecond :
    ∃ (s : State) (v : _), (s.live = true ∧
    s.dev.epo.taiPend = some v) ∧
    ∃ nx, exec .wholeEpochSecond s = .next nx :=
  ⟨up fun d => { d with epo := { d.epo with taiPend := some 37 } }, 37, by decide, _, rfl⟩

theorem test_disciplineUpdate :
    ∃ (s : State) (t : _), (s.live = true ∧
    s.dev.epoState = 1 ∧
    s.dev.refRow = s.dev ∧
    s.dev.epo.refOld = none ∧
    s.dev.epo.slewOld = none ∧
    s.dev.epo.slewStart = false ∧
    s.dev.epo.slewLocked = false) ∧
    ∃ nx, exec (.disciplineUpdate t) s = .next nx :=
  ⟨up fun d => (((d.setReg R.epoRefcfg (mkW [(29, 29, 1)])).setF F.epoStat_VALID 4).setF F.epoStat_STATE 1).setF F.epoStat_SEL 0, (5 : Epoch), by decide, _, rfl⟩

theorem test_epochGet :
    ∃ (s : State) (n : Mbx), (s.served n 0x200 0 = true) ∧
    ∃ nx, exec (.epochGet n) s = .next nx :=
  ⟨cmd 0x200 [] id, 0, by decide, _, rfl⟩

theorem test_linkStart :
    ∃ (s : State) (n : Mbx) (l : Fin 16), (s.served n 0x300 1 = true ∧
    (s.dev.arg n 1).toNat = l.val ∧
    s.dev.felState l = 0 ∧
    s.dev.linkReason l = none) ∧
    ∃ nx, exec (.linkStart n) s = .next nx :=
  ⟨cmd 0x300 [5] (link 5 0), 0, 5, by decide, _, rfl⟩

theorem test_linkLaneLock :
    ∃ (s : State) (l : Fin 16), (s.live = true ∧
    s.dev.felState l = 1) ∧
    ∃ nx, exec (.linkLaneLock l) s = .next nx :=
  ⟨up (link 5 1), 5, by decide, _, rfl⟩

theorem test_linkSyncTimeout :
    ∃ (s : State) (l : Fin 16), (s.live = true ∧
    s.dev.felState l = 1) ∧
    ∃ nx, exec (.linkSyncTimeout l) s = .next nx :=
  ⟨up (link 5 1), 5, by decide, _, rfl⟩

theorem test_sysrefEdge :
    ∃ (s : State) (l : Fin 16) (e : _), (s.live = true ∧
    (s.dev.fel l).esr = none ∧
    s.dev.felState l = 2) ∧
    ∃ nx, exec (.sysrefEdge l e) s = .next nx :=
  ⟨up (link 5 2), 5, (9 : Epoch), by decide, _, rfl⟩

theorem test_sysrefWaitTimeout :
    ∃ (s : State) (l : Fin 16), (s.live = true ∧
    s.dev.felState l = 2 ∧
    (s.dev.fel l).esr = none) ∧
    ∃ nx, exec (.sysrefWaitTimeout l) s = .next nx :=
  ⟨up (link 5 2), 5, by decide, _, rfl⟩

theorem test_linkRun :
    ∃ (s : State) (l : Fin 16) (e : _), (s.live = true ∧
    s.dev.felState l = 2 ∧
    (s.dev.fel l).esr = some e ∧
    notEarlier 72 s.dev.now (s.dev.relEp l (s.dev.fel l).k0) = true) ∧
    ∃ nx, exec (.linkRun l) s = .next nx :=
  ⟨up fun d => (((link 5 2 d).modFel 5 fun x => { x with esr := some 0 }).setF (F.ingChCfg_EN 0) 1).setNow 100000, 5, 0, by decide, _, rfl⟩

theorem test_linkStop :
    ∃ (s : State) (n : Mbx) (l : Fin 16), (s.served n 0x301 1 = true ∧
    (s.dev.arg n 1).toNat = l.val ∧
    s.dev.felJust l = none ∧
    (s.dev.felState l = 1 ∨ s.dev.felState l = 2)) ∧
    ∃ nx, exec (.linkStop n) s = .next nx :=
  ⟨cmd 0x301 [5] (link 5 1), 0, 5, by decide, _, rfl⟩

theorem test_invalidSyncHeaders :
    ∃ (s : State) (l : Fin 16) (j : Fin 16), (s.live = true ∧
    s.dev.felState l = 3 ∧
    nbit (s.dev.f (F.felCfg0_LANES l)) j = true ∧
    s.dev.laneUp l j = true) ∧
    ∃ nx, exec (.invalidSyncHeaders l j) s = .next nx :=
  ⟨up fun d => (link 5 3 d).setF (F.felLane_UP 5 0) 1, 5, 0, by decide, _, rfl⟩

theorem test_laneLockRegained :
    ∃ (s : State) (l : Fin 16) (j : Fin 16), (s.live = true ∧
    s.dev.felState l = 3 ∧
    nbit (s.dev.f (F.felCfg0_LANES l)) j = true) ∧
    ∃ nx, exec (.laneLockRegained l j) s = .next nx :=
  ⟨up (link 5 3), 5, 0, by decide, _, rfl⟩

theorem test_embArrival :
    ∃ (s : State) (l : Fin 16) (j : Fin 16) (k : _) (arr : _) (octets : _) (e : _), (s.live = true ∧
    s.dev.felState l = 3 ∧
    (s.dev.fel l).esr = some e ∧
    nbit (s.dev.f (F.felCfg0_LANES l)) j = true ∧
    s.dev.laneUp l j = true ∧
    later 72 arr.toNat (ep72 (s.dev.relNum l k / ((s.dev.linkCfg l).fs : Int))) = false ∧
    earlier 72 arr.toNat (ep72 (ceilQ (s.dev.relNum l k * (s.dev.linkCfg l).f -
      (8 * 256 * (s.dev.linkCfg l).s * 2 ^ 36 : Nat)) ((s.dev.linkCfg l).fs * (s.dev.linkCfg l).f))) = false ∧
    (s.dev.fel l).next ≤ k) ∧
    ∃ nx, exec (.embArrival l j k arr [] true octets) s = .next nx :=
  ⟨up fun d => ((link 5 3 d).modFel 5 fun x => { x with esr := some 0 }).setF (F.felLane_UP 5 0) 1, 5, 0, 0, (0 : Epoch), [1, 2], 0, by decide, _, rfl⟩

theorem test_embRelease :
    ∃ (s : State) (l : Fin 16), (s.live = true ∧
    s.dev.felState l = 3 ∧
    notEarlier 72 s.dev.now (s.dev.relEp l (s.dev.fel l).next) = true ∧
    (s.dev.fel l).stopAt = none) ∧
    ∃ nx, exec (.embRelease l) s = .next nx :=
  ⟨up fun d => ((link 5 3 d).modFel 5 fun x => { x with esr := some 0 }).setNow 100000, 5, by decide, _, rfl⟩

theorem test_fchStart :
    ∃ (s : State) (n : Mbx) (k : Fin 1024), (s.served n 0x302 4 = true ∧
    (s.dev.arg n 1).toNat = k.val ∧
    s.dev.fchRun k = false ∧
    1 ≤ s.dev.f (F.ingFchRate_RATE k) ∧
    s.dev.f (F.ingFchRate_RATE k) ≤ 10000000000 ∧
    bitsOf (s.dev.arg n 4) 35 12 = 0 ∧
    earlier 72 ((s.dev.arg n 2).toNat * 2 ^ 36 + (s.dev.arg n 3).toNat) s.dev.now = false) ∧
    ∃ nx, exec (.fchStart n) s = .next nx :=
  ⟨cmd 0x302 [5, 1, 0, 9] fun d => d.setF (F.ingFchRate_RATE 5) 1000000, 0, 5, by decide, _, rfl⟩

theorem test_fchWord :
    ∃ (s : State) (k : Fin 1024) (w : _), (s.live = true ∧
    s.dev.fchRun k = true ∧
    s.dev.fchDue k = false ∧
    s.dev.fb (F.ingFchCfg_FMT k) = false ∧
    bitsOf w 35 24 = ((s.dev.fch k).seq0 + (s.dev.fch k).next) % 4096 ∧
    later 72 (ep72 (ceilQ ((s.dev.inp (4096 + k)).num (s.dev.fch k).next) (s.dev.inp (4096 + k)).den)) s.dev.now = false) ∧
    ∃ nx, exec (.fchWord k w) s = .next nx :=
  ⟨up fun d => ((d.setF (F.ingFchCfg_RUN 5) 1).modInp 4101 fun _ => { a := 0, st := 1000 * 2 ^ 36, den := 1000000, res := 0, slots := 0 }).setF (F.ingFchCfg_LATENCY 5) 100, 5, (77 : Word), by decide, _, rfl⟩

theorem test_fchDeadline :
    ∃ (s : State) (k : Fin 1024), (s.live = true ∧
    s.dev.fchDue k = true) ∧
    ∃ nx, exec (.fchDeadline k) s = .next nx :=
  ⟨up fun d => (((d.setF (F.ingFchCfg_RUN 5) 1).modInp 4101 fun _ => { a := 0, st := 1000 * 2 ^ 36, den := 1000000, res := 0, slots := 0 }).setF (F.ingFchCfg_LATENCY 5) 0), 5, by decide, _, rfl⟩

theorem test_fchStop :
    ∃ (s : State) (n : Mbx) (k : Fin 1024), (s.served n 0x303 1 = true ∧
    (s.dev.arg n 1).toNat = k.val ∧
    s.dev.fchRun k = true ∧
    (s.dev.fch k).stopAt = none ∧
    (s.dev.fch k).next % 1024 = 0) ∧
    ∃ nx, exec (.fchStop n) s = .next nx :=
  ⟨cmd 0x303 [5] fun d => (d.setF (F.ingFchCfg_RUN 5) 1).modInp 4101 fun _ => { a := 0, st := 1000 * 2 ^ 36, den := 1000000, res := 0, slots := 0 }, 0, 5, by decide, _, rfl⟩

theorem test_ingAnchor :
    ∃ (s : State) (n : Mbx), (s.served n 0x304 1 = true ∧
    (s.dev.arg n 1).toNat ≤ 5119 ∧
    s.dev.inputRuns (s.dev.arg n 1).toNat = true) ∧
    ∃ nx, exec (.ingAnchor n) s = .next nx :=
  ⟨cmd 0x304 [4101] fun d => (d.setF (F.ingFchCfg_RUN 5) 1).modInp 4101 fun _ => { a := 0, st := 1000 * 2 ^ 36, den := 1000000, res := 0, slots := 0 }, 0, by decide, _, rfl⟩

theorem test_droopStretch_1 :
    ∃ (s : State) (rail : _) (mv : BitVec 12), (s.live = true ∧
    mv.toNat < s.dev.f F.ingDroop_THRESH ∧
    (s.dev.ing.win.filter fun e => s.dev.epo.edges + (s.dev.ing.stretched + 1) < e + 3200).length < 640) ∧
    ∃ nx, exec (.droopStretch ⟨rail, mv⟩) s = .next nx :=
  ⟨up fun d => d.setF F.ingDroop_THRESH 700, 3, 699, by decide, _, rfl⟩

theorem test_droopStretch_2 :
    ∃ (s : State) (rail : _) (mv : BitVec 12), (s.live = true ∧
    s.dev.f F.ingDroop_THRESH ≤ mv.toNat) ∧
    ∃ nx, exec (.droopStretch ⟨rail, mv⟩) s = .next nx :=
  ⟨up fun d => d.setF F.ingDroop_THRESH 700, 3, 700, by decide, _, rfl⟩

theorem test_stretchEnd :
    ∃ (s : State), (s.live = true) ∧
    ∃ nx, exec .stretchEnd s = .next nx :=
  ⟨up fun d => { d with ing := { d.ing with stretch := 70 } }, by decide, _, rfl⟩

theorem test_recipeSet :
    ∃ (s : State) (n : Mbx) (cnt : _) (beam : _) (i : _), (let d := s.dev.taken
    let k := if beam then 0x10000 + i else i
    let r := d.recipeSteps n cnt
    s.served n 0x400 (2 + 3 * cnt) = true ∧
    bitOf (d.arg n 1) 35 = beam ∧
    bitsOf (d.arg n 1) 13 0 = i ∧
    bitsOf (d.arg n 1) 34 14 = 0 ∧
    (beam = true ∨ i ≤ 5119) ∧
    (d.arg n 2).toNat = cnt ∧
    0 < cnt ∧
    cnt ≤ 6 ∧
    (if beam then d.beamRuns i else d.inputRuns i) = false ∧
    d.recipeReason k beam r.1 = 0 ∧
    ((d.loadRegions k).all (d.admits (r.2.fresh.2.putRecipe k (r.2.fresh.1 % 2 ^ 18) r.1))) = true) ∧
    ∃ nx, exec (.recipeSet n) s = .next nx :=
  ⟨cmd 0x400 [mkW [(35, 35, 1), (13, 0, 7)], 1, mkW [(35, 32, 4)], 0, 0] id, 0, 1, true, 7, by dsimp only; decide, _, rfl⟩

theorem test_modelLoad :
    ∃ (s : State) (n : Mbx) (i : _) (na : _), (s.served n 0x401 51 = true ∧
    (s.dev.arg n 1).toNat = i ∧
    i ≤ 5119 ∧
    (s.dev.arg n 2).toNat * 2 ^ 36 + (s.dev.arg n 3).toNat = na ∧
    s.dev.inputRuns i = true ∧
    ((List.range 48).all fun k => bitsOf (s.dev.arg n (4 + k)) 35 32 == 0) = true ∧
    ((s.dev.source i).recipe.any (·.code == 1) || (s.dev.source i).recipe.any (·.code == 2)) = true ∧
    ([1, 2].all fun c => !(s.dev.source i).recipe.any (·.code == c) ||
      decide ((mget (s.dev.source i).steps c).begun * 1024 ≤ na)) = true) ∧
    ∃ nx, exec (.modelLoad n) s = .next nx :=
  ⟨cmd 0x401 ([4103, 0, 1024] ++ List.replicate 48 3) fun d => (d.setF (F.ingFchCfg_RUN 7) 1).modSource 4103 fun x => { x with recipe := [⟨0, 0, 0, 0, 0⟩, ⟨1, 0, 0, 0, 0⟩] }, 0, 4103, 1024, by decide, _, rfl⟩

theorem test_beamSet_1 :
    ∃ (s : State) (n : Mbx), (let d := s.dev.taken
    let w := d.arg n
    let tab0 := d.tableWords [] (rsaAddr (w 4)) (2 * Nat.min 5120 (bitsOf (w 6) 12 0))
    let tab1 := tab0.2.tableWords [] (rsaAddr (w 5)) (2 * Nat.min 5120 (bitsOf (w 6) 12 0))
    let x : Beam := {
      collect := bitOf (w 1) 35, clu := bitsOf (w 1) 19 14, area := rsaAddr (w 2), nContrib := bitsOf (w 3) 11 0
      rshift := bitsOf (w 3) 18 12, oshift := bitsOf (w 3) 24 19, tab0 := rsaAddr (w 4), tab1 := rsaAddr (w 5)
      count := bitsOf (w 6) 12 0, nMemb := bitsOf (w 7) 17 0, cost := tab1.2.fresh.1 % 256, members := membersOf tab0.1
      members1 := membersOf tab1.1, parts := [], expired := [], seen := [], asked := false }
    let b := bitsOf (w 1) 13 0
    let new := (tab1.2.fresh.2.modBeam b fun _ => x).modSource (0x10000 + b) fun y => { y with
      recipe := y.coming, next := none, steps := [], cancelAt := none, cancelled := 0 }
    s.served n 0x402 7 = true ∧
    d.beamRuns b = false ∧
    (x.members.any fun m => d.inputRuns m.1) = false ∧
    bitsOf (w 1) 34 20 = 0 ∧
    bitsOf (w 2) 35 28 = 0 ∧
    bitsOf (w 3) 35 25 = 0 ∧
    bitsOf (w 4) 35 28 = 0 ∧
    bitsOf (w 5) 35 28 = 0 ∧
    bitsOf (w 6) 35 13 = 0 ∧
    bitsOf (w 7) 35 18 = 0 ∧
    0 < x.nContrib ∧
    x.rshift ≤ 44 ∧
    x.oshift ≤ 35 ∧
    x.count ≤ 5120 ∧
    0 < x.nMemb ∧
    x.area % 16 = 0 ∧
    x.tab0 % 16 = 0 ∧
    x.tab1 % 16 = 0 ∧
    d.rsaBacked x.area (4 * 3088) = true ∧
    (x.count = 0 ∨ d.rsaBacked x.tab0 (2 * x.count) = true ∧ d.rsaBacked x.tab1 (2 * x.count) = true) ∧
    d.tabLines x.tab0 (2 * x.count) ++ d.tabLines x.tab1 (2 * x.count) = [] ∧
    x.members.all d.memberOk = true ∧
    ((new.loadRegions (0x10000 + b)).all (d.admits new)) = true) ∧
    ∃ nx, exec (.beamSet n) s = .next nx :=
  ⟨cmd 0x402 [5, 0, 1, 0, 0, 0, 1] id, 0, by dsimp only; decide, _, rfl⟩

theorem test_beamSet_2 :
    ∃ (s : State) (n : Mbx), (let d := s.dev.taken
    let x := d.beamArg n
    let ls := d.tabLines x.tab0 (2 * x.count) ++ d.tabLines x.tab1 (2 * x.count)
    s.served n 0x402 7 = true ∧
    d.tabsBacked x = true ∧
    ls ≠ []) ∧
    ∃ nx, exec (.beamSet n) s = .next nx :=
  ⟨cmd 0x402 [5, 0, 1, mkW [(27, 22, 1)], 0, 5, 1] fun d => ((((d.setF F.cohStat_STATE 2).setF (F.cohMap_VALID 1) 1).setF (F.cohMap_VALID 0) 1)), 0, by dsimp only; decide, _, rfl⟩

theorem test_tableSwitch :
    ∃ (s : State) (n : Mbx) (beam : _) (i : _) (code : _) (slot : _), (let k := if beam then 0x10000 + i else i
    s.served n 0x403 4 = true ∧
    bitOf (s.dev.arg n 1) 35 = beam ∧
    bitsOf (s.dev.arg n 1) 13 0 = i ∧
    bitsOf (s.dev.arg n 1) 34 14 = 0 ∧
    (beam = true ∨ i ≤ 5119) ∧
    (s.dev.arg n 2).toNat = code ∧
    (if beam then code == 4 && (s.dev.beam i).set
      else (code == 1 || code == 3) && (s.dev.source k).coming.any (·.code == code)) = true ∧
    (s.dev.arg n 3).toNat * 2 ^ 36 + (s.dev.arg n 4).toNat = slot ∧
    s.dev.begunSlots k code ≤ slot) ∧
    ∃ nx, exec (.tableSwitch n) s = .next nx :=
  ⟨cmd 0x403 [7, 1, 0, 9] fun d => (d.modSource 7 fun x => { x with recipe := [⟨0, 0, 0, 0, 0⟩, ⟨1, 0, 0, 0, 0⟩] }), 0, false, 7, 1, 9, by dsimp only; decide, _, rfl⟩

theorem test_taskCancel :
    ∃ (s : State) (n : Mbx) (beam : _) (i : _) (g : _), (let k := if beam then 0x10000 + i else i
    s.served n 0x410 3 = true ∧
    bitOf (s.dev.arg n 1) 35 = beam ∧
    bitsOf (s.dev.arg n 1) 13 0 = i ∧
    bitsOf (s.dev.arg n 1) 34 14 = 0 ∧
    bitsOf (s.dev.arg n 3) 35 26 = 0 ∧
    (beam = true ∨ i ≤ 5119) ∧
    (s.dev.arg n 2).toNat + (s.dev.arg n 3).toNat * 2 ^ 36 = g ∧
    ((s.dev.source k).coming ≠ [] ∨ beam = true ∧ (s.dev.beam i).set = true) ∧
    (s.dev.source k).cancelling = false) ∧
    ∃ nx, exec (.taskCancel n) s = .next nx :=
  ⟨cmd 0x410 [7, 3, 0] fun d => d.modSource 7 fun x => { x with recipe := [⟨0, 0, 0, 0, 0⟩] }, 0, false, 7, 3, by dsimp only; decide, _, rfl⟩

theorem test_cancelComplete :
    ∃ (s : State) (src : Src) (g : _), (s.live = true ∧
    (s.dev.source (srcKey src)).cancelling = true ∧
    (s.dev.source (srcKey src)).cancelAt = some g ∧
    (s.dev.tsk.units.all fun x => (x.2.run.map (hit (srcKey src) g)) != some true) = true) ∧
    ∃ nx, exec (.cancelComplete src) s = .next nx :=
  ⟨up fun d => d.modSource 7 fun x => { x with cancelling := true, cancelAt := some 3 }, ⟨false, 7⟩, 3, by decide, _, rfl⟩

theorem test_unitFence :
    ∃ (s : State) (n : Mbx) (u : _), (s.served n 0x411 1 = true ∧
    (s.dev.arg n 1).toNat = u ∧
    u < 1024 ∧
    s.dev.fenced u = false) ∧
    ∃ nx, exec (.unitFence n) s = .next nx :=
  ⟨cmd 0x411 [129] id, 0, 129, by decide, _, rfl⟩

theorem test_unitUnfence :
    ∃ (s : State) (n : Mbx) (u : _), (s.served n 0x412 1 = true ∧
    (s.dev.arg n 1).toNat = u ∧
    u < 1024 ∧
    s.dev.fenced u = true) ∧
    ∃ nx, exec (.unitUnfence n 0) s = .next nx :=
  ⟨cmd 0x412 [129] fun d => d.setF (F.tskUnit_FENCED 129) 1, 0, 129, by decide, _, rfl⟩

theorem test_taskLoadGet :
    ∃ (s : State) (n : Mbx), (s.served n 0x413 0 = true) ∧
    ∃ nx, exec (.taskLoadGet n) s = .next nx :=
  ⟨cmd 0x413 [] id, 0, by decide, _, rfl⟩

theorem test_unitEccError :
    ∃ (s : State) (u : Fin 1024), (s.live = true ∧
    s.dev.fenced u = false) ∧
    ∃ nx, exec (.unitEccError u) s = .next nx :=
  ⟨up id, 5, by decide, _, rfl⟩

theorem test_residueMismatch :
    ∃ (s : State) (u : Fin 1024), (s.live = true ∧
    s.dev.fenced u = false) ∧
    ∃ nx, exec (.residueMismatch u) s = .next nx :=
  ⟨up id, 5, by decide, _, rfl⟩

theorem test_taskWatchdogExpiry :
    ∃ (s : State) (u : Fin 1024), (s.live = true ∧
    s.dev.fenced u = false ∧
    (s.dev.unit u).run.isSome = true) ∧
    ∃ nx, exec (.taskWatchdogExpiry u) s = .next nx :=
  ⟨up fun d => d.modUnit 5 fun x => { x with run := some [] }, 5, by decide, _, rfl⟩

theorem test_taskReady :
    ∃ (s : State) (src : Src) (st : Fin 8) (c : Fin 64), (let k := srcKey src
    let q := s.dev.outQueue k st
    s.live = true ∧
    s.dev.readyNow k st c = true ∧
    ((q.map (s.dev.outrun k st)).getD false) = false) ∧
    ∃ nx, exec (.taskReady src st c) s = .next nx :=
  ⟨up fun d => ((d.modSource 7 fun x => { x with recipe := [⟨0, 0, 0, 0, 0⟩, ⟨2, 0, 0, 0, 0⟩] }).modRun 7 0 fun r => { r with done := 1 }), ⟨false, 7⟩, 2, 0, by dsimp only; decide, _, rfl⟩

theorem test_generatorPush :
    ∃ (s : State) (c : Fin 64) (t : _) (u : _), (s.live = true ∧
    s.dev.gen c = [t] ∧
    t.made = true ∧
    s.dev.leastUnit c = some u ∧
    (s.dev.unit u).cnt < 32) ∧
    ∃ nx, exec (.generatorPush c) s = .next nx :=
  ⟨up fun d => d.setGen 3 [⟨[1, 2, 3], true⟩], 3, ⟨[1, 2, 3], true⟩, 48, by decide, _, rfl⟩

theorem test_taskStart :
    ∃ (s : State) (u : Fin 1024), (s.live = true ∧
    s.dev.inService u = true ∧
    (s.dev.unit u).run = none ∧
    0 < (s.dev.unit u).cnt ∧
    s.dev.shadowBusy u = false) ∧
    ∃ nx, exec (.taskStart u) s = .next nx :=
  ⟨up fun d => d.pushBottom 5 [0, 1, 2, 3, 4, 5, 6, 7], 5, by decide, _, rfl⟩

theorem test_stealSearch :
    ∃ (s : State) (u : Fin 1024) (v : _) (ws : _), (let own := (List.range 16).map (u.val / 16 * 16 + ·)
    s.live = true ∧
    s.dev.inService u = true ∧
    (s.dev.unit u).run = none ∧
    (s.dev.unit u).cnt = 0 ∧
    s.dev.shadowBusy u = false ∧
    ((List.range 1024).all fun v => (s.dev.unit v).cnt == 0 || !s.dev.fenced v || s.dev.turnedNow v) = true ∧
    s.dev.beatenThief u = none ∧
    (s.dev.tryVictims u (s.dev.victims own)).1 = some (v, ws)) ∧
    ∃ nx, exec (.stealSearch u) s = .next nx :=
  ⟨up fun d => d.pushBottom 6 [0, 1, 2, 2 ^ 20, 4, 5, 0, 0], 5, 6, [0, 1, 2, 2 ^ 20, 4, 5, 0, 0], by dsimp only; decide +kernel, _, rfl⟩

theorem test_taskComplete :
    ∃ (s : State) (u : Fin 1024) (ws : _), (let d := s.dev.unitGo u 8
    let t := taskOf ws
    s.live = true ∧
    (d.unit u).run = some ws ∧
    (d.unit u).wait = 0 ∧
    (d.unit u).sent = 5 ∧
    (d.taskRun t).done = t.g ∧
    t.g < (d.taskRun t).ready ∧
    (d.taskResult u t).isSome = true) ∧
    ∃ nx, exec (.taskComplete u) s = .next nx :=
  ⟨up fun d => ((d.modSource 7 fun x => { x with recipe := [⟨0, 0, 0, 0, 0⟩, ⟨2, 0, 0, 0, 0⟩] }).modRun 7 2 fun r => { r with ready := 1 }).modUnit 5 fun x => { x with run := some [mkW [(35, 32, 2), (30, 17, 7)], 0, 0, 0, 0, 0, 0, 0], sent := 5 }, 5, [mkW [(35, 32, 2), (30, 17, 7)], 0, 0, 0, 0, 0, 0, 0], by dsimp only; decide, _, rfl⟩

theorem test_taskRelease :
    ∃ (s : State) (c : Fin 64) (q : Fin 128) (seq : _) (ws : _) (rest : _), (s.live = true ∧
    s.dev.f (F.tskQseq_NEXT_REL c q) = seq ∧
    mget s.dev.tsk.done (c.val * 128 + q.val) = (seq, ws) :: rest ∧
    rest.all (fun x => x.1 != seq) = true) ∧
    ∃ nx, exec (.taskRelease c q) s = .next nx :=
  ⟨up fun d => d.addDone 1 2 0 [], 1, 2, 0, [], [], by decide, _, rfl⟩

theorem test_beamWaitExpiry_1 :
    ∃ (s : State) (b : Fin 16384) (w : _), (let x := s.dev.beam b
    let r := s.dev.stepRun (0x10000 + b) 4
    s.live = true ∧
    x.set = true ∧
    x.collect = true ∧
    r.done = r.ready ∧
    x.expired.contains r.ready = false ∧
    s.dev.rsPeek (x.ring r.ready) = some w ∧
    w.toNat ≠ x.nContrib ∧
    notEarlier 72 s.dev.now ((s.dev.beamAt b (r.ready * 1024 + 1023) + s.dev.budget 7 +
      epOf (s.dev.f F.tskCfg_BEAM_WAIT) 1000000) % 2 ^ 72) = true) ∧
    ∃ nx, exec (.beamWaitExpiry b) s = .next nx :=
  ⟨up fun d => (((d.store 0x200001000 (mkW [(20, 8, 7)])).modBeam 9 fun x => { x with nContrib := 3, collect := true, area := 0x200000000, tab0 := 0x200001000, count := 1 }).modInp 7 fun _ => { a := 0, st := 1000 * 2 ^ 36, den := 1000000, res := 0, slots := 0 }).setNow (2 ^ 60), 9, 0, by dsimp only; decide, _, rfl⟩

theorem test_beamWaitExpiry_2 :
    ∃ (s : State) (b : Fin 16384), (let x := s.dev.beam b
    let r := s.dev.stepRun (0x10000 + b) 4
    s.live = true ∧
    x.set = true ∧
    x.collect = true ∧
    r.done = r.ready ∧
    s.dev.countFull b r.ready = false ∧
    s.dev.rsPeek (x.ring r.ready) = none ∧
    notEarlier 72 s.dev.now ((s.dev.beamAt b (r.ready * 1024 + 1023) + s.dev.budget 7 +
      epOf (s.dev.f F.tskCfg_BEAM_WAIT) 1000000) % 2 ^ 72) = true) ∧
    ∃ nx, exec (.beamWaitExpiry b) s = .next nx :=
  ⟨up fun d => ((((((d.setF F.cohStat_STATE 2).setF (F.cohMap_VALID 1) 1).setF (F.cohMap_VALID 0) 1).store 0x200001000 (mkW [(20, 8, 7)])).modBeam 9 fun x => { x with nContrib := 3, collect := true, area := 0x600000000, tab0 := 0x200001000, count := 1 }).modInp 7 fun _ => { a := 0, st := 1000 * 2 ^ 36, den := 1000000, res := 0, slots := 0 }).setNow (2 ^ 60), 9, by dsimp only; decide, _, rfl⟩

theorem test_capChanSet :
    ∃ (s : State) (n : Mbx) (ch : _), (let c := fun i => s.dev.arg n (2 + i)
    let words := 2 ^ bitsOf (c 0) 34 30 + 2 ^ bitsOf (c 0) 34 30 / 512
    let base := bitsOf (c 1) 33 0
    s.served n 0x500 5 = true ∧
    (s.dev.arg n 1).toNat = ch ∧
    ch ≤ 4095 ∧
    (s.dev.capEn ch = false ∨ putBits (c 0) 35 35 0 = putBits (s.dev.capW ch 0) 35 35 0 ∧ c 1 = s.dev.capW ch 1 ∧
      c 2 = s.dev.capW ch 2 ∧ c 3 = s.dev.capW ch 3) ∧
    ((List.range 16).all fun t => s.dev.trgState t == 0 || !s.dev.engineNames t ch) = true ∧
    12 ≤ bitsOf (c 0) 34 30 ∧
    bitsOf (c 0) 34 30 ≤ 30 ∧
    bitsOf (c 0) 29 26 ≤ 10 ∧
    bitsOf (c 0) 25 20 = 0 ∧
    ((c 2).toNat ≠ 0 ∨ (c 3).toNat ≠ 0) ∧
    base % 16 = 0 ∧
    bitsOf (c 1) 35 34 = 0 ∧
    hbmRange base words = true ∧
    s.dev.meetsChan base words (some ch) = false ∧
    s.dev.meetsRec base words none = false ∧
    s.dev.meetsBkl base words = false) ∧
    ∃ nx, exec (.capChanSet n) s = .next nx :=
  ⟨cmd 0x500 [3, mkW [(35, 35, 1), (34, 30, 12), (29, 26, 4)], 0x100000000, 1, 0] id, 0, 3, by dsimp only; decide +kernel, _, rfl⟩

theorem test_capArm_1 :
    ∃ (s : State) (n : Mbx) (t : _), (s.served n 0x501 1 = true ∧
    bitsOf (s.dev.arg n 1) 3 0 = t ∧
    bitsOf (s.dev.arg n 1) 35 5 = 0 ∧
    (s.dev.trgState t = 0 ∨ s.dev.trgState t = 4) ∧
    s.dev.armReason t = 0) ∧
    ∃ nx, exec (.capArm n) s = .next nx :=
  ⟨cmd 0x501 [2] fun d => ((d.store (capAddr 0 0) (mkW [(35, 35, 1), (34, 30, 12)])).setF (F.trgRecLen_LEN 2) 5000).setF (F.trgRecBase_BASE 2) 0x100000000, 0, 2, by decide +kernel, _, rfl⟩

theorem test_capArm_2 :
    ∃ (s : State) (n : Mbx) (t : _), (s.served n 0x501 1 = true ∧
    bitsOf (s.dev.arg n 1) 3 0 = t ∧
    bitsOf (s.dev.arg n 1) 35 5 = 0 ∧
    s.dev.trgState t = 1) ∧
    ∃ nx, exec (.capArm n) s = .next nx :=
  ⟨cmd 0x501 [18] fun d => d.setF (F.trgStat_STATE 2) 1, 0, 2, by decide +kernel, _, rfl⟩

theorem test_capDisarm_1 :
    ∃ (s : State) (n : Mbx) (t : _), (s.served n 0x502 1 = true ∧
    (s.dev.arg n 1).toNat = t ∧
    t ≤ 15 ∧
    s.dev.trgState t = 1 ∧
    s.dev.trgNow t = []) ∧
    ∃ nx, exec (.capDisarm n) s = .next nx :=
  ⟨cmd 0x502 [2] fun d => d.setF (F.trgStat_STATE 2) 1, 0, 2, by decide, _, rfl⟩

theorem test_capDisarm_2 :
    ∃ (s : State) (n : Mbx) (t : _), (s.served n 0x502 1 = true ∧
    (s.dev.arg n 1).toNat = t ∧
    t ≤ 15 ∧
    (s.dev.trgState t = 3 ∨ s.dev.trgState t = 2) ∧
    s.dev.trgNow t = []) ∧
    ∃ nx, exec (.capDisarm n) s = .next nx :=
  ⟨cmd 0x502 [2] fun d => d.setF (F.trgStat_STATE 2) 2, 0, 2, by decide, _, rfl⟩

theorem test_capDisarm_3 :
    ∃ (s : State) (n : Mbx) (t : _), (s.served n 0x502 1 = true ∧
    (s.dev.arg n 1).toNat = t ∧
    t ≤ 15 ∧
    (s.dev.trgState t = 0 ∨ s.dev.trgState t = 4) ∧
    s.dev.trgNow t = []) ∧
    ∃ nx, exec (.capDisarm n) s = .next nx :=
  ⟨cmd 0x502 [2] fun d => d.setF (F.trgStat_STATE 2) 4, 0, 2, by decide, _, rfl⟩

theorem test_capDisarm_4 :
    ∃ (s : State) (n : Mbx) (t : _), (let d := s.dev.taken.untrigger t
    s.served n 0x502 1 = true ∧
    (s.dev.arg n 1).toNat = t ∧
    t ≤ 15 ∧
    s.dev.trgNow t ≠ [] ∧
    d.trgState t = 1 ∧
    (d.trg t).stop = false) ∧
    ∃ nx, exec (.capDisarm n) s = .next nx :=
  ⟨cmd 0x502 [2] fun d => ((d.setF (F.trgStat_STATE 2) 1).arrive 2 ⟨0, 1, 0, 0⟩), 0, 2, by dsimp only; decide, _, rfl⟩

theorem test_capTrigger :
    ∃ (s : State) (n : Mbx) (mask : _) (e : _), (s.served n 0x503 3 = true ∧
    (s.dev.arg n 1).toNat = mask ∧
    mask ≠ 0 ∧
    mask ≤ 0xFFFF ∧
    (s.dev.arg n 2).toNat * 2 ^ 36 + (s.dev.arg n 3).toNat = e) ∧
    ∃ nx, exec (.capTrigger n) s = .next nx :=
  ⟨cmd 0x503 [4, 0, 9] fun d => d.setF (F.trgStat_STATE 2) 1, 0, 4, 9, by decide, _, rfl⟩

theorem test_dmkMaskLoad :
    ∃ (s : State) (n : Mbx) (k : _), (let s0 := bitsOf (s.dev.arg n 1) 23 12
    let m := bitsOf (s.dev.arg n 1) 2 0
    let m0 := s.dev.arg n 2
    s.served n 0x504 (3 + 3 * k) = true ∧
    bitsOf (s.dev.arg n 1) 35 24 = 0 ∧
    bitsOf (s.dev.arg n 1) 11 3 = 0 ∧
    s0 + k ≤ bitsOf m0 11 0 ∧
    bitsOf m0 11 0 ≠ 0 ∧
    bitsOf m0 11 0 ≤ 2730 ∧
    bitsOf m0 35 33 ≤ 5 ∧
    bitsOf m0 31 12 = 0 ∧
    ((List.range 16).all fun t => s.dev.trgState t == 0 || !s.dev.fb (F.trgCfg_KIND t) ||
      s.dev.f (F.trgCfg_MASK t) != m) = true) ∧
    ∃ nx, exec (.dmkMaskLoad n) s = .next nx :=
  ⟨cmd 0x504 [1, 1, 0, 5, 6, 7] id, 0, 1, by dsimp only; decide, _, rfl⟩

theorem test_capturePacket :
    ∃ (s : State) (ch : Fin 4096) (p : _) (ps : _), (s.live = true ∧
    (s.dev.chan ch).pend = p :: ps ∧
    s.dev.capEn ch = true ∧
    (s.dev.chan ch).started = true ∧
    tagOf (p.ws.headD 0) = 3 ∧
    bitsOf (p.ws.headD 0) 31 12 = bitsOf (s.dev.capW ch 0) 19 0 ∧
    bitsOf (p.ws.headD 0) 11 0 = (s.dev.chan ch).seq ∧
    ((p.ws.drop 1).filter fun w => slotTag (tagOf w)).length = s.dev.capPlen ch) ∧
    ∃ nx, exec (.capturePacket ch) s = .next nx :=
  ⟨up fun d => (d.store (capAddr 3 0) (mkW [(35, 35, 1), (34, 30, 12), (19, 0, 5)])).modChan 3 fun x => { x with started := true, seq := 9, pend := [⟨[tagged 3 (5 * 4096 + 9), tagged 0 77], none⟩] }, 3, ⟨[tagged 3 (5 * 4096 + 9), tagged 0 77], none⟩, [], by decide, _, rfl⟩

theorem test_trigInEdge :
    ∃ (s : State) (pin : Fin 8) (e : _), (s.live = true) ∧
    ∃ nx, exec (.trigInEdge pin e) s = .next nx :=
  ⟨up id, 3, 77, by decide, _, rfl⟩

theorem test_postTimeout :
    ∃ (s : State) (n : Fin 16) (c : _), (s.live = true ∧
    (s.dev.trg n).cut = some c ∧
    s.dev.trgState n = 2 ∧
    notEarlier 72 s.dev.now ((c.et + s.dev.perRound (s.dev.trgWatch n) (s.dev.trgPost n) +
      epOf (Nat.max 1 (s.dev.f (F.trgCfg_TMO n))) 1000) % 2 ^ 72) = true) ∧
    ∃ nx, exec (.postTimeout n) s = .next nx :=
  ⟨up fun d => ((d.setF (F.trgStat_STATE 2) 2).modTrg 2 fun x => { x with cut := some default }).setNow (2 ^ 60), 2, default, by decide, _, rfl⟩

theorem test_rearmEnd :
    ∃ (s : State) (n : Fin 16), (s.live = true ∧
    s.dev.trgState n = 3 ∧
    (s.dev.trg n).postEdge + 75 ≤ s.dev.epo.edges) ∧
    ∃ nx, exec (.rearmEnd n) s = .next nx :=
  ⟨up fun d => { d.setF (F.trgStat_STATE 2) 3 with epo := { d.epo with edges := 75 } }, 2, by decide, _, rfl⟩

theorem test_decimTick :
    ∃ (s : State), (s.live = true ∧
    bitsOf (toW s.dev.now) 35 26 ≠ s.dev.cap.tick) ∧
    ∃ nx, exec .decimTick s = .next nx :=
  ⟨up fun d => ((d.setF (F.trgStat_DECIM 2) 3).setF (F.trgRecLen_LEN 2) 1000).setNow (2 ^ 30), by decide, _, rfl⟩

theorem test_damaskTestDone :
    ∃ (s : State) (n : _) (num : _) (rest : _) (r : _), (s.live = true ∧
    s.dev.cap.dmk = (n, num) :: rest ∧
    (s.dev.trg n).recs.find? (fun r => r.num == num && !r.ready) = some r ∧
    ((List.range r.nch).flatMap fun c => dmkTest (bitsOf (s.dev.rd (dmkAddr (s.dev.f (F.trgCfg_MASK n)) 0)) 35 33)
      (bitOf (s.dev.rd (dmkAddr (s.dev.f (F.trgCfg_MASK n)) 0)) 32) (s.dev.dmkSegs (s.dev.f (F.trgCfg_MASK n))) r.pre
      ((r.body.drop (11 + c * r.npos)).take r.npos)) = []) ∧
    ∃ nx, exec .damaskTestDone s = .next nx :=
  ⟨up fun d => ({ d with cap := { d.cap with dmk := [(2, 4)] } } : Dev).modTrg 2 fun x => { x with recs := [⟨4, 0, 9, false, [1], 0, 0, 1⟩] }, 2, 4, [], ⟨4, 0, 9, false, [1], 0, 0, 1⟩, by decide, _, rfl⟩

theorem test_canvasPrep :
    ∃ (s : State) (n : Mbx) (mode : _), (s.served n 0x600 1 = true ∧
    (s.dev.arg n 1).toNat = mode ∧
    s.dev.cal = none ∧
    s.dev.taken.banksOk = true ∧
    (mode = 0 ∧ s.dev.taken.runningInputs = [] ∨ mode = 1 ∧ s.dev.bankShut = false)) ∧
    ∃ nx, exec (.canvasPrep n) s = .next nx :=
  ⟨cmd 0x600 [1] fun d => d.setF (F.calBank_OFS 1) 0x10000, 0, 1, by decide, _, rfl⟩

theorem test_calRun :
    ∃ (s : State) (n : Mbx), (let d := s.dev.taken
    let w := d.arg n
    let ins := (List.range (bitsOf (w 2) 25 13)).map (bitsOf (w 2) 12 0 + ·)
    let clus := d.jobClusters ins
    let shq := bitsOf (w 6) 10 4
    s.served n 0x601 6 = true ∧
    d.cal = none ∧
    d.bankShut = false ∧
    calRange w = false ∧
    d.fb F.calStat_INIT = true ∧
    ((bitsOf (w 1) 12 0 :: ins).all fun i => d.inputRuns i && ((d.source i).step? 0).isSome) = true ∧
    (clus.all fun c => d.fb (F.cluQcfg_EN c shq) && d.qPkt c shq) = true ∧
    notEarlier 72 ((w 3).toNat * 2 ^ 36 + (w 4).toNat) d.now = true ∧
    (clus.all fun c => !d.fenced (d.shadowOf c)) = true ∧
    popcount 4 (bitsOf (w 6) 19 16) ≤ (List.range 4096).countP (fun e => !(d.schE e).live)) ∧
    ∃ nx, exec (.calRun n) s = .next nx :=
  ⟨cmd 0x601 [4103, 1 * 2 ^ 13 + 4103, 1, 0, 2 * 2 ^ 16 + 3, mkW [(19, 16, 1), (10, 4, 5), (3, 0, 2)]] fun d => (((d.setF F.calStat_INIT 1).setF (F.ingFchCfg_RUN 7) 1).setReg (R.cluQcfg 0 5) (2 ^ 36 - 1)).modSource 4103 fun x => { x with recipe := [⟨0, 0, 0, 0, 0⟩] }, 0, by dsimp only; decide +kernel, _, rfl⟩

theorem test_calAbort :
    ∃ (s : State) (n : Mbx) (j : _), (s.served n 0x602 0 = true ∧
    s.dev.cal = some j) ∧
    ∃ nx, exec (.calAbort n) s = .next nx :=
  ⟨cmd 0x602 [] fun d => { d with cal := some default }, 0, default, by decide, _, rfl⟩

theorem test_calSeal :
    ∃ (s : State) (n : Mbx), (let d := s.dev.taken
    let b := d.pendBank
    s.served n 0x603 1 = true ∧
    d.f F.calStat_PSTATE ≠ 2 ∧
    d.cal = none ∧
    d.entryReserved b = false ∧
    ((d.arg n 1).toNat = 0 ∨ (d.arg n 1).toNat = 1 ∧ d.bankRd b 3 = d.bankSum b)) ∧
    ∃ nx, exec (.calSeal n) s = .next nx :=
  ⟨cmd 0x603 [0] id, 0, by dsimp only; decide +kernel, _, rfl⟩

theorem test_canvasRead :
    ∃ (s : State) (n : Mbx) (first : _) (cnt : _), (s.served n 0x604 2 = true ∧
    bitsOf (s.dev.arg n 1) 34 16 = 0 ∧
    bitsOf (s.dev.arg n 1) 15 0 = first ∧
    (s.dev.arg n 2).toNat = cnt ∧
    0 < cnt ∧
    cnt ≤ 254 ∧
    first + cnt ≤ bankWords) ∧
    ∃ nx, exec (.canvasRead n) s = .next nx :=
  ⟨cmd 0x604 [0, 3] id, 0, 0, 3, by decide, _, rfl⟩

theorem test_canvasWrite :
    ∃ (s : State) (n : Mbx) (len : _) (first : _), (s.served n 0x605 (len + 2) = true ∧
    s.dev.f F.calStat_PSTATE ≠ 2 ∧
    s.dev.tieNow.applied = none ∧
    (s.dev.arg n 1).toNat = first ∧
    first + ((s.dev.mb n).req.drop 2).length ≤ bankWords ∧
    ((List.range ((s.dev.mb n).req.drop 2).length).all fun k => first + k == 3 || 16 ≤ first + k) = true) ∧
    ∃ nx, exec (.canvasWrite n) s = .next nx :=
  ⟨cmd 0x605 [16, 5, 6] id, 0, 1, 16, by decide, _, rfl⟩

theorem test_retirementEnd :
    ∃ (s : State), (s.live = true ∧
    s.dev.f F.calStat_PSTATE = 2 ∧
    s.dev.runningInputs.all s.dev.retired = true) ∧
    ∃ nx, exec .retirementEnd s = .next nx :=
  ⟨up fun d => d.setF F.calStat_PSTATE 2, by decide, _, rfl⟩

theorem test_calSolve :
    ∃ (s : State) (j : _), (s.live = true ∧
    s.dev.cal = some j ∧
    notEarlier 72 s.dev.now j.endEp = true) ∧
    ∃ nx, exec .calSolve s = .next nx :=
  ⟨up fun d => ({ d with cal := some { (default : CalJob) with first := 3, cnt := 2, cycles := 1, period := 4 } } : Dev).setNow (2 ^ 60), { (default : CalJob) with first := 3, cnt := 2, cycles := 1, period := 4 }, by decide, _, rfl⟩

theorem test_fiuSlotAdmit :
    ∃ (s : State) (n : Mbx) (p : _) (sl : _), (s.served n 0x700 1 = true ∧
    bitsOf (s.dev.arg n 1) 35 10 = 0 ∧
    bitsOf (s.dev.arg n 1) 9 8 = p ∧
    bitsOf (s.dev.arg n 1) 7 4 = sl ∧
    s.dev.fpState p = 2 ∧
    s.dev.fb (F.fiuMod_PRESENT p sl) = true ∧
    s.dev.fb (F.fiuMod_EN p sl) = false) ∧
    ∃ nx, exec (.fiuSlotAdmit n) s = .next nx :=
  ⟨cmd 0x700 [mkW [(9, 8, 1), (7, 4, 3)]] fun d => (d.setF (F.fiuStat_STATE 1) 2).setF (F.fiuMod_PRESENT 1 3) 1, 0, 1, 3, by decide, _, rfl⟩

theorem test_fiuSlotRemove :
    ∃ (s : State) (n : Mbx) (p : _) (sl : _), (s.served n 0x701 1 = true ∧
    bitsOf (s.dev.arg n 1) 35 10 = 0 ∧
    bitsOf (s.dev.arg n 1) 9 8 = p ∧
    bitsOf (s.dev.arg n 1) 7 4 = sl ∧
    bitsOf (s.dev.arg n 1) 3 0 = 0 ∧
    s.dev.fpState p = 2 ∧
    s.dev.fb (F.fiuMod_PRESENT p sl) = true) ∧
    ∃ nx, exec (.fiuSlotRemove n) s = .next nx :=
  ⟨cmd 0x701 [mkW [(9, 8, 1), (7, 4, 3)]] fun d => (d.setF (F.fiuStat_STATE 1) 2).setF (F.fiuMod_PRESENT 1 3) 1, 0, 1, 3, by decide, _, rfl⟩

theorem test_fiuSegReset :
    ∃ (s : State) (n : Mbx) (p : _), (s.served n 0x702 1 = true ∧
    (s.dev.arg n 1).toNat = p ∧
    p < 4 ∧
    s.dev.fpState p = 2 ∧
    (s.dev.fp p).segReset = none) ∧
    ∃ nx, exec (.fiuSegReset n) s = .next nx :=
  ⟨cmd 0x702 [1] fun d => d.setF (F.fiuStat_STATE 1) 2, 0, 1, by decide, _, rfl⟩

theorem test_fiuGeo :
    ∃ (s : State) (n : Mbx) (p : _) (wr : _), (s.served n 0x703 2 = true ∧
    bitsOf (s.dev.arg n 1) 17 16 = p ∧
    bitOf (s.dev.arg n 1) 35 = wr ∧
    bitsOf (s.dev.arg n 1) 34 18 = 0 ∧
    (wr = true ∨ (s.dev.arg n 2).toNat = 0) ∧
    s.dev.fpState p = 2) ∧
    ∃ nx, exec (.fiuGeo n) s = .next nx :=
  ⟨cmd 0x703 [mkW [(17, 16, 1), (15, 12, 3)], 0] fun d => d.setF (F.fiuStat_STATE 1) 2, 0, 1, false, by decide, _, rfl⟩

theorem test_syncPulse :
    ∃ (s : State) (pa : _) (p : Fin 4) (w : _), (s.live = true ∧
    bitOf w 0 = true ∧
    s.dev.fpState p = 2 ∧
    s.dev.f (F.fiuSyncCfg_MODE p) = 2) ∧
    ∃ nx, exec (.syncPulse pa p w) s = .next nx :=
  ⟨up fun d => (d.setF (F.fiuStat_STATE 1) 2).setF (F.fiuSyncCfg_MODE 1) 2, .cp, 1, 1, by decide, _, rfl⟩

theorem test_fiuPortEnWrite_1 :
    ∃ (s : State) (pa : _) (p : Fin 4) (w : _), (let d1 := s.dev.setReg (R.fiuCfg p) (putBits w 2 0 0)
    let d2 := d1.haltRefresh p
    s.live = true ∧
    s.dev.fb (F.fiuCfg_EN p) = false ∧
    d1.fb (F.fiuCfg_EN p) = true ∧
    d2.fpState p = 0) ∧
    ∃ nx, exec (.fiuPortEnWrite pa p w) s = .next nx :=
  ⟨up fun d => d.setF (F.fiuCfg_EN 1) 0, .cp, 1, (up fun d => d.setF (F.fiuCfg_EN 1) 1).dev.reg (R.fiuCfg 1), by dsimp only; decide, _, rfl⟩

theorem test_fiuPortEnWrite_2 :
    ∃ (s : State) (pa : _) (p : Fin 4) (w : _), (let d1 := s.dev.setReg (R.fiuCfg p) (putBits w 2 0 0)
    s.live = true ∧
    s.dev.fb (F.fiuCfg_EN p) = true ∧
    d1.fb (F.fiuCfg_EN p) = false ∧
    (d1.haltRefresh p).fpState p ≠ 0) ∧
    ∃ nx, exec (.fiuPortEnWrite pa p w) s = .next nx :=
  ⟨up fun d => (d.setF (F.fiuCfg_EN 1) 1).setF (F.fiuStat_STATE 1) 2, .cp, 1, (up fun d => d.setF (F.fiuCfg_EN 1) 0).dev.reg (R.fiuCfg 1), by dsimp only; decide, _, rfl⟩

theorem test_slaveAnswer_1 :
    ∃ (s : State) (p : Fin 4) (o : _) (b : _), (s.live = true ∧
    (s.dev.fp p).cur = some o ∧
    o.k + 1 < o.cnt) ∧
    ∃ nx, exec (.slaveAnswer p (.accept b)) s = .next nx :=
  ⟨up fun d => d.modFp 1 fun x => { x with cur := some { (default : Own) with cmd := 3, cnt := 2 } }, 1, { (default : Own) with cmd := 3, cnt := 2 }, (⟨5, false⟩ : BusWord), by decide, _, rfl⟩

theorem test_slaveAnswer_2 :
    ∃ (s : State) (p : Fin 4) (o : _) (b : _), (let rd := o.isRead || o.cmd = 8 || o.cmd = 10
    s.live = true ∧
    (s.dev.fp p).cur = some o ∧
    o.k + 1 = o.cnt) ∧
    ∃ nx, exec (.slaveAnswer p (.accept b)) s = .next nx :=
  ⟨up fun d => d.modFp 1 fun x => { x with cur := some { (default : Own) with cmd := 3, cnt := 2, k := 1, got := [(4, false)] } }, 1, { (default : Own) with cmd := 3, cnt := 2, k := 1, got := [(4, false)] }, (⟨5, true⟩ : BusWord), by dsimp only; decide, _, rfl⟩

theorem test_slaveAnswer_3 :
    ∃ (s : State) (p : Fin 4) (o : _), (s.live = true ∧
    (s.dev.fp p).cur = some o) ∧
    ∃ nx, exec (.slaveAnswer p .reject) s = .next nx :=
  ⟨up fun d => d.modFp 1 fun x => { x with cur := some { (default : Own) with cmd := 3, cnt := 2 } }, 1, { (default : Own) with cmd := 3, cnt := 2 }, by decide, _, rfl⟩

theorem test_slaveAnswer_4 :
    ∃ (s : State) (p : Fin 4) (a : _), (s.live = true ∧
    (s.dev.fp p).cur = none ∧
    (s.dev.fp p).late = true) ∧
    ∃ nx, exec (.slaveAnswer p a) s = .next nx :=
  ⟨up fun d => d.modFp 1 fun x => { x with late := true }, 1, .retry, by decide, _, rfl⟩

theorem test_slaveAnswer_5 :
    ∃ (s : State) (p : Fin 4) (o : _), (s.live = true ∧
    (s.dev.fp p).cur = some o ∧
    o.retries < s.dev.f (F.fiuCfg_RTY_MAX p)) ∧
    ∃ nx, exec (.slaveAnswer p .retry) s = .next nx :=
  ⟨up fun d => (d.setF (F.fiuCfg_RTY_MAX 1) 5).modFp 1 fun x => { x with cur := some { (default : Own) with cmd := 3, cnt := 2 } }, 1, { (default : Own) with cmd := 3, cnt := 2 }, by decide, _, rfl⟩

theorem test_slaveAnswer_6 :
    ∃ (s : State) (p : Fin 4) (o : _) (src : Fin 17) (t : _), (s.live = true ∧
    (s.dev.fp p).cur = some o ∧
    o.isRead = true ∧
    o.k = 0) ∧
    ∃ nx, exec (.slaveAnswer p (.defer src t)) s = .next nx :=
  ⟨up fun d => d.modFp 1 fun x => { x with cur := some { (default : Own) with cmd := 3, cnt := 2 } }, 1, { (default : Own) with cmd := 3, cnt := 2 }, 4, (5 : Byte), by decide, _, rfl⟩

theorem test_answerTimeout :
    ∃ (s : State) (p : Fin 4) (o : _), (s.live = true ∧
    (s.dev.fp p).cur = some o) ∧
    ∃ nx, exec (.answerTimeout p) s = .next nx :=
  ⟨up fun d => d.modFp 1 fun x => { x with cur := some { (default : Own) with cmd := 3, cnt := 2 } }, 1, { (default : Own) with cmd := 3, cnt := 2 }, by decide, _, rfl⟩

theorem test_retryWaitExpiry :
    ∃ (s : State) (p : Fin 4) (o : _) (os : _), (s.live = true ∧
    (s.dev.fp p).wait = o :: os) ∧
    ∃ nx, exec (.retryWaitExpiry p) s = .next nx :=
  ⟨up fun d => d.modFp 1 fun x => { x with wait := [{ (default : Own) with cmd := 3, cnt := 2 }] }, 1, { (default : Own) with cmd := 3, cnt := 2 }, [], by decide, _, rfl⟩

theorem test_reply :
    ∃ (s : State) (p : Fin 4) (h : _) (ds : _) (r : _) (rest : _), (s.live = true ∧
    (s.dev.fpState p = 2 ∨ s.dev.fpState p = 4) ∧
    s.dev.fpDeaf p = false ∧
    bitsOf h.w 12 8 = s.dev.myCode p ∧
    h.bad = false ∧
    bitOf h.w 24 = false ∧
    (s.dev.fp p).deferred = r :: rest ∧
    r.tag = bitsOf h.w 7 0 ∧
    r.src = bitsOf h.w 17 13 ∧
    ds.all (fun b => !b.bad) = true) ∧
    ∃ nx, exec (.reply p h ds) s = .next nx :=
  ⟨up fun d => (d.setF (F.fiuStat_STATE 1) 2).modFp 1 fun x => { x with deferred := [⟨4, 7, { (default : Own) with cmd := 1, cnt := 1 }⟩] }, 1, (⟨mkW [(17, 13, 4), (12, 8, 16), (7, 0, 7)], false⟩ : BusWord), [⟨9, false⟩], ⟨4, 7, { (default : Own) with cmd := 1, cnt := 1 }⟩, [], by decide, _, rfl⟩

theorem test_deferTimeout :
    ∃ (s : State) (p : Fin 4) (src : Fin 17) (tag : _) (r : _) (rest : _), (s.live = true ∧
    (s.dev.fp p).deferred = r :: rest ∧
    r.tag = tag.toNat ∧
    r.src = src.val) ∧
    ∃ nx, exec (.deferTimeout p src tag) s = .next nx :=
  ⟨up fun d => d.modFp 1 fun x => { x with deferred := [⟨16, 7, { (default : Own) with cmd := 1, cnt := 1 }⟩] }, 1, 16, (7 : Byte), ⟨16, 7, { (default : Own) with cmd := 1, cnt := 1 }⟩, [], by decide, _, rfl⟩

theorem test_grantDecision_1 :
    ∃ (s : State) (p : Fin 4) (y : TwlIn), (let x := FiuPort.refill (s.dev.fp p)
    let rs := (List.range 16).filter (fun sl => nbit y.breq.toNat sl && s.dev.fb (F.fiuMod_EN p sl))
    s.live = true ∧
    s.dev.fpState p = 2 ∧
    s.dev.fb (F.fiuStat_HALT_IN p) = false ∧
    x.cur = none ∧
    x.granted = none ∧
    x.lock = none ∧
    x.segReset = none ∧
    x.closing = false ∧
    x.queue = [] ∧
    rs = []) ∧
    ∃ nx, exec (.grantDecision (.fiu p) y) s = .next nx :=
  ⟨up fun d => d.setF (F.fiuStat_STATE 1) 2, 1, (⟨0, [], []⟩ : TwlIn), by dsimp only; decide, _, rfl⟩

theorem test_grantDecision_2 :
    ∃ (s : State) (p : Fin 4) (y : TwlIn) (c : _) (aged : _), (let x := FiuPort.refill (s.dev.fp p)
    let rs := (List.range 16).filter (fun sl => nbit y.breq.toNat sl && s.dev.fb (F.fiuMod_EN p sl)) ++
      (if x.pick.isSome then [16] else [])
    let d0 := (s.dev.modFp p FiuPort.refill).modFp p fun x => { x with waits := x.waits.filter (fun w => rs.contains w.1) }
    let d1 := (if x.queue.countP (fun o => o.waited ≥ 1) ≥ 4 then d0.inc (F.fiuTwlReq_STALL p 16) 1 else d0).fiuBadSlot p
    let w := if c = 16 then (((d1.fp p).pick.bind ((d1.fp p).queue[·]?)).map (·.waited)).getD 0
      else (mget (d1.fp p).waits c).getD 0
    s.live = true ∧
    s.dev.fpState p = 2 ∧
    s.dev.fb (F.fiuStat_HALT_IN p) = false ∧
    x.cur = none ∧
    x.granted = none ∧
    x.lock = none ∧
    x.segReset = none ∧
    x.closing = false ∧
    d1.twillPick p rs = some (c, aged)) ∧
    ∃ nx, exec (.grantDecision (.fiu p) y) s = .next nx :=
  ⟨up fun d => (d.setF (F.fiuStat_STATE 1) 2).setF (F.fiuMod_EN 1 3) 1, 1, (⟨8, [], []⟩ : TwlIn), 3, false, by dsimp only; decide, _, rfl⟩

theorem test_grantDecision_3 :
    ∃ (s : State) (h : Fin 32) (y : TwlIn) (r : _), (let inst := 128 + h.val
    s.live = true ∧
    y.asked = [r] ∧
    y.gone = [] ∧
    r.code.val < 8 ∧
    (s.dev.twlOf inst).pend = []) ∧
    ∃ nx, exec (.grantDecision (.hbm h) y) s = .next nx :=
  ⟨up id, 5, (⟨0, [⟨3, true, false, 0⟩], []⟩ : TwlIn), ⟨3, true, false, 0⟩, by dsimp only; decide, _, rfl⟩

theorem test_headerAfterGrantMissed_1 :
    ∃ (s : State) (p : Fin 4) (c : _), (s.live = true ∧
    (s.dev.fp p).granted = some c) ∧
    ∃ nx, exec (.headerAfterGrantMissed (.fiu p)) s = .next nx :=
  ⟨up fun d => d.modFp 1 fun x => { x with granted := some 3 }, 1, 3, by decide, _, rfl⟩

theorem test_headerAfterGrantMissed_2 :
    ∃ (s : State) (a : _) (code : Fin 32) (rd : _) (g : _), (let inst := twlInstance a
    let dir := if twlKind a = 0 then bit rd else 0
    s.live = true ∧
    (s.dev.twlOf inst).ans.find? (fun x => x.granted && x.code == code.val && x.dir == dir) = some g) ∧
    ∃ nx, exec (.headerAfterGrantMissed (.store a code rd)) s = .next nx :=
  ⟨up fun d => d.modTwl 130 fun t => { t with ans := [⟨true, 4, 0, none⟩] }, .hbm 2, 4, true, ⟨true, 4, 0, none⟩, by dsimp only; decide, _, rfl⟩

theorem test_tenureTimeout :
    ∃ (s : State) (p : Fin 4), (s.live = true ∧
    s.dev.fpState p ≠ 0) ∧
    ∃ nx, exec (.tenureTimeout p) s = .next nx :=
  ⟨up fun d => d.setF (F.fiuStat_STATE 1) 2, 1, by decide, _, rfl⟩

theorem test_memberPortGrant :
    ∃ (s : State) (p : Fin 4), (s.live = true ∧
    s.dev.fpState p = 4 ∧
    s.dev.fb (F.fiuStat_HALT_IN p) = false ∧
    (s.dev.fp p).cur = none ∧
    (s.dev.fp p).closing = false) ∧
    ∃ nx, exec (.memberPortGrant p) s = .next nx :=
  ⟨up fun d => d.setF (F.fiuStat_STATE 1) 4, 1, by decide, _, rfl⟩

theorem test_headerOnSegment_1 :
    ∃ (s : State) (p : Fin 4) (src : Fin 17) (cmd : _) (a : BusWord), (s.live = true ∧
    s.dev.fpState p = 2 ∧
    s.dev.fpDeaf p = false ∧
    a.bad = false ∧
    cmd.toNat < 12 ∧
    cmd.toNat ≠ 5 ∧
    cmd.toNat ≠ 6) ∧
    ∃ nx, exec (.headerOnSegment p src cmd a) s = .next nx :=
  ⟨up fun d => d.setF (F.fiuStat_STATE 1) 2, 1, 3, (1 : BitVec 4), ⟨9, false⟩, by decide, _, rfl⟩

theorem test_headerOnSegment_2 :
    ∃ (s : State) (p : Fin 4) (src : Fin 17) (cmd : _) (a : BusWord), (s.live = true ∧
    s.dev.fpState p = 2 ∧
    s.dev.fpDeaf p = false ∧
    a.bad = true) ∧
    ∃ nx, exec (.headerOnSegment p src cmd a) s = .next nx :=
  ⟨up fun d => d.setF (F.fiuStat_STATE 1) 2, 1, 3, (1 : BitVec 4), ⟨9, true⟩, by decide, _, rfl⟩

theorem test_headerOnSegment_3 :
    ∃ (s : State) (p : Fin 4) (src : Fin 17) (a : BusWord), (s.live = true ∧
    s.dev.fpDeaf p = false ∧
    a.bad = false ∧
    (s.dev.fp p).lock = some (src.val, a.w, false)) ∧
    ∃ nx, exec (.headerOnSegment p src 6 a) s = .next nx :=
  ⟨up fun d => (d.setF (F.fiuStat_STATE 1) 2).modFp 1 fun x => { x with lock := some (3, 9, false) }, 1, 3, ⟨9, false⟩, by decide, _, rfl⟩

theorem test_lockWindowExpiry :
    ∃ (s : State) (p : Fin 4) (m : _) (a : _) (sl : _), (s.live = true ∧
    (s.dev.fp p).lock = some (m, a, sl)) ∧
    ∃ nx, exec (.lockWindowExpiry p) s = .next nx :=
  ⟨up fun d => d.modFp 1 fun x => { x with lock := some (3, 77, false) }, 1, 3, 77, false, by decide, _, rfl⟩

theorem test_irqService :
    ∃ (s : State) (p : Fin 4) (irq : _) (l : _) (sl : _) (rest : _), (let d1 := (s.dev.setF (F.fiuStat_IRQ_IN p) irq.toNat).modFp p fun x => { x with
      pass := x.pass.filter (fun q => nbit irq.toNat q.1) }
    s.live = true ∧
    s.dev.fpState p = 2 ∧
    [7, 6, 5, 4, 3, 2, 1, 0].find? (fun l =>
      nbit irq.toNat l && s.dev.f (F.fiuIrqMap_SLOTS p l) ≠ 0 && !nbit (s.dev.fp p).holdoff l) = some l ∧
    d1.irqOrder p l = sl :: rest ∧
    mget (d1.fp p).pass l ≤ rest.length ∧
    (s.dev.fp p).iacking = false ∧
    (s.dev.fp p).msgs.length < 16 ∧
    (s.dev.fp p).nFill < 16 ∧
    (s.dev.fp p).closing = false) ∧
    ∃ nx, exec (.irqService p irq) s = .next nx :=
  ⟨up fun d => (d.setF (F.fiuStat_STATE 1) 2).setF (F.fiuIrqMap_SLOTS 1 5) 8, 1, (32 : BitVec 8), 5, 3, [], by dsimp only; decide, _, rfl⟩

theorem test_strayHoldoffExpiry :
    ∃ (s : State) (p : Fin 4) (l : Fin 8), (s.live = true) ∧
    ∃ nx, exec (.strayHoldoffExpiry p l) s = .next nx :=
  ⟨up fun d => d.modFp 1 fun x => { x with holdoff := 4 }, 1, 2, by decide, _, rfl⟩

theorem test_haltChange :
    ∃ (s : State) (p : Fin 4) (lv : _), (s.live = true ∧
    s.dev.haltOwn p = false ∧
    s.dev.fb (F.fiuStat_HALT_IN p) = !lv ∧
    s.dev.msgOn p 9 = false) ∧
    ∃ nx, exec (.haltChange p lv) s = .next nx :=
  ⟨up id, 1, true, by decide, _, rfl⟩

theorem test_syncPeriodic :
    ∃ (s : State) (p : Fin 4), (s.live = true ∧
    s.dev.fpState p = 2 ∧
    s.dev.f (F.fiuSyncCfg_MODE p) = 1 ∧
    s.dev.now % 2 ^ 36 * 1000 / 2 ^ 36 % Nat.min 1000 (Nat.max 1 (s.dev.f (F.fiuSyncCfg_PERIOD p))) = 0) ∧
    ∃ nx, exec (.syncPeriodic p) s = .next nx :=
  ⟨up fun d => (d.setF (F.fiuStat_STATE 1) 2).setF (F.fiuSyncCfg_MODE 1) 1, 1, by decide, _, rfl⟩

theorem test_syncEdge :
    ∃ (s : State) (p : Fin 4), (s.live = true ∧
    s.dev.fpState p ≠ 0) ∧
    ∃ nx, exec (.syncEdge p) s = .next nx :=
  ⟨up fun d => d.setF (F.fiuStat_STATE 1) 2, 1, by decide, _, rfl⟩

theorem test_rstSampled :
    ∃ (s : State) (p : Fin 4), (s.live = true) ∧
    ∃ nx, exec (.rstSampled p) s = .next nx :=
  ⟨up fun d => d.setF (F.fiuStat_STATE 1) 2, 1, by decide, _, rfl⟩

theorem test_segResetDone :
    ∃ (s : State) (p : Fin 4) (m : _), (s.live = true ∧
    (s.dev.fp p).segReset = some m ∧
    (s.dev.fp p).rstOut = true) ∧
    ∃ nx, exec (.segResetDone p) s = .next nx :=
  ⟨up fun d => d.modFp 1 fun x => { x with segReset := some (some 4), rstOut := true }, 1, some 4, by decide, _, rfl⟩

theorem test_modulePresence :
    ∃ (s : State) (p : Fin 4) (sl : Fin 16), (s.live = true ∧
    s.dev.fpState p = 2 ∧
    (s.dev.fb (F.fiuMod_PRESENT p sl) = false ∨ (s.dev.fp p).represent.contains sl.val = true) ∧
    (s.dev.fp p).own = []) ∧
    ∃ nx, exec (.modulePresence p sl) s = .next nx :=
  ⟨up fun d => d.setF (F.fiuStat_STATE 1) 2, 1, 3, by decide, _, rfl⟩

theorem test_presenceRetry :
    ∃ (s : State) (p : Fin 4) (sl : Fin 16), (s.live = true ∧
    s.dev.fpState p = 2 ∧
    (s.dev.fb (F.fiuMod_PRESENT p sl) = false ∨ (s.dev.fp p).represent.contains sl.val = true) ∧
    (s.dev.fp p).own = []) ∧
    ∃ nx, exec (.presenceRetry p sl) s = .next nx :=
  ⟨up fun d => d.setF (F.fiuStat_STATE 1) 2, 1, 3, by decide, _, rfl⟩

theorem test_slotPoll :
    ∃ (s : State) (p : Fin 4) (sl : Fin 16), (s.live = true ∧
    s.dev.fpState p = 2 ∧
    s.dev.fb (F.fiuMod_PRESENT p sl) = true) ∧
    ∃ nx, exec (.slotPoll p sl) s = .next nx :=
  ⟨up fun d => (d.setF (F.fiuStat_STATE 1) 2).setF (F.fiuMod_PRESENT 1 3) 1, 1, 3, by decide, _, rfl⟩

theorem test_slotRemovalComplete :
    ∃ (s : State) (p : Fin 4) (sl : Fin 16), (s.live = true ∧
    (s.dev.fp p).removing.contains sl.val = true ∧
    ((s.dev.fp p).deferred.any fun r => r.src == sl.val) = false ∧
    (s.dev.fp p).tags = []) ∧
    ∃ nx, exec (.slotRemovalComplete p sl) s = .next nx :=
  ⟨up fun d => d.modFp 1 fun x => { x with removing := [3] }, 1, 3, by decide, _, rfl⟩

theorem test_geoRead_1 :
    ∃ (s : State) (p : Fin 4) (sl : Fin 16) (off : _), (s.live = true ∧
    s.dev.isMember p sl = true ∧
    off.toNat < 3) ∧
    ∃ nx, exec (.geoRead p sl ⟨off, false⟩) s = .next nx :=
  ⟨up fun d => (d.setF (F.fiuStat_STATE 1) 4).modFp 1 fun x => { x with mySlot := 3 }, 1, 3, (2 : BitVec 12), by decide, _, rfl⟩

theorem test_geoRead_2 :
    ∃ (s : State) (p : Fin 4) (sl : Fin 16) (off : _), (s.live = true ∧
    s.dev.isMember p sl = true) ∧
    ∃ nx, exec (.geoRead p sl ⟨off, true⟩) s = .next nx :=
  ⟨up fun d => (d.setF (F.fiuStat_STATE 1) 4).modFp 1 fun x => { x with mySlot := 3 }, 1, 3, (2 : BitVec 12), by decide, _, rfl⟩

theorem test_geoWrite :
    ∃ (s : State) (p : Fin 4) (sl : Fin 16) (off : _) (w : BusWord), (s.live = true ∧
    s.dev.isMember p sl = true ∧
    w.bad = false) ∧
    ∃ nx, exec (.geoWrite p sl ⟨off, false⟩ w) s = .next nx :=
  ⟨up fun d => (d.setF (F.fiuStat_STATE 1) 4).modFp 1 fun x => { x with mySlot := 3 }, 1, 3, (2 : BitVec 12), ⟨1, false⟩, by decide, _, rfl⟩

theorem test_bcastWrite :
    ∃ (s : State) (p : Fin 4) (off : _) (w : BusWord), (s.live = true ∧
    (s.dev.fpState p = 3 ∨ s.dev.fpState p = 4) ∧
    s.dev.fpDeaf p = false ∧
    w.bad = false) ∧
    ∃ nx, exec (.bcastWrite p ⟨off, false⟩ w) s = .next nx :=
  ⟨up fun d => d.setF (F.fiuStat_STATE 1) 3, 1, (2 : BitVec 12), ⟨1, false⟩, by decide, _, rfl⟩

theorem test_iack :
    ∃ (s : State) (p : Fin 4) (sl : Fin 16) (l : Fin 8), (let d1 := s.dev.headerSeen p 8
    s.live = true ∧
    s.dev.fpState p = 4 ∧
    s.dev.isMember p sl = true ∧
    d1.fb F.brgCfg_MIRQ = true ∧
    nbit (d1.fp p).ctl 4 = true ∧
    (d1.fp p).ctl / 2 % 8 = l.val ∧
    d1.memberIrq p ≠ 0) ∧
    ∃ nx, exec (.iack p sl ⟨l, false⟩) s = .next nx :=
  ⟨up fun d => (((d.setF (F.fiuStat_STATE 1) 4).setF F.brgCfg_MIRQ 1).modMb 14 fun m => { m with rsp := [1] }).modFp 1 fun x => { x with mySlot := 3, ctl := 16 + 10 }, 1, 3, 5, by dsimp only; decide, _, rfl⟩

theorem test_monitorEnd_1 :
    ∃ (s : State) (p : Fin 4), (s.live = true ∧
    s.dev.fpState p = 1) ∧
    ∃ nx, exec (.monitorEnd p true) s = .next nx :=
  ⟨up fun d => d.setF (F.fiuStat_STATE 1) 1, 1, by decide, _, rfl⟩

theorem test_monitorEnd_2 :
    ∃ (s : State) (p : Fin 4), (s.live = true ∧
    s.dev.fpState p = 1 ∧
    (s.dev.fp p).noRst = true) ∧
    ∃ nx, exec (.monitorEnd p false) s = .next nx :=
  ⟨up fun d => (d.setF (F.fiuStat_STATE 1) 1).modFp 1 fun x => { x with noRst := true }, 1, by decide, _, rfl⟩

theorem test_monitorEnd_3 :
    ∃ (s : State) (p : Fin 4), (s.live = true ∧
    s.dev.fpState p = 1 ∧
    (s.dev.fp p).noRst = false) ∧
    ∃ nx, exec (.monitorEnd p false) s = .next nx :=
  ⟨up fun d => d.setF (F.fiuStat_STATE 1) 1, 1, by decide, _, rfl⟩

theorem test_read_1 :
    ∃ (s : State) (p : Fin 4) (src : Fin 17) (a : _) (w : _) (o : _) (i : _), (s.live = true ∧
    s.dev.readOpen p src 1 a 1 w o i = true) ∧
    ∃ nx, exec (.read p src a) s = .next nx :=
  ⟨up fun d => ((((d.setF (F.fiuSlvBase_BASE 1) 0).setF (F.fiuStat_STATE 1) 2).setF (F.fiuSlvBase_EN 1) 1).setReg (R.brgIwinCfg 1 0) (2 ^ 36 - 1)).setF (F.brgIwinCfg_XLT 1 0) 0, 1, 3, ⟨0x1000005, false⟩, 0, 5, 0, by decide, _, rfl⟩

theorem test_read_2 :
    ∃ (s : State) (p : Fin 4) (src : Fin 17) (a : BusWord) (off : _), (let d1 := (s.dev.headerSeen p 1).holdDrop p src 1 (.reg off) a.w 1
    s.live = true ∧
    s.dev.inTarget p a.w.toNat = .reg off ∧
    a.bad = false ∧
    d1.regRefused (fiuPath p) off = false) ∧
    ∃ nx, exec (.read p src a) s = .next nx :=
  ⟨up fun d => ((((d.setF (F.fiuSlvBase_BASE 1) 0).setF (F.fiuStat_STATE 1) 2).setF (F.fiuSlvBase_EN 1) 1).setF (F.fiuMod_EN 1 3) 1), 1, 3, ⟨0, false⟩, 0, by dsimp only; decide, _, rfl⟩

theorem test_blockRead :
    ∃ (s : State) (p : Fin 4) (src : Fin 17) (a : _) (c : Fin 64) (w : _) (o : _) (i : _), (s.live = true ∧
    s.dev.readOpen p src 3 a (c.val + 1) w o i = true) ∧
    ∃ nx, exec (.blockRead p src a c) s = .next nx :=
  ⟨up fun d => ((((d.setF (F.fiuSlvBase_BASE 1) 0).setF (F.fiuStat_STATE 1) 2).setF (F.fiuSlvBase_EN 1) 1).setReg (R.brgIwinCfg 1 0) (2 ^ 36 - 1)).setF (F.brgIwinCfg_XLT 1 0) 0, 1, 3, ⟨0x1000005, false⟩, 7, 0, 5, 0, by decide, _, rfl⟩

theorem test_lockRead :
    ∃ (s : State) (p : Fin 4) (src : Fin 17) (a : _) (w : _) (o : _) (i : _), (let d1 := s.dev.headerSeen p 5
    s.live = true ∧
    s.dev.readOpen p src 5 a 1 w o i = true ∧
    d1.lockable (d1.inLys p w o).1 (d1.inLys p w o).2 = true) ∧
    ∃ nx, exec (.lockRead p src a) s = .next nx :=
  ⟨up fun d => ((((d.setF (F.fiuSlvBase_BASE 1) 0).setF (F.fiuStat_STATE 1) 2).setF (F.fiuSlvBase_EN 1) 1).setReg (R.brgIwinCfg 1 0) (2 ^ 36 - 1)).setF (F.brgIwinCfg_XLT 1 0) 0, 1, 3, ⟨0x1000005, false⟩, 0, 5, 0, by dsimp only; decide, _, rfl⟩

theorem test_write :
    ∃ (s : State) (p : Fin 4) (src : Fin 17) (a : _) (b : _) (w : _) (o : _) (l : _), (let d1 := s.dev.headerSeen p 2
    s.live = true ∧
    s.dev.winOpen p 2 a 1 w o = true ∧
    d1.takeWords p (d1.inLys p w o).1 (d1.inLys p w o).2 (d1.f (F.brgIwinCfg_WIDTH p w)) [b] = (l, none)) ∧
    ∃ nx, exec (.write p src a b) s = .next nx :=
  ⟨up fun d => (((((d.setF (F.fiuSlvBase_BASE 1) 0).setF (F.fiuStat_STATE 1) 2).setF (F.fiuSlvBase_EN 1) 1).setReg (R.brgIwinCfg 1 0) (2 ^ 36 - 1)).setF (F.brgIwinCfg_XLT 1 0) 0).setF (F.brgIwinBase_BASE 1 0) 0x20000, 1, 3, ⟨0x1000005, false⟩, ⟨7, false⟩, 0, 5, [(0x200005, widthW 3 7)], by dsimp only; decide, _, rfl⟩

theorem test_blockWrite :
    ∃ (s : State) (p : Fin 4) (src : Fin 17) (a : _) (ds : _) (w : _) (o : _) (l : _), (let d1 := s.dev.headerSeen p 4
    s.live = true ∧
    s.dev.winOpen p 4 a ds.length w o = true ∧
    ds ≠ [] ∧
    ds.length ≤ 64 ∧
    d1.takeWords p (d1.inLys p w o).1 (d1.inLys p w o).2 (d1.f (F.brgIwinCfg_WIDTH p w)) ds = (l, none)) ∧
    ∃ nx, exec (.blockWrite p src a ds) s = .next nx :=
  ⟨up fun d => (((((d.setF (F.fiuSlvBase_BASE 1) 0).setF (F.fiuStat_STATE 1) 2).setF (F.fiuSlvBase_EN 1) 1).setReg (R.brgIwinCfg 1 0) (2 ^ 36 - 1)).setF (F.brgIwinCfg_XLT 1 0) 0).setF (F.brgIwinBase_BASE 1 0) 0x20000, 1, 3, ⟨0x1000005, false⟩, [⟨7, false⟩, ⟨8, false⟩], 0, 5, [(0x200005, widthW 3 7), (0x200006, widthW 3 8)], by dsimp only; decide, _, rfl⟩

theorem test_lockWrite_1 :
    ∃ (s : State) (p : Fin 4) (src : Fin 17) (a : BusWord) (b : BusWord) (w : _) (o : _) (i : _) (r : _), (s.live = true ∧
    s.dev.inTarget p a.w.toNat = .win w o ∧
    (s.dev.fp p).lock = some (src.val, a.w, true) ∧
    s.dev.pairOf p = some (i, r) ∧
    a.bad = false ∧
    b.bad = false ∧
    s.dev.inLys p w o = (r.lys, r.tweed) ∧
    s.dev.winRefused p w o 1 6 = false) ∧
    ∃ nx, exec (.lockWrite p src a b) s = .next nx :=
  ⟨up fun d => ((((((d.setF (F.fiuSlvBase_BASE 1) 0).setF (F.fiuStat_STATE 1) 2).setF (F.fiuSlvBase_EN 1) 1).setReg (R.brgIwinCfg 1 0) (2 ^ 36 - 1)).setF (F.brgIwinCfg_XLT 1 0) 0).setF (F.brgIwinBase_BASE 1 0) 0x20000).modFp 1 fun x => { x with lock := some (3, 0x1000005, true), tags := mset x.tags 4 (some { (default : InRead) with ans := 5, src := 3, lys := 0x200005 }) }, 1, 3, ⟨0x1000005, false⟩, ⟨7, false⟩, 0, 5, 4, { (default : InRead) with ans := 5, src := 3, lys := 0x200005 }, by decide, _, rfl⟩

theorem test_lockWrite_2 :
    ∃ (s : State) (p : Fin 4) (src : Fin 17) (a : BusWord) (b : BusWord) (w : _) (o : _), (s.live = true ∧
    s.dev.inTarget p a.w.toNat = .win w o ∧
    a.bad = false ∧
    s.dev.pairNamed p src a (.win w o) = none ∧
    (s.dev.headerSeen p 6).winRefused p w o 1 6 = true) ∧
    ∃ nx, exec (.lockWrite p src a b) s = .next nx :=
  ⟨up fun d => ((((d.setF (F.fiuSlvBase_BASE 1) 0).setF (F.fiuStat_STATE 1) 2).setF (F.fiuSlvBase_EN 1) 1).setReg (R.brgIwinCfg 1 0) (2 ^ 36 - 1)).setF (F.brgIwinCfg_LOCK_EN 1 0) 0, 1, 3, ⟨0x1000005, false⟩, ⟨7, false⟩, 0, 5, by decide, _, rfl⟩

theorem test_immEdge :
    ∃ (s : State) (p : Fin 4) (t : Fin 64) (r : _), (s.live = true ∧
    s.dev.inRead p t = some r ∧
    r.ans = 0 ∧
    r.cmd ≠ 5) ∧
    ∃ nx, exec (.immEdge p t) s = .next nx :=
  ⟨up fun d => d.setRead 1 4 { (default : InRead) with src := 16, cmd := 1 }, 1, 4, { (default : InRead) with src := 16, cmd := 1 }, by decide, _, rfl⟩

theorem test_edge96 :
    ∃ (s : State) (p : Fin 4) (src : Fin 17) (h : _), (s.live = true ∧
    (s.dev.fp p).held = some h ∧
    h.src = src.val) ∧
    ∃ nx, exec (.edge96 p src) s = .next nx :=
  ⟨up fun d => d.modFp 1 fun x => { x with held := some ⟨3, false, [(5, 6)], none⟩ }, 1, 3, ⟨3, false, [(5, 6)], none⟩, by decide, _, rfl⟩

theorem test_bridgeReadCompletion_1 :
    ∃ (s : State) (p : Fin 4) (t : Fin 64) (st : _) (ds : _) (r : _) (ws : _) (stn : _), (let d := s.dev.brgSettle
    s.live = true ∧
    d.inRead p t = some r ∧
    r.data = some (stn, ws) ∧
    (r.ans = 0 ∨ r.ans = 3)) ∧
    ∃ nx, exec (.bridgeReadCompletion p t st ds) s = .next nx :=
  ⟨up fun d => d.setRead 1 4 { (default : InRead) with src := 3, cmd := 1, data := some (0, [(7, false)]) }, 1, 4, CplStatus.ok, ([] : List BusWord), { (default : InRead) with src := 3, cmd := 1, data := some (0, [(7, false)]) }, [(7, false)], 0, by dsimp only; decide, _, rfl⟩

theorem test_bridgeReadCompletion_2 :
    ∃ (s : State) (p : Fin 4) (t : Fin 64) (st : _) (ds : _) (r : _) (ws : _) (stn : _), (let d := s.dev.brgSettle
    s.live = true ∧
    d.inRead p t = some r ∧
    r.data = some (stn, ws) ∧
    r.ans = 1 ∧
    (d.fp p).replying t = false) ∧
    ∃ nx, exec (.bridgeReadCompletion p t st ds) s = .next nx :=
  ⟨up fun d => d.setRead 1 4 { (default : InRead) with src := 3, cmd := 1, ans := 1, data := some (0, [(7, false)]) }, 1, 4, CplStatus.ok, ([] : List BusWord), { (default : InRead) with src := 3, cmd := 1, ans := 1, data := some (0, [(7, false)]) }, [(7, false)], 0, by dsimp only; decide, _, rfl⟩

theorem test_retryHoldExpiry :
    ∃ (s : State) (p : Fin 4) (sl : Fin 17) (i : _) (r : _), (s.live = true ∧
    s.dev.holdOf p sl = some (i, r)) ∧
    ∃ nx, exec (.retryHoldExpiry p sl) s = .next nx :=
  ⟨up fun d => d.setRead 1 4 { (default : InRead) with src := 3, cmd := 1, ans := 2 }, 1, 3, 4, { (default : InRead) with src := 3, cmd := 1, ans := 2 }, by decide, _, rfl⟩

theorem test_bridgeMsgDelivery :
    ∃ (s : State) (p : Fin 4) (m : _) (ms : _), (s.live = true ∧
    (s.dev.fp p).msgs = m :: ms ∧
    (m.ahead.all fun k => (s.dev.fp p).posted.all fun w => w.num != k) = true) ∧
    ∃ nx, exec (.bridgeMsgDelivery p) s = .next nx :=
  ⟨up fun d => ((d.setF (F.brgMsg_PKT 1) 1).setF F.rteGen_FIXED 1).modFp 1 fun x => { x with msgs := [⟨5, 6, []⟩] }, 1, ⟨5, 6, []⟩, [], by decide, _, rfl⟩

theorem test_fiuAccess :
    ∃ (s : State) (n : Mbx) (wr : _) (w : _) (c : _) (ofs : _), (let p := s.dev.f (F.brgOwinCfg_PORT w)
    let len := if wr then c + 2 else 2
    s.served n 0x710 len = true ∧
    bitOf (s.dev.arg n 1) 35 = wr ∧
    bitsOf (s.dev.arg n 1) 19 16 = w ∧
    bitsOf (s.dev.arg n 1) 5 0 + 1 = c ∧
    bitsOf (s.dev.arg n 1) 34 20 = 0 ∧
    bitsOf (s.dev.arg n 1) 15 6 = 0 ∧
    (s.dev.arg n 2).toNat = ofs ∧
    ofs < 2 ^ 26 ∧
    s.dev.fb (F.brgOwinCfg_EN w) = true ∧
    ofs + c ≤ s.dev.f (F.brgOwinCfg_LIMIT w) + 1 ∧
    s.dev.fiuAcc n = none ∧
    (s.dev.fpState p = 2 ∨ s.dev.fpState p = 4)) ∧
    ∃ nx, exec (.fiuAccess n) s = .next nx :=
  ⟨cmd 0x710 [mkW [(35, 35, 1), (19, 16, 2), (5, 0, 1)], 9, 7, 8] fun d => ((d.setF (F.fiuStat_STATE 0) 2).setF (F.brgOwinCfg_EN 2) 1).setF (F.brgOwinCfg_LIMIT 2) 100, 0, true, 2, 2, 9, by dsimp only; decide, _, rfl⟩

theorem test_fiuResult :
    ∃ (s : State) (n : Mbx) (r : _), (s.served n 0x711 1 = true ∧
    bitsOf (s.dev.arg n 1) 35 12 = 0 ∧
    s.dev.fiuAcc (16 + bitsOf (s.dev.arg n 1) 11 8) = some r ∧
    r.seq = bitsOf (s.dev.arg n 1) 7 0) ∧
    ∃ nx, exec (.fiuResult n) s = .next nx :=
  ⟨cmd 0x711 [mkW [(11, 8, 3), (7, 0, 9)]] fun d => { d with acc := mset d.acc 19 (some { (default : FiuAcc) with seq := 9, deferred := true }) }, 0, { (default : FiuAcc) with seq := 9, deferred := true }, by decide, _, rfl⟩

theorem test_fiuAccessTimeLimit :
    ∃ (s : State) (n : Mbx) (a : _), (s.live = true ∧
    s.dev.fiuAcc n = some a ∧
    a.deferred = false) ∧
    ∃ nx, exec (.fiuAccessTimeLimit n) s = .next nx :=
  ⟨fw fun d => { d with acc := mset d.acc 3 (some { (default : FiuAcc) with cnt := 2 }) }, 3, { (default : FiuAcc) with cnt := 2 }, by decide, _, rfl⟩

theorem test_hostWideRead :
    ∃ (s : State) (off : BitVec 29) (be : _), (s.live = true ∧
    off.toNat < 0x7FE000) ∧
    ∃ nx, exec (.hostWideRead false off be) s = .next nx :=
  ⟨up id, (5 : BitVec 29), (31 : BitVec 8), by decide, _, rfl⟩

theorem test_hostPartialWrite :
    ∃ (s : State) (off : BitVec 29) (be : BitVec 8) (data : _), (s.live = true ∧
    off.toNat < 0x7FE000 ∧
    be.toNat % 32 = 31) ∧
    ∃ nx, exec (.hostPartialWrite false off be data) s = .next nx :=
  ⟨up id, (0x40 : BitVec 29), (31 : BitVec 8), (77 : BitVec 64), by decide, _, rfl⟩

theorem test_bar2Request_1 :
    ∃ (s : State) (addr : BitVec 32) (len : Fin 4097) (bs : _), (s.live = true ∧
    s.dev.fb F.pciBar2Ctl_MODE = true ∧
    addr.toNat + len.val ≤ 0x90000000) ∧
    ∃ nx, exec (.bar2Request addr len (some bs)) s = .next nx :=
  ⟨up fun d => d.setF F.pciBar2Ctl_MODE 1, (9 : BitVec 32), 9, [1, 2, 3, 4, 5, 6, 7, 8, 9], by decide, _, rfl⟩

theorem test_bar2Request_2 :
    ∃ (s : State) (addr : BitVec 32) (len : Fin 4097), (s.live = true ∧
    s.dev.fb F.pciBar2Ctl_MODE = true ∧
    0 < len.val ∧
    addr.toNat + len.val ≤ 0x90000000) ∧
    ∃ nx, exec (.bar2Request addr len none) s = .next nx :=
  ⟨up fun d => d.setF F.pciBar2Ctl_MODE 1, (9 : BitVec 32), 12, by decide, _, rfl⟩

theorem test_routeSet :
    ∃ (s : State) (n : Mbx) (ep : _), (s.served n 0x712 3 = true ∧
    (s.dev.arg n 1).toNat = ep ∧
    ep < 2 ^ 20 ∧
    s.dev.stagedFor ep = none ∧
    s.dev.rteBad (s.dev.arg n 2) (s.dev.arg n 3) = false) ∧
    ∃ nx, exec (.routeSet n) s = .next nx :=
  ⟨cmd 0x712 [7, 0, 0] id, 0, 7, by decide, _, rfl⟩

theorem test_routeStage :
    ∃ (s : State) (n : Mbx) (k : _), (let body := s.dev.stageBody n k
    let l := (body.map (·.2)).foldl stageOne s.dev.rte.staged
    s.served n 0x713 (1 + 3 * k) = true ∧
    0 < k ∧
    (s.dev.arg n 1).toNat = k ∧
    s.dev.f F.rteGen_STATE ≠ 3 ∧
    (body.all fun x => bitsOf x.1 35 20 == 0 && !s.dev.rteBad x.2.x0 x.2.x1) = true ∧
    l.length ≤ 8192) ∧
    ∃ nx, exec (.routeStage n) s = .next nx :=
  ⟨cmd 0x713 [1, 7, 0, 0] id, 0, 1, by dsimp only; decide, _, rfl⟩

theorem test_routeCommit :
    ∃ (s : State) (n : Mbx), (s.served n 0x714 0 = true ∧
    (s.dev.f F.rteGen_STATE = 1 ∨ s.dev.f F.rteGen_STATE = 2)) ∧
    ∃ nx, exec (.routeCommit n) s = .next nx :=
  ⟨cmd 0x714 [] fun d => d.setF F.rteGen_STATE 1, 0, by decide, _, rfl⟩

theorem test_routeFixed :
    ∃ (s : State) (n : Mbx) (m : _), (s.served n 0x715 1 = true ∧
    (s.dev.arg n 1).toNat = m ∧
    (m = 0 ∨ m = 1 ∧ s.dev.fixedUsed = false)) ∧
    ∃ nx, exec (.routeFixed n) s = .next nx :=
  ⟨cmd 0x715 [1] id, 0, 1, by decide, _, rfl⟩

theorem test_routeSwitchFinal :
    ∃ (s : State) (ers : _), (s.live = true ∧
    s.dev.rte.ers = some ers ∧
    later 72 s.dev.now ((ers + 2 ^ 36) % 2 ^ 72) = true) ∧
    ∃ nx, exec .routeSwitchFinal s = .next nx :=
  ⟨up fun d => ({ d with rte := { d.rte with staged := [⟨7, 5, 6⟩], ers := some 3 } } : Dev).setNow (2 ^ 40), 3, by decide, _, rfl⟩

theorem test_routePacket_1 :
    ∃ (s : State) (c : Fin 64) (q : Fin 128), (let u := s.dev.qu c q
    let pk := s.dev.popPkt c q u.firstPkt.1 [] none
    s.live = true ∧
    s.dev.fb (F.cluQcfg_EN c q) = true ∧
    s.dev.qPkt c q = true ∧
    u.rdIn = false ∧
    u.abort = none ∧
    u.firstPkt.2 = true ∧
    s.dev.routeWaits pk.1 = false) ∧
    ∃ nx, exec (.routePacket (.queue c q)) s = .next nx :=
  ⟨up fun d => (((d.setReg (R.cluQcfg 0 5) (2 ^ 36 - 1)).qPush 0 5 0 (tagged 3 7) none).qPush 0 5 0 (tagged 4 0) none), 0, 5, by dsimp only; decide, _, rfl⟩

theorem test_routePacket_2 :
    ∃ (s : State) (n : Fin 16) (ws : _), (s.live = true ∧
    s.dev.recPacket n = some ws ∧
    s.dev.routeWaits ws = false) ∧
    ∃ nx, exec (.routePacket (.record n)) s = .next nx :=
  ⟨up fun d => d.modTrg 2 fun x => { x with recs := [⟨0, 0, 2, true, [], 0, 0, 1⟩] }, 2, [0, 0], by decide, _, rfl⟩

theorem test_routePacket_3 :
    ∃ (s : State) (p : Fin 4) (k : _) (rest : _), (s.live = true ∧
    (s.dev.fp p).pkts = k :: rest ∧
    s.dev.routeWaits k.ws = false) ∧
    ∃ nx, exec (.routePacket (.message p)) s = .next nx :=
  ⟨up fun d => d.modFp 1 fun x => { x with pkts := [⟨[1, 2], some 5⟩] }, 1, ⟨[1, 2], some 5⟩, [], by decide, _, rfl⟩

theorem test_routePacket_4 :
    ∃ (s : State) (ws : _) (rest : _), (s.live = true ∧
    s.dev.rte.rx = ws :: rest ∧
    s.dev.routeWaits ws = false) ∧
    ∃ nx, exec (.routePacket .lysith) s = .next nx :=
  ⟨up fun d => { d with rte := { d.rte with rx := [[1, 2]] } }, [1, 2], [], by decide, _, rfl⟩

theorem test_routePacket_5 :
    ∃ (s : State) (k : Fin 16) (x : _) (rest : _), (s.live = true ∧
    (mget s.dev.pwr.loopIn k.val).pkts = x :: rest ∧
    s.dev.routeWaits x.ws = false) ∧
    ∃ nx, exec (.routePacket (.loopIn k)) s = .next nx :=
  ⟨up fun d => { d with pwr := { d.pwr with loopIn := mset d.pwr.loopIn 3 { (default : LoopIn) with pkts := [⟨[1, 2], some 5⟩] } } }, 3, ⟨[1, 2], some 5⟩, [], by decide, _, rfl⟩

theorem test_rdS :
    ∃ (s : State) (a : BitVec 13) (tag : Byte) (line : BitVec 40), (let m : CMsg := { code := 1, addr := lineOf line, mask := 0xFFFF }
    s.live = true ∧
    s.dev.mayIssue a.toNat tag.toNat m = true) ∧
    ∃ nx, exec (.rdS a tag line) s = .next nx :=
  ⟨up id, (64 : BitVec 13), (3 : Byte), (0x200000010 : BitVec 40), by dsimp only; decide, _, rfl⟩

theorem test_rdX :
    ∃ (s : State) (a : BitVec 13) (tag : Byte) (line : BitVec 40), (let m : CMsg := { code := 2, addr := lineOf line, mask := 0xFFFF }
    s.live = true ∧
    s.dev.mayIssue a.toNat tag.toNat m = true) ∧
    ∃ nx, exec (.rdX a tag line) s = .next nx :=
  ⟨up id, (64 : BitVec 13), (3 : Byte), (0x200000010 : BitVec 40), by dsimp only; decide, _, rfl⟩

theorem test_naRd :
    ∃ (s : State) (a : BitVec 13) (tag : Byte) (addr : BitVec 40) (c : Fin 17), (let m : CMsg := { code := 3, addr := addr.toNat, mask := lineMask (addr.toNat % 16) c }
    s.live = true ∧
    s.dev.mayIssue a.toNat tag.toNat m = true) ∧
    ∃ nx, exec (.naRd a tag addr c) s = .next nx :=
  ⟨up id, (64 : BitVec 13), (3 : Byte), (0x200000013 : BitVec 40), 2, by dsimp only; decide, _, rfl⟩

theorem test_rdNc :
    ∃ (s : State) (a : BitVec 13) (tag : Byte) (addr : BitVec 40) (c : Fin 17), (let m : CMsg := { code := 4, addr := addr.toNat, mask := lineMask (addr.toNat % 16) c }
    s.live = true ∧
    s.dev.mayIssue a.toNat tag.toNat m = true) ∧
    ∃ nx, exec (.rdNc a tag addr c) s = .next nx :=
  ⟨up id, (64 : BitVec 13), (3 : Byte), (0x200000013 : BitVec 40), 2, by dsimp only; decide, _, rfl⟩

theorem test_wrNc :
    ∃ (s : State) (a : BitVec 13) (tag : Byte) (line : BitVec 40) (mask : BitVec 16) (ws : _), (let m : CMsg := { code := 9, addr := lineOf line, mask := mask.toNat, ws := maskFill mask.toNat ws }
    s.live = true ∧
    s.dev.mayIssue a.toNat tag.toNat m = true) ∧
    ∃ nx, exec (.wrNc a tag line mask ws) s = .next nx :=
  ⟨up id, (64 : BitVec 13), (3 : Byte), (0x200000010 : BitVec 40), (6 : BitVec 16), [7, 8], by dsimp only; decide, _, rfl⟩

theorem test_acc36 :
    ∃ (s : State) (a : BitVec 13) (tag : Byte) (line : BitVec 40) (mask : BitVec 16) (ws : _), (let m : CMsg := { code := 5, sub := 0, addr := lineOf line, mask := mask.toNat, ws := maskFill mask.toNat ws }
    s.live = true ∧
    s.dev.mayIssue a.toNat tag.toNat m = true) ∧
    ∃ nx, exec (.acc36 a tag line mask ws) s = .next nx :=
  ⟨up id, (64 : BitVec 13), (3 : Byte), (0x200000010 : BitVec 40), (6 : BitVec 16), [7, 8], by dsimp only; decide, _, rfl⟩

theorem test_lockRd :
    ∃ (s : State) (a : BitVec 13) (tag : Byte) (line : BitVec 40) (p : Fin 4), (let m : CMsg := { code := 6, sub := p, addr := lineOf line, mask := 0xFFFF }
    s.live = true ∧
    s.dev.mayIssue a.toNat tag.toNat m = true) ∧
    ∃ nx, exec (.lockRd a tag line p) s = .next nx :=
  ⟨up id, (64 : BitVec 13), (3 : Byte), (0x200000010 : BitVec 40), 1, by dsimp only; decide, _, rfl⟩

theorem test_lockWr :
    ∃ (s : State) (a : BitVec 13) (tag : Byte) (line : BitVec 40) (p : Fin 4) (mask : BitVec 16) (ws : _), (let m : CMsg := { code := 7, sub := p, addr := lineOf line, mask := mask.toNat, ws := maskFill mask.toNat ws }
    s.live = true ∧
    s.dev.mayIssue a.toNat tag.toNat m = true) ∧
    ∃ nx, exec (.lockWr a tag line p mask ws) s = .next nx :=
  ⟨up id, (64 : BitVec 13), (3 : Byte), (0x200000010 : BitVec 40), 1, (6 : BitVec 16), [7, 8], by dsimp only; decide, _, rfl⟩

theorem test_add :
    ∃ (s : State) (a : BitVec 13) (tag : Byte) (addr : BitVec 40) (x : Word), (let m : CMsg := { code := 5, sub := 1, addr := addr.toNat, mask := 2 ^ (addr.toNat % 16), ws := [x] }
    s.live = true ∧
    s.dev.mayIssue a.toNat tag.toNat m = true) ∧
    ∃ nx, exec (.add a tag addr x) s = .next nx :=
  ⟨up id, (64 : BitVec 13), (3 : Byte), (0x200000013 : BitVec 40), 7, by dsimp only; decide, _, rfl⟩

theorem test_min :
    ∃ (s : State) (a : BitVec 13) (tag : Byte) (addr : BitVec 40) (x : Word), (let m : CMsg := { code := 5, sub := 2, addr := addr.toNat, mask := 2 ^ (addr.toNat % 16), ws := [x] }
    s.live = true ∧
    s.dev.mayIssue a.toNat tag.toNat m = true) ∧
    ∃ nx, exec (.min a tag addr x) s = .next nx :=
  ⟨up id, (64 : BitVec 13), (3 : Byte), (0x200000013 : BitVec 40), 7, by dsimp only; decide, _, rfl⟩

theorem test_max :
    ∃ (s : State) (a : BitVec 13) (tag : Byte) (addr : BitVec 40) (x : Word), (let m : CMsg := { code := 5, sub := 3, addr := addr.toNat, mask := 2 ^ (addr.toNat % 16), ws := [x] }
    s.live = true ∧
    s.dev.mayIssue a.toNat tag.toNat m = true) ∧
    ∃ nx, exec (.max a tag addr x) s = .next nx :=
  ⟨up id, (64 : BitVec 13), (3 : Byte), (0x200000013 : BitVec 40), 7, by dsimp only; decide, _, rfl⟩

theorem test_swap :
    ∃ (s : State) (a : BitVec 13) (tag : Byte) (addr : BitVec 40) (x : Word), (let m : CMsg := { code := 5, sub := 4, addr := addr.toNat, mask := 2 ^ (addr.toNat % 16), ws := [x] }
    s.live = true ∧
    s.dev.mayIssue a.toNat tag.toNat m = true) ∧
    ∃ nx, exec (.swap a tag addr x) s = .next nx :=
  ⟨up id, (64 : BitVec 13), (3 : Byte), (0x200000013 : BitVec 40), 7, by dsimp only; decide, _, rfl⟩

theorem test_cas :
    ∃ (s : State) (a : BitVec 13) (tag : Byte) (addr : BitVec 40) (c : Word) (x : Word), (let m : CMsg := { code := 5, sub := 5, addr := addr.toNat, mask := 2 ^ (addr.toNat % 16), ws := [c, x] }
    s.live = true ∧
    s.dev.mayIssue a.toNat tag.toNat m = true) ∧
    ∃ nx, exec (.cas a tag addr c x) s = .next nx :=
  ⟨up id, (64 : BitVec 13), (3 : Byte), (0x200000013 : BitVec 40), 7, 7, by dsimp only; decide, _, rfl⟩

theorem test_unlock :
    ∃ (s : State) (a : BitVec 13) (line : BitVec 40) (p : Fin 4) (l : _), (s.live = true ∧
    s.dev.target (lineOf line) = .here l ∧
    l = lineOf line % 2 ^ 34 ∧
    winOf l = .rstore ∧
    s.dev.ownAgent a.toNat = true ∧
    s.dev.coh.leave = none ∧
    s.dev.dirE (l / 16) = { (default : DirEnt) with st := 4, holder := a.toNat, port := p }) ∧
    ∃ nx, exec (.unlock a line p) s = .next nx :=
  ⟨up fun d => d.setDir 0x20000001 { (default : DirEnt) with st := 4, holder := 64, port := 1 }, (64 : BitVec 13), (0x200000010 : BitVec 40), 1, 0x200000010, by decide, _, rfl⟩

theorem test_snpS_1 :
    ∃ (s : State) (line : BitVec 40) (a : BitVec 13) (tag : Byte) (c : Fin 64) (x : _), (s.live = true ∧
    findLine (s.dev.cacheOf c) (lineOf line / 16) = some x ∧
    x.st = 1) ∧
    ∃ nx, exec (.snpS line a tag c) s = .next nx :=
  ⟨up fun d => d.modCache 3 fun _ => [⟨0x20000001, 1, [7]⟩], (0x200000010 : BitVec 40), (5 : BitVec 13), (9 : Byte), 3, ⟨0x20000001, 1, [7]⟩, by decide, _, rfl⟩

theorem test_snpS_2 :
    ∃ (s : State) (line : BitVec 40) (a : BitVec 13) (tag : Byte) (c : Fin 64) (x : _), (s.live = true ∧
    findLine (s.dev.cacheOf c) (lineOf line / 16) = some x ∧
    x.st = 2) ∧
    ∃ nx, exec (.snpS line a tag c) s = .next nx :=
  ⟨up fun d => d.modCache 3 fun _ => [⟨0x20000001, 2, [7]⟩], (0x200000010 : BitVec 40), (5 : BitVec 13), (9 : Byte), 3, ⟨0x20000001, 2, [7]⟩, by decide, _, rfl⟩

theorem test_snpX :
    ∃ (s : State) (line : BitVec 40) (a : BitVec 13) (tag : Byte) (c : Fin 64) (x : _), (s.live = true ∧
    findLine (s.dev.cacheOf c) (lineOf line / 16) = some x ∧
    (x.st = 1 ∨ x.st = 2)) ∧
    ∃ nx, exec (.snpX line a tag c) s = .next nx :=
  ⟨up fun d => d.modCache 3 fun _ => [⟨0x20000001, 2, [7]⟩], (0x200000010 : BitVec 40), (5 : BitVec 13), (9 : Byte), 3, ⟨0x20000001, 2, [7]⟩, by decide, _, rfl⟩

theorem test_snpInv :
    ∃ (s : State) (line : BitVec 40), (let l := lineOf line / 16
    s.live = true ∧
    ((List.range 64).all fun c => ((findLine (s.dev.cacheOf c) l).map (·.st)) != some 4) = true) ∧
    ∃ nx, exec (.snpInv line) s = .next nx :=
  ⟨up fun d => d.modCache 3 fun _ => [⟨0x20000001, 3, [7]⟩], (0x200000010 : BitVec 40), by dsimp only; decide, _, rfl⟩

theorem test_snpNa :
    ∃ (s : State) (line : BitVec 40) (a : BitVec 13) (tag : Byte) (c : Fin 64) (i : Fin 16) (k : Fin 17) (x : _), (s.live = true ∧
    findLine (s.dev.cacheOf c) (lineOf line / 16) = some x ∧
    (x.st = 1 ∨ x.st = 2)) ∧
    ∃ nx, exec (.snpNa line a tag c i k) s = .next nx :=
  ⟨up fun d => d.modCache 3 fun _ => [⟨0x20000001, 2, [7, 8]⟩], (0x200000010 : BitVec 40), (5 : BitVec 13), (9 : Byte), 3, 1, 1, ⟨0x20000001, 2, [7, 8]⟩, by decide, _, rfl⟩

theorem test_snpRcl :
    ∃ (s : State) (line : BitVec 40) (c : Fin 64) (x : _), (s.live = true ∧
    findLine (s.dev.cacheOf c) (lineOf line / 16) = some x ∧
    x.st = 1) ∧
    ∃ nx, exec (.snpRcl line c) s = .next nx :=
  ⟨up fun d => d.modCache 3 fun _ => [⟨0x20000001, 1, [7]⟩], (0x200000010 : BitVec 40), 3, ⟨0x20000001, 1, [7]⟩, by decide, _, rfl⟩

theorem test_wb_1 :
    ∃ (s : State) (a : BitVec 13) (line : BitVec 40) (ws : _) (x : _), (let l := lineOf line / 16
    s.live = true ∧
    s.dev.ownAgent a.toNat = true ∧
    isCache a.toNat = true ∧
    findLine (s.dev.cacheOf (a.toNat % 128)) l = some x ∧
    x.line = l ∧
    (x.st = 1 ∨ x.st = 2)) ∧
    ∃ nx, exec (.wb a line ws) s = .next nx :=
  ⟨up fun d => d.modCache 3 fun _ => [⟨0x20000001, 2, [7]⟩], (3 : BitVec 13), (0x200000010 : BitVec 40), [5], ⟨0x20000001, 2, [7]⟩, by dsimp only; decide, _, rfl⟩

theorem test_wb_2 :
    ∃ (s : State) (a : BitVec 13) (line : BitVec 40) (ws : _) (l : _), (s.live = true ∧
    s.dev.ownAgent a.toNat = false ∧
    s.dev.target (lineOf line) = .here l ∧
    s.dev.agentDead a.toNat = false ∧
    s.dev.txn (l / 16) = none ∧
    s.dev.dirE (l / 16) = { (default : DirEnt) with st := 2, owner := a.toNat }) ∧
    ∃ nx, exec (.wb a line ws) s = .next nx :=
  ⟨up fun d => ((((d.setF F.cohStat_STATE 2).setF (F.cohMap_VALID 1) 1).setF (F.cohMap_VALID 0) 1)).setDir 0x20000001 { (default : DirEnt) with st := 2, owner := 131 }, (131 : BitVec 13), (0x200000010 : BitVec 40), [5], 0x200000010, by decide, _, rfl⟩

theorem test_evict_1 :
    ∃ (s : State) (a : BitVec 13) (line : BitVec 40) (x : _), (let l := lineOf line / 16
    s.live = true ∧
    s.dev.ownAgent a.toNat = true ∧
    isCache a.toNat = true ∧
    findLine (s.dev.cacheOf (a.toNat % 128)) l = some x ∧
    x.line = l ∧
    x.st = 2) ∧
    ∃ nx, exec (.evict a line) s = .next nx :=
  ⟨up fun d => d.modCache 3 fun _ => [⟨0x20000001, 2, [7]⟩], (3 : BitVec 13), (0x200000010 : BitVec 40), ⟨0x20000001, 2, [7]⟩, by dsimp only; decide, _, rfl⟩

theorem test_evict_2 :
    ∃ (s : State) (a : BitVec 13) (line : BitVec 40) (l : _), (s.live = true ∧
    s.dev.ownAgent a.toNat = false ∧
    s.dev.target (lineOf line) = .here l ∧
    s.dev.agentDead a.toNat = false ∧
    s.dev.txn (l / 16) = none ∧
    s.dev.dirE (l / 16) = { (default : DirEnt) with st := 2, owner := a.toNat }) ∧
    ∃ nx, exec (.evict a line) s = .next nx :=
  ⟨up fun d => ((((d.setF F.cohStat_STATE 2).setF (F.cohMap_VALID 1) 1).setF (F.cohMap_VALID 0) 1)).setDir 0x20000001 { (default : DirEnt) with st := 2, owner := 131 }, (131 : BitVec 13), (0x200000010 : BitVec 40), 0x200000010, by decide, _, rfl⟩

theorem test_srsp :
    ∃ (s : State) (k : Fin 64) (line : BitVec 40) (ans : _) (l : _) (t : _), (s.live = true ∧
    s.dev.target (lineOf line) = .here l ∧
    s.dev.txn (l / 16) = some t ∧
    t.waits.contains k.val = true) ∧
    ∃ nx, exec (.srsp k line ans) s = .next nx :=
  ⟨up fun d => d.setTxn 0x20000001 (some { (default : CTxn) with req := { code := 1, agent := 4, addr := 0x200000010 }, waits := [0], owner := some 3 }), 0, (0x200000010 : BitVec 40), SnpAns.inv, 0x200000010, { (default : CTxn) with req := { code := 1, agent := 4, addr := 0x200000010 }, waits := [0], owner := some 3 }, by decide, _, rfl⟩

theorem test_cmp :
    ∃ (s : State) (a : BitVec 13) (tag : Byte) (st : _) (i : _) (o : _), (s.live = true ∧
    s.dev.ownAgent a.toNat = true ∧
    st ≠ .timeout ∧
    s.dev.coh.outs.findIdx? (COut.is false (a.toNat % 128) tag.toNat) = some i ∧
    s.dev.coh.outs[i]? = some o ∧
    o.m.stores = false) ∧
    ∃ nx, exec (.cmp a tag st) s = .next nx :=
  ⟨up fun d => d.modCoh fun c => { c with outs := [⟨{ code := 5, agent := 3, tag := 9, addr := 0x200000010 }, .nothing⟩] }, (3 : BitVec 13), (9 : Byte), CplStatus.ok, 0, ⟨{ code := 5, agent := 3, tag := 9, addr := 0x200000010 }, .nothing⟩, by decide, _, rfl⟩

theorem test_cack :
    ∃ (s : State) (a : BitVec 13) (line : BitVec 40) (l : _) (t : _), (s.live = true ∧
    s.dev.target (lineOf line) = .here l ∧
    s.dev.agentDead a.toNat = false ∧
    s.dev.txn (l / 16) = some t ∧
    t.cack = true ∧
    t.req.agent = a.toNat) ∧
    ∃ nx, exec (.cack a line) s = .next nx :=
  ⟨up fun d => d.setTxn 0x20000001 (some { (default : CTxn) with req := { code := 1, agent := 4, addr := 0x200000010 }, done := true, cack := true }), (4 : BitVec 13), (0x200000010 : BitVec 40), 0x200000010, { (default : CTxn) with req := { code := 1, agent := 4, addr := 0x200000010 }, done := true, cack := true }, by decide, _, rfl⟩

theorem test_wback :
    ∃ (s : State) (a : BitVec 13) (line : BitVec 40), (s.live = true ∧
    s.dev.ownAgent a.toNat = true) ∧
    ∃ nx, exec (.wback a line) s = .next nx :=
  ⟨up fun d => d.modCache 3 fun _ => [⟨0x20000001, 4, [7]⟩], (3 : BitVec 13), (0x200000010 : BitVec 40), by decide, _, rfl⟩

theorem test_pack :
    ∃ (s : State) (a : BitVec 13) (tag : Byte) (st : _) (i : _) (o : _), (s.live = true ∧
    s.dev.ownAgent a.toNat = true ∧
    st ≠ .timeout ∧
    s.dev.coh.outs.findIdx? (COut.is true (a.toNat % 128) tag.toNat) = some i ∧
    s.dev.coh.outs[i]? = some o) ∧
    ∃ nx, exec (.pack a tag st) s = .next nx :=
  ⟨up fun d => d.modCoh fun c => { c with outs := [⟨{ code := 9, agent := 64, tag := 9, addr := 0x200000010 }, .nothing⟩] }, (64 : BitVec 13), (9 : Byte), CplStatus.ok, 0, ⟨{ code := 9, agent := 64, tag := 9, addr := 0x200000010 }, .nothing⟩, by decide, _, rfl⟩

theorem test_data_1 :
    ∃ (s : State) (a : BitVec 13) (tag : Byte) (st : _) (ws : _) (i : _) (o : _), (s.live = true ∧
    s.dev.ownAgent a.toNat = true ∧
    st ≠ .timeout ∧
    s.dev.coh.outs.findIdx? (COut.is false (a.toNat % 128) tag.toNat) = some i ∧
    s.dev.coh.outs[i]? = some o ∧
    o.m.stores = false) ∧
    ∃ nx, exec (.data a tag st .none ws) s = .next nx :=
  ⟨up fun d => d.modCoh fun c => { c with outs := [⟨{ code := 3, agent := 64, tag := 9, addr := 0x200000010 }, .nothing⟩] }, (64 : BitVec 13), (9 : Byte), CplStatus.ok, [7], 0, ⟨{ code := 3, agent := 64, tag := 9, addr := 0x200000010 }, .nothing⟩, by decide, _, rfl⟩

theorem test_data_2 :
    ∃ (s : State) (a : BitVec 13) (tag : Byte) (st : _) (g : _) (ws : _) (i : _) (o : _), (s.live = true ∧
    s.dev.ownAgent a.toNat = true ∧
    st ≠ .timeout ∧
    s.dev.coh.outs.findIdx? (COut.is false (a.toNat % 128) tag.toNat) = some i ∧
    s.dev.coh.outs[i]? = some o ∧
    g ≠ .none ∧
    isCache o.m.agent = true ∧
    (o.m.code = 1 ∨ o.m.code = 2) ∧
    s.dev.fb (F.cohCache_OFF (o.m.agent % 128)) = false) ∧
    ∃ nx, exec (.data a tag st g ws) s = .next nx :=
  ⟨up fun d => d.modCoh fun c => { c with outs := [⟨{ code := 1, agent := 3, tag := 9, addr := 0x200000010 }, .nothing⟩] }, (3 : BitVec 13), (9 : Byte), CplStatus.ok, Grant.e, [7], 0, ⟨{ code := 1, agent := 3, tag := 9, addr := 0x200000010 }, .nothing⟩, by decide, _, rfl⟩

theorem test_sdata :
    ∃ (s : State) (a : BitVec 13) (line : BitVec 40) (ws : _) (l : _) (t : _), (s.live = true ∧
    s.dev.target (lineOf line) = .here l ∧
    s.dev.agentDead a.toNat = false ∧
    s.dev.txn (l / 16) = some t ∧
    t.done = false) ∧
    ∃ nx, exec (.sdata a line ws) s = .next nx :=
  ⟨up fun d => d.setTxn 0x20000001 (some { (default : CTxn) with req := { code := 1, agent := 4, addr := 0x200000010 }, waits := [0], owner := some 3 }), (3 : BitVec 13), (0x200000010 : BitVec 40), [5], 0x200000010, { (default : CTxn) with req := { code := 1, agent := 4, addr := 0x200000010 }, waits := [0], owner := some 3 }, by decide, _, rfl⟩

theorem test_hello :
    ∃ (s : State) (n : Fin 8) (dom : _) (ser : _) (id : _), (s.live = true ∧
    s.dev.cohState = 1 ∧
    dom.toNat = s.dev.f F.cohCfg_DOMAIN_ID ∧
    ser.toNat ≠ s.dev.serial ∧
    s.dev.coh.seen.any (fun x => x.serial == ser.toNat) = false) ∧
    ∃ nx, exec (.hello n dom ser id) s = .next nx :=
  ⟨up fun d => (d.setF F.cohStat_STATE 1).setF F.cohCfg_DOMAIN_ID 9, 3, (9 : BitVec 16), (77 : BitVec 72), (5 : BitVec 16), by decide, _, rfl⟩

theorem test_helloTimer :
    ∃ (s : State), (s.live = true ∧
    s.dev.cohState = 1) ∧
    ∃ nx, exec .helloTimer s = .next nx :=
  ⟨up fun d => d.setF F.cohStat_STATE 1, by decide, _, rfl⟩

theorem test_formTimeout :
    ∃ (s : State), (s.live = true ∧
    s.dev.cohState = 1 ∧
    s.dev.leads = true) ∧
    ∃ nx, exec .formTimeout s = .next nx :=
  ⟨up fun d => (d.setF F.cohStat_STATE 1).modCoh fun c => { c with seen := [⟨d.serial, 1, none, none⟩] }, by decide, _, rfl⟩

theorem test_map_1 :
    ∃ (s : State) (leader : _) (es : List MapEntry) (e : _), (s.live = true ∧
    s.dev.cohState = 1 ∧
    s.dev.mapSelf (es.map mapLine) = some e) ∧
    ∃ nx, exec (.map leader es) s = .next nx :=
  ⟨up fun d => (d.setF F.cohStat_STATE 1).setF F.topPkg_ASSIGNED 1, (7 : BitVec 72), [⟨2, true, false, 0, BitVec.ofNat 72 State.reset.dev.serial⟩, ⟨0, true, false, 4, 7⟩], mapLine ⟨2, true, false, 0, BitVec.ofNat 72 State.reset.dev.serial⟩, by decide, _, rfl⟩

theorem test_map_2 :
    ∃ (s : State) (leader : _) (es : List MapEntry), (s.live = true ∧
    s.dev.cohState = 1 ∧
    s.dev.mapSelf (es.map mapLine) = none) ∧
    ∃ nx, exec (.map leader es) s = .next nx :=
  ⟨up fun d => (d.setF F.cohStat_STATE 1), (7 : BitVec 72), [], by decide, _, rfl⟩

theorem test_map_3 :
    ∃ (s : State) (leader : _) (es : List MapEntry), (s.live = true ∧
    s.dev.cohState = 2 ∧
    s.dev.f F.cohStat_LEADER ≠ s.dev.myIdx) ∧
    ∃ nx, exec (.map leader es) s = .next nx :=
  ⟨up fun d => ((d.setF F.cohStat_STATE 2).setF F.cohStat_LEADER 1), (7 : BitVec 72), [⟨2, true, false, 0, 5⟩, ⟨0, true, false, 4, 7⟩], by decide, _, rfl⟩

theorem test_dead_1 :
    ∃ (s : State) (k : Fin 64) (r : Fin 16), (s.live = true ∧
    s.dev.cohState = 2 ∧
    k.val ≠ s.dev.myIdx ∧
    s.dev.fb (F.cohMap_VALID k) = true ∧
    s.dev.fb (F.cohMap_DEAD k) = false ∧
    s.dev.f F.cohStat_SIZE ≠ 2) ∧
    ∃ nx, exec (.dead (.pkg k) r) s = .next nx :=
  ⟨up fun d => (d.setF F.cohStat_STATE 2).setF (F.cohMap_VALID 1) 1, 1, 3, by decide, _, rfl⟩

theorem test_dead_2 :
    ∃ (s : State) (a : BitVec 13) (r : Fin 16), (s.live = true ∧
    s.dev.cohState = 2 ∧
    s.dev.coh.deadAgents.contains a.toNat = false) ∧
    ∃ nx, exec (.dead (.agent a) r) s = .next nx :=
  ⟨up fun d => (d.setF F.cohStat_STATE 2).setF (F.cohMap_VALID 1) 1, (131 : BitVec 13), 4, by decide, _, rfl⟩

theorem test_down :
    ∃ (s : State), (s.live = true ∧
    s.dev.f F.cohStat_SIZE = 2) ∧
    ∃ nx, exec .down s = .next nx :=
  ⟨up fun d => (d.setF F.cohStat_STATE 2).setF F.cohStat_SIZE 2, by decide, _, rfl⟩

theorem test_resync_1 :
    ∃ (s : State) (n : Fin 8) (q : BitVec 12) (rt : _) (dest : _), (s.live = true ∧
    s.dev.resyncRoute n = some (rt, dest)) ∧
    ∃ nx, exec (.resync n false q) s = .next nx :=
  ⟨up fun d => ((d.setF (F.lnkStat_PEER_ID_OK 2) 1).setF (F.lnkStat_PEER_ID 2) 9).wr (srtTab + 9) (mkW [(35, 35, 1), (27, 25, 2)]), 2, (4 : BitVec 12), 1, 9, by decide, _, rfl⟩

theorem test_resync_2 :
    ∃ (s : State) (n : Fin 8) (q : BitVec 12), (s.live = true ∧
    (s.dev.port n).recovering = true) ∧
    ∃ nx, exec (.resync n true q) s = .next nx :=
  ⟨up fun d => d.modPort 2 fun x => { x with recovering := true }, 2, (4 : BitVec 12), by decide, _, rfl⟩

theorem test_tree_1 :
    ∃ (s : State) (n : Fin 8) (l : _) (r : _) (h : _), (s.live = true ∧
    s.dev.treeActs = true) ∧
    ∃ nx, exec (.tree n ⟨.link, .announce l r h⟩) s = .next nx :=
  ⟨fw fun d => (d.setF F.topPkg_ASSIGNED 1), 6, (3 : BitVec 72), (2 : BitVec 72), 1, by decide, _, rfl⟩

theorem test_tree_2 :
    ∃ (s : State) (n : Fin 8) (first : _) (ss : _) (ids : _), (s.live = true ∧
    s.dev.treeActs = true) ∧
    ∃ nx, exec (.tree n ⟨.link, .subtree first ss ids⟩) s = .next nx :=
  ⟨fw fun d => (d.setF F.topPkg_ASSIGNED 1), 6, true, [(3 : BitVec 72)], [(2 : BitVec 16)], by decide, _, rfl⟩

theorem test_tree_3 :
    ∃ (s : State) (n : Fin 8) (first : _) (r : _) (ss : _) (ids : _), (s.live = true ∧
    s.dev.treeActs = true ∧
    s.dev.coh.tree.uplink = some (linkKey s.dev.myIdx n)) ∧
    ∃ nx, exec (.tree n ⟨.link, .full first r ss ids⟩) s = .next nx :=
  ⟨fw fun d => (d.setF F.topPkg_ASSIGNED 1).modTree fun t => { t with uplink := some 6 }, 6, true, (3 : BitVec 16), [(3 : BitVec 72)], [(2 : BitVec 16)], by decide, _, rfl⟩

theorem test_tree_4 :
    ∃ (s : State) (n : Fin 8) (up : _), (s.live = true ∧
    s.dev.treeActs = true) ∧
    ∃ nx, exec (.tree n ⟨.link, .linkUp up⟩) s = .next nx :=
  ⟨fw fun d => (d.setF F.topPkg_ASSIGNED 1), 6, true, by decide, _, rfl⟩

theorem test_tree_5 :
    ∃ (s : State) (n : Fin 8) (b : _), (s.live = true ∧
    s.dev.treeLed = true) ∧
    ∃ nx, exec (.tree n ⟨.link, b⟩) s = .next nx :=
  ⟨up fun d => ((((d.setF F.cohStat_STATE 2).setF F.cohStat_LEADER 1).setF (F.cohMap_VALID 0) 1).setF (F.cohMap_VALID 1) 1), 6, .linkUp true, by decide, _, rfl⟩

theorem test_tree_6 :
    ∃ (s : State) (n : Fin 8) (k : _) (p : _) (b : _), (s.live = true ∧
    s.dev.treeActs = true) ∧
    ∃ nx, exec (.tree n ⟨.up k p, b⟩) s = .next nx :=
  ⟨fw fun d => (d.setF F.topPkg_ASSIGNED 1), 6, 0, 7, .announce 3 2 1, by decide, _, rfl⟩

theorem test_tree_7 :
    ∃ (s : State) (n : Fin 8) (p : Fin 8) (b : _), (s.live = true ∧
    s.dev.treeLed = true ∧
    s.dev.trunkPorts.contains p.val = true) ∧
    ∃ nx, exec (.tree n ⟨.out p, b⟩) s = .next nx :=
  ⟨up fun d => ((((((d.setF F.cohStat_STATE 2).setF F.cohStat_LEADER 1).setF (F.cohMap_VALID 0) 1).setF (F.cohMap_VALID 1) 1).setF (F.lnkStat_STATE 7) 2).setF (F.lnkCfg_TRUNK 7) 1), 6, 7, .linkUp true, by decide, _, rfl⟩

theorem test_tree_8 :
    ∃ (s : State) (n : Fin 8) (ids : _) (ws : _), (s.live = true ∧
    s.dev.treeLed = true) ∧
    ∃ nx, exec (.tree n ⟨.member, .fill ids ws⟩) s = .next nx :=
  ⟨up fun d => ((((d.setF F.cohStat_STATE 2).setF F.cohStat_LEADER 1).setF (F.cohMap_VALID 0) 1).setF (F.cohMap_VALID 1) 1), 6, [(9 : BitVec 16)], [(5 : Word)], by decide, _, rfl⟩

theorem test_pkt :
    ∃ (s : State) (n : Fin 8) (src : BitVec 16) (k : Fin 4) (ws : _), (s.live = true ∧
    (s.dev.fb (F.lnkStat_PEER_ID_OK n) = true ∨ s.dev.f (F.lnkStat_PEER_ID n) ≠ src.toNat)) ∧
    ∃ nx, exec (.pkt n src k true true ws) s = .next nx :=
  ⟨up id, 2, (9 : BitVec 16), 0, [5], by decide, _, rfl⟩

theorem test_snoopTimeout :
    ∃ (s : State) (line : BitVec 40) (k : Fin 64) (l : _) (t : _), (s.live = true ∧
    s.dev.target (lineOf line) = .here l ∧
    s.dev.txn (l / 16) = some t ∧
    t.waits.contains k.val = true ∧
    s.dev.cohState = 2 ∧
    s.dev.fb (F.cohMap_VALID k) = true ∧
    s.dev.fb (F.cohMap_DEAD k) = false ∧
    k.val ≠ s.dev.myIdx) ∧
    ∃ nx, exec (.snoopTimeout line k) s = .next nx :=
  ⟨up fun d => (((d.setF F.cohStat_STATE 2).setF (F.cohMap_VALID 1) 1).setF (F.cohMap_VALID 0) 1).setTxn 0x20000001 (some { (default : CTxn) with req := { code := 1, agent := 4, addr := 0x200000010 }, waits := [1], owner := some 131 }), (0x200000010 : BitVec 40), 1, 0x200000010, { (default : CTxn) with req := { code := 1, agent := 4, addr := 0x200000010 }, waits := [1], owner := some 131 }, by decide, _, rfl⟩

theorem test_requestTimeout :
    ∃ (s : State) (a : BitVec 13) (tag : Byte) (o : _) (k : _), (s.live = true ∧
    (s.dev.coh.outs.find? fun o => o.m.agent == a.toNat && o.m.tag == tag.toNat && (s.dev.remoteHome o).isSome) = some o ∧
    o.m.addr < 2 ^ 40 ∧
    s.dev.target o.m.addr = .remote k) ∧
    ∃ nx, exec (.requestTimeout a tag) s = .next nx :=
  ⟨up fun d => (((d.setF F.cohStat_STATE 2).setF (F.cohMap_VALID 1) 1).setF (F.cohMap_VALID 0) 1).modCoh fun c => { c with outs := [⟨{ code := 3, agent := 64, tag := 9, addr := 0x600000010 }, .nothing⟩] }, (64 : BitVec 13), (9 : Byte), ⟨{ code := 3, agent := 64, tag := 9, addr := 0x600000010 }, .nothing⟩, 1, by decide, _, rfl⟩

theorem test_cacheSnoopTimeout :
    ∃ (s : State) (c : Fin 64), (s.live = true ∧
    s.dev.fb (F.cohCache_OFF c) = false ∧
    s.dev.cohState ≠ 2) ∧
    ∃ nx, exec (.cacheSnoopTimeout c) s = .next nx :=
  ⟨up fun d => d.modCache 3 fun _ => [⟨0x20000001, 1, [7]⟩], 3, by decide, _, rfl⟩

theorem test_lockHoldTimeout :
    ∃ (s : State) (line : BitVec 40) (l : _), (s.live = true ∧
    s.dev.target (lineOf line) = .here l ∧
    (s.dev.dirE (l / 16)).st = 4 ∧
    (s.dev.dirE (l / 16)).wasDp = false) ∧
    ∃ nx, exec (.lockHoldTimeout line) s = .next nx :=
  ⟨up fun d => d.setDir 0x20000001 { (default : DirEnt) with st := 4, holder := 64, port := 1 }, (0x200000010 : BitVec 40), 0x200000010, by decide, _, rfl⟩

theorem test_domainJoin_1 :
    ∃ (s : State) (n : Mbx) (suits : _) (k : _), (let id := (s.dev.arg n 1).toNat
    s.served n 0x903 1 = true ∧
    s.dev.domainBusy = false ∧
    id ≤ 0xFFFF ∧
    s.dev.cohState = 2 ∧
    suits = true ∧
    (s.dev.routeOf 1 id).isSome = true ∧
    firstN 64 (fun k => !s.dev.fb (F.cohMap_VALID k)) = some k ∧
    s.dev.f F.cohStat_LEADER ≠ s.dev.myIdx) ∧
    ∃ nx, exec (.domainJoin n suits) s = .next nx :=
  ⟨cmd 0x903 [9] fun d => ((((d.setF F.cohStat_STATE 2).setF (F.cohMap_VALID 0) 1).setF F.cohStat_LEADER 1).wr (srtTab + 9) (mkW [(35, 35, 1), (27, 25, 2)])).setF (F.lnkStat_STATE 2) 2, 0, true, 1, by dsimp only; decide, _, rfl⟩

theorem test_domainJoin_2 :
    ∃ (s : State) (n : Mbx) (suits : _) (k : _), (let id := (s.dev.arg n 1).toNat
    s.served n 0x903 1 = true ∧
    s.dev.domainBusy = false ∧
    id ≤ 0xFFFF ∧
    s.dev.cohState = 2 ∧
    suits = true ∧
    (s.dev.routeOf 1 id).isSome = true ∧
    firstN 64 (fun k => !s.dev.fb (F.cohMap_VALID k)) = some k ∧
    s.dev.f F.cohStat_LEADER = s.dev.myIdx) ∧
    ∃ nx, exec (.domainJoin n suits) s = .next nx :=
  ⟨cmd 0x903 [9] fun d => ((((d.setF F.cohStat_STATE 2).setF (F.cohMap_VALID 0) 1).setF F.cohStat_LEADER 0).wr (srtTab + 9) (mkW [(35, 35, 1), (27, 25, 2)])).setF (F.lnkStat_STATE 2) 2, 0, true, 1, by dsimp only; decide, _, rfl⟩

theorem test_domainLeave :
    ∃ (s : State) (n : Mbx), (s.served n 0x904 1 = true ∧
    s.dev.domainBusy = false ∧
    (s.dev.arg n 1).toNat < 2 ^ 16 ∧
    s.dev.cohState = 2) ∧
    ∃ nx, exec (.domainLeave n false) s = .next nx :=
  ⟨cmd 0x904 [9] fun d => (d.setF F.cohStat_STATE 2).setF (F.cohMap_VALID 0) 1, 0, by decide, _, rfl⟩

theorem test_leaveCopyDone_1 :
    ∃ (s : State) (h : _) (held : _), (s.live = true ∧
    s.dev.coh.leave = some ⟨h, 1, held⟩ ∧
    s.dev.f F.cohStat_LEADER ≠ s.dev.myIdx) ∧
    ∃ nx, exec .leaveCopyDone s = .next nx :=
  ⟨up fun d => (d.setF F.cohStat_LEADER 1).modCoh fun c => { c with leave := some ⟨some 9, 1, []⟩ }, some 9, [], by decide, _, rfl⟩

theorem test_leaveCopyDone_2 :
    ∃ (s : State) (h : _) (held : _), (s.live = true ∧
    s.dev.coh.leave = some ⟨h, 1, held⟩ ∧
    s.dev.f F.cohStat_LEADER = s.dev.myIdx) ∧
    ∃ nx, exec .leaveCopyDone s = .next nx :=
  ⟨up fun d => d.modCoh fun c => { c with leave := some ⟨some 9, 1, []⟩ }, some 9, [], by decide, _, rfl⟩

theorem test_leaveForwardEnd :
    ∃ (s : State) (h : _) (held : _), (s.live = true ∧
    s.dev.coh.leave = some ⟨h, 3, held⟩) ∧
    ∃ nx, exec .leaveForwardEnd s = .next nx :=
  ⟨up fun d => d.modCoh fun c => { c with leave := some ⟨some 9, 3, []⟩ }, some 9, [], by decide, _, rfl⟩

theorem test_cohInfo :
    ∃ (s : State) (n : Mbx), (s.served n 0x800 0 = true) ∧
    ∃ nx, exec (.cohInfo n) s = .next nx :=
  ⟨cmd 0x800 [] id, 0, by decide, _, rfl⟩

theorem test_cohLine :
    ∃ (s : State) (n : Mbx) (l : _), (s.served n 0x801 2 = true ∧
    (s.dev.arg n 1).toNat ≤ 15 ∧
    s.dev.target ((s.dev.arg n 1).toNat * 2 ^ 36 + (s.dev.arg n 2).toNat) = .here l ∧
    winOf l = .rstore) ∧
    ∃ nx, exec (.cohLine n) s = .next nx :=
  ⟨cmd 0x801 [0, 0x200000010] id, 0, 0x200000010, by decide, _, rfl⟩

theorem test_lnkInfo :
    ∃ (s : State) (n : Mbx) (p : Fin 8), (s.served n 0x900 1 = true ∧
    (s.dev.arg n 1).toNat = p.val) ∧
    ∃ nx, exec (.lnkInfo n) s = .next nx :=
  ⟨cmd 0x900 [3] id, 0, 3, by decide, _, rfl⟩

theorem test_pkgIdSet_1 :
    ∃ (s : State) (n : Mbx) (id : BitVec 16), (s.served n 0x901 1 = true ∧
    (s.dev.arg n 1).toNat = id.toNat ∧
    s.dev.fb F.topPkg_ASSIGNED = false ∧
    s.dev.taken.ksBusy = false) ∧
    ∃ nx, exec (.pkgIdSet n) s = .next nx :=
  ⟨cmd 0x901 [9] id, 0, (9 : BitVec 16), by decide, _, rfl⟩

theorem test_pkgIdSet_2 :
    ∃ (s : State) (n : Mbx) (id : BitVec 16), (s.served n 0x901 1 = true ∧
    (s.dev.arg n 1).toNat = id.toNat ∧
    s.dev.fb F.topPkg_ASSIGNED = false ∧
    s.dev.taken.ksBusy = false ∧
    s.dev.cohState = 1) ∧
    ∃ nx, exec (.pkgIdSet n) s = .next nx :=
  ⟨cmd 0x901 [9] fun d => d.setF F.cohStat_STATE 1, 0, (9 : BitVec 16), by decide, _, rfl⟩

theorem test_srtSet :
    ∃ (s : State) (n : Mbx) (k : _), (s.served n 0x902 (1 + k) = true ∧
    (s.dev.mb n).req.length = k + 2 ∧
    (s.dev.arg n 1).toNat + k ≤ 65536 ∧
    (s.dev.arg n 1).toNat ≤ 0xFFFF ∧
    (((s.dev.mb n).req.drop 2).all fun w => bitsOf w 20 0 == 0) = true) ∧
    ∃ nx, exec (.srtSet n) s = .next nx :=
  ⟨cmd 0x902 [9, mkW [(35, 35, 1)]] id, 0, 1, by decide, _, rfl⟩

theorem test_lnkRetrain :
    ∃ (s : State) (n : Mbx) (p : Fin 8), (s.served n 0x905 1 = true ∧
    (s.dev.arg n 1).toNat = p.val ∧
    s.dev.lnkState p ≠ 0) ∧
    ∃ nx, exec (.lnkRetrain n) s = .next nx :=
  ⟨cmd 0x905 [3] fun d => d.setF (F.lnkStat_STATE 3) 2, 0, 3, by decide, _, rfl⟩

theorem test_trainingRetry :
    ∃ (s : State) (n : Fin 8), (s.live = true ∧
    s.dev.fb (F.lnkCfg_EN n) = true ∧
    s.dev.portUp n = false ∧
    (s.dev.port n).recovering = false) ∧
    ∃ nx, exec (.trainingRetry n) s = .next nx :=
  ⟨up fun d => d.setF (F.lnkCfg_EN 3) 1, 3, by decide, _, rfl⟩

theorem test_trainingDone_1 :
    ∃ (s : State) (n : Fin 8) (lanes : BitVec 4) (p : Peer), (let on := lanes.toNat &&& (15 - (s.dev.port n).cutNow)
    s.live = true ∧
    s.dev.fb (F.lnkCfg_EN n) = true ∧
    2 ≤ popcount 4 on ∧
    p.trunk = s.dev.fb (F.lnkCfg_TRUNK n) ∧
    (s.dev.port n).recovering = false ∧
    s.dev.portUp n = false ∧
    (s.dev.port n).retraining = false) ∧
    ∃ nx, exec (.trainingDone n lanes p) s = .next nx :=
  ⟨up fun d => d.setF (F.lnkCfg_EN 3) 1, 3, (15 : BitVec 4), ⟨7, 9, true, 1, 5, false⟩, by dsimp only; decide, _, rfl⟩

theorem test_trainingDone_2 :
    ∃ (s : State) (n : Fin 8) (lanes : BitVec 4) (p : Peer), (let on := lanes.toNat &&& (15 - (s.dev.port n).cutNow)
    s.live = true ∧
    s.dev.fb (F.lnkCfg_EN n) = true ∧
    2 ≤ popcount 4 on ∧
    p.trunk = s.dev.fb (F.lnkCfg_TRUNK n) ∧
    (s.dev.port n).recovering = false ∧
    (s.dev.port n).retraining = true) ∧
    ∃ nx, exec (.trainingDone n lanes p) s = .next nx :=
  ⟨up fun d => ((d.setF (F.lnkCfg_EN 3) 1).setF (F.lnkStat_STATE 3) 2).modPort 3 fun x => { x with retraining := true }, 3, (15 : BitVec 4), ⟨7, 9, true, 1, 5, false⟩, by dsimp only; decide, _, rfl⟩

theorem test_partnerRefresh :
    ∃ (s : State) (n : Fin 8) (p : Peer), (s.live = true ∧
    s.dev.portUp n = true) ∧
    ∃ nx, exec (.partnerRefresh n p) s = .next nx :=
  ⟨up fun d => (d.setF (F.lnkStat_STATE 3) 2).setF (F.lnkStat_LANES 3) 15, 3, ⟨7, 9, true, 1, 5, false⟩, by decide, _, rfl⟩

theorem test_dataFrame_1 :
    ∃ (s : State) (n : Fin 8) (ws : _), (s.live = true ∧
    s.dev.portUp n = true ∧
    frameCrc ws = true ∧
    bitsOf (nth ws 0) 35 24 = (s.dev.port n).rx) ∧
    ∃ nx, exec (.dataFrame n true ws) s = .next nx :=
  ⟨up fun d => (d.setF (F.lnkStat_STATE 3) 2).setF (F.lnkStat_LANES 3) 15, 3, (List.replicate 63 0 ++ [toW (crc32 (List.replicate 63 0))]), by decide +kernel, _, rfl⟩

theorem test_dataFrame_2 :
    ∃ (s : State) (n : Fin 8) (good : _) (ws : _), (s.live = true ∧
    s.dev.portUp n = true ∧
    (s.dev.port n).nakSent = false ∧
    (good = false ∨ frameCrc ws = false ∨ bitsOf (nth ws 0) 35 24 ≠ (s.dev.port n).rx)) ∧
    ∃ nx, exec (.dataFrame n good ws) s = .next nx :=
  ⟨up fun d => (d.setF (F.lnkStat_STATE 3) 2).setF (F.lnkStat_LANES 3) 15, 3, false, [0], by decide +kernel, _, rfl⟩

theorem test_idleFrame :
    ∃ (s : State) (n : Fin 8) (ws : _), (s.live = true ∧
    s.dev.portUp n = true ∧
    frameCrc ws = true) ∧
    ∃ nx, exec (.idleFrame n ws) s = .next nx :=
  ⟨up fun d => (d.setF (F.lnkStat_STATE 3) 2).setF (F.lnkStat_LANES 3) 15, 3, (List.replicate 63 0 ++ [toW (crc32 (List.replicate 63 0))]), by decide +kernel, _, rfl⟩

theorem test_nakFrame :
    ∃ (s : State) (n : Fin 8) (ws : _), (let ack := bitsOf (nth ws 0) 23 12
    let x := (s.dev.frameHead n (nth ws 0)).port n
    s.live = true ∧
    s.dev.portUp n = true ∧
    frameCrc ws = true ∧
    (x.naks = 0 ∨ x.nakSeq ≠ ack)) ∧
    ∃ nx, exec (.nakFrame n ws) s = .next nx :=
  ⟨up fun d => (d.setF (F.lnkStat_STATE 3) 2).setF (F.lnkStat_LANES 3) 15, 3, (List.replicate 63 0 ++ [toW (crc32 (List.replicate 63 0))]), by dsimp only; decide +kernel, _, rfl⟩

theorem test_laneRemoval :
    ∃ (s : State) (n : Fin 8) (lane : Fin 4), (let left := setNbit (s.dev.f (F.lnkStat_LANES n)) lane false
    s.live = true ∧
    s.dev.portUp n = true ∧
    nbit (s.dev.f (F.lnkStat_LANES n)) lane = true ∧
    2 ≤ popcount 4 left) ∧
    ∃ nx, exec (.laneRemoval n lane) s = .next nx :=
  ⟨up fun d => (d.setF (F.lnkStat_STATE 3) 2).setF (F.lnkStat_LANES 3) 15, 3, 1, by dsimp only; decide, _, rfl⟩

theorem test_lysithLaneRejoin_1 :
    ∃ (s : State) (n : Fin 8) (lane : Fin 4), (s.live = true ∧
    s.dev.portUp n = true ∧
    s.dev.fb (F.lnkCfg_AUTO_REJOIN n) = true ∧
    nbit (s.dev.port n).rejoin lane = true ∧
    setNbit (s.dev.port n).rejoin lane false ≠ 0) ∧
    ∃ nx, exec (.lysithLaneRejoin n lane) s = .next nx :=
  ⟨up fun d => (((d.setF (F.lnkCfg_AUTO_REJOIN 3) 1).setF (F.lnkStat_STATE 3) 3).setF (F.lnkStat_LANES 3) 9).modPort 3 fun x => { x with rejoin := 6 }, 3, 1, by decide, _, rfl⟩

theorem test_lysithLaneRejoin_2 :
    ∃ (s : State) (n : Fin 8) (lane : Fin 4), (s.live = true ∧
    s.dev.portUp n = true ∧
    s.dev.fb (F.lnkCfg_AUTO_REJOIN n) = true ∧
    nbit (s.dev.port n).rejoin lane = true ∧
    setNbit (s.dev.port n).rejoin lane false = 0) ∧
    ∃ nx, exec (.lysithLaneRejoin n lane) s = .next nx :=
  ⟨up fun d => (((d.setF (F.lnkCfg_AUTO_REJOIN 3) 1).setF (F.lnkStat_STATE 3) 3).setF (F.lnkStat_LANES 3) 13).modPort 3 fun x => { x with rejoin := 2 }, 3, 1, by decide, _, rfl⟩

theorem test_retrainTimeout :
    ∃ (s : State) (n : Fin 8), (s.live = true ∧
    (s.dev.port n).retraining = true) ∧
    ∃ nx, exec (.retrainTimeout n) s = .next nx :=
  ⟨up fun d => (d.setF (F.lnkStat_STATE 3) 2).modPort 3 fun x => { x with retraining := true }, 3, by decide, _, rfl⟩

theorem test_downTimeout :
    ∃ (s : State) (n : Fin 8), (s.live = true ∧
    s.dev.portUp n = true) ∧
    ∃ nx, exec (.downTimeout n) s = .next nx :=
  ⟨up fun d => (d.setF (F.lnkStat_STATE 3) 2).setF (F.lnkStat_LANES 3) 15, 3, by decide, _, rfl⟩

theorem test_resyncTimeout :
    ∃ (s : State) (n : Fin 8), (s.live = true ∧
    (s.dev.port n).recovering = true) ∧
    ∃ nx, exec (.resyncTimeout n) s = .next nx :=
  ⟨up fun d => (d.setF (F.lnkStat_STATE 3) 4).modPort 3 fun x => { x with recovering := true }, 3, by decide, _, rfl⟩

theorem test_lnkEdge :
    ∃ (d : Dev) (n : Fin 8), (d.port n).recovering = true ∧
    (d.port n).expired = true ∧
    (d.lnkEdge n = each ((d.port n).unsent (d.port n).unacked) Dev.destGone (d.recoverEnd n stTIMEOUT [])) :=
  ⟨(up fun d => (d.setF (F.lnkStat_STATE 3) 4).modPort 3 fun x => { x with recovering := true, expired := true }).dev, 3, by refine ⟨?_, ?_, rfl⟩ <;> decide⟩

theorem test_sendRoute :
    ∃ (d : Dev) (n : Fin 8) (rt : _) (dest : _), let e := d.modPort n fun x => { x with sync := false }
    (d.port n).recovering = true ∧
    (d.port n).expired = false ∧
    (d.port n).sync = true ∧
    e.resyncRoute n = some (rt, dest) ∧
    (d.lnkEdge n = (e.sendRoute true rt dest [ctrlMsg rt dest 4 0 (resyncWords (e.f (F.lnkStat_PEER_PORT n)) false
      (((((e.port n).unacked.head?).map (·.seq)).getD (e.port n).tx + 4095) % 4096))]).2) :=
  ⟨((up fun d => (((d.setF (F.lnkStat_PEER_ID_OK 2) 1).setF (F.lnkStat_PEER_ID 2) 9).wr (srtTab + 9) (mkW [(35, 35, 1), (27, 25, 2)])).modPort 2 fun x => { x with recovering := true, sync := true })).dev, 2, 1, 9, by dsimp only; refine ⟨?_, ?_, ?_, ?_, rfl⟩ <;> decide⟩

theorem test_firmwareForward_1 :
    ∃ (s : State) (n : Fin 8) (st : Byte) (fail : BitVec 5), (s.live = true ∧
    s.dev.running = true ∧
    s.dev.fb (F.lnkCfg_FW_FWD n) = true ∧
    s.dev.portUp n = true ∧
    s.dev.f (F.lnkStat_PEER_BOOT n) = 2 ∧
    (s.dev.port n).fwd = none ∧
    (s.dev.port n).fwdWait = false ∧
    s.dev.hbmHeld 0 = false) ∧
    ∃ nx, exec (.firmwareForward n st fail) s = .next nx :=
  ⟨fw fun d => ((d.setF (F.lnkStat_STATE 3) 2).setF (F.lnkCfg_FW_FWD 3) 1).setF (F.lnkStat_PEER_BOOT 3) 2, 3, (0 : Byte), (0 : BitVec 5), by decide, _, rfl⟩

theorem test_firmwareForward_2 :
    ∃ (s : State) (n : Fin 8) (st : Byte) (fail : BitVec 5) (k : _), (s.live = true ∧
    s.dev.running = true ∧
    (s.dev.port n).fwd = some k ∧
    (s.dev.port n).fwdHeld = false ∧
    st.toNat = stOK ∧
    k ≤ s.dev.fwdChunks ∧
    s.dev.hbmHeld 0 = false) ∧
    ∃ nx, exec (.firmwareForward n st fail) s = .next nx :=
  ⟨fw fun d => d.modPort 3 fun x => { x with fwd := some 0 }, 3, (0 : Byte), (0 : BitVec 5), 0, by decide, _, rfl⟩

theorem test_firmwareForward_3 :
    ∃ (s : State) (n : Fin 8) (st : Byte) (fail : BitVec 5) (k : _), (s.live = true ∧
    s.dev.running = true ∧
    (s.dev.port n).fwd = some k ∧
    (s.dev.port n).fwdHeld = false ∧
    (st.toNat ≠ stOK ∨ s.dev.fwdChunks < k)) ∧
    ∃ nx, exec (.firmwareForward n st fail) s = .next nx :=
  ⟨fw fun d => d.modPort 3 fun x => { x with fwd := some 1 }, 3, (0 : Byte), (0 : BitVec 5), 1, by decide, _, rfl⟩

theorem test_dlDown :
    ∃ (s : State), (s.live = true) ∧
    ∃ nx, exec .dlDown s = .next nx :=
  ⟨up id, by decide, _, rfl⟩

theorem test_dlUp :
    ∃ (s : State) (speed : Fin 8) (width : Fin 32), (s.live = true) ∧
    ∃ nx, exec (.dlUp speed width) s = .next nx :=
  ⟨up id, 5, 16, by decide, _, rfl⟩

theorem test_hotReset :
    ∃ (s : State), (s.live = true) ∧
    ∃ nx, exec .hotReset s = .next nx :=
  ⟨up id, by decide, _, rfl⟩

theorem test_perstAssert :
    ∃ (s : State), (s.live = true) ∧
    ∃ nx, exec .perstAssert s = .next nx :=
  ⟨up id, by decide, _, rfl⟩

theorem test_perstDeassert :
    ∃ (s : State), (s.live = true) ∧
    ∃ nx, exec .perstDeassert s = .next nx :=
  ⟨up id, by decide, _, rfl⟩

theorem test_crsEnd :
    ∃ (s : State), (s.live = true ∧
    s.dev.pci.perst = false ∧
    s.dev.f F.cpBoot_STATE ≠ 0) ∧
    ∃ nx, exec .crsEnd s = .next nx :=
  ⟨fw id, by decide, _, rfl⟩

theorem test_flr :
    ∃ (s : State), (s.live = true) ∧
    ∃ nx, exec .flr s = .next nx :=
  ⟨up id, by decide, _, rfl⟩

theorem test_flrComplete :
    ∃ (s : State), (s.live = true) ∧
    ∃ nx, exec .flrComplete s = .next nx :=
  ⟨up id, by decide, _, rfl⟩

theorem test_d3hotEntry :
    ∃ (s : State), (s.live = true) ∧
    ∃ nx, exec .d3hotEntry s = .next nx :=
  ⟨up id, by decide, _, rfl⟩

theorem test_d0Entry :
    ∃ (s : State), (s.live = true) ∧
    ∃ nx, exec .d0Entry s = .next nx :=
  ⟨up id, by decide, _, rfl⟩

theorem test_msixUnmask_1 :
    ∃ (s : State) (v : Fin 2048), (s.live = true ∧
    mget s.dev.pci.pba v.val = true ∧
    s.dev.pci.fmask = false ∧
    s.dev.fb F.pciStat_D3HOT = false ∧
    s.dev.fb F.pciStat_LINK_UP = true ∧
    s.dev.pci.flr = false) ∧
    ∃ nx, exec (.msixUnmask (.entry v)) s = .next nx :=
  ⟨up fun d => ({ d with pci := { d.pci with pba := mset d.pci.pba 7 true } } : Dev).setF F.pciStat_LINK_UP 1, 7, by decide, _, rfl⟩

theorem test_msixUnmask_2 :
    ∃ (s : State), (s.live = true) ∧
    ∃ nx, exec (.msixUnmask (.function true)) s = .next nx :=
  ⟨up id, by decide, _, rfl⟩

theorem test_msixUnmask_3 :
    ∃ (s : State), (s.live = true) ∧
    ∃ nx, exec (.msixUnmask (.function false)) s = .next nx :=
  ⟨up fun d => ({ d with pci := { d.pci with pba := mset d.pci.pba 7 true, fmask := true, msix := mset d.pci.msix 7 ⟨0x1000, 5, true⟩ } } : Dev).setF F.pciStat_LINK_UP 1, by decide, _, rfl⟩

theorem test_pciHqCfgWrite_1 :
    ∃ (s : State) (p : _) (q : Fin 256) (w : _), (let d1 := s.dev.writeByType p (R.pciHqCfg q) w
    s.live = true ∧
    (d1.hq q).hold = false ∧
    (d1.hq q).push = d1.fb (F.pciHqCfg_PUSH q)) ∧
    ∃ nx, exec (.pciHqCfgWrite p q w) s = .next nx :=
  ⟨up id, .cp, 9, 0x800000000, by dsimp only; decide, _, rfl⟩

theorem test_pciHqCfgWrite_2 :
    ∃ (s : State) (p : _) (q : Fin 256) (w : _), (let d1 := s.dev.writeByType p (R.pciHqCfg q) w
    s.live = true ∧
    (d1.hq q).hold = false ∧
    (d1.hq q).push = false ∧
    d1.fb (F.pciHqCfg_PUSH q) = true ∧
    ((d1.hq q).inPkt = false ∨ 1024 ≤ (d1.hq q).pull.length)) ∧
    ∃ nx, exec (.pciHqCfgWrite p q w) s = .next nx :=
  ⟨up fun d => d.modHq 9 fun x => { x with pull := [1, 2] }, .cp, 9, 0xC00000000, by dsimp only; decide, _, rfl⟩

theorem test_pciHqCfgWrite_3 :
    ∃ (s : State) (p : _) (q : Fin 256) (w : _), (let d1 := s.dev.writeByType p (R.pciHqCfg q) w
    s.live = true ∧
    (d1.hq q).hold = true ∧
    bitOf w 35 = true ∧
    (d1.hq q).push = d1.fb (F.pciHqCfg_PUSH q)) ∧
    ∃ nx, exec (.pciHqCfgWrite p q w) s = .next nx :=
  ⟨up fun d => (d.modHq 9 fun x => { x with hold := true }).modChain 9 fun c => { c with pkts := [{ (default : BklPkt) with cont := true }] }, .cp, 9, 0x800000000, by dsimp only; decide, _, rfl⟩

theorem test_bar4Read_1 :
    ∃ (s : State) (q : Fin 256) (off : BitVec 22) (len : Fin 4097), (s.live = true ∧
    off.toNat % 72 = 0 ∧
    len.val % 72 = 0 ∧
    s.dev.fb (F.pciHqCfg_PUSH q) = false ∧
    s.dev.fb (F.pciHqCfg_EN q) = true) ∧
    ∃ nx, exec (.bar4Read q off len) s = .next nx :=
  ⟨up fun d => (d.setF (F.pciHqCfg_EN 9) 1).modHq 9 fun x => { x with pull := [1, 2, 3] }, 9, 72, 144, by decide, _, rfl⟩

theorem test_bar4Write :
    ∃ (s : State) (q : Fin 256) (off : BitVec 22), (s.live = true) ∧
    ∃ nx, exec (.bar4Write q off) s = .next nx :=
  ⟨up id, 9, 72, by decide, _, rfl⟩

theorem test_bar4Read_2 :
    ∃ (s : State) (q : Fin 256) (off : BitVec 22) (len : Fin 4097), (s.live = true ∧
    (off.toNat % 72 ≠ 0 ∨ len.val % 72 ≠ 0)) ∧
    ∃ nx, exec (.bar4Read q off len) s = .next nx :=
  ⟨up id, 9, 71, 144, by decide, _, rfl⟩

theorem test_flushTimeout :
    ∃ (s : State) (q : Fin 256), (s.live = true ∧
    (s.dev.hq q).push = true ∧
    (s.dev.hq q).grp ≠ [] ∧
    (s.dev.hq q).grp.length < 16 ∧
    s.dev.ringFull q = false ∧
    s.dev.hostStalled = false ∧
    (s.dev.hq q).hold = false) ∧
    ∃ nx, exec (.flushTimeout q) s = .next nx :=
  ⟨up fun d => d.modHq 9 fun x => { x with grp := [1, 2, 3], push := true }, 9, by decide, _, rfl⟩

theorem test_bklInfo :
    ∃ (s : State) (n : Mbx) (e : _), (s.served n 0xA20 1 = true ∧
    (s.dev.arg n 1).toNat = e ∧
    e ≤ 268) ∧
    ∃ nx, exec (.bklInfo n) s = .next nx :=
  ⟨cmd 0xA20 [200] id, 0, 200, by decide, _, rfl⟩

theorem test_egressStall :
    ∃ (s : State) (e : Fin 269), (s.live = true ∧
    s.dev.egWaits e = true) ∧
    ∃ nx, exec (.egressStall e) s = .next nx :=
  ⟨up id, 257, by decide, _, rfl⟩

theorem test_backlogDrain_1 :
    ∃ (s : State) (e : Fin 269), (let d0 := (if e.val < 256 then s.dev.hqPump e else s.dev).egFlow e
    s.live = true ∧
    e.val < 268 ∧
    ((d0.chain e).pkts = [] ∨ d0.egStalled e = true)) ∧
    ∃ nx, exec (.backlogDrain e) s = .next nx :=
  ⟨up id, 9, by dsimp only; decide, _, rfl⟩

theorem test_backlogDrain_2 :
    ∃ (s : State) (e : Fin 269) (p : _) (ps : _), (let d0 := (s.dev.hqPump e).egFlow e
    s.live = true ∧
    e.val < 256 ∧
    (d0.chain e).pkts = p :: ps ∧
    d0.egStalled e = false ∧
    d0.bklHeld p = false ∧
    d0.fb (F.pciHqCfg_EN e) = true ∧
    ((d0.bklOut p).2.hqDeliver e (d0.bklOut p).1).1 = []) ∧
    ∃ nx, exec (.backlogDrain e) s = .next nx :=
  ⟨up fun d => (d.setF (F.pciHqCfg_EN 9) 1).modChain 9 fun c => { c with chunks := [⟨0, 6, []⟩], pkts := [{ (default : BklPkt) with head := 7, spans := [(0, 0, 3)] }, { (default : BklPkt) with head := 8, spans := [(0, 3, 3)] }] }, 9, { (default : BklPkt) with head := 7, spans := [(0, 0, 3)] }, [{ (default : BklPkt) with head := 8, spans := [(0, 3, 3)] }], by dsimp only; decide, _, rfl⟩

theorem test_backlogDrain_3 :
    ∃ (s : State) (e : Fin 269) (p : _) (ps : _), (let d0 := s.dev.egFlow e
    let m := p.info.seg 1 p.dest (!p.cont && !p.begun) (decide ((d0.bklOut p).1.length ≤ 31)) ((d0.bklOut p).1.take 31)
    s.live = true ∧
    256 ≤ e.val ∧
    e.val < 264 ∧
    (d0.chain e).pkts = p :: ps ∧
    d0.egStalled e = false ∧
    d0.bklHeld p = false ∧
    d0.linkOpen (e.val - 256) = true ∧
    (d0.port (e.val - 256)).canSend m = true ∧
    ((d0.port (e.val - 256)).txq.any fun m => m.cls == 5) = false ∧
    (d0.port (e.val - 256)).unacked.length < 512) ∧
    ∃ nx, exec (.backlogDrain e) s = .next nx :=
  ⟨up fun d => ((d.setF (F.lnkStat_STATE 1) 2).modPort 1 fun x => { x with credit := mset x.credit 5 8 }).modChain 257 fun c => { c with chunks := [⟨0, 3, []⟩], pkts := [{ (default : BklPkt) with head := 7, dest := 9, spans := [(0, 0, 3)] }] }, 257, { (default : BklPkt) with head := 7, dest := 9, spans := [(0, 0, 3)] }, [], by dsimp only; decide, _, rfl⟩

theorem test_backlogDrain_4 :
    ∃ (s : State) (e : Fin 269) (p : _) (ps : _), (let d0 := s.dev.egFlow e
    s.live = true ∧
    264 ≤ e.val ∧
    e.val < 268 ∧
    (d0.chain e).pkts = p :: ps ∧
    d0.egStalled e = false ∧
    d0.bklHeld p = false ∧
    d0.fb (F.brgOwinCfg_EN (p.dest / 2 ^ 26 % 16)) = false) ∧
    ∃ nx, exec (.backlogDrain e) s = .next nx :=
  ⟨up fun d => (d.setF (F.fiuStat_STATE 1) 4).modChain 265 fun c => { c with chunks := [⟨0, 3, []⟩], pkts := [{ (default : BklPkt) with head := 7, spans := [(0, 0, 3)] }] }, 265, { (default : BklPkt) with head := 7, spans := [(0, 0, 3)] }, [], by dsimp only; decide, _, rfl⟩

theorem test_backlogDrain_5 :
    ∃ (s : State) (e : Fin 269) (p : _) (ps : _) (k : _) (r : _), (let d0 := s.dev.egFlow e
    let w := p.dest / 2 ^ 26 % 16
    s.live = true ∧
    264 ≤ e.val ∧
    e.val < 268 ∧
    (d0.chain e).pkts = p :: ps ∧
    d0.egStalled e = false ∧
    d0.bklHeld p = false ∧
    d0.fb (F.brgOwinCfg_EN w) = true ∧
    p.run = some r ∧
    d0.nextCycle w (p.dest % 2 ^ 26) (d0.bklOut p).1.length = some k ∧
    (d0.fp (e.val - 264)).pFill + k ≤ 1024 ∧
    d0.postedWaits (e.val - 264) = false) ∧
    ∃ nx, exec (.backlogDrain e) s = .next nx :=
  ⟨up fun d => ((((d.setF (F.fiuStat_STATE 1) 4).setF (F.brgOwinCfg_EN 0) 1).setF (F.brgOwinCfg_PORT 0) 1).setF (F.brgOwinCfg_LIMIT 0) 63).modChain 265 fun c => { c with chunks := [⟨0, 2, []⟩], pkts := [{ (default : BklPkt) with head := 7, spans := [(0, 0, 2)], run := some 3 }] }, 265, { (default : BklPkt) with head := 7, spans := [(0, 0, 2)], run := some 3 }, [], 2, 3, by dsimp only; decide, _, rfl⟩

theorem test_backlogDrain_6 :
    ∃ (s : State), (s.live = true ∧
    ((s.dev.chain 268).pkts.all fun p => (s.dev.routeOf 1 p.dest).isNone) = true) ∧
    ∃ nx, exec (.backlogDrain 268) s = .next nx :=
  ⟨up fun d => d.modChain 268 fun c => { c with pkts := [{ (default : BklPkt) with head := 7, dest := 9, kind := 1 }] }, by decide, _, rfl⟩

theorem test_backlogDrain_7 :
    ∃ (s : State) (p : _) (ps : _), (s.live = true ∧
    (s.dev.chain 268).pkts = p :: ps ∧
    (s.dev.routeOf 1 p.dest).isSome = true ∧
    s.dev.bklHeld p = false) ∧
    ∃ nx, exec (.backlogDrain 268) s = .next nx :=
  ⟨up fun d => ((d.wr (srtTab + 9) 0x802000000).setF (F.lnkStat_STATE 1) 2).modChain 268 fun c => { c with chunks := [⟨0, 3, []⟩], pkts := [{ (default : BklPkt) with head := 7, dest := 9, spans := [(0, 0, 3)] }, { (default : BklPkt) with head := 8, dest := 10 }] }, { (default : BklPkt) with head := 7, dest := 9, spans := [(0, 0, 3)] }, [{ (default : BklPkt) with head := 8, dest := 10 }], by decide, _, rfl⟩

theorem test_errLogRead :
    ∃ (s : State) (n : Mbx) (c : _), (s.served n 0xA00 2 = true ∧
    (s.dev.arg n 2).toNat = c ∧
    0 < c ∧
    c ≤ 50) ∧
    ∃ nx, exec (.errLogRead n) s = .next nx :=
  ⟨cmd 0xA00 [0, 5] id, 0, 5, by decide, _, rfl⟩

theorem test_errQpop_1 :
    ∃ (s : State) (p : _) (e : _) (es : _), (s.live = true ∧
    s.dev.err.queue = e :: es) ∧
    ∃ nx, exec (.errQpop p) s = .next nx :=
  ⟨up fun d => { d with err := { d.err with queue := [[1, 2, 3, 4]] } }, .cp, [1, 2, 3, 4], [], by decide, _, rfl⟩

theorem test_errQpop_2 :
    ∃ (s : State) (p : _), (s.live = true ∧
    s.dev.err.queue = []) ∧
    ∃ nx, exec (.errQpop p) s = .next nx :=
  ⟨up id, .cp, by decide, _, rfl⟩

theorem test_hbmChannelFailure :
    ∃ (s : State) (st : Fin 2) (ch : Fin 16), (s.live = true ∧
    mget s.dev.err.hbmFail st.val = 0 ∧
    s.dev.hbmSpare st = true) ∧
    ∃ nx, exec (.hbmChannelFailure st ch) s = .next nx :=
  ⟨up fun d => (d.setF (F.errHbmUse_GROUPS 1) 5).setF (F.errHbmSpare_BASE 1) 5, 1, 3, by decide, _, rfl⟩

theorem test_remapComplete :
    ∃ (s : State) (st : Fin 2), (s.live = true ∧
    mget s.dev.err.hbmStop st.val = true) ∧
    ∃ nx, exec (.remapComplete st) s = .next nx :=
  ⟨up fun d => { d with err := { d.err with hbmStop := mset d.err.hbmStop 1 true, hbmKept := [(0x100000007, [7])] } }, 1, by decide, _, rfl⟩

theorem test_ksRead_1 :
    ∃ (s : State) (n : Mbx) (a : _) (c : _), (s.served n 0xA10 2 = true ∧
    s.dev.ksBusy = false ∧
    (s.dev.arg n 1).toNat = a ∧
    (s.dev.arg n 2).toNat = c ∧
    0 < c ∧
    c ≤ 254 ∧
    a + c ≤ 0x10000 ∧
    ((List.range c).all fun i => !s.ks.bad.contains (a + i)) = true) ∧
    ∃ nx, exec (.ksRead n) s = .next nx :=
  ⟨cmd 0xA10 [5, 3] id, 0, 5, 3, by decide, _, rfl⟩

theorem test_ksRead_2 :
    ∃ (s : State) (n : Mbx) (a : _) (c : _), (s.served n 0xA10 2 = true ∧
    s.dev.ksBusy = false ∧
    (s.dev.arg n 1).toNat = a ∧
    (s.dev.arg n 2).toNat = c ∧
    0 < c ∧
    c ≤ 254 ∧
    a + c ≤ 0x10000 ∧
    ((List.range c).any fun i => s.ks.bad.contains (a + i)) = true) ∧
    ∃ nx, exec (.ksRead n) s = .next nx :=
  ⟨{ cmd 0xA10 [5, 3] id with ks := { State.reset.ks with bad := [6] } }, 0, 5, 3, by decide, _, rfl⟩

theorem test_ksErase :
    ∃ (s : State) (n : Mbx) (sec : _), (s.served n 0xA11 1 = true ∧
    s.dev.ksBusy = false ∧
    (s.dev.arg n 1).toNat = sec ∧
    12 ≤ sec ∧
    sec ≤ 63 ∧
    n.val < 14) ∧
    ∃ nx, exec (.ksErase n) s = .next nx :=
  ⟨cmd 0xA11 [20] id, 0, 20, by decide, _, rfl⟩

theorem test_ksProgram :
    ∃ (s : State) (n : Mbx) (len : _) (a : _), (let ws := (s.dev.mb n).req.drop 2
    s.served n 0xA12 (len + 2) = true ∧
    s.dev.ksBusy = false ∧
    (s.dev.arg n 1).toNat = a ∧
    0x3000 ≤ a ∧
    a ≤ 0xFFFF ∧
    a % 1024 + ws.length ≤ 1024 ∧
    (ws.all fun w => bitsOf w 35 32 == 0) = true ∧
    n.val < 14 ∧
    s.ks.pend.contains (a / 1024) = false ∧
    ((List.range ws.length).all fun i => s.ks.rd (a + i) == erasedW) = true) ∧
    ∃ nx, exec (.ksProgram n) s = .next nx :=
  ⟨cmd 0xA12 [0x3001, 7, 8] id, 0, 1, 0x3001, by dsimp only; decide, _, rfl⟩

theorem test_ksRecord :
    ∃ (s : State) (n : Mbx) (len : _) (t : _) (f : _), (s.served n 0xA13 len = true ∧
    (len = 1 ∨ len = 2) ∧
    s.dev.ksBusy = false ∧
    (s.dev.arg n 1).toNat = t ∧
    (s.dev.arg n 2).toNat = f ∧
    t < 0x80 ∧
    t ≠ 0x20 ∧
    f ≤ 1021) ∧
    ∃ nx, exec (.ksRecord n) s = .next nx :=
  ⟨cmd 0xA13 [2] id, 0, 1, 2, 0, by decide, _, rfl⟩

theorem test_ksOperationDone_1 :
    ∃ (s : State) (n : _) (sec : _), (s.live = true ∧
    s.dev.err.ksOp = some (.erase n sec)) ∧
    ∃ nx, exec .ksOperationDone s = .next nx :=
  ⟨fw fun d => d.ksStart (.erase 3 20) 1, 3, 20, by decide, _, rfl⟩

theorem test_ksOperationDone_2 :
    ∃ (s : State) (n : _) (a : _) (ws : _), (s.live = true ∧
    s.dev.err.ksOp = some (.program n a ws)) ∧
    ∃ nx, exec .ksOperationDone s = .next nx :=
  ⟨fw fun d => d.ksStart (.program 3 0x3001 [7, 8]) 2, 3, 0x3001, [7, 8], by decide, _, rfl⟩

theorem test_ksOperationDone_3 :
    ∃ (s : State) (n : _) (t : _) (f : _), (s.live = true ∧
    s.dev.err.ksOp = some (.record n t f)) ∧
    ∃ nx, exec .ksOperationDone s = .next nx :=
  ⟨fw fun d => d.ksStart (.record 3 2 0) 3, 3, 2, 0, by decide, _, rfl⟩

theorem test_vaonApplied :
    ∃ (s : State), ∃ nx, exec .vaonApplied s = .next nx :=
  ⟨State.reset, _, rfl⟩

theorem test_resetRelease :
    ∃ (s : State), (s.dev.pwr.railOff = false ∧
    s.dev.pwr.held = true ∧
    s.dev.pwr.src ≠ 0) ∧
    ∃ nx, exec .resetRelease s = .next nx :=
  ⟨{ State.reset with dev := State.reset.dev.modPwr fun p => { p with held := true, railOff := false, src := 2 } }, by decide, _, rfl⟩

theorem test_rstNAsserted :
    ∃ (s : State), (s.live = true) ∧
    ∃ nx, exec .rstNAsserted s = .next nx :=
  ⟨up id, by decide, _, rfl⟩

theorem test_diePairingDone :
    ∃ (s : State), (s.live = true ∧
    s.dev.bootState = 0) ∧
    ∃ nx, exec .diePairingDone s = .next nx :=
  ⟨up id, by decide, _, rfl⟩

theorem test_pwrStandby :
    ∃ (s : State) (n : Mbx), (s.served n 0xB00 0 = true ∧
    ((List.range 16).all fun l => s.dev.felState l == 0) = true ∧
    ((List.range 1024).all fun k => !s.dev.fchRun k) = true ∧
    s.dev.f F.cohStat_STATE ≠ 2) ∧
    ∃ nx, exec (.pwrStandby n) s = .next nx :=
  ⟨cmd 0xB00 [] id, 0, by decide +kernel, _, rfl⟩

theorem test_standbyEntry :
    ∃ (s : State), (s.live = true ∧
    s.dev.pwr.standby = true) ∧
    ∃ nx, exec .standbyEntry s = .next nx :=
  ⟨up fun d => d.modPwr fun p => { p with standby := true }, by decide, _, rfl⟩

theorem test_wakeRequest_1 :
    ∃ (s : State), ((s.dev.pwr.railOff || s.dev.pwr.standby) = true ∧
    s.dev.pwr.cool = 0) ∧
    ∃ nx, exec .wakeRequest s = .next nx :=
  ⟨up fun d => d.modPwr fun p => { p with standby := true }, by decide, _, rfl⟩

theorem test_wakeRequest_2 :
    ∃ (s : State), (0 < s.dev.pwr.cool) ∧
    ∃ nx, exec .wakeRequest s = .next nx :=
  ⟨{ State.reset with dev := State.reset.dev.modPwr fun p => { p with cool := 3 } }, by decide, _, rfl⟩

theorem test_wakeRailEnable :
    ∃ (s : State), (s.dev.pwr.railOff = true ∧
    s.dev.pwr.wake = true) ∧
    ∃ nx, exec .wakeRailEnable s = .next nx :=
  ⟨up fun d => d.modPwr fun p => { p with railOff := true, wake := true }, by decide, _, rfl⟩

theorem test_supplyLoss_1 :
    ∃ (s : State), (s.live = true) ∧
    ∃ nx, exec .supplyLoss s = .next nx :=
  ⟨up id, by decide, _, rfl⟩

theorem test_supplyLoss_2 :
    ∃ (s : State) (x : _), (s.dev.pwr.held = true ∧
    s.dev.pwr.stopNow = some x ∧
    x.cause = 3) ∧
    ∃ nx, exec .supplyLoss s = .next nx :=
  ⟨{ State.reset with dev := State.reset.dev.modPwr fun p => { p with held := true, railOff := true, stopNow := some { (default : StopTie) with cause := 3 } } }, { (default : StopTie) with cause := 3 }, by decide, _, rfl⟩

theorem test_railMonitorSample :
    ∃ (s : State) (mv : _) (cur : _), (s.live = true) ∧
    ∃ nx, exec (.railMonitorSample mv cur) s = .next nx :=
  ⟨up id, [750, 751], [3, 7], by decide, _, rfl⟩

theorem test_sensorConversion_1 :
    ∃ (s : State) (i : Fin 12) (t : _), (s.live = true ∧
    (10 ≤ i.val ∨ mget s.dev.pwr.hot i = false ∨ (s.dev.sensorRead i t.toNat).1 < 0x730)) ∧
    ∃ nx, exec (.sensorConversion i t) s = .next nx :=
  ⟨up id, 3, 0x750, by decide, _, rfl⟩

theorem test_sensorConversion_2 :
    ∃ (s : State) (i : Fin 12) (t : BitVec 12), (let r := s.dev.sensorRead i t.toNat
    let d := ((r.2.warnEval i r.1).coldEval i r.1).modPwr fun p => { p with hot := mset p.hot i.val true }
    s.live = true ∧
    i.val < 10 ∧
    mget s.dev.pwr.hot i = true ∧
    r.1 ≥ 0x730) ∧
    ∃ nx, exec (.sensorConversion i t) s = .next nx :=
  ⟨up fun d => d.modPwr fun p => { p with hot := mset p.hot 3 true }, 3, 0x740, by dsimp only; decide, _, rfl⟩

theorem test_throttleUpdate :
    ∃ (s : State), (s.live = true) ∧
    ∃ nx, exec .throttleUpdate s = .next nx :=
  ⟨up fun d => (d.setF (F.thmSens_TEMP 3) 0x700).setF (F.thmStat_STEP) 1, by decide, _, rfl⟩

theorem test_trimUpdate :
    ∃ (s : State), (s.live = true) ∧
    ∃ nx, exec .trimUpdate s = .next nx :=
  ⟨up fun d => d.setF (F.thmSens_TEMP 3) 0x100, by decide, _, rfl⟩

theorem test_loopInSample :
    ∃ (s : State) (k : Fin 16) (raw : _), (s.live = true ∧
    s.dev.fb (F.loopInCfg_EN k) = true) ∧
    ∃ nx, exec (.loopInSample k raw) s = .next nx :=
  ⟨up fun d => d.setF (F.loopInCfg_EN 3) 1, 3, 22000000, by decide, _, rfl⟩

theorem test_loopSetWrite_1 :
    ∃ (s : State) (p : _) (k : Fin 16) (w : _), (s.live = true ∧
    s.dev.tieOf 4 k = none) ∧
    ∃ nx, exec (.loopSetWrite p k w) s = .next nx :=
  ⟨up id, .cp, 3, 5000000, by decide, _, rfl⟩

theorem test_loopSetWrite_2 :
    ∃ (s : State) (p : _) (k : Fin 16) (w : _) (x : _), (s.live = true ∧
    s.dev.tieOf 4 k = some x) ∧
    ∃ nx, exec (.loopSetWrite p k w) s = .next nx :=
  ⟨up fun d => { d with ties := [{ kind := 4, idx := 3, edge := 1, before := d.snap, after := d.snap }] }, .cp, 3, 5000000, { kind := 4, idx := 3, edge := 1, before := (up id).dev.snap, after := (up id).dev.snap }, by decide, _, rfl⟩

theorem test_loopOutSample :
    ∃ (s : State) (k : Fin 16) (cur : _) (vloop : _) (v : _), (s.live = true ∧
    s.dev.fb (F.loopOutCfg_EN k) = true ∧
    1800 ≤ vloop.toNat ∧
    (mget s.dev.pwr.loopOut k.val).pend = some v) ∧
    ∃ nx, exec (.loopOutSample k cur vloop) s = .next nx :=
  ⟨up fun d => (d.setF (F.loopOutCfg_EN 3) 1).modLoopOut 3 fun x => { x with pend := some 7000000 }, 3, 7000000, 2400, 7000000, by decide, _, rfl⟩

theorem test_loopWatchdogExpiry_1 :
    ∃ (s : State) (k : Fin 16), (s.live = true ∧
    s.dev.f (F.loopOutCfg_WDOG k) ≠ 0 ∧
    (mget s.dev.pwr.loopOut k).setEdge ≠ s.dev.epo.edges + 1) ∧
    ∃ nx, exec (.loopWatchdogExpiry k) s = .next nx :=
  ⟨up fun d => (d.setF (F.loopOutCfg_EN 3) 1).setF (F.loopOutCfg_WDOG 3) 5, 3, by decide, _, rfl⟩

theorem test_loopWatchdogExpiry_2 :
    ∃ (s : State) (k : Fin 16), (s.live = true ∧
    (mget s.dev.pwr.loopOut k).setEdge = s.dev.epo.edges + 1) ∧
    ∃ nx, exec (.loopWatchdogExpiry k) s = .next nx :=
  ⟨up fun d => d.modLoopOut 3 fun x => { x with setEdge := 1 }, 3, by decide, _, rfl⟩

theorem test_loopGet :
    ∃ (s : State) (n : Mbx), (s.served n 0xB01 0 = true) ∧
    ∃ nx, exec (.loopGet n) s = .next nx :=
  ⟨cmd 0xB01 [] id, 0, by decide, _, rfl⟩
end

section
/-! A command's answer to a package that no route leads to is held in the backlog reserve, in memory (R405, R437). -/

namespace Sys2Proof.Machine

/-- The chain of egress 268, the unrouted one: its only chunk is full but for the last word, with a packet that the drain has
begun to deliver. -/
def nearlyFullChain : Chain :=
  { chunks := [⟨0, 991, []⟩], stalled := true
    pkts := [{ (default : BklPkt) with spans := [(0, 1, 990)], begun := true, srt := true }] }

/-- The firmware runs, and package 7, to which no entry of the system route table leads, has had a PING placed in mailbox 8
(R64); the backlog reserve has one chunk, in which one word is free. -/
def unreachablePing : State :=
  let d := (State.reset.dev.setF F.cpBoot_STATE 5).setF F.errBklCfg_LEN 1
  let d := d.modMb 8 fun m => { m with req := [mkW [(35, 24, 0x001)]], busy := true, origin := .lysith 7 0 }
  let d := d.modChain 268 fun _ => nearlyFullChain
  { State.reset with dev := { d with cp := { d.cp with doorbells := [8] }, pwr := { d.pwr with held := false } } }

set_option maxRecDepth 20000 in
/-- The first word of the answer goes to the free word of the chunk; the second finds the reserve full. -/
theorem exec_ping_stores :
    ∃ t, exec (.ping 8) unreachablePing = .next t ∧ t.dev.rd 0x2003EF ≠ unreachablePing.dev.rd 0x2003EF :=
  ⟨_, rfl, by decide⟩

/-- Refutes O10: a PING whose answer goes to an unreachable package stores words of that answer in the backlog reserve. -/
theorem not_storesNothing : ¬ Obligations.StoresNothing := by
  unfold Obligations.StoresNothing
  intro h
  obtain ⟨t, ht, hne⟩ := exec_ping_stores
  obtain ⟨-, hrd⟩ := h unreachablePing t (.ping 8) rfl ht
  exact hne (hrd 0x2003EF)

end Sys2Proof.Machine
end

section
/-! What the folds over a register's fields leave and change: the fields of a table lie apart, so each is touched by its own
step alone (R11, R12, R77, R78). -/

namespace Sys2Proof.Machine

/-! ### Fields and bits apart -/

/-- The field and bits hi:lo lie in the word and share no bit. -/
def FldRow.avoids (g : FldRow) (hi lo : Nat) : Prop := g.lo ≤ g.hi ∧ g.hi < 36 ∧ lo ≤ hi ∧ (g.hi < lo ∨ hi < g.lo)

theorem bitsOf_putBits_avoids (w : Word) (v : Nat) {g : FldRow} {hi lo : Nat} (h : g.avoids hi lo) :
    bitsOf (putBits w g.hi g.lo v) hi lo = bitsOf w hi lo := by
  obtain ⟨hg, h36, hf, hd | hd⟩ := h
  · exact bitsOf_putBits_above w v hg h36 hd
  · exact bitsOf_putBits_below w v hg h36 hd hf

/-- A field given a value that fits reads it back. -/
theorem bitsOf_putBits_fits (w : Word) {hi lo v : Nat} (h : lo ≤ hi) (h36 : hi < 36) (hv : v < 2 ^ (hi + 1 - lo)) :
    bitsOf (putBits w hi lo v) hi lo = v := by
  rw [bitsOf_putBits_same w v h h36, Nat.mod_eq_of_lt hv]

@[simp] theorem bitsOf_zero (hi lo : Nat) : bitsOf 0 hi lo = 0 := by simp [bitsOf]

/-- A single bit is the field of its own place. -/
theorem bitOf_eq_bitsOf (w : Word) (i : Nat) : bitOf w i = decide (bitsOf w i i = 1) := by
  have hi : i + 1 - i = 1 := by omega
  rw [bitOf, ← BitVec.testBit_toNat, Nat.testBit_eq_decide_div_mod_eq, bitsOf, hi, Nat.pow_one]

/-- A bit in no field is avoided by every field. -/
theorem avoids_of_reserved {fs : List FldRow} {i : Nat} (hin : ∀ f ∈ fs, f.lo ≤ f.hi ∧ f.hi < 36)
    (hres : ∀ f ∈ fs, ¬ (f.lo ≤ i ∧ i ≤ f.hi)) : ∀ f ∈ fs, f.avoids i i := by
  intro f hf
  obtain ⟨hle, h36⟩ := hin f hf
  have hno := hres f hf
  exact ⟨hle, h36, Nat.le_refl i, by omega⟩

/-- A field of a table whose fields do not overlap: it lies in the word, and the fields before and after it avoid it. -/
theorem apart_split {fs : List FldRow} {f : FldRow} (ha : apart fs = true) (hf : f ∈ fs) :
    f.lo ≤ f.hi ∧ f.hi < 36 ∧ ∃ pre post, fs = pre ++ f :: post ∧
      (∀ g ∈ pre, g.avoids f.hi f.lo) ∧ ∀ g ∈ post, g.avoids f.hi f.lo := by
  simp only [apart, Bool.and_eq_true, List.all_eq_true, decide_eq_true_eq] at ha
  obtain ⟨hin, hpw⟩ := ha
  obtain ⟨pre, post, rfl⟩ := List.append_of_mem hf
  obtain ⟨-, hpost, hpre⟩ := List.pairwise_append.mp hpw
  obtain ⟨hle, h36⟩ := hin f hf
  refine ⟨hle, h36, pre, post, rfl, fun g hg => ?_, fun g hg => ?_⟩
  · obtain ⟨h1, h2⟩ := hin g (by simp [hg])
    exact ⟨h1, h2, hle, hpre g hg f (by simp)⟩
  · obtain ⟨h1, h2⟩ := hin g (by simp [hg])
    exact ⟨h1, h2, hle, ((List.pairwise_cons.mp hpost).1 g hg).symm⟩

/-! ### Folds whose steps stay in their field -/

/-- A step of a fold over fields changes of the word of its state only the bits of its own field. -/
def StaysInField {α : Type} (word : α → Word) (st : α → FldRow → α) : Prop :=
  ∀ a g hi lo, g.avoids hi lo → bitsOf (word (st a g)) hi lo = bitsOf (word a) hi lo

section Fold
variable {α : Type} {word : α → Word} {st : α → FldRow → α}

/-- Bits that every field of the fold avoids stay. -/
theorem StaysInField.foldl_bits (hs : StaysInField word st) {hi lo : Nat} {fs : List FldRow}
    (h : ∀ g ∈ fs, g.avoids hi lo) (a : α) : bitsOf (word (fs.foldl st a)) hi lo = bitsOf (word a) hi lo := by
  induction fs generalizing a with
  | nil => rfl
  | cons g fs ih =>
    rw [List.foldl_cons, ih (fun x hx => h x (List.mem_cons_of_mem _ hx)), hs a g hi lo (h g List.mem_cons_self)]

/-- What a fold over fields that do not overlap does to one of them is what that field's own step does, from a state in which
the field is still as at the start. -/
theorem StaysInField.foldl_field (hs : StaysInField word st) {fs : List FldRow} {f : FldRow} (ha : apart fs = true)
    (hf : f ∈ fs) (a : α) :
    ∃ b, bitsOf (word b) f.hi f.lo = bitsOf (word a) f.hi f.lo ∧
      bitsOf (word (fs.foldl st a)) f.hi f.lo = bitsOf (word (st b f)) f.hi f.lo := by
  obtain ⟨-, -, pre, post, rfl, hpre, hpost⟩ := apart_split ha hf
  refine ⟨pre.foldl st a, hs.foldl_bits hpre a, ?_⟩
  rw [List.foldl_append, List.foldl_cons, hs.foldl_bits hpost]

end Fold

/-! ### A write by field types -/

theorem writeField_stays (locked : Bool) (old new : Word) : StaysInField Prod.fst (writeField locked old new) := by
  intro a g hi lo h
  have hput := fun v => bitsOf_putBits_avoids a.1 v h
  unfold writeField
  cases g.acc with
  | rw | w1c => exact hput _
  | ro | rc | wo => rfl
  | w1 =>
    dsimp only
    split
    · exact hput _
    · rfl
  | lk =>
    dsimp only
    split
    · rfl
    · exact hput _

/-- The value of a field of value `cur` after a write of `v` (R11, R77, R78). -/
def FldRow.written (f : FldRow) (locked : Bool) (cur v : Nat) : Nat :=
  match f.acc with
  | .rw => v
  | .ro | .rc | .wo => cur
  | .w1c => cur - (cur &&& v)
  | .w1 => if cur = f.reset then v else cur
  | .lk => if locked then cur else v

/-- The step of a field gives it the value of its type. -/
theorem writeField_field (locked : Bool) (old new : Word) {b : Word × Bool} {f : FldRow} (hle : f.lo ≤ f.hi)
    (h36 : f.hi < 36) (hb : bitsOf b.1 f.hi f.lo = bitsOf old f.hi f.lo) :
    bitsOf (writeField locked old new b f).1 f.hi f.lo =
      f.written locked (bitsOf old f.hi f.lo) (bitsOf new f.hi f.lo) := by
  have hput : ∀ v, v < 2 ^ (f.hi + 1 - f.lo) → bitsOf (putBits b.1 f.hi f.lo v) f.hi f.lo = v :=
    fun v hv => bitsOf_putBits_fits b.1 hle h36 hv
  have hnew := hput _ (bitsOf_lt new f.hi f.lo)
  unfold writeField FldRow.written
  cases f.acc with
  | rw => exact hnew
  | ro | rc | wo => exact hb
  | w1c => exact hput _ (Nat.lt_of_le_of_lt (Nat.sub_le _ _) (bitsOf_lt old f.hi f.lo))
  | w1 | lk =>
    dsimp only
    split <;> assumption

/-- A write gives each field the value of its type. -/
theorem writeFields_field (locked : Bool) {fs : List FldRow} (old new : Word) {f : FldRow} (ha : apart fs = true)
    (hf : f ∈ fs) : bitsOf (writeFields locked fs old new).1 f.hi f.lo =
      f.written locked (bitsOf old f.hi f.lo) (bitsOf new f.hi f.lo) := by
  obtain ⟨hle, h36, -⟩ := apart_split ha hf
  obtain ⟨b, hb, hr⟩ := (writeField_stays locked old new).foldl_field ha hf (old, false)
  exact hr.trans (writeField_field locked old new hle h36 hb)

/-- A violation once met stays met. -/
theorem writeField_violated (locked : Bool) (old new : Word) (a : Word × Bool) (g : FldRow) (h : a.2 = true) :
    (writeField locked old new a g).2 = true := by
  unfold writeField
  cases g.acc with
  | rw | ro | rc | wo | w1c => exact h
  | w1 | lk =>
    dsimp only
    split <;> simp [h]

/-- A field whose own step is a violation makes the write one. -/
theorem writeFields_violates (locked : Bool) {fs : List FldRow} (old new : Word) {f : FldRow} (hf : f ∈ fs)
    (h : ∀ a, (writeField locked old new a f).2 = true) : (writeFields locked fs old new).2 = true := by
  obtain ⟨pre, post, rfl⟩ := List.append_of_mem hf
  rw [writeFields, List.foldl_append, List.foldl_cons]
  exact foldl_keeps (P := fun a : Word × Bool => a.2 = true) (writeField_violated locked old new) post (h _)

/-- A write of another value to a locked LK field is a violation. -/
theorem writeField_lk_violates (old new : Word) (a : Word × Bool) {f : FldRow} (hacc : f.acc = .lk)
    (hne : bitsOf new f.hi f.lo ≠ bitsOf old f.hi f.lo) : (writeField true old new a f).2 = true := by
  simp [writeField, hacc, hne]

/-! ### A read by field types -/

/-- One field of a read. -/
def readField (w a : Word) (f : FldRow) : Word :=
  match f.acc with
  | .wo => a
  | _ => putBits a f.hi f.lo (bitsOf w f.hi f.lo)

theorem readMask_eq (fs : List FldRow) (w : Word) : readMask fs w = fs.foldl (readField w) 0 := rfl

theorem readField_wo (w a : Word) {f : FldRow} (h : f.acc = .wo) : readField w a f = a := by simp [readField, h]

theorem readField_of_ne_wo (w a : Word) {f : FldRow} (h : f.acc ≠ .wo) :
    readField w a f = putBits a f.hi f.lo (bitsOf w f.hi f.lo) := by
  unfold readField
  split
  · contradiction
  · rfl

theorem readField_stays (w : Word) : StaysInField id (readField w) := by
  intro a g hi lo h
  by_cases hwo : g.acc = .wo
  · rw [readField_wo w a hwo]
  · rw [readField_of_ne_wo w a hwo]
    exact bitsOf_putBits_avoids a _ h

/-- A read shows each field as it is, but for WO fields, which show zero. -/
theorem readMask_field {fs : List FldRow} (w : Word) {f : FldRow} (ha : apart fs = true) (hf : f ∈ fs) :
    bitsOf (readMask fs w) f.hi f.lo = if f.acc = .wo then 0 else bitsOf w f.hi f.lo := by
  obtain ⟨hle, h36, -⟩ := apart_split ha hf
  obtain ⟨b, hb, hr⟩ := (readField_stays w).foldl_field ha hf 0
  rw [readMask_eq]
  refine hr.trans ?_
  split
  · next hwo =>
    rw [readField_wo w b hwo]
    exact hb.trans (bitsOf_zero _ _)
  · next hwo =>
    rw [readField_of_ne_wo w b hwo]
    exact bitsOf_putBits_fits b hle h36 (bitsOf_lt w _ _)

/-- One field of the clear that a read does. -/
def clearField (a : Word) (f : FldRow) : Word :=
  match f.acc with
  | .rc => putBits a f.hi f.lo 0
  | _ => a

theorem clearRc_eq (fs : List FldRow) (w : Word) : clearRc fs w = fs.foldl clearField w := rfl

theorem clearField_rc (a : Word) {f : FldRow} (h : f.acc = .rc) : clearField a f = putBits a f.hi f.lo 0 := by
  simp [clearField, h]

theorem clearField_of_ne_rc (a : Word) {f : FldRow} (h : f.acc ≠ .rc) : clearField a f = a := by
  unfold clearField
  split
  · contradiction
  · rfl

theorem clearField_stays : StaysInField id clearField := by
  intro a g hi lo h
  by_cases hrc : g.acc = .rc
  · rw [clearField_rc a hrc]
    exact bitsOf_putBits_avoids a _ h
  · rw [clearField_of_ne_rc a hrc]

/-- A read leaves each field as it is, but for RC fields, which clear. -/
theorem clearRc_field {fs : List FldRow} (w : Word) {f : FldRow} (ha : apart fs = true) (hf : f ∈ fs) :
    bitsOf (clearRc fs w) f.hi f.lo = if f.acc = .rc then 0 else bitsOf w f.hi f.lo := by
  obtain ⟨hle, h36, -⟩ := apart_split ha hf
  obtain ⟨b, hb, hr⟩ := clearField_stays.foldl_field ha hf w
  rw [clearRc_eq]
  refine hr.trans ?_
  split
  · next hrc =>
    rw [clearField_rc b hrc]
    exact bitsOf_putBits_fits b hle h36 (Nat.two_pow_pos _)
  · next hrc =>
    rw [clearField_of_ne_rc b hrc]
    exact hb

/-! ### The statements -/

/-- Settles O14: no step of the read or the write touches a bit outside its own field. -/
theorem reservedBits : Obligations.ReservedBits := by
  unfold Obligations.ReservedBits
  refine ⟨fun fs w i hin _ hres => ?_, fun locked fs old new i hin _ hres => ?_⟩
  · have h : bitsOf (readMask fs w) i i = 0 :=
      ((readField_stays w).foldl_bits (avoids_of_reserved hin hres) 0).trans (bitsOf_zero i i)
    rw [bitOf_eq_bitsOf, h]
    rfl
  · have h := (writeField_stays locked old new).foldl_bits (avoids_of_reserved hin hres) (old, false)
    rw [bitOf_eq_bitsOf, bitOf_eq_bitsOf, writeFields, h]

/-- Settles O16: each clause is the value of a field's type after the write, or what the read does to the field. -/
theorem fieldTypes : Obligations.FieldTypes := by
  unfold Obligations.FieldTypes
  intro locked fs old new f ha hf
  have hw := writeFields_field locked old new ha hf
  refine ⟨fun h => ?_, fun h => ?_, fun h => ?_, fun h hl => ?_, fun h hl => ⟨?_, fun hne => ?_⟩,
    readMask_field old ha hf, clearRc_field old ha hf⟩
  · simpa only [FldRow.written, h] using hw
  · rcases h with h | h | h <;> simpa only [FldRow.written, h] using hw
  · simpa only [FldRow.written, h] using hw
  · simpa [FldRow.written, h, hl] using hw
  · simpa [FldRow.written, h, hl] using hw
  · subst hl
    exact writeFields_violates true old new hf fun a => writeField_lk_violates old new a h hne

end Sys2Proof.Machine
end

section
/-! The register window (R11 to R13, R88 to R91): what an access that reaches a register of this package does. -/

namespace Sys2Proof.Machine

/-! ### States after equal effects -/

theorem after_congr {s : State} {f g : Dev → Dev} (h : f s.dev = g s.dev) : s.after f = s.after g := by
  rw [State.after, State.after, h]

theorem afterBb_congr {s : State} {f g : Dev → Dev} (h : f s.dev = g s.dev) : s.afterBb f = s.afterBb g := by
  rw [State.afterBb, State.afterBb, h]

/-- A served command has the effect that it has on the block without its request. -/
theorem liftBb_served_of_eq {s : State} {n op len : Nat} (h : s.served n op len = true) {lenOk : Nat → Bool}
    (hl : lenOk len = true) {k g : Dev → Dev} (hkg : k s.dev.taken = g s.dev.taken) :
    liftBb (Dev.takeCmd n op lenOk k) s = .next (s.afterCmdBb g) := by
  rw [liftBb_served h lenOk hl, State.afterCmdBb, State.afterCmdBb,
    afterBb_congr (f := Dev.cmdDone k) (g := Dev.cmdDone g) (by rw [Dev.cmdDone, Dev.cmdDone, hkg])]

/-! ### Accesses that reach a register -/

theorem liftBb_reaches {s : State} {p : Path} {off : Nat} (h : s.reaches p off = true) {f g : Dev → Dev}
    (hfg : f s.dev = g s.dev) : liftBb f s = .next (s.afterBb g) := by
  rw [liftBb_live (reaches_live h), afterBb_congr hfg]

theorem lift_reaches {s : State} {p : Path} {off : Nat} (h : s.reaches p off = true) {f g : Dev → Dev}
    (hfg : f s.dev = g s.dev) : lift f s = .next (s.after g) := by
  rw [lift_live (reaches_live h), after_congr hfg]

theorem regWrite_reaches {s : State} {p : Path} {off : Nat} (h : s.reaches p off = true) (w : Word) :
    s.dev.regWrite p off w =
      if isLo (s.dev.regKey p off) then s.dev.writeLo p (s.dev.regKey p off) w
      else if isHi (s.dev.regKey p off) then s.dev.writeHi p (s.dev.regKey p off) w
      else s.dev.writeKey p (s.dev.regKey p off) w := by
  obtain ⟨hr, hoff⟩ := reaches_passes h
  simp [Dev.regWrite, Dev.writeRefused, hr, hoff]

theorem regWrite_lo {s : State} {p : Path} {off : Nat} (h : s.reaches p off = true)
    (hlo : isLo (s.dev.regKey p off) = true) (w : Word) :
    s.dev.regWrite p off w = s.dev.writeLo p (s.dev.regKey p off) w := by
  simp [regWrite_reaches h, hlo]

theorem regWrite_hi {s : State} {p : Path} {off : Nat} (h : s.reaches p off = true)
    (hlo : isLo (s.dev.regKey p off) = false) (hhi : isHi (s.dev.regKey p off) = true) (w : Word) :
    s.dev.regWrite p off w = s.dev.writeHi p (s.dev.regKey p off) w := by
  simp [regWrite_reaches h, hlo, hhi]

/-- A register that is no half of a pair. -/
theorem regWrite_single {s : State} {p : Path} {off : Nat} (h : s.reaches p off = true)
    (hlo : isLo (s.dev.regKey p off) = false) (hhi : isHi (s.dev.regKey p off) = false) (w : Word) :
    s.dev.regWrite p off w = s.dev.writeKey p (s.dev.regKey p off) w := by
  simp [regWrite_reaches h, hlo, hhi]

/-- The registers whose read pops a queue. -/
def popBases : List Nat := [R.mbxRsp 0, R.mbxEvt 0, R.cluQpop 0 0, R.errQpop]

/-- A read that reaches a register which pops no queue. -/
theorem regRead_reaches {s : State} {p : Path} {off : Nat} (h : s.reaches p off = true)
    (hb : ∀ b ∈ popBases, (regHome (s.dev.regKey p off)).1 ≠ b) :
    s.dev.regRead p off =
      if isLo (s.dev.regKey p off) then s.dev.readLo p (s.dev.regKey p off)
      else if isHi (s.dev.regKey p off) then s.dev.readHi p (s.dev.regKey p off)
      else if (regHome (s.dev.regKey p off)).1 = R.thmSens 0 then
        s.dev.sensRead (regHome (s.dev.regKey p off)).2.1 (s.dev.regKey p off)
      else s.dev.readByType (s.dev.regKey p off) := by
  obtain ⟨hr, hoff⟩ := reaches_passes h
  have h1 := hb (R.mbxRsp 0) (by simp [popBases])
  have h2 := hb (R.mbxEvt 0) (by simp [popBases])
  have h3 := hb (R.cluQpop 0 0) (by simp [popBases])
  have h4 := hb R.errQpop (by simp [popBases])
  simp [Dev.regRead, hr, hoff, h1, h2, h3, h4]

/-! ### Reads -/

/-- What a register read returns on its path. -/
theorem regReadOut_eq {d e : Dev} {p : Path} {off : Nat} {w : Word} (h : d.regRead p off = (w, e)) :
    d.regReadOut p off = e.emit (.readData p off w) := by
  rw [Dev.regReadOut, h]

theorem twlSync_of_none {key : Nat} (h : twlInstOf key = none) (d : Dev) : d.twlSync key = d := by
  rw [Dev.twlSync, h]

theorem showReg_plain {key : Nat} (h1 : (regHome key).1 ≠ R.pwrBlk) (h2 : (regHome key).1 ≠ R.lnkFec 0)
    (ht : twlInstOf key = none) (d : Dev) : d.showReg key = (d.liveReg key, d) := by
  rw [Dev.showReg]
  dsimp only
  rw [if_neg h1, if_neg h2, twlSync_of_none ht]

/-- A plain read by field types. -/
theorem regRead_plain {s : State} {p : Path} {off : Nat} (h : s.reaches p off = true)
    (hp : plainRead (s.dev.regKey p off) = true) :
    let key := s.dev.regKey p off
    s.dev.regRead p off =
      (readMask (fieldsOf key) (s.dev.liveReg key), s.dev.setReg key (clearRc (fieldsOf key) (s.dev.reg key))) := by
  intro key
  simp only [plainRead, Bool.and_eq_true, Bool.not_eq_eq_eq_not, Bool.not_true, Option.isNone_iff_eq_none,
    List.contains_eq_mem, decide_eq_false_iff_not, List.mem_cons, List.not_mem_nil, or_false, not_or] at hp
  obtain ⟨⟨⟨hlo, hhi⟩, hrsp, hevt, hpop, herr, hblk, hfec, hsens⟩, htwl⟩ := hp
  have hb : ∀ b ∈ popBases, (regHome (s.dev.regKey p off)).1 ≠ b := by
    simp only [popBases, List.mem_cons, List.not_mem_nil, or_false, forall_eq_or_imp, forall_eq]
    exact ⟨hrsp, hevt, hpop, herr⟩
  simp [regRead_reaches h hb, hlo, hhi, hsens, Dev.readByType, showReg_plain hblk hfec htwl, key]

/-! ### Writes -/

theorem writeKey_plain {d : Dev} {p : Path} {key : Nat} {w : Word} (h : d.plainWrite p key w = true) :
    isLo key = false ∧ isHi key = false ∧ d.writeKey p key w = d.writeByType p key w := by
  simp only [Dev.plainWrite, Bool.and_eq_true, Bool.not_eq_eq_eq_not, Bool.not_true, Option.isNone_iff_eq_none] at h
  obtain ⟨⟨⟨⟨hlo, hhi⟩, htwl⟩, hcore⟩, hother⟩ := h
  refine ⟨hlo, hhi, ?_⟩
  rw [Dev.writeKey]
  dsimp only
  rw [twlSync_of_none htwl, hcore, hother]
  rfl

/-- A write by field types that violates no lock stores the fields, unless it clears LOCK_VIOL in the cycle of a violation
(R80). -/
theorem writeByType_stores {d : Dev} {p : Path} {key : Nat} {w : Word} (hv : d.violates key w = false)
    (hl : offOfKey key = lockBase key + 8 → mget d.err.violEdge (lockBase key) ≠ d.epo.edges + 1) :
    d.writeByType p key w = d.setReg key (writeFields (d.locked key) (fieldsOf key) (d.reg key) w).1 := by
  have hlock : ¬ ((decide (offOfKey key = lockBase key + 8) &&
      mget d.err.violEdge (lockBase key) == d.epo.edges + 1) = true) := by
    simpa using hl
  rw [Dev.violates] at hv
  rw [Dev.writeByType]
  dsimp only
  rw [setReg_err, setReg_epo, if_neg hlock, hv, if_neg Bool.false_ne_true]

/-- A plain write that violates no lock. -/
theorem regWrite_plain {s : State} {p : Path} {off : Nat} {w : Word} (h : s.reaches p off = true)
    (hp : s.dev.plainWrite p (s.dev.regKey p off) w = true) (hv : s.dev.violates (s.dev.regKey p off) w = false)
    (hl : offOfKey (s.dev.regKey p off) = lockBase (s.dev.regKey p off) + 8 →
      mget s.dev.err.violEdge (lockBase (s.dev.regKey p off)) ≠ s.dev.epo.edges + 1) :
    let key := s.dev.regKey p off
    s.dev.regWrite p off w = s.dev.setReg key (writeFields (s.dev.locked key) (fieldsOf key) (s.dev.reg key) w).1 := by
  intro key
  obtain ⟨hlo, hhi, hk⟩ := writeKey_plain hp
  rw [regWrite_single h hlo hhi, hk, writeByType_stores hv hl]

/-! ### Writes that do more than store -/

theorem reg_setF_ne (d : Dev) (fl : Fld) (v : Nat) {o : Nat} (h : o ≠ fl.off) : (d.setF fl v).reg o = d.reg o :=
  reg_setReg_ne d _ h

theorem reg_of_err (d : Dev) (x : ErrUnit) (o : Nat) : ({ d with err := x } : Dev).reg o = d.reg o := rfl

/-- What a violation records leaves every register but the BLOCK_LOCK of its block. -/
theorem violation_reg_ne (p : Path) {key o : Nat} (d : Dev) (h : o ≠ lockBase key + 8) :
    (d.violation p key).reg o = d.reg o := by
  obtain ⟨i, hb⟩ : ∃ i, (instOf (offOfKey key)).getD (0, 0) = (lockBase key, i) := by
    unfold lockBase
    cases instOf (offOfKey key) with
    | none => exact ⟨0, rfl⟩
    | some x => exact ⟨x.2, rfl⟩
  rw [Dev.violation, hb]
  dsimp only
  rw [event_reg]
  exact (reg_of_err _ _ o).trans ((reg_setF_ne _ _ _ h).trans ((reg_setF_ne _ _ _ h).trans (reg_setF_ne _ _ _ h)))

/-- A write by field types leaves every register but the one written and the BLOCK_LOCK of its block. -/
theorem writeByType_reg_ne (p : Path) {key o : Nat} (w : Word) (d : Dev) (hk : o ≠ key) (hl : o ≠ lockBase key + 8) :
    (d.writeByType p key w).reg o = d.reg o := by
  unfold Dev.writeByType
  dsimp only
  have hset := reg_setReg_ne d (writeFields (d.locked key) (fieldsOf key) (d.reg key) w).1 hk
  have hviol := fun e : Dev => reg_setF_ne e (F.blockLock_LOCK_VIOL (lockBase key)) 1 hl
  split <;> split
  · rw [violation_reg_ne p _ hl, hviol, hset]
  · rw [violation_reg_ne p _ hl, hset]
  · rw [hviol, hset]
  · exact hset

/-- A register that stands alone, whose write has an effect of its own. -/
theorem regWrite_own {s : State} {p : Path} {off : Nat} {w : Word} {e : Dev} (h : s.reaches p off = true)
    (hlo : isLo off = false) (hhi : isHi off = false) (hkey : s.dev.regKey p off = off) (htwl : twlInstOf off = none)
    (hhome : regHome off = (off, 0, 0, 0)) (hcore : s.dev.writeCore p off off 0 0 0 w = none)
    (hother : s.dev.writeOther p off off 0 0 w = some e) : s.dev.regWrite p off w = e := by
  rw [regWrite_single h (by rwa [hkey]) (by rwa [hkey]), hkey, Dev.writeKey, hhome]
  dsimp only
  rw [twlSync_of_none htwl, hcore, hother]
  rfl

theorem regWrite_topView {s : State} {p : Path} (h : s.reaches p R.topView = true) (w : Word) :
    s.dev.regWrite p R.topView w = s.dev.topViewWrite p w :=
  regWrite_own h (by decide) (by decide) rfl (by decide) (by decide) rfl rfl

theorem regWrite_cohCfg {s : State} {p : Path} (h : s.reaches p R.cohCfg = true) (w : Word) :
    s.dev.regWrite p R.cohCfg w = (s.dev.writeByType p R.cohCfg w).cohCfgWritten :=
  regWrite_own h (by decide) (by decide) rfl (by decide) (by decide) rfl rfl

/-- R46: outside a domain a write of VIEW = 1 over 0 takes effect. -/
theorem topViewWrite_set (p : Path) {w : Word} {d : Dev} (hv : d.f F.topView_VIEW = 0) (hw : bitsOf w 0 0 = 1)
    (hc : d.cohState ≠ 2) : d.topViewWrite p w = (d.writeByType p R.topView w).setF F.topView_VIEW 1 := by
  have hcoh : ((d.writeByType p R.topView w).setF F.topView_VIEW 1).cohState = d.cohState := by
    have hreg : (d.writeByType p R.topView w).reg F.cohStat_STATE.off = d.reg F.cohStat_STATE.off :=
      writeByType_reg_ne p w d (by decide) (by decide)
    rw [Dev.cohState, f_setF_reg _ _ _ _ (by decide), Dev.f, hreg, Dev.cohState, Dev.f]
  rw [Dev.topViewWrite, hv, hw, hcoh, if_neg (by decide), if_neg hc, if_neg (by decide)]

/-! ### REG_READ and REG_WRITE -/

/-- REG_READ of registers of the window (R27). -/
theorem cmdRegRead_ok {d : Dev} {n : Nat} (hz : bitsOf (d.arg n 1) 35 23 = 0) (h1 : 1 ≤ (d.arg n 2).toNat)
    (h255 : (d.arg n 2).toNat ≤ 255) (hend : bitsOf (d.arg n 1) 22 0 + (d.arg n 2).toNat ≤ 2 ^ 23) :
    d.cmdRegRead n =
      (d.regReads .cp (bitsOf (d.arg n 1) 22 0) (d.arg n 2).toNat).2.reply n stOK
        (d.regReads .cp (bitsOf (d.arg n 1) 22 0) (d.arg n 2).toNat).1 := by
  have hok : ¬ ((decide (bitsOf (d.arg n 1) 35 23 ≠ 0) || decide ((d.arg n 2).toNat = 0) ||
      decide ((d.arg n 2).toNat > 255) || decide (bitsOf (d.arg n 1) 22 0 + (d.arg n 2).toNat > 2 ^ 23)) = true) := by
    simp only [Bool.or_eq_true, decide_eq_true_eq]
    omega
  rw [Dev.cmdRegRead]
  dsimp only
  rw [if_neg hok]

/-- A register that is no half of a pair: what violates is its own write. -/
theorem violating_single {d : Dev} {key : Nat} {w : Word} (hhi : isHi key = false) (hv : d.violates key w = false) :
    d.violating key w = [] := by
  simp [Dev.violating, hhi, hv]

/-- REG_WRITE of a register that is no half of a pair and no calibration shadow, when it violates no lock. -/
theorem maskWrite_ok {d : Dev} {off : Nat} {mask value : Word} (hback : unbackedOff off = false) (hoff : ¬ off ≥ 0x7FE000)
    (hwo : woUntouched (fieldsOf (d.regKey .cp off)) mask = false) (hlo : isLo (d.regKey .cp off) = false)
    (hhi : isHi (d.regKey .cp off) = false) (hcal : (regHome (d.regKey .cp off)).1 ≠ R.calShadow 0)
    (hv : d.violates (d.regKey .cp off)
      (maskedWord (fieldsOf (d.regKey .cp off)) (d.liveReg (d.regKey .cp off)) mask value) = false) :
    d.maskWrite off mask value = (stOK, d.regWrite .cp off
      (maskedWord (fieldsOf (d.regKey .cp off)) (d.liveReg (d.regKey .cp off)) mask value)) := by
  simp [Dev.maskWrite, hback, hoff, hwo, hlo, violating_single hhi hv, hcal]

/-- REG_WRITE acts before it is answered, unless it ends the firmware (R81, R499). -/
theorem cmdRegWrite_acts {d e : Dev} {n st : Nat} (hz : bitsOf (d.arg n 1) 35 23 = 0)
    (hctl : bitsOf (d.arg n 1) 22 0 = R.cpCtl → bitOf (d.arg n 2) 0 = false ∨ bitOf (d.arg n 3) 0 = false)
    (hw : d.maskWrite (bitsOf (d.arg n 1) 22 0) (d.arg n 2) (d.arg n 3) = (st, e)) :
    d.cmdRegWrite n = e.reply n st [] := by
  have hnot : ¬ ((decide (bitsOf (d.arg n 1) 22 0 = R.cpCtl) && bitOf (d.arg n 2) 0 && bitOf (d.arg n 3) 0) = true) := by
    simp only [Bool.and_eq_true, decide_eq_true_eq, not_and, Bool.not_eq_true]
    rintro ⟨hoff, hm⟩
    exact (hctl hoff).resolve_left (by simp [hm])
  rw [Dev.cmdRegWrite]
  dsimp only
  rw [if_neg (by simp [hz]), if_neg hnot, hw]

/-- REG_WRITE of CP_CTL.REBOOT is answered before it acts (R499). -/
theorem cmdRegWrite_reboot {d : Dev} {n : Nat} (ha : d.arg n 1 = toW R.cpCtl) (hm : bitOf (d.arg n 2) 0 = true)
    (hv : bitOf (d.arg n 3) 0 = true) : d.cmdRegWrite n = (d.reply n stOK []).reboot := by
  have hz : ¬ bitsOf (toW R.cpCtl) 35 23 ≠ 0 := by decide
  have hoff : decide (bitsOf (toW R.cpCtl) 22 0 = R.cpCtl) = true := by decide
  rw [Dev.cmdRegWrite, ha]
  dsimp only
  rw [if_neg hz, hoff, hm, hv]
  rfl

theorem unbackedOff_of_reaches {s : State} {p : Path} {off : Nat} (h : s.reaches p off = true) :
    unbackedOff off = false := by
  obtain ⟨hr, -⟩ := reaches_passes h
  rw [Dev.regRefused, Bool.or_eq_false_iff] at hr
  exact hr.1

/-- Settles O19, row by row: each access that reaches its register passes the tests before it. -/
theorem registerWindow : Obligations.RegisterWindow := by
  unfold Obligations.RegisterWindow
  refine ⟨fun s p off w h hp hv hl => ?_, fun s p off h hp => ?_, fun s p off h hlo hb => ?_,
    fun s p off v h hlo hhi hb hsh => ?_, fun s p off w h hlo => ?_, fun s p off w lo h hlo hhi hst => ?_,
    fun s p off w h hp hv _ hl => ?_, fun s p w h hv hw hc => ?_, fun s p w h => ?_,
    fun s n hs hz h1 h255 hend => ?_, ?_, fun s n hs harg hm hv => ?_⟩
  · exact liftBb_reaches h (regWrite_plain h hp hv fun e => absurd e hl)
  · exact lift_reaches h (regReadOut_eq (regRead_plain h hp))
  · refine lift_reaches h (regReadOut_eq ?_)
    simp [regRead_reaches h hb, hlo, Dev.readLo]
  · refine lift_reaches h (regReadOut_eq ?_)
    simp [regRead_reaches h hb, hlo, hhi, Dev.readHi, hsh]
  · exact liftBb_reaches h (regWrite_lo h hlo w)
  · refine liftBb_reaches h ?_
    rw [regWrite_hi h hlo hhi, Dev.writeHi]
    dsimp only
    rw [hst]
  · exact liftBb_reaches h (regWrite_plain h hp hv fun _ => hl)
  · exact liftBb_reaches h ((regWrite_topView h w).trans (topViewWrite_set p hv hw hc))
  · exact liftBb_reaches h (regWrite_cohCfg h w)
  · exact liftBb_served_of_eq hs rfl (cmdRegRead_ok hz h1 h255 hend)
  · intro s n d key hs hz h hlo hhi hwo hcal hctl hv
    obtain ⟨-, hoff⟩ := reaches_passes h
    exact liftBb_served_of_eq hs rfl
      (cmdRegWrite_acts hz hctl (maskWrite_ok (unbackedOff_of_reaches h) hoff hwo hlo hhi hcal hv))
  · exact liftBb_served_of_eq hs rfl (cmdRegWrite_reboot harg hm hv)

end Sys2Proof.Machine
end

section
/-! The rows of a live block: a row's effect may be replaced by any that is the same on the block as it stands. -/

namespace Sys2Proof.Machine

theorem lift_live_eq {s : State} (hl : s.live = true) {f g : Dev → Dev} (h : f s.dev = g s.dev) :
    lift f s = .next (s.after g) := by
  rw [lift_live hl, after_congr h]

theorem liftBb_live_eq {s : State} (hl : s.live = true) {f g : Dev → Dev} (h : f s.dev = g s.dev) :
    liftBb f s = .next (s.afterBb g) := by
  rw [liftBb_live hl, afterBb_congr h]

end Sys2Proof.Machine
end

section
/-! Memory words through the redirection of a failed HBM channel (R22, R434, R435): where a read looks, where a write stores. -/

namespace Sys2Proof.Machine

/-- What the place of an HBM word depends on: the registers and the failed channels. -/
theorem hbmLoc_of_regs_fail {d e : Dev} (hr : d.regs = e.regs) (hf : d.err.hbmFail = e.err.hbmFail) (s a : Nat) :
    d.hbmLoc s a = e.hbmLoc s a := by
  have hb : d.fb = e.fb := by funext fl; simp only [Dev.fb, Dev.f, Dev.reg, hr]
  have hv : d.f = e.f := by funext fl; simp only [Dev.f, Dev.reg, hr]
  rw [Dev.hbmLoc, Dev.hbmLoc, hb, hv, hf]

theorem locOf_of_regs_fail {d e : Dev} (hr : d.regs = e.regs) (hf : d.err.hbmFail = e.err.hbmFail) (a : Nat) :
    d.locOf a = e.locOf a := by
  rw [Dev.locOf, Dev.locOf]
  cases winOf a with
  | hbm s => exact congrArg Prod.fst (hbmLoc_of_regs_fail hr hf s a)
  | _ => rfl

/-- A read shows the word at the place where the address is held now. -/
theorem rd_eq_locOf (d : Dev) (a : Nat) : d.rd a = mapGet (fun _ => 0) d.mem (d.locOf a) := by
  rw [Dev.rd, Dev.rdP, Dev.locOf]
  cases winOf a <;> rfl

/-- A write to a word that has a place stores it there. -/
theorem wr_of_held {d : Dev} {a : Nat} (h : d.lostAt a = false) (w : Word) : d.wr a w = d.store (d.locOf a) w := by
  rw [Dev.lostAt] at h
  rw [Dev.wr, Dev.wrPart, Dev.locOf]
  cases hw : winOf a with
  | hbm s =>
    rw [hw] at h
    dsimp only at h ⊢
    rw [h]
    rfl
  | _ => rfl

/-- A write to a word that no place holds leaves memory, registers and failed channels. -/
theorem wr_of_lost {d : Dev} {a : Nat} (h : d.lostAt a = true) (w : Word) :
    (d.wr a w).mem = d.mem ∧ (d.wr a w).regs = d.regs ∧ (d.wr a w).err.hbmFail = d.err.hbmFail := by
  rw [Dev.lostAt] at h
  rw [Dev.wr, Dev.wrPart]
  cases hw : winOf a with
  | hbm s =>
    rw [hw] at h
    dsimp only at h ⊢
    rw [h, if_pos rfl]
    split <;> exact ⟨rfl, rfl, rfl⟩
  | _ => rw [hw] at h; contradiction

theorem rd_wr_of_lost {d : Dev} {a : Nat} (h : d.lostAt a = true) (b : Nat) (w : Word) : (d.wr a w).rd b = d.rd b := by
  obtain ⟨hm, hr, hf⟩ := wr_of_lost h w
  rw [rd_eq_locOf, rd_eq_locOf, hm, locOf_of_regs_fail hr hf]

/-- A stored word moves no address. -/
@[simp] theorem store_locOf (d : Dev) (a b : Nat) (w : Word) : (d.store a w).locOf b = d.locOf b :=
  locOf_of_regs_fail rfl rfl b

/-- Settles O17: a read looks where a write stores, and a lost write leaves both. -/
theorem memoryReadBack : Obligations.MemoryReadBack := by
  unfold Obligations.MemoryReadBack
  refine ⟨fun d a w h => ?_, fun d a b w hne => ?_, fun d a b w h => rd_wr_of_lost h b w⟩
  · rw [wr_of_held h, rd_eq_locOf, store_locOf]
    exact mapGet_mapSet_same _ d.mem (d.locOf a) w
  · cases h : d.lostAt a with
    | true => exact rd_wr_of_lost h b w
    | false =>
      rw [wr_of_held h, rd_eq_locOf, rd_eq_locOf, store_locOf]
      exact mapGet_mapSet_ne _ d.mem w hne.symm

end Sys2Proof.Machine
end

section
/-! Inbound cycles that TM9 takes as a slave (R287 to R290, R311 to R325). -/

namespace Sys2Proof.Machine

/-! ### The window that answers -/

/-- What an open window means for a cycle's address. -/
theorem winOpen_passes {d : Dev} {p cmd : Nat} {a : BusWord} {cnt w o : Nat} (h : d.winOpen p cmd a cnt w o = true) :
    d.inTarget p a.w.toNat = .win w o ∧ a.bad = false ∧ a.w.toNat % 256 + cnt ≤ 256 ∧
      (d.headerSeen p cmd).winRefused p w o cnt cmd = false := by
  simpa only [Dev.winOpen, Bool.and_eq_true, beq_iff_eq, Bool.not_eq_eq_eq_not, Bool.not_true, decide_eq_true_eq,
    and_assoc] using h

/-- What a read that an open window lets pass finds: no hold of its master, no address error, a free tag. -/
theorem readOpen_passes {d : Dev} {p src cmd : Nat} {a : BusWord} {cnt w o i : Nat}
    (h : d.readOpen p src cmd a cnt w o i = true) :
    d.winOpen p cmd a cnt w o = true ∧ (d.headerSeen p cmd).holdOf p src = none ∧
      (∀ k < cnt, (d.headerSeen p cmd).inErr p false (((d.headerSeen p cmd).inLys p w o).1 + k)
        ((d.headerSeen p cmd).inLys p w o).2 = none) ∧
      firstN 64 (fun i => ((d.headerSeen p cmd).inRead p i).isNone) = some i := by
  simpa only [Dev.readOpen, Bool.and_eq_true, beq_iff_eq, Option.isNone_iff_eq_none, List.all_eq_true, List.mem_range,
    and_assoc] using h

/-! ### Reads -/

/-- Where no slot's read is held, none is dropped. -/
theorem holdDrop_none {d : Dev} {p src : Nat} (h : d.holdOf p src = none) (cmd : Nat) (t : InTgt) (a : Word) (cnt : Nat) :
    d.holdDrop p src cmd t a cnt = d := by
  rw [Dev.holdDrop, h]

/-- R319: a read without an address error, and lockable if it locks, takes the free tag. -/
theorem readStart_takes {d : Dev} {p src cmd w o cnt i : Nat} (a : Word)
    (herr : ∀ k < cnt, d.inErr p false ((d.inLys p w o).1 + k) (d.inLys p w o).2 = none)
    (hlock : cmd = 5 → d.lockable (d.inLys p w o).1 (d.inLys p w o).2 = true)
    (htag : firstN 64 (fun i => (d.inRead p i).isNone) = some i) :
    d.readStart p src cmd a w o cnt = d.readTaken p src cmd a w o cnt i := by
  have hno : ((List.range cnt).findSome? fun k => d.inErr p false ((d.inLys p w o).1 + k) (d.inLys p w o).2) = none := by
    simpa using herr
  have hok : ¬ ((decide (cmd = 5) && !d.lockable (d.inLys p w o).1 (d.inLys p w o).2) = true) := by
    simpa using hlock
  rw [Dev.readStart]
  dsimp only
  rw [hno]
  dsimp only
  rw [if_neg hok, htag]
  rfl

/-- A read cycle that its window lets pass, of any of the three commands. -/
theorem slaveRead_taken {d : Dev} {p src cmd : Nat} {a : BusWord} {cnt w o i : Nat}
    (h : d.readOpen p src cmd a cnt w o i = true)
    (hlock : cmd = 5 → (d.headerSeen p cmd).lockable ((d.headerSeen p cmd).inLys p w o).1
      ((d.headerSeen p cmd).inLys p w o).2 = true) :
    d.slaveRead p src cmd a cnt = (d.headerSeen p cmd).readTaken p src cmd a.w w o cnt i := by
  obtain ⟨hw, hhold, herr, htag⟩ := readOpen_passes h
  obtain ⟨ht, hbad, hpage, hpass⟩ := winOpen_passes hw
  rw [Dev.slaveRead, ht]
  dsimp only
  rw [hbad, if_neg (by decide), holdDrop_none hhold, if_neg (by omega), Dev.winRead, hpass, if_neg (by decide), hhold]
  exact readStart_takes a.w herr hlock htag

/-- R36: a read of one register of the mirror is answered at once. -/
theorem slaveRead_reg {d : Dev} {p src off : Nat} {a : BusWord} (ht : d.inTarget p a.w.toNat = .reg off)
    (hbad : a.bad = false)
    (hr : ((d.headerSeen p 1).holdDrop p src 1 (.reg off) a.w 1).regRefused (fiuPath p) off = false) :
    d.slaveRead p src 1 a 1 =
      let r := ((d.headerSeen p 1).holdDrop p src 1 (.reg off) a.w 1).regRead (fiuPath p) off
      r.2.ack p [(r.1, false)] := by
  rw [Dev.slaveRead, ht]
  dsimp only
  rw [hbad, if_neg (by decide), if_neg (by omega), if_neg (by decide), Dev.mirrorRead]
  dsimp only
  rw [hr, if_neg (by decide), Dev.mirrorRead]
  rfl

/-! ### Writes -/

/-- R325: a write cycle that its window lets pass and no word of which fails is offered to the posted buffer. -/
theorem slaveWrite_posted {d : Dev} {p src cmd : Nat} {a : BusWord} {ds : List BusWord} {w o : Nat}
    {l : List (Nat × Word)} (h : d.winOpen p cmd a ds.length w o = true) (hne : ds ≠ []) (hlen : ds.length ≤ 64)
    (hl : (d.headerSeen p cmd).takeWords p ((d.headerSeen p cmd).inLys p w o).1 ((d.headerSeen p cmd).inLys p w o).2
      ((d.headerSeen p cmd).f (F.brgIwinCfg_WIDTH p w)) ds = (l, none)) :
    d.slaveWrite p src cmd a ds =
      (d.headerSeen p cmd).postOffer p src ((d.headerSeen p cmd).inLys p w o).2 l none := by
  obtain ⟨ht, hbad, hpage, hpass⟩ := winOpen_passes h
  have hcnt : ¬ ((ds.isEmpty || decide (ds.length > 64) || decide (a.w.toNat % 256 + ds.length > 256)) = true) := by
    simp [hne, hlen, hpage]
  rw [Dev.slaveWrite, ht]
  dsimp only
  rw [hbad, if_neg (by decide), if_neg hcnt, Dev.winWrite, hpass, if_neg (by decide)]
  dsimp only
  rw [hl]

/-! ### Locked pairs -/

/-- A header breaks no lock where the port holds none. -/
theorem headerSeen_unlocked {d : Dev} {p : Nat} (h : (d.fp p).lock = none) (cmd : Nat) :
    d.headerSeen p cmd = d.modFp p fun x =>
      { x with granted := none, lastCmd := cmd, late := false, lockReq := none, other := none } := by
  rw [Dev.headerSeen, Dev.lockBreak, h]

theorem fp_modFp (d : Dev) (p : Nat) (f : FiuPort → FiuPort) : (d.modFp p f).fp p = f (d.fp p) :=
  mget_mset_same d.fiu p _

/-- The ports' own state is no part of what a window refuses. -/
@[simp] theorem modFp_winRefused (d : Dev) (q : Nat) (f : FiuPort → FiuPort) (p w o cnt cmd : Nat) :
    (d.modFp q f).winRefused p w o cnt cmd = d.winRefused p w o cnt cmd := by
  simp [Dev.winRefused]

/-- R290: the LOCK_WRITE that a pair waits for ends its lock and goes to its target. -/
theorem lockWrite_pair {d : Dev} {p src w o i : Nat} {a b : BusWord} {r : InRead}
    (ht : d.inTarget p a.w.toNat = .win w o) (hlock : (d.fp p).lock = some (src, a.w, true))
    (hpair : d.pairOf p = some (i, r)) (ha : a.bad = false) (hb : b.bad = false)
    (hlys : d.inLys p w o = (r.lys, r.tweed)) (hw : d.winRefused p w o 1 6 = false) :
    d.lockWrite p src a b =
      let d := (d.modFp p fun x => { x with lock := none }).headerSeen p 6
      let la := d.inAddr r.lys r.tweed
      ((d.setRead p i { r with ans := 6 }).cohIssue (.fiuRd p i) 66 (some (p * 64 + i))
        { code := 7, sub := p, addr := la, mask := 2 ^ (la % 16)
          ws := [widthW (d.f (F.brgIwinCfg_WIDTH p w)) b.w] }).2 := by
  have hnamed : d.pairNamed p src a (.win w o) = some (w, o, i, r) := by
    simp [Dev.pairNamed, hlock, hpair, ha, hlys]
  have hfree : ((d.modFp p fun x => { x with lock := none }).fp p).lock = none := by rw [fp_modFp]
  have hpass : ((d.modFp p fun x => { x with lock := none }).headerSeen p 6).winRefused p w o 1 6 = false := by
    rw [headerSeen_unlocked hfree, modFp_winRefused, modFp_winRefused, hw]
  rw [Dev.lockWrite, ht]
  dsimp only
  rw [hnamed]
  dsimp only
  rw [Dev.pairWrite, hpass, if_neg (by decide), hb, if_neg (by decide)]

/-- R311: a LOCK_WRITE without a pair that its window refuses is counted. -/
theorem lockWrite_refused {d : Dev} {p src w o : Nat} {a : BusWord} (ht : d.inTarget p a.w.toNat = .win w o)
    (ha : a.bad = false) (hnone : d.pairNamed p src a (.win w o) = none)
    (hw : (d.headerSeen p 6).winRefused p w o 1 6 = true) (b : BusWord) :
    d.lockWrite p src a b = ((d.headerSeen p 6).inc (F.brgPortCnt_WIN_REJ p) 1).rej p := by
  rw [Dev.lockWrite, ht]
  dsimp only
  rw [hnone]
  dsimp only
  rw [ha, if_neg (by decide), if_pos hw]

/-- Settles O42: the three reads are one lemma over the command, the two writes another, and the pair has its own. -/
theorem inboundCycles : Obligations.InboundCycles := by
  unfold Obligations.InboundCycles
  refine ⟨fun s p src a w o i hl h => ?_, fun s p src a off => ?_, fun s p src a c w o i hl h => ?_,
    fun s p src a w o i => ?_, fun s p src a b w o l => ?_, fun s p src a ds w o l => ?_,
    fun s p src a b w o i r hl ht hlock hpair ha hb hlys hw => ?_, fun s p src a b w o hl ht ha hnone hw => ?_⟩
  · change execRead p src a s = _
    exact liftBb_live_eq hl (congrArg Dev.brgSettle (slaveRead_taken h fun h5 => absurd h5 (by decide)))
  · intro d1 hl ht hbad hr
    change execRead p src a s = _
    exact liftBb_live_eq hl (congrArg Dev.brgSettle (slaveRead_reg ht hbad hr))
  · change execBlockRead p src a c s = _
    exact liftBb_live_eq hl (congrArg Dev.brgSettle (slaveRead_taken h fun h5 => absurd h5 (by decide)))
  · intro d1 hl h hlock
    change execLockRead p src a s = _
    exact liftBb_live_eq hl (congrArg Dev.brgSettle (slaveRead_taken h fun _ => hlock))
  · intro d1 hl h hw
    change execWrite p src a b s = _
    exact liftBb_live_eq hl (congrArg Dev.brgSettle (slaveWrite_posted h (List.cons_ne_nil b []) (by simp) hw))
  · intro d1 hl h hne hlen hw
    change execBlockWrite p src a ds s = _
    exact liftBb_live_eq hl (congrArg Dev.brgSettle (slaveWrite_posted h hne hlen hw))
  · change execLockWrite p src a b s = _
    exact liftBb_live_eq hl (congrArg Dev.brgSettle (lockWrite_pair ht hlock hpair ha hb hlys hw))
  · change execLockWrite p src a b s = _
    exact liftBb_live_eq hl (congrArg Dev.brgSettle (lockWrite_refused ht ha hnone hw b))

end Sys2Proof.Machine
end

section
/-! Host requests to BAR0 and BAR2 (R27 to R33). -/

namespace Sys2Proof.Machine

/-- R31: a wide read below the MSI-X table shows the slot of a register. -/
theorem hostWideRead_slot {off : Nat} (h : off < 0x7FE000) (be : Nat) (d : Dev) :
    d.hostWideRead false off be =
      (d.slotRead false off off be).2.emit
        (.hostData false (pickBytes be (leBytes 8 (d.slotRead false off off be).1.toNat))) := by
  have h23 : ¬ off ≥ 2 ^ 23 := by omega
  have htab : ¬ off ≥ 0x7FE000 := by omega
  rw [Dev.hostWideRead, if_pos (by decide), if_neg h23, if_neg htab]

/-- R30: byte enables 0 to 4 cover a whole word. -/
theorem slotMask_full {be : Nat} (h : be % 2 ^ 5 = 2 ^ 5 - 1) : slotMask be = 2 ^ 36 - 1 := by
  have hbit : ∀ i < 5, nbit be i = true := by
    intro i hi
    have hm := Nat.testBit_mod_two_pow be 5 i
    rw [h, Nat.testBit_two_pow_sub_one] at hm
    simpa [hi, nbit] using hm
  simp [slotMask, List.range, List.range.loop, hbit]

/-- R30: a write of a whole slot below the MSI-X table is a register write. -/
theorem hostPartialWrite_full {off be : Nat} (h : off < 0x7FE000) (hbe : be % 2 ^ 5 = 2 ^ 5 - 1) (data : Nat) (d : Dev) :
    d.hostPartialWrite false off be data = d.regWrite .pcie off (toW data) := by
  have h23 : ¬ off ≥ 2 ^ 23 := by omega
  have htab : ¬ off ≥ 0x7FE000 := by omega
  rw [Dev.hostPartialWrite, if_pos (by decide), if_neg h23, if_neg htab, if_pos (slotMask_full hbe)]

/-- R33: a packed request that the range of BAR2 holds is not refused. -/
theorem not_outOfRange {d : Dev} {addr len : Nat} (h : addr + len ≤ 0x90000000) :
    ¬ ((d.fb F.pciBar2Ctl_MODE && decide (addr + len > 0x90000000)) = true) := by
  simp only [Bool.and_eq_true, decide_eq_true_eq]
  omega

/-- R32: a packed write puts each word that it covers. -/
theorem bar2Request_packedWrite {d : Dev} (hm : d.fb F.pciBar2Ctl_MODE = true) {addr len : Nat}
    (h : addr + len ≤ 0x90000000) (bs : List Byte) :
    d.bar2Request addr len (some bs) =
      each (writeWords true addr (bs.take len)) (fun x d' => d'.hostPut (d.bar2Base + x.1) x.2.1 x.2.2) d := by
  rw [Dev.bar2Request]
  dsimp only
  rw [if_neg (not_outOfRange h), hm]

/-- R32: a packed read begins with the words that its bytes lie in. -/
theorem bar2Request_packedRead {d : Dev} (hm : d.fb F.pciBar2Ctl_MODE = true) {addr len : Nat} (hpos : 0 < len)
    (h : addr + len ≤ 0x90000000) :
    d.bar2Request addr len none =
      let first := addr / 9 * 2
      let used := ((List.range len).flatMap fun i => (byteBits true (addr + i)).map (·.1)).eraseDups
      let all := (List.range ((addr + len - 1) / 9 * 2 + 2 - first)).map (first + ·)
      let r : HostRd := {
        num := 0, addr := d.bar2Base + first, cnt := all.length, skip := addr % 9, len := len, packed := true
        be := 2 ^ len - 1, merge := none
        got := (all.filter fun k => !used.contains k).foldl (fun g k => mset g (k - first) (some 0)) [] }
      d.hostBegin r (used.map fun k => ⟨k - first, d.bar2Base + k, 0xFF⟩) := by
  rw [Dev.bar2Request]
  dsimp only
  rw [if_neg (not_outOfRange h), if_neg (Nat.ne_of_gt hpos), hm]
  rfl

/-- Settles O45: each request is one that its BAR serves. -/
theorem hostRequests : Obligations.HostRequests := by
  unfold Obligations.HostRequests
  refine ⟨fun s off be hl h => ?_, fun s off be data hl h hbe => ?_, fun s addr len bs hl hm h => ?_,
    fun s addr len hl hm hpos h => ?_⟩
  · change execHostWideRead false off be s = _
    exact liftBb_live_eq hl (congrArg Dev.brgSettle (hostWideRead_slot h _ s.dev))
  · change execHostPartialWrite false off be data s = _
    exact liftBb_live_eq hl (congrArg Dev.brgSettle (hostPartialWrite_full h hbe _ s.dev))
  · change execBar2Request addr len (some bs) s = _
    exact liftBb_live_eq hl (congrArg Dev.brgSettle (bar2Request_packedWrite hm h bs))
  · change execBar2Request addr len none s = _
    exact liftBb_live_eq hl (congrArg Dev.brgSettle (bar2Request_packedRead hm hpos h))

end Sys2Proof.Machine
end

section
/-! Requests of this package's agents that nothing holds back (R348, R349, R354). -/

namespace Sys2Proof.Machine

/-- A request that may be issued is answered by a cache or issued at once. -/
theorem fabRequest_mayIssue {d : Dev} {a tag : Nat} {m : CMsg} (h : d.mayIssue a tag m = true) :
    d.fabRequest a tag m = d.cohGo (reqOf a tag m) := by
  simp only [Dev.mayIssue, Bool.and_eq_true, Bool.not_eq_eq_eq_not, Bool.not_true] at h
  obtain ⟨⟨⟨⟨hown, hfree⟩, hnone⟩, hview⟩, hgo⟩ := h
  have hwait : d.coh.tagWait.any (fun w => w.la == a % 128 && w.tag == some tag) = false := by
    rw [List.any_eq_false] at hnone ⊢
    intro w hw
    simp [hnone w hw]
  have hcp : ¬ ((decide (a % 128 = 64) && d.fb F.topView_VIEW && decide (m.addr < 2 ^ 36)) = true) := by
    simp only [Bool.or_eq_true, bne_iff_ne, Bool.not_eq_eq_eq_not, Bool.not_true, decide_eq_true_eq] at hview
    rintro hc
    simp only [Bool.and_eq_true, decide_eq_true_eq] at hc
    obtain ⟨⟨h64, hv⟩, hlt⟩ := hc
    obtain (h | h) | h := hview
    · exact h h64
    · simp [hv] at h
    · omega
  have hask : d.cohAsk (reqOf a tag m) = d.cohGo (reqOf a tag m) := by
    rw [Dev.cohAsk, hgo, show (reqOf a tag m).la = a % 128 from rfl, hnone]
    rfl
  rw [Dev.fabRequest, if_pos hown]
  dsimp only
  rw [hfree, hwait, if_neg (by decide), if_neg hcp]
  exact hask

/-- The row of a request that may be issued. -/
theorem liftBb_mayIssue {s : State} {a tag : Nat} {m : CMsg} (hl : s.live = true) (h : s.dev.mayIssue a tag m = true) :
    liftBb (fun d => (d.fabRequest a tag m).brgSettle) s = .next (s.afterBb (Dev.issuedReq a tag m)) :=
  liftBb_live_eq hl (congrArg Dev.brgSettle (fabRequest_mayIssue h))

/-- Settles O48: each row is a request of its agent, which nothing holds back. -/
theorem fabricRequests : Obligations.FabricRequests := by
  unfold Obligations.FabricRequests
  refine ⟨?rdS, ?rdX, ?naRd, ?rdNc, ?wrNc, ?acc36, ?lockRd, ?lockWr, ?add, ?min, ?max, ?swap, ?cas⟩
  case rdS | rdX => exact fun s a tag line hl h => liftBb_mayIssue hl h
  case naRd | rdNc => exact fun s a tag addr c hl h => liftBb_mayIssue hl h
  case wrNc | acc36 => exact fun s a tag line mask ws hl h => liftBb_mayIssue hl h
  case lockRd => exact fun s a tag line p hl h => liftBb_mayIssue hl h
  case lockWr => exact fun s a tag line p mask ws hl h => liftBb_mayIssue hl h
  case add | min | max | swap => exact fun s a tag addr x hl h => liftBb_mayIssue hl h
  case cas => exact fun s a tag addr c x hl h => liftBb_mayIssue hl h

end Sys2Proof.Machine
end

section
/-! Host stream queues (R34, R414 to R416): what a write of PCI_HQ_CFG, an access through BAR4 and a flush do. -/

namespace Sys2Proof.Machine

/-! ### The hold of a queue -/

theorem hq_modHq (d : Dev) (q : Nat) (f : HostQ → HostQ) : (d.modHq q f).hq q = f (d.hq q) :=
  mget_mset_same d.pci.hq q _

@[simp] theorem emit_hq (d : Dev) (o : Out) (q : Nat) : (d.emit o).hq q = d.hq q := rfl
@[simp] theorem setF_hq (d : Dev) (fl : Fld) (v q : Nat) : (d.setF fl v).hq q = d.hq q := rfl

@[simp] theorem sendMsix_hq (d : Dev) (v q : Nat) : (d.sendMsix v).hq q = d.hq q := by
  unfold Dev.sendMsix
  dsimp only
  split
  · rfl
  · split
    · rfl
    · exact emit_hq d _ q

@[simp] theorem hqWrite_hq (d : Dev) (q : Nat) (ws : List Word) (k : Nat) : (d.hqWrite q ws).hq k = d.hq k := by
  unfold Dev.hqWrite
  dsimp only
  split
  · rw [sendMsix_hq, setF_hq, emit_hq]
  · rw [setF_hq, emit_hq]

theorem hqPumpOne_hold (d : Dev) (q : Nat) : ((d.hqPumpOne q).hq q).hold = (d.hq q).hold := by
  unfold Dev.hqPumpOne
  dsimp only
  split
  · rfl
  · rw [hqWrite_hq, hq_modHq]

/-- Groups written leave the hold of the queue. -/
theorem hqPump_hold (d : Dev) (q : Nat) : ((d.hqPump q).hq q).hold = (d.hq q).hold :=
  forN_keeps (P := fun e : Dev => (e.hq q).hold = (d.hq q).hold) (fun _ e he => (hqPumpOne_hold e q).trans he) _ rfl

/-! ### A write of PCI_HQ_CFG -/

/-- A PUSH as it is in effect changes nothing. -/
theorem hqBoundary_same {d : Dev} {q : Nat} (h : (d.hq q).push = d.fb (F.pciHqCfg_PUSH q)) : d.hqBoundary q = d := by
  simp [Dev.hqBoundary, h]

/-- R415: PUSH set at a packet boundary or over a full pull buffer: the held words go to the ring. -/
theorem hqBoundary_push {d : Dev} {q : Nat} (hwas : (d.hq q).push = false) (hp : d.fb (F.pciHqCfg_PUSH q) = true)
    (hb : (d.hq q).inPkt = false ∨ 1024 ≤ (d.hq q).pull.length) :
    d.hqBoundary q = (d.modHq q fun x => { x with push := true, grp := x.grp ++ x.pull, pull := [] }).hqPump q := by
  have hnow : ((d.hq q).inPkt && !(true && decide ((d.hq q).pull.length ≥ 1024))) = false := by
    obtain h | h := hb <;> simp [h]
  rw [Dev.hqBoundary, hp, hwas, hnow]
  rfl

theorem hqRelease_free {d : Dev} {q : Nat} (h : (d.hq q).hold = false) : d.hqRelease q = d := by
  simp [Dev.hqRelease, h]

/-- R416: the hold ends, and a continuation at the head of the chain is discarded. -/
theorem hqRelease_held {d : Dev} {q : Nat} (h : (d.hq q).hold = true) :
    d.hqRelease q =
      let d := d.modHq q fun x => { x with hold := false }
      if ((d.chain q).pkts.head?.map fun k => k.cont || k.begun) = some true then (d.bklPopPkt q).rteDiscard 1 else d := by
  rw [Dev.hqRelease, h, if_neg (by decide)]
  dsimp only
  cases ((d.modHq q fun x => { x with hold := false }).chain q).pkts with
  | nil => rfl
  | cons p ps => simp

/-- Without a hold only the boundary test follows the write. -/
theorem hqCfgWrite_free {d : Dev} {p : Path} {q : Nat} {w : Word}
    (h : (((d.writeByType p (R.pciHqCfg q) w).hqBoundary q).hq q).hold = false) :
    d.hqCfgWrite p q w = (d.writeByType p (R.pciHqCfg q) w).hqBoundary q := by
  rw [Dev.hqCfgWrite, hqRelease_free h, ite_self]

/-! ### BAR4 -/

theorem bar4Read_unaligned {off len : Nat} (h : off % 72 ≠ 0 ∨ len % 72 ≠ 0) (q : Nat) (d : Dev) :
    d.bar4Read q off len = (d.inc F.pciBarErr_ALIGN_CNT 1).hostUr := by
  rw [Dev.bar4Read, if_pos (by simpa using h)]

/-- R415: whole groups of an enabled pull queue are popped in order. -/
theorem bar4Read_pull {d : Dev} {q off len : Nat} (ho : off % 72 = 0) (hl : len % 72 = 0)
    (hp : d.fb (F.pciHqCfg_PUSH q) = false) (he : d.fb (F.pciHqCfg_EN q) = true) :
    d.bar4Read q off len =
      let r := (List.range (len / 72 * 16)).foldl (fun (a : List Word × Dev) _ =>
        (a.1 ++ [(a.2.hqPop q).1], (a.2.hqPop q).2)) ([], d)
      r.2.emit (.hostData false (packBytes r.1)) := by
  rw [Dev.bar4Read, if_neg (by simp [ho, hl]), hp, he]
  rfl

/-! ### The flush -/

/-- R414: a partial group that has room is padded and written. -/
theorem flushTimeout_partial {d : Dev} {q : Nat} (hp : (d.hq q).push = true) (hne : (d.hq q).grp ≠ [])
    (hlt : (d.hq q).grp.length < 16) (hroom : d.ringFull q = false) (hst : d.hostStalled = false)
    (hh : (d.hq q).hold = false) :
    d.flushTimeout q = (d.modHq q fun x => { x with grp := [] }).hqWrite q
      ((d.hq q).grp ++ List.replicate (16 - (d.hq q).grp.length) (tagged 15 0)) := by
  have hgo : (!(d.hq q).push || (d.hq q).grp.isEmpty || decide ((d.hq q).grp.length ≥ 16) || d.ringFull q ||
      d.hostStalled || (d.hq q).hold) = false := by
    simp [hp, hne, hlt, hroom, hst, hh]
  rw [Dev.flushTimeout]
  exact if_neg (by rw [hgo]; decide)

/-- Settles O54: the write's three cases are those of the boundary test and of the hold. -/
theorem hostStreams : Obligations.HostStreams := by
  unfold Obligations.HostStreams
  refine ⟨fun s p q w hl hh hp => ?_, fun s p q w hl hh hwas hp hb => ?_, fun s p q w hl hh hw hp => ?_,
    fun s q off len hl ho hlen hp he => ?_, fun s q off hl => ?_, fun s q off len hl h => ?_,
    fun s q hl hp hne hlt hroom hst hh => ?_⟩
  · have hb := hqBoundary_same hp
    exact lift_live_eq hl (by rw [hqCfgWrite_free (by rw [hb]; exact hh), hb])
  · have hb := hqBoundary_push hwas hp hb
    exact lift_live_eq hl (by rw [hqCfgWrite_free (by rw [hb, hqPump_hold, hq_modHq]; exact hh), hb])
  · exact lift_live_eq hl (by rw [Dev.hqCfgWrite, hqBoundary_same hp, if_pos hw, hqRelease_held hh])
  · exact lift_live_eq hl (bar4Read_pull ho hlen hp he)
  · rw [← lift_live hl]
    rfl
  · exact lift_live_eq hl (bar4Read_unaligned h q s.dev)
  · exact lift_live_eq hl (flushTimeout_partial hp hne hlt hroom hst hh)

end Sys2Proof.Machine
end

section
/-! A backlog chain under a key that is no egress, and what its count does to COH_STAT (R417, R436, R442). -/

namespace Sys2Proof.Machine

/-- The key whose ERR_BKL_EGR register would lie where COH_STAT is; the egresses end at 268. -/
def strayEgress : Nat := R.cohStat - R.errBklEgr 0

/-- A chain that holds the only chunk of the reserve, with one whole packet. -/
def wholeReserveChain : Chain :=
  { chunks := [⟨0, 992, []⟩], stalled := true, pkts := [{ (default : BklPkt) with spans := [(0, 0, 1)] }] }

/-- Member 5 of a domain that member 0 leads: package 7, to which no route leads, has had a DOMAIN_JOIN of package 3 placed in
mailbox 8; port 0 leads to package 3, and the stray chain fills the reserve. -/
def strayChainJoin : State :=
  let d := ((State.reset.dev.setF F.cpBoot_STATE 5).setF F.cohStat_STATE 2).setF F.cohStat_MY_IDX 5
  let d := ((d.setF F.errBklCfg_LEN 1).setF F.errBklBase_BASE 0).modChain strayEgress fun _ => wholeReserveChain
  let d := ((d.setF (F.lnkStat_STATE 0) 2).store (srtTab + 3) (mkW [(35, 35, 1)])).modCoh fun c =>
    { c with seen := [⟨77, 3, none, none⟩] }
  let d := d.modMb 8 fun m => { m with
    req := [mkW [(35, 24, 0x903), (15, 8, 1)], 3], busy := true, origin := .lysith 7 0 }
  { State.reset with dev := { d with cp := { d.cp with doorbells := [8] }, pwr := { d.pwr with held := false } } }

/-- The edge noted for a join at the leader (R423), after a step. -/
def joinEdgeAfter (r : R) : Option Nat :=
  match r with
  | .next t => some t.dev.coh.joinEdge
  | _ => none

/-- The OK answer waits in the reserve, for which the stray chain gives up its chunk: its count clears MY_IDX, so that the
package takes itself for the leader. -/
theorem strayChainJoin_myIdx :
    strayChainJoin.dev.myIdx = 5 ∧ (strayChainJoin.dev.taken.reply 8 stOK []).myIdx = 0 := by decide +kernel

/-- The command then admits package 3 itself. -/
theorem strayChainJoin_leads : joinEdgeAfter (exec (.domainJoin 8 true) strayChainJoin) = some 1 := by decide +kernel

/-- Refutes O50, in its clause of a DOMAIN_JOIN at a member that another leads: no hypothesis keeps the chains of the reserve
to the 269 egresses, and the answer's place in the reserve may cost a stray chain its chunk, whose count falls on COH_STAT. -/
theorem not_domainMessages : ¬ Obligations.DomainMessages := by
  unfold Obligations.DomainMessages
  rintro ⟨-, -, -, -, -, -, -, -, -, -, -, -, -, -, -, -, -, -, -, -, -, -, -, -, hjoin, -⟩
  have hclaim := congrArg joinEdgeAfter (hjoin strayChainJoin 8 true 0 (by decide) (by decide) (by decide) (by decide) rfl
    (by decide) (by decide) (by rw [strayChainJoin_myIdx.1]; decide))
  rw [strayChainJoin_leads] at hclaim
  exact absurd hclaim (by decide +kernel)

end Sys2Proof.Machine
end

section
/-! What the end of a command changes (R75, R427, R429, R452): the frame of each operation that enters an error or brings an
event out, and the lines that the Fiuth ports drive then (R299, R306, R329). -/

namespace Sys2Proof.Machine

theorem forN_keeps_lt {α : Type} {P : α → Prop} {f : Nat → α → α} {n : Nat} (hf : ∀ i, i < n → ∀ a, P a → P (f i a)) {a : α}
    (h : P a) : P (forN n f a) :=
  List.foldlRecOn _ _ h fun b hb i hi => hf i (List.mem_range.mp hi) b hb

theorem mb_modMb (d : Dev) (n k : Nat) (f : Mailbox → Mailbox) :
    (d.modMb n f).mb k = if k = n then f (d.mb n) else d.mb k := by
  split
  · next h => subst h; exact mget_mset_same _ _ _
  · next h => exact mget_mset_ne _ _ h

theorem fp_modFp_ite (d : Dev) (p q : Nat) (f : FiuPort → FiuPort) :
    (d.modFp p f).fp q = if q = p then f (d.fp p) else d.fp q := by
  split
  · next h => subst h; exact mget_mset_same _ _ _
  · next h => exact mget_mset_ne _ _ h

/-! ### The frame -/

/-- `e` differs from `d` in nothing but what the entry of errors and the going out of events change. -/
structure EndFrame (d e : Dev) : Prop where
  rest : e = { d with regs := e.regs, out := e.out, cp := e.cp, mbx := e.mbx, err := e.err, pci := e.pci, fiu := e.fiu } := by
    rfl
  cp : ({ e.cp with
    log := d.cp.log, logSeq := d.cp.logSeq, logLost := d.cp.logLost, evtSeq := d.cp.evtSeq, lastSeq := d.cp.lastSeq
    gap := d.cp.gap, raised := d.cp.raised, errUncopied := d.cp.errUncopied } : Cp) = d.cp := by rfl
  err : ({ e.err with queue := d.err.queue, met := d.err.met } : ErrUnit) = d.err := by rfl
  pci : ({ e.pci with pba := d.pci.pba } : Pci) = d.pci := by rfl
  fp : ∀ p, ({ e.fp p with irqOut := (d.fp p).irqOut, mreqOut := (d.fp p).mreqOut } : FiuPort) = d.fp p := by
    intro p; rfl
  mb : ∀ n, ({ e.mb n with evts := (d.mb n).evts } : Mailbox) = d.mb n := by intro n; rfl
  reg : ∀ off, (∀ n, n < 16 → off ≠ R.mbxStat n) → off ≠ R.errQstat → e.reg off = d.reg off := by intros; rfl

namespace EndFrame

theorem refl (d : Dev) : EndFrame d d := {}

theorem trans {a b c : Dev} (h : EndFrame a b) (k : EndFrame b c) : EndFrame a c where
  rest := k.rest.trans (congrArg (fun x : Dev =>
    { x with regs := c.regs, out := c.out, cp := c.cp, mbx := c.mbx, err := c.err, pci := c.pci, fiu := c.fiu }) h.rest)
  cp := (congrArg (fun x : Cp => { x with
    log := a.cp.log, logSeq := a.cp.logSeq, logLost := a.cp.logLost, evtSeq := a.cp.evtSeq, lastSeq := a.cp.lastSeq
    gap := a.cp.gap, raised := a.cp.raised, errUncopied := a.cp.errUncopied }) k.cp).trans h.cp
  err := (congrArg (fun x : ErrUnit => { x with queue := a.err.queue, met := a.err.met }) k.err).trans h.err
  pci := (congrArg (fun x : Pci => { x with pba := a.pci.pba }) k.pci).trans h.pci
  fp p := (congrArg (fun x : FiuPort => { x with irqOut := (a.fp p).irqOut, mreqOut := (a.fp p).mreqOut }) (k.fp p)).trans
    (h.fp p)
  mb n := (congrArg (fun x : Mailbox => { x with evts := (a.mb n).evts }) (k.mb n)).trans (h.mb n)
  reg off hn hq := (k.reg off hn hq).trans (h.reg off hn hq)

/-! ### The updates of the frame -/

theorem emit (d : Dev) (o : Out) : EndFrame d (d.emit o) := {}

theorem logPut (d : Dev) (k : Nat) (ws : List Word) : EndFrame d (d.logPut k ws) := {}

theorem event (d : Dev) (code inst : Nat) (x : Word) : EndFrame d (d.event code inst x) := {}

theorem setF (d : Dev) (fl : Fld) (v : Nat)
    (h : ∀ off, (∀ n, n < 16 → off ≠ R.mbxStat n) → off ≠ R.errQstat → off ≠ fl.off) : EndFrame d (d.setF fl v) where
  reg off hm hq := reg_setF_ne d fl v (h off hm hq)

theorem incMbxStat (d : Dev) {n : Nat} (hn : n < 16) (v : Nat) : EndFrame d (d.inc (F.mbxStat_EVT_LOST n) v) :=
  setF d _ _ fun _ hm _ => hm n hn

theorem incErrQstat (d : Dev) (v : Nat) : EndFrame d (d.inc F.errQstat_LOST v) := setF d _ _ fun _ _ hq => hq

theorem setEvts (d : Dev) (n : Nat) (q : List (List Word)) : EndFrame d (d.modMb n fun m => { m with evts := q }) where
  mb k := by
    rw [mb_modMb]
    split
    · next h => subst h; rfl
    · rfl

/-! ### Events going out -/

theorem sendMsix (d : Dev) (v : Nat) : EndFrame d (d.sendMsix v) := by
  unfold Dev.sendMsix
  dsimp only
  split
  · exact {}
  · split
    · exact refl d
    · exact emit d _

theorem deliverEvt (d : Dev) {n : Nat} (hn : n < 16) (msg : List Word) : EndFrame d (d.deliverEvt n msg) := by
  unfold Dev.deliverEvt
  dsimp only
  split <;> split
  · exact ((setEvts d n _).trans (incMbxStat _ hn 1)).trans (sendMsix _ _)
  · exact (setEvts d n _).trans (incMbxStat _ hn 1)
  · exact (setEvts d n _).trans (sendMsix _ _)
  · exact setEvts d n _

theorem logGap (d : Dev) (seq : Nat) : EndFrame d (d.logGap seq) := by
  unfold Dev.logGap
  dsimp only
  split
  · split
    · split
      · exact trans {} (logPut _ _ _)
      · exact {}
    · exact {}
  · exact refl d

theorem logEvent (d : Dev) (seq : Nat) (msg : List Word) : EndFrame d (d.logEvent seq msg) := by
  unfold Dev.logEvent
  split
  · exact ((logGap d seq).trans (logPut _ 0 msg)).trans {}
  · exact refl d

theorem eventRaw (d : Dev) (code inst ep : Nat) (x : Word) : EndFrame d (d.eventRaw code inst ep x) := by
  unfold Dev.eventRaw
  refine trans (forN_keeps_lt (P := EndFrame d) (fun n hn e he => ?_) {}) (logEvent _ _ _)
  split
  · exact he.trans (deliverEvt e hn _)
  · exact he

theorem eventOut (d : Dev) (x : Nat × Nat × Nat × Word) : EndFrame d (d.eventOut x) := by
  unfold Dev.eventOut
  dsimp only
  split
  · exact (eventRaw d _ _ _ _).trans (eventRaw _ _ _ _ _)
  · exact eventRaw d _ _ _ _

/-! ### Errors entering the queue -/

theorem logErr (d : Dev) (ent : List Word) : EndFrame d (d.logErr ent) := by
  unfold Dev.logErr
  dsimp only
  split
  · exact (logPut d 1 ent).trans (event _ _ _ _)
  · exact logPut d 1 ent

theorem countLost (d : Dev) : EndFrame d (d.incEv F.errQstat_LOST 1 0xA01 0 toW) := by
  unfold Dev.incEv
  dsimp only
  split
  · exact (incErrQstat d 1).trans (event _ _ _ _)
  · exact incErrQstat d 1

theorem queueErr (d : Dev) (ent : List Word) : EndFrame d (d.queueErr ent) := by
  have copied (e : Dev) : EndFrame e (if e.running then e.logErr ent
      else { e with cp := { e.cp with errUncopied := e.cp.errUncopied + 1 } }) := by
    split
    · exact logErr e ent
    · exact {}
  unfold Dev.queueErr
  dsimp only
  split
  · exact (trans {} (copied _)).trans (countLost _)
  · exact trans {} (copied _)

theorem queueErrs (d : Dev) : EndFrame d d.queueErrs :=
  foldl_keeps (P := EndFrame d) (fun e x he => he.trans (queueErr e x.2.2)) _ {}

end EndFrame

/-! ### The lines of the Fiuth ports -/

/-- A port whose lines F_IRQ and F_MREQ are driven to these levels. -/
def FiuPort.driven (x : FiuPort) (irq : Nat) (mreq : Bool) : FiuPort := { x with irqOut := irq, mreqOut := mreq }

theorem driven_enter (x : FiuPort) (i : Nat) (m : Bool) (o : Own) : (x.driven i m).enter o = (x.enter o).driven i m := by
  have hroom : (x.driven i m).room o = x.room o := rfl
  unfold FiuPort.enter
  rw [hroom]
  split <;> rfl

theorem driven_refill (x : FiuPort) (i : Nat) (m : Bool) : (x.driven i m).refill = x.refill.driven i m :=
  List.foldl_hom (fun y : FiuPort => y.driven i m) (g₁ := FiuPort.enter) (g₂ := FiuPort.enter) (l := x.outer)
    (init := { x with outer := [] }) (H := fun y o => driven_enter y i m o)

theorem irqLine_congr {d e : Dev} {q : Nat} (hr : e.regs = d.regs) (hm : e.mbx = d.mbx)
    (hc : (e.fp q).ctl = (d.fp q).ctl) : e.irqLine q = d.irqLine q := by
  have hf : e.f = d.f := by funext fl; simp only [Dev.f, Dev.reg, hr]
  have hmb : e.mb = d.mb := by funext n; simp only [Dev.mb, hm]
  unfold Dev.irqLine Dev.memberIrq Dev.fpState Dev.fb
  rw [hf, hmb, hc]

theorem mreqLine_congr {d e : Dev} {q : Nat} (hr : e.regs = d.regs)
    (hp : (e.fp q).refill.pick = (d.fp q).refill.pick) : e.mreqLine q = d.mreqLine q := by
  have hf : e.f = d.f := by funext fl; simp only [Dev.f, Dev.reg, hr]
  unfold Dev.mreqLine Dev.fpState
  rw [hf, hp]

/-- F_IRQ of a port driven to a level, where it changes. -/
def Dev.driveIrq (p i : Nat) (d : Dev) : Dev :=
  if i = (d.fp p).irqOut then d else (d.modFp p fun x => { x with irqOut := i }).emit (.fiuLine p 4 i)

/-- F_MREQ of a port driven to a level, where it changes. -/
def Dev.driveMreq (p : Nat) (m : Bool) (d : Dev) : Dev :=
  if m = (d.fp p).mreqOut then d else (d.modFp p fun x => { x with mreqOut := m }).emit (.fiuLine p 5 (bit m))

theorem memberLines_drives (d : Dev) (p : Nat) :
    d.memberLines p = (d.driveIrq p (d.irqLine p)).driveMreq p (d.mreqLine p) := rfl

theorem driveIrq_eq (d : Dev) (p i : Nat) : ∃ f o, d.driveIrq p i = { d with fiu := f, out := o } := by
  unfold Dev.driveIrq
  split <;> exact ⟨_, _, rfl⟩

theorem driveMreq_eq (d : Dev) (p : Nat) (m : Bool) : ∃ f o, d.driveMreq p m = { d with fiu := f, out := o } := by
  unfold Dev.driveMreq
  split <;> exact ⟨_, _, rfl⟩

/-- Driving the lines of a port changes the ports and what goes outward. -/
theorem memberLines_eq (d : Dev) (p : Nat) : ∃ f o, d.memberLines p = { d with fiu := f, out := o } := by
  obtain ⟨f, o, h⟩ := driveIrq_eq d p (d.irqLine p)
  obtain ⟨f', o', h'⟩ := driveMreq_eq (d.driveIrq p (d.irqLine p)) p (d.mreqLine p)
  exact ⟨f', o', by rw [memberLines_drives, h', h]⟩

theorem driveIrq_fp (d : Dev) (p i q : Nat) :
    (d.driveIrq p i).fp q = if q = p then { d.fp p with irqOut := i } else d.fp q := by
  unfold Dev.driveIrq
  split
  · next h =>
    split
    · next hq => rw [hq, h]
    · rfl
  · exact fp_modFp_ite d p q fun x => { x with irqOut := i }

theorem driveMreq_fp (d : Dev) (p q : Nat) (m : Bool) :
    (d.driveMreq p m).fp q = if q = p then { d.fp p with mreqOut := m } else d.fp q := by
  unfold Dev.driveMreq
  split
  · next h =>
    split
    · next hq => rw [hq, h]
    · rfl
  · exact fp_modFp_ite d p q fun x => { x with mreqOut := m }

theorem memberLines_fp_same (d : Dev) (p : Nat) :
    (d.memberLines p).fp p = (d.fp p).driven (d.irqLine p) (d.mreqLine p) := by
  rw [memberLines_drives, driveMreq_fp, if_pos rfl, driveIrq_fp, if_pos rfl]
  rfl

theorem memberLines_fp_ne (d : Dev) {p q : Nat} (h : q ≠ p) : (d.memberLines p).fp q = d.fp q := by
  rw [memberLines_drives, driveMreq_fp, if_neg h, driveIrq_fp, if_neg h]

theorem memberLines_frame (d : Dev) (p : Nat) : EndFrame d (d.memberLines p) := by
  obtain ⟨f, o, h⟩ := memberLines_eq d p
  have hfp (q : Nat) : ({ (d.memberLines p).fp q with irqOut := (d.fp q).irqOut, mreqOut := (d.fp q).mreqOut } : FiuPort) =
      d.fp q := by
    by_cases hq : q = p
    · rw [hq, memberLines_fp_same]; rfl
    · rw [memberLines_fp_ne d hq]
  rw [h] at hfp ⊢
  exact { fp := hfp }

/-- With the lines of the ports below `n` driven, those ports hold the levels that their state calls for. -/
structure LinesDriven (d : Dev) (n : Nat) (e : Dev) : Prop where
  regs : e.regs = d.regs
  mbx : e.mbx = d.mbx
  driven : ∀ q, q < n → e.fp q = (d.fp q).driven (d.irqLine q) (d.mreqLine q)
  waiting : ∀ q, n ≤ q → e.fp q = d.fp q

namespace LinesDriven
variable {d e : Dev} {n : Nat} (h : LinesDriven d n e)
include h

theorem irqLine (q : Nat) : e.irqLine q = d.irqLine q := by
  refine irqLine_congr h.regs h.mbx ?_
  obtain hq | hq := Nat.lt_or_ge q n
  · rw [h.driven q hq]; rfl
  · rw [h.waiting q hq]

theorem mreqLine (q : Nat) : e.mreqLine q = d.mreqLine q := by
  refine mreqLine_congr h.regs ?_
  obtain hq | hq := Nat.lt_or_ge q n
  · rw [h.driven q hq, driven_refill]; rfl
  · rw [h.waiting q hq]

theorem succ : LinesDriven d (n + 1) (e.memberLines n) := by
  obtain ⟨f, o, heq⟩ := memberLines_eq e n
  refine ⟨by rw [heq]; exact h.regs, by rw [heq]; exact h.mbx, fun q hq => ?_, fun q hq => ?_⟩
  · by_cases hn : q = n
    · rw [hn, memberLines_fp_same, h.irqLine, h.mreqLine, h.waiting n (Nat.le_refl n)]
    · rw [memberLines_fp_ne e hn, h.driven q (by omega)]
  · rw [memberLines_fp_ne e (by omega), h.waiting q (by omega)]

end LinesDriven

theorem linesDriven_forN (d : Dev) (n : Nat) : LinesDriven d n (forN n Dev.memberLines d) := by
  induction n with
  | zero => exact ⟨rfl, rfl, fun q hq => absurd hq (Nat.not_lt_zero q), fun _ _ => rfl⟩
  | succ n ih =>
    have hsucc : forN (n + 1) Dev.memberLines d = (forN n Dev.memberLines d).memberLines n := by
      simp only [forN, List.range_succ, List.foldl_append, List.foldl_cons, List.foldl_nil]
    rw [hsucc]
    exact ih.succ

/-! ### The end of a command -/

theorem settle_frame (d : Dev) : EndFrame d d.settle := by
  unfold Dev.settle
  dsimp only
  refine forN_keeps (P := EndFrame d) (fun p e he => he.trans (memberLines_frame e p)) 4 ?_
  refine foldl_keeps (P := EndFrame d) (fun e x he => he.trans (.eventOut e x)) _ ?_
  exact (EndFrame.queueErrs d).trans {}

theorem settle_lines (d : Dev) {p : Nat} (hp : p < 4) :
    (d.settle.fp p).irqOut = d.settle.irqLine p ∧ (d.settle.fp p).mreqOut = d.settle.mreqLine p := by
  unfold Dev.settle
  dsimp only
  generalize List.foldl _ _ _ = e
  have h := linesDriven_forN e 4
  rw [h.driven p hp, h.irqLine, h.mreqLine]
  exact ⟨rfl, rfl⟩

theorem flushBb_dev (s : State) :
    ∃ n, (flushBb s).dev = { s.dev.ksErased n (flushBb s).ks with bbOwed := (flushBb s).dev.bbOwed } := by
  obtain h | ⟨n, k, h⟩ := flushBb_cases s
  · exact ⟨0, by rw [h]; rfl⟩
  · exact ⟨n, by rw [h]⟩

/-- Settles O8: each operation of the end keeps to the frame, the ports drive their lines last, and writing the owed records
counts the erases. -/
theorem settleFrame : Obligations.SettleFrame := by
  unfold Obligations.SettleFrame
  refine ⟨fun d => ?_, fun d => ?_, fun d => (settle_frame d).fp, fun d p hp => settle_lines d hp,
    fun d => (settle_frame d).reg, fun d => (settle_frame d).mb,
    fun s => ⟨flushBb_pending s, flushBb_fuses s, flushBb_dev s⟩⟩
  · have h := (settle_frame d).rest
    intro e
    have he : e = { d with
      regs := e.regs, out := e.out, cp := e.cp, mbx := e.mbx, err := e.err, pci := e.pci, fiu := e.fiu } := h
    rw [he]
    simp only [and_self]
  · exact ⟨(settle_frame d).cp, (settle_frame d).err, (settle_frame d).pci⟩

end Sys2Proof.Machine
end

section
/-! Violations of a write by field types (R77, R79): what makes one and where it comes from. -/

namespace Sys2Proof.Machine

/-- A write of another value to a written W1 field is a violation. -/
theorem writeField_w1_violates (locked : Bool) {old new : Word} (a : Word × Bool) {f : FldRow} (hacc : f.acc = .w1)
    (hw : bitsOf old f.hi f.lo ≠ f.reset) (hne : bitsOf new f.hi f.lo ≠ bitsOf old f.hi f.lo) :
    (writeField locked old new a f).2 = true := by
  simp [writeField, hacc, hw, hne]

/-- The write of `new` over `old` violates field `g`: a written W1 field changed, or a locked LK field. -/
def FldRow.violatedBy (g : FldRow) (locked : Bool) (old new : Word) : Prop :=
  bitsOf new g.hi g.lo ≠ bitsOf old g.hi g.lo ∧
    (g.acc = .w1 ∧ bitsOf old g.hi g.lo ≠ g.reset ∨ g.acc = .lk ∧ locked = true)

/-- A step finds a violation only in its own field. -/
theorem violatedBy_of_writeField {locked : Bool} {old new : Word} {a : Word × Bool} {g : FldRow}
    (h : (writeField locked old new a g).2 = true) : a.2 = true ∨ g.violatedBy locked old new := by
  unfold writeField at h
  unfold FldRow.violatedBy
  cases hacc : g.acc with
  | rw | ro | rc | wo | w1c => rw [hacc] at h; exact .inl h
  | w1 | lk =>
    rw [hacc] at h
    dsimp only at h
    split at h <;> simp_all

theorem violatedBy_of_writeFields {locked : Bool} {fs : List FldRow} {old new : Word}
    (h : (writeFields locked fs old new).2 = true) : ∃ g ∈ fs, g.violatedBy locked old new := by
  refine List.foldlRecOn (motive := fun a : Word × Bool => a.2 = true → ∃ g ∈ fs, g.violatedBy locked old new)
    fs (writeField locked old new) (b := (old, false)) (fun h => absurd h Bool.false_ne_true) (fun a ih g hg hv => ?_) h
  obtain ha | hgv := violatedBy_of_writeField hv
  · exact ih ha
  · exact ⟨g, hg, hgv⟩

/-- Settles O15: the value after the write is that of the field's type, and a violation is some field's own. -/
theorem writeOnceFields : Obligations.WriteOnceFields := by
  unfold Obligations.WriteOnceFields
  intro locked fs old new f ha hf hacc
  have hval := writeFields_field locked old new ha hf
  simp only [FldRow.written, hacc] at hval
  refine ⟨fun hres => ?_, fun hwr => ⟨?_, fun hne => ?_⟩, violatedBy_of_writeFields⟩
  · rw [hval, if_pos hres]
  · rw [hval, if_neg hwr]
  · exact writeFields_violates locked old new hf fun a => writeField_w1_violates locked a hacc hwr hne

end Sys2Proof.Machine
end

section
/-! The state after reset (R62, R92, R457). -/

namespace Sys2Proof.Machine

theorem reset_pathOf (n : Fin 16) :
    State.reset.dev.pathOf n = if n.val < 8 then 0 else if n.val < 12 then 1 else if n.val < 14 then 2 else 3 := by
  revert n
  decide +kernel

theorem reset_cluster63 (q : Fin 128) :
    State.reset.dev.f (F.cluQcfg_DEPTH 63 q) = 4 ∧ State.reset.dev.fb (F.cluQcfg_EN 63 q) = false := by
  revert q
  decide +kernel

theorem reset_lnkState (n : Fin 8) : State.reset.dev.lnkState n = 0 := by
  revert n
  decide +kernel

/-- Settles O7: the lists are empty as they stand, the registers read their tables' values. -/
theorem resetState : Obligations.ResetState := by
  unfold Obligations.ResetState
  exact ⟨rfl, ⟨rfl, rfl⟩, reset_wf, rfl, reset_pathOf, reset_cluster63, by decide +kernel, reset_lnkState, by decide +kernel⟩

end Sys2Proof.Machine
end

section
/-! The mailbox registers and image delivery (R48 to R53, R62 to R68). -/

namespace Sys2Proof.Machine

/-- A served command has the effect that it has on the block without its request. -/
theorem lift_served_of_eq {s : State} {n op len : Nat} (h : s.served n op len = true) {lenOk : Nat → Bool}
    (hl : lenOk len = true) {k g : Dev → Dev} (hkg : k s.dev.taken = g s.dev.taken) :
    lift (Dev.takeCmd n op lenOk k) s = .next (s.afterCmd g) := by
  rw [lift_served h lenOk hl, State.afterCmd, State.afterCmd,
    after_congr (f := Dev.cmdDone k) (g := Dev.cmdDone g) (by rw [Dev.cmdDone, Dev.cmdDone, hkg])]

/-- The same for a command of the boot set that the boot ROM takes. -/
theorem lift_servedBoot_of_eq {s : State} {n op len : Nat} (h : s.servedBoot n op len = true) {lenOk : Nat → Bool}
    (hl : lenOk len = true) {k g : Dev → Dev} (hkg : k s.dev.taken = g s.dev.taken) :
    lift (Dev.takeCmd n op lenOk k) s = .next (s.afterCmd g) := by
  rw [lift_servedBoot h lenOk hl, State.afterCmd, State.afterCmd,
    after_congr (f := Dev.cmdDone k) (g := Dev.cmdDone g) (by rw [Dev.cmdDone, Dev.cmdDone, hkg])]

/-! ### The mailbox registers -/

theorem reqPush_room {d : Dev} {n : Nat} (hb : (d.mb n).busy = false) (hl : (d.mb n).req.length < 256) (w : Word) :
    d.reqPush n w = d.modMb n fun m => { m with req := m.req ++ [w] } := by
  have hl' : ¬ (d.mb n).req.length ≥ 256 := Nat.not_le.mpr hl
  simp only [Dev.reqPush, hb, hl', decide_false, Bool.or_self, Bool.false_eq_true, if_false]

theorem doorbellWrite_allowed {d : Dev} {p : Path} {n : Nat} (hp : d.pathOf n < 4) (ha : d.mbxAllowed p n = true) {w : Word}
    (hw : bitOf w 0 = true) : d.doorbellWrite p n w = d.ring n := by
  have hp' : ¬ d.pathOf n ≥ 4 := Nat.not_le.mpr hp
  simp only [Dev.doorbellWrite, hp', ha, hw, if_false, if_true, Bool.not_true, Bool.false_eq_true]

/-- A whole request without flags passes the tests of a doorbell and waits for the CP. -/
theorem ring_whole {d : Dev} {n : Nat} {h : Word} {body : List Word} (hp : d.pathOf n < 4) (hb : (d.mb n).busy = false)
    (hr : (d.mb n).req = h :: body) (hboot : d.bootBusy n (hdrOp h) = false) (hlen : hdrLen h = body.length)
    (hfl : hdrFlags h / 4 = 0) (hrep : nbit (hdrFlags h) 1 = false) :
    d.ring n = (d.modMb n fun m => { m with
      rsp := [], origin := if m.origin = .none then .regs else m.origin }).enqueueCmd n := by
  have hp' : ¬ d.pathOf n ≥ 4 := Nat.not_le.mpr hp
  have hboot' (f : Mailbox → Mailbox) : (d.modMb n f).bootBusy n (hdrOp h) = false := hboot
  simp only [Dev.ring, hp', hb, hr, List.isEmpty_cons, decide_false, Bool.or_self, Bool.false_eq_true, if_false,
    List.headD_cons, hboot', List.length_cons, hlen, ne_eq, not_true_eq_false, hfl, hrep]

/-- A request placed in a path's idle mailbox rings its doorbell. -/
theorem place_idle {d : Dev} {path n : Nat} (h : d.idleMbx path = some n) (o : Origin) {ws : List Word}
    (hl : ws.length ≤ 256) : d.place path o ws = (d.modMb n fun m => { m with req := ws, origin := o }).ring n := by
  have hl' : ¬ ws.length > 256 := Nat.not_lt.mpr hl
  simp only [Dev.place, h, hl', if_false, List.take_of_length_le hl]

theorem frameReq_length_le (bs : List Byte) : (frameReq bs).length ≤ 256 := by
  have h := bitsOf_lt (nth (unpackWords bs) 0) 15 8
  exact (List.length_take_le _ _).trans h

/-- Settles O18, row by row: each register is reached and its test passed. -/
theorem mailboxRegisters : Obligations.MailboxRegisters := by
  unfold Obligations.MailboxRegisters
  refine ⟨fun s p n w hl ha hb hlen => ?_, fun s p n w h body hl ha hw hp hb hr hboot hlen hfl hrep => ?_,
    fun s p n w ws hl ha hr => ?_, fun s p n e es hl ha he => ?_, fun s mac bs n hl hn hreq => ?_⟩
  · change execMbxReqWrite p n w s = _
    refine lift_live_eq hl ?_
    simp only [ha, Bool.not_true, Bool.false_eq_true, if_false]
    exact reqPush_room hb hlen w
  · change execDoorbell p n w s = _
    refine lift_live_eq hl ?_
    rw [doorbellWrite_allowed hp ha hw, ring_whole hp hb hr hboot hlen hfl hrep]
    rfl
  · change execMbxRspRead p n s = _
    refine lift_live_eq hl ?_
    simp only [ha, Bool.not_true, Bool.false_eq_true, if_false, Dev.rspPop, hr]
  · change execMbxEvtRead p n s = _
    refine lift_live_eq hl ?_
    simp only [ha, Bool.not_true, Bool.false_eq_true, if_false, Dev.evtPop, he]
    split
    · simp only [*]
    · simp only [*]
  · change execMgmtFrame mac bs s = _
    refine lift_live_eq hl ?_
    have hne : (frameReq bs).isEmpty = false := by simpa using hreq
    simp only [hne, Bool.false_eq_true, if_false]
    exact place_idle hn _ (frameReq_length_le bs)

/-! ### Image delivery -/

/-- The source that holds the claim. -/
theorem claimNot_eq_false {d : Dev} {n : Nat} (h : d.cp.loader.claim = d.pathOf n + 1) : d.claimNot n = false :=
  decide_eq_false (not_not_intro h)

/-- The link port that a request came by, as CP_BOOT.LYS_PORT shows it (R49). -/
def Origin.port (o : Origin) : Nat :=
  match o with
  | .link p => p.val
  | .lysith _ p => p.val
  | _ => 0

theorem imgBegin_claims {d : Dev} {n : Nat} (hc : d.cp.loader.claim = 0) (hlo : 56 ≤ (d.arg n 1).toNat)
    (hhi : (d.arg n 1).toNat ≤ 1864128) :
    d.imgBegin n = ((((d.modLoader fun x => { x with
      claim := d.srcOfMbx n, len := (d.arg n 1).toNat, staged := 0, chunked := false }).setF F.cpBoot_SOURCE
      (d.srcOfMbx n)).setF F.cpBoot_LYS_PORT (d.mb n).origin.port).setBoot 3).reply n stOK [] := by
  have hrange : ¬ ((decide ((d.arg n 1).toNat < 56) || decide ((d.arg n 1).toNat > 1864128)) = true) := by
    simp only [Bool.or_eq_true, decide_eq_true_eq]
    omega
  unfold Dev.imgBegin
  rw [if_neg (by simp [hc]), if_neg hrange]
  rfl

theorem imgChunk_stages {d : Dev} {n : Nat} (hc : d.cp.loader.claim = d.pathOf n + 1)
    (hofs : (d.arg n 1).toNat = d.cp.loader.staged)
    (hfit : d.cp.loader.staged + ((d.mb n).req.drop 2).length ≤ d.cp.loader.len) :
    d.imgChunk n =
      let ws := (d.mb n).req.drop 2
      let e := (d.wrs d.cp.loader.staged ws).modLoader fun x => { x with staged := x.staged + ws.length, chunked := true }
      e.reply n stOK [toW e.cp.loader.staged] := by
  have hfits : ¬ ((decide ((d.arg n 1).toNat ≠ d.cp.loader.staged) ||
      decide (d.cp.loader.staged + ((d.mb n).req.drop 2).length > d.cp.loader.len)) = true) := by
    simp only [Bool.or_eq_true, decide_eq_true_eq]
    omega
  unfold Dev.imgChunk
  rw [claimNot_eq_false hc, if_neg Bool.false_ne_true, if_neg hfits]

theorem imgBoot_verifies {d : Dev} {n : Nat} (hc : d.cp.loader.claim = d.pathOf n + 1) :
    d.imgBoot n = ((d.modLoader fun x => { x with verify := some n }).setBoot 4).hold n := by
  rw [Dev.imgBoot, claimNot_eq_false hc, if_neg Bool.false_ne_true]

theorem imgAbort_rejects {d : Dev} {n : Nat} (hc : d.cp.loader.claim = d.pathOf n + 1) :
    d.imgAbort n = (d.imgRejected 0x0A).reply n stOK [] := by
  rw [Dev.imgAbort, claimNot_eq_false hc, if_neg Bool.false_ne_true]

/-- Settles O20, row by row: the source holds the claim, or none does, and the bounds of the command are kept. -/
theorem imageDelivery : Obligations.ImageDelivery := by
  unfold Obligations.ImageDelivery
  refine ⟨fun s n h => ?_, fun s n h => ?_, fun s n h hc hlo hhi => ?_, fun s n len h hlen hc hofs hfit => ?_,
    fun s n h hc => ?_, fun s n h hc => ?_, fun s hl hc hv => ?_⟩
  · exact lift_served h _ rfl _
  · exact lift_served h _ rfl _
  · change execImgBegin n s = _
    exact lift_servedBoot_of_eq h rfl (imgBegin_claims (d := s.dev.taken) hc hlo hhi)
  · change execImgChunk n s = _
    exact lift_servedBoot_of_eq h (decide_eq_true hlen) (imgChunk_stages (d := s.dev.taken) hc hofs hfit)
  · change execImgBoot n s = _
    exact lift_servedBoot_of_eq h rfl (imgBoot_verifies (d := s.dev.taken) hc)
  · change execImgAbort n s = _
    exact lift_servedBoot_of_eq h rfl (imgAbort_rejects (d := s.dev.taken) hc)
  · change execImgClaimTimeout s = _
    refine lift_live_eq hl (if_pos ?_)
    rw [hv]
    simpa using hc

end Sys2Proof.Machine
end

section
/-! Reset and the power states (R47, R451, R455, R457, R458, R461, R463). -/

namespace Sys2Proof.Machine

theorem execVaonApplied_eq (s : State) : execVaonApplied s = .next { s with
    dev := ((({ s.dev with cp := { s.dev.cp with bbHalt := false } } : Dev).toReset.loopsFail).modPwr fun p =>
      { p with src := 2 }).railEn true } := rfl

theorem resetRelease_boots {d : Dev} (hr : d.pwr.railOff = false) (hh : d.pwr.held = true) (hs : d.pwr.src ≠ 0) :
    d.resetRelease = forN 8 (fun n d =>
        if d.fb (F.lnkCfg_EN n) then (d.setF (F.lnkStat_STATE n) 1).emit (.training n (d.ownPeer n)) else d)
      (forN 4 (fun p d => if d.fb (F.fiuCfg_EN p) then d.portOn p else d)
        (forN 16 (fun k d => d.emit (.drive 1 k 0)) ((d.toReset.modPwr fun p => { p with held := false, src := 0 }).setF
          F.pwrStat_WAKE_SRC d.pwr.src))) := by
  unfold Dev.resetRelease
  rw [hr, hh, if_neg (by simp)]
  dsimp only
  rw [if_neg hs]

theorem execRstNAsserted_live {s : State} (h : s.live = true) :
    execRstNAsserted s = .next { ksInterrupt s with dev := (ksInterrupt s).dev.quiet.toReset } := by
  unfold execRstNAsserted
  rw [live_held h, if_neg Bool.false_ne_true]

theorem pwrStandby_idle {d : Dev} (n : Nat) (hl : ((List.range 16).all fun l => d.felState l == 0) = true)
    (hf : ((List.range 1024).all fun k => !d.fchRun k) = true) (hc : d.f F.cohStat_STATE ≠ 2) :
    d.pwrStandby n = (d.modPwr fun p => { p with standby := true }).reply n stOK [] := by
  have hlinks : ¬ ((List.range 16).any fun l => decide (d.felState l ≠ 0)) = true := by
    rw [List.all_eq_true] at hl
    rw [List.any_eq_true]
    rintro ⟨l, hmem, hne⟩
    exact of_decide_eq_true hne (eq_of_beq (hl l hmem))
  have hchans : ¬ (List.range 1024).any d.fchRun = true := by
    rw [List.all_eq_true] at hf
    rw [List.any_eq_true]
    rintro ⟨k, hmem, hrun⟩
    simpa [hrun] using hf k hmem
  unfold Dev.pwrStandby
  rw [if_neg hlinks, if_neg hchans, if_neg hc]

theorem stopCauseNow_live {s : State} (h : s.live = true) : s.dev.stopCauseNow = 0 := by
  unfold Dev.stopCauseNow
  rw [live_held h]
  rfl

/-- The stop of the edge takes another cause (R474). -/
theorem modPwr_stopNow {d : Dev} {x : StopTie} (h : d.pwr.stopNow = some x) (cause src : Nat) :
    ((d.modPwr fun p => { p with stopNow := p.stopNow.map fun x => { x with cause := cause } }).modPwr fun p =>
      { p with src := src }) = d.modPwr fun p => { p with stopNow := some { x with cause := cause }, src := src } := by
  unfold Dev.modPwr
  dsimp only
  rw [h]
  rfl

/-- Settles O58, row by row: the state's power tests are met. -/
theorem resetAndStandby : Obligations.ResetAndStandby := by
  unfold Obligations.ResetAndStandby
  refine ⟨execVaonApplied_eq, fun s hr hh hsrc => ?release, fun s hl => execRstNAsserted_live hl, fun s hl hb => ?pairing,
    fun s n h hl hf hc => ?pwrStandby, fun s hl hst => ?standbyEntry, fun s hlow hcool => ?request, fun s hcool => ?ignored,
    fun s hoff hwake => ?rail, fun s hl => ?supplyLoss, fun s x hh hx hc => ?late⟩
  case release =>
    change execResetRelease s = _
    rw [execResetRelease, resetRelease_boots hr hh hsrc]
  case pairing =>
    change execDiePairingDone s = _
    exact (liftRd_live hl _).trans (congrArg _ (after_congr (if_neg (not_not_intro hb))))
  case pwrStandby =>
    change execPwrStandby n s = _
    exact lift_served_of_eq h rfl (pwrStandby_idle (d := s.dev.taken) n hl hf hc)
  case standbyEntry =>
    change execStandbyEntry s = _
    rw [execStandbyEntry, gate_live hl, hst, Bool.not_true, if_neg Bool.false_ne_true]
  case request =>
    change execWakeRequest s = _
    rw [execWakeRequest, hlow, hcool, if_pos (by decide)]
  case ignored =>
    change execWakeRequest s = _
    rw [execWakeRequest, if_neg (by simp [Nat.ne_of_gt hcool])]
  case rail =>
    change execWakeRailEnable s = _
    rw [execWakeRailEnable, hoff, hwake, if_pos (by decide)]
  case supplyLoss =>
    change execSupplyLoss s = _
    rw [execSupplyLoss, stopCauseNow_live hl, if_neg (by decide), gate_live hl]
  case late =>
    have hnow : s.dev.stopCauseNow = 3 := by simp [Dev.stopCauseNow, hh, hx, hc]
    have hrestop := modPwr_stopNow (d := s.dev.setF F.errStop_CAUSE 2) (by rw [setF_pwr, hx]) 2 3
    change execSupplyLoss s = _
    rw [execSupplyLoss, if_pos hnow, Dev.restop, hrestop]

end Sys2Proof.Machine
end

section
/-! An image that the owner fuse refuses, and the answer that tells its source (R53, R60, R405, R437). -/

namespace Sys2Proof.Machine

/-- The owner fuse holds hash 0, which the key of 24 zero words does not have; package 7, to which no entry of the system
route table leads, waits in mailbox 8 for its IMG_BOOT; the backlog reserve has one chunk, in which one word is free. -/
def otherKeyImage : State :=
  let d := (State.reset.dev.setF F.cpBoot_STATE 4).setF F.errBklCfg_LEN 1
  let d := d.modMb 8 fun m => { m with req := [mkW [(35, 24, 0x012)]], busy := true, origin := .lysith 7 0 }
  let d := d.modChain 268 fun _ => nearlyFullChain
  let d := d.modLoader fun l => { l with claim := 2, len := 56, verify := some 8 }
  { State.reset with
    fuses := { owner := true, hash := 0, debug := false }
    dev := { d with cp := { d.cp with executing := [8] }, pwr := { d.pwr with held := false } } }

/-- Memory after a step. -/
def memAfter (r : R) : Option (SMap Word) :=
  match r with
  | .next t => some t.dev.mem
  | _ => none

theorem otherKeyImage_key : sha384 (otherKeyImage.dev.imgBytes 4 24) ≠ otherKeyImage.fuses.hash := by decide +kernel

/-- The image is refused, and a word of the BAD_ARG goes to the free word of the reserve. -/
theorem otherKeyImage_stores : memAfter (exec .verifyDone otherKeyImage) ≠ some otherKeyImage.dev.mem := by
  decide +kernel

/-- Refutes O4, in its clause of an image whose key does not match: it does not boot, but memory does not stay as it was, for
the answer to a source that no route leads to is held in the backlog reserve. -/
theorem not_ownerFuse : ¬ Obligations.OwnerFuse := by
  unfold Obligations.OwnerFuse
  rintro ⟨-, -, -, himage, -⟩
  obtain ⟨t, ht, -, hmem⟩ := himage otherKeyImage 8 rfl rfl rfl otherKeyImage_key
  exact otherKeyImage_stores (by rw [ht, memAfter, hmem])

end Sys2Proof.Machine
end

section
/-! A backlog chain under a key that is no egress, and what its losses do to CP_DEBUG (R60, R417, R442). -/

namespace Sys2Proof.Machine

/-- The key whose ERR_BKL_EGR register would lie where CP_DEBUG is; the egresses end at 268. -/
def strayDebugEgress : Nat := R.cpDebug - R.errBklEgr 0

/-- A chain that holds the only chunk of the reserve, with four whole packets. -/
def fourPacketChain : Chain :=
  { chunks := [⟨0, 992, []⟩], stalled := true
    pkts := (List.range 4).map fun i => { (default : BklPkt) with spans := [(0, i, 1)] } }

/-- The boot ROM waits for an image; package 7, to which no route leads, has had an OWNER_FUSE placed in mailbox 0, and the
stray chain fills the reserve. -/
def strayChainFuse : State :=
  let d := ((State.reset.dev.setF F.cpBoot_STATE 2).setF F.errBklCfg_LEN 1).modChain strayDebugEgress fun _ => fourPacketChain
  let d := d.modMb 0 fun m => { m with
    req := mkW [(35, 24, 0x018), (15, 8, 13)] :: (List.replicate 12 0 ++ [toW 0x2795C9C52]), busy := true
    origin := .lysith 7 0 }
  { State.reset with dev := { d with cp := { d.cp with doorbells := [0] }, pwr := { d.pwr with held := false } } }

/-- FUSE_OWNER, as fused, after a step. -/
def ownerAfter (r : R) : Option Bool :=
  match r with
  | .next t => some t.fuses.owner
  | _ => none

theorem strayChainFuse_served : strayChainFuse.servedBoot 0 0x018 13 = true := by decide +kernel

/-- The OK answer waits in the reserve, for which the stray chain gives up its four packets: their count carries out of
CP_DEBUG.FUSE_OWNER, and the fuse is not burnt. -/
theorem strayChainFuse_unburnt : ownerAfter (exec (.ownerFuse 0) strayChainFuse) = some false := by decide +kernel

/-- Refutes O21, in its clause of OWNER_FUSE: no hypothesis keeps the chains of the reserve to the 269 egresses, and the
answer's place in the reserve may cost a stray chain packets, whose count falls on CP_DEBUG. -/
theorem not_bootAndRestart : ¬ Obligations.BootAndRestart := by
  unfold Obligations.BootAndRestart
  rintro ⟨-, -, hfuse, -⟩
  have hclaim := congrArg ownerAfter (hfuse strayChainFuse strayChainFuse_served (by decide +kernel) (by decide +kernel)
    (by decide +kernel) rfl)
  rw [strayChainFuse_unburnt] at hclaim
  exact Bool.false_ne_true (Option.some.inj hclaim)

end Sys2Proof.Machine
end

section
/-! Every step leaves nothing unsettled (R75, R427): a row passes the gate, whose settling comes last, or is one of the few
that act on power and reset alone. -/

namespace Sys2Proof.Machine

/-! ### The rows that pass the gate -/

/-- The rows that act in reset, or choose by it: those that bring TM9 into reset and out of it, and the two that another stop
of their edge turns (R457, R463, R474). -/
def ownGate : Instr → Bool
  | .vaonApplied | .resetRelease | .rstNAsserted | .supplyLoss | .wakeRequest | .wakeRailEnable | .sensorConversion .. => true
  | _ => false

/-- The meaning is a gated effect, or a gated effect with the note of what it did. -/
inductive Gated (m : State → R) : Prop
  | plain (f : State → State) (h : ∀ s, m s = gate f s)
  | noted (kind idx : Nat) (has : Dev → Dev → Bool) (f : State → State) (h : ∀ s, m s = tied kind idx has (gate f) s)

theorem gated_tied (kind idx : Nat) (has : Dev → Dev → Bool) (f : State → State) : Gated (tied kind idx has (gate f)) :=
  .noted kind idx has f fun _ => rfl

theorem gated_issueOf (e : Nat) (f : State → State) : Gated (issueOf e (gate f)) := gated_tied _ _ _ _

theorem exec_gated {c : Instr} (h : ownGate c = false) : Gated (exec c) := by
  cases c with
  | nop | pinSet | pinPulse | sysref | regWriteAction | calApply | routeSwitch | trigger | mark | event =>
    exact gated_issueOf _ _
  | stealSearch u =>
    change Gated (execStealSearch u)
    exact gated_tied _ _ _ _
  | loopWatchdogExpiry k =>
    change Gated (execLoopWatchdogExpiry k)
    exact gated_tied _ _ _ _
  | vaonApplied | resetRelease | rstNAsserted | supplyLoss | wakeRequest | wakeRailEnable | sensorConversion =>
    exact absurd h (by simp [ownGate])
  | _ => exact .plain _ fun _ => rfl

/-- A gated meaning answers the same state in reset, else a settled one; a note may join it. -/
theorem Gated.answers {m : State → R} (hm : Gated m) {s t : State} (h : m s = .next t) :
    ∃ u ts, t = { u with dev := { u.dev with ties := ts } } ∧ (u = s ∨ ∃ v : State, u = v.settle) := by
  have settled {f : State → State} {u : State} (h : gate f s = .next u) : u = s ∨ ∃ v : State, u = v.settle := by
    obtain ⟨-, hu⟩ | ⟨-, hu⟩ := gate_cases h
    · exact .inl hu
    · exact .inr ⟨f s, hu⟩
  cases hm with
  | plain f hf => exact ⟨t, t.dev.ties, rfl, settled (hf s ▸ h)⟩
  | noted kind idx has f hf =>
    obtain ⟨u, hu, ht⟩ := tied_cases (hf s ▸ h)
    obtain ⟨ts, hn⟩ := note_eq kind idx (has s.dev u.dev) s.dev u.dev
    exact ⟨u, ts, by rw [ht, hn], settled hu⟩

/-! ### Nothing left to settle -/

/-- No error met waits to enter the queue, no event raised waits to go out. -/
def Dev.Settled (d : Dev) : Prop := d.err.met = [] ∧ d.cp.raised = []

namespace Dev.Settled
variable {d : Dev}

theorem setF (h : d.Settled) (fl : Fld) (v : Nat) : (d.setF fl v).Settled := h

theorem inc (h : d.Settled) (fl : Fld) (n : Nat) : (d.inc fl n).Settled := h

theorem emit (h : d.Settled) (o : Out) : (d.emit o).Settled := h

theorem modPwr (h : d.Settled) (f : Pwr → Pwr) : (d.modPwr f).Settled := h

theorem modMb (h : d.Settled) (n : Nat) (f : Mailbox → Mailbox) : (d.modMb n f).Settled := h

theorem modFp (h : d.Settled) (p : Nat) (f : FiuPort → FiuPort) : (d.modFp p f).Settled := h

theorem sendMsix (h : d.Settled) (v : Nat) : (d.sendMsix v).Settled := by
  unfold Dev.sendMsix
  dsimp only
  split
  · exact h
  · split
    · exact h
    · exact h.emit _

theorem logPut (h : d.Settled) (k : Nat) (ws : List Word) : (d.logPut k ws).Settled := h

theorem logGap (h : d.Settled) (seq : Nat) : (d.logGap seq).Settled := by
  unfold Dev.logGap
  dsimp only
  split
  · split
    · split
      · exact logPut (d := { d with cp := { d.cp with gap := false } }) h _ _
      · exact h
    · exact h
  · exact h

theorem logEvent (h : d.Settled) (seq : Nat) (msg : List Word) : (d.logEvent seq msg).Settled := by
  unfold Dev.logEvent
  split
  · exact (h.logGap seq).logPut 0 msg
  · exact h

theorem deliverEvt (h : d.Settled) (n : Nat) (msg : List Word) : (d.deliverEvt n msg).Settled := by
  unfold Dev.deliverEvt
  dsimp only
  split <;> split
  · exact ((h.modMb n _).inc _ 1).sendMsix _
  · exact (h.modMb n _).inc _ 1
  · exact (h.modMb n _).sendMsix _
  · exact h.modMb n _

theorem eventRaw (h : d.Settled) (code inst ep : Nat) (x : Word) : (d.eventRaw code inst ep x).Settled := by
  unfold Dev.eventRaw
  refine logEvent ?_ _ _
  refine forN_keeps (P := Dev.Settled) (fun n e he => ?_) 16 ?_
  · split
    · exact he.deliverEvt n _
    · exact he
  · exact h

theorem eventOut (h : d.Settled) (x : Nat × Nat × Nat × Word) : (d.eventOut x).Settled := by
  unfold Dev.eventOut
  dsimp only
  split
  · exact (h.eventRaw _ _ _ _).eventRaw _ _ _ _
  · exact h.eventRaw _ _ _ _

theorem memberLines (h : d.Settled) (p : Nat) : (d.memberLines p).Settled := by
  obtain ⟨f, o, heq⟩ := memberLines_eq d p
  rw [heq]
  exact h

end Dev.Settled

/-- An error entering the queue meets no other. -/
theorem logErr_err (d : Dev) (ent : List Word) : (d.logErr ent).err = d.err := by
  unfold Dev.logErr
  dsimp only
  split <;> rfl

theorem incEv_err (d : Dev) (fl : Fld) (n code inst : Nat) (e3 : Nat → Word) : (d.incEv fl n code inst e3).err = d.err := by
  unfold Dev.incEv
  dsimp only
  split <;> rfl

theorem queueErr_met (d : Dev) (ent : List Word) : (d.queueErr ent).err.met = d.err.met := by
  have copied (e : Dev) : (if e.running then e.logErr ent
      else { e with cp := { e.cp with errUncopied := e.cp.errUncopied + 1 } }).err = e.err := by
    split
    · exact logErr_err e ent
    · rfl
  unfold Dev.queueErr
  dsimp only
  split
  · rw [incEv_err, copied]
  · rw [copied]

theorem queueErrs_met (d : Dev) : d.queueErrs.err.met = [] :=
  foldl_keeps (P := fun e : Dev => e.err.met = []) (fun e x he => (queueErr_met e x.2.2).trans he) _ rfl

theorem settle_settled (d : Dev) : d.settle.Settled := by
  unfold Dev.settle
  dsimp only
  refine forN_keeps (P := Dev.Settled) (fun p e he => he.memberLines p) 4 ?_
  exact foldl_keeps (P := Dev.Settled) (fun e x he => he.eventOut x) _ ⟨queueErrs_met d, rfl⟩

/-! ### Reset -/

theorem toReset_settled (d : Dev) : d.toReset.Settled := by
  unfold Dev.toReset
  dsimp only
  exact foldl_keeps (P := Dev.Settled) (fun z fl hz => hz.setF fl _) muslinRegs ⟨rfl, rfl⟩

theorem toReset_fiu (d : Dev) : d.toReset.fiu = [] := by
  unfold Dev.toReset
  dsimp only
  exact foldl_keeps (P := fun z : Dev => z.fiu = []) (fun z fl hz => (setF_fiu z fl _).trans hz) muslinRegs rfl

/-- A register outside the Muslin domain is at its reset value. -/
theorem toReset_reg (d : Dev) {off : Nat} (h : ∀ fl ∈ muslinRegs, off ≠ fl.off) : d.toReset.reg off = regDflt off := by
  unfold Dev.toReset
  dsimp only
  exact List.foldlRecOn (motive := fun z : Dev => z.reg off = regDflt off) muslinRegs _ rfl fun z hz fl hfl =>
    (reg_setF_ne z fl _ (h fl hfl)).trans hz

/-! ### Ports at reset release -/

/-- Nothing is left to settle, and no port is to assert F_HALT: its assertion would raise an event (R300). -/
structure Dev.Unhalted (d : Dev) : Prop where
  settled : d.Settled
  halt : ∀ p, p < 4 → d.fb (F.fiuCfg_HALT p) = false
  segReset : ∀ p, (d.fp p).segReset = none
  haltOut : ∀ p, (d.fp p).haltOut = false

namespace Dev.Unhalted
variable {d : Dev}

theorem haltOwn (h : d.Unhalted) {p : Nat} (hp : p < 4) : d.haltOwn p = false := by
  simp [Dev.haltOwn, h.halt p hp, h.segReset p]

theorem haltRefresh (h : d.Unhalted) {p : Nat} (hp : p < 4) : d.haltRefresh p = d := by
  rw [Dev.haltRefresh, h.haltOwn hp, h.haltOut p]
  exact if_pos rfl

theorem emit (h : d.Unhalted) (o : Out) : (d.emit o).Unhalted := ⟨h.settled, h.halt, h.segReset, h.haltOut⟩

theorem setF (h : d.Unhalted) {fl : Fld} (hfl : ∀ p, p < 4 → (F.fiuCfg_HALT p).off ≠ fl.off) (v : Nat) :
    (d.setF fl v).Unhalted where
  settled := h.settled.setF fl v
  halt p hp := by
    rw [Dev.fb, f_setF_reg d fl _ v (hfl p hp)]
    exact h.halt p hp
  segReset := h.segReset
  haltOut := h.haltOut

theorem modPwr (h : d.Unhalted) (f : Pwr → Pwr) : (d.modPwr f).Unhalted := ⟨h.settled, h.halt, h.segReset, h.haltOut⟩

/-- A change of a port that leaves its part in F_HALT. -/
theorem modFp (h : d.Unhalted) (p : Nat) {f : FiuPort → FiuPort} (hs : ∀ x, (f x).segReset = x.segReset)
    (ho : ∀ x, (f x).haltOut = x.haltOut) : (d.modFp p f).Unhalted where
  settled := h.settled.modFp p f
  halt := h.halt
  segReset q := by
    rw [fp_modFp_ite]
    split
    · rw [hs, h.segReset]
    · exact h.segReset q
  haltOut q := by
    rw [fp_modFp_ite]
    split
    · rw [ho, h.haltOut]
    · exact h.haltOut q

theorem portOn (h : d.Unhalted) {p : Nat} (hp : p < 4) : (d.portOn p).Unhalted := by
  have hstate : ∀ q, q < 4 → (F.fiuCfg_HALT q).off ≠ (F.fiuStat_STATE p).off := by
    intro q _
    show 0x1A011 + 0x800 * q ≠ 0x1A013 + 0x800 * p
    omega
  have hrefresh (role noRst : Bool) (slot : Nat) := (h.modFp p (f := fun x => { x with
    role := role, mySlot := slot, noRst := noRst, latch := none, ctl := 0, late := false }) (fun _ => rfl)
    fun _ => rfl).setF hstate (if role then 3 else 1)
  unfold Dev.portOn
  generalize ((d.fp p).latch).getD (d.cfgRole p) = cfg
  obtain ⟨role, slot, noRst⟩ := cfg
  dsimp only
  rw [Dev.setFpState, (hrefresh role noRst slot).haltRefresh hp]
  exact hrefresh role noRst slot

end Dev.Unhalted

theorem toReset_unhalted (d : Dev) : d.toReset.Unhalted where
  settled := toReset_settled d
  halt p hp := by
    have hoff : ∀ p, p < 4 → ∀ fl ∈ muslinRegs, R.fiuCfg p ≠ fl.off := by decide
    have hdflt : ∀ p, p < 4 → (bitsOf (regDflt (R.fiuCfg p)) 27 27 != 0) = false := by decide +kernel
    have hreg := toReset_reg d (hoff p hp)
    exact (congrArg (fun w => bitsOf w 27 27 != 0) hreg).trans (hdflt p hp)
  segReset p := by rw [Dev.fp, toReset_fiu]; rfl
  haltOut p := by rw [Dev.fp, toReset_fiu]; rfl

theorem resetRelease_settled {d : Dev} (h : d.Settled) : d.resetRelease.Settled := by
  have hwake : ∀ p, p < 4 → (F.fiuCfg_HALT p).off ≠ F.pwrStat_WAKE_SRC.off := by decide
  have hreleased := (toReset_unhalted d).modPwr fun p => { p with held := false, src := 0 }
  unfold Dev.resetRelease
  split
  · exact h
  · dsimp only
    refine forN_keeps (P := Dev.Settled) (fun n e he => ?_) 8 (Dev.Unhalted.settled ?_)
    · split
      · exact (he.setF _ 1).emit _
      · exact he
    · refine forN_keeps_lt (P := Dev.Unhalted) (fun p hp e he => ?_) ?_
      · split
        · exact he.portOn hp
        · exact he
      · refine forN_keeps (P := Dev.Unhalted) (fun k e he => he.emit _) 16 ?_
        split
        · exact hreleased
        · exact hreleased.setF hwake _

/-! ### The rows with a gate of their own -/

theorem railEn_settled {d : Dev} (h : d.Settled) (on : Bool) : (d.railEn on).Settled := (h.modPwr _).emit _

theorem loopsFail_settled {d : Dev} (h : d.Settled) : d.loopsFail.Settled :=
  forN_keeps (P := Dev.Settled) (fun _ _ he => he.emit _) 16 h

theorem restop_settled {d : Dev} (h : d.Settled) (cause : Nat) : (d.restop cause).Settled := (h.setF _ cause).modPwr _

theorem lateShutdown_settled {d : Dev} (h : d.Settled) (i raw : Nat) : (d.lateShutdown i raw).Settled := by
  unfold Dev.lateShutdown
  split
  · exact iteInduction (motive := Dev.Settled)
      (fun _ => (railEn_settled ((restop_settled h 1).modPwr _) false).modPwr _) fun _ => h
  · exact h

theorem next_settled {u t : State} (hu : u.dev.Settled) (h : (.next u : R) = .next t) : t.dev.Settled := by
  injection h with h
  exact h ▸ hu

theorem gate_settled {f : State → State} {s t : State} (hs : s.dev.Settled) (h : gate f s = .next t) : t.dev.Settled := by
  obtain ⟨-, rfl⟩ | ⟨-, rfl⟩ := gate_cases h
  · exact hs
  · exact settle_settled _

theorem exec_settled {c : Instr} {s t : State} (hs : s.dev.Settled) (h : exec c s = .next t) : t.dev.Settled := by
  cases hown : ownGate c with
  | false =>
    obtain ⟨u, ts, rfl, rfl | ⟨v, rfl⟩⟩ := (exec_gated hown).answers h
    · exact hs
    · exact settle_settled v.dev
  | true =>
    cases c with
    | vaonApplied =>
      refine next_settled ?_ h
      exact railEn_settled ((loopsFail_settled (toReset_settled _)).modPwr _) true
    | resetRelease =>
      refine next_settled ?_ h
      exact resetRelease_settled hs
    | rstNAsserted =>
      change execRstNAsserted s = _ at h
      unfold execRstNAsserted at h
      split at h
      · exact next_settled hs h
      · refine next_settled ?_ h
        exact toReset_settled _
    | supplyLoss =>
      change execSupplyLoss s = _ at h
      unfold execSupplyLoss at h
      split at h
      · refine next_settled ?_ h
        exact railEn_settled ((restop_settled hs 2).modPwr _) true
      · exact gate_settled hs h
    | wakeRequest =>
      refine next_settled ?_ h
      exact iteInduction (motive := Dev.Settled) (fun _ => hs.modPwr _) fun _ => hs
    | wakeRailEnable =>
      refine next_settled ?_ h
      exact iteInduction (motive := Dev.Settled) (fun _ => railEn_settled (hs.modPwr _) true) fun _ => hs
    | sensorConversion i x =>
      change execSensorConversion i x s = _ at h
      unfold execSensorConversion at h
      split at h
      · refine next_settled ?_ h
        exact lateShutdown_settled hs i x.toNat
      · exact gate_settled hs h
    | _ => exact absurd hown Bool.false_ne_true

/-- Settles O6: a command's answer is settled, and so is the edge that passes on an empty queue. -/
theorem quietKept : Obligations.QuietKept := by
  unfold Obligations.QuietKept
  intro s t hq h
  unfold stepsTo step at h
  split at h
  · next c rest _ => exact exec_settled (s := { s with pending := rest }) hq h
  · unfold State.idle at h
    split at h
    · refine next_settled ?_ h
      exact Dev.Settled.modPwr hq _
    · exact gate_settled hq h

end Sys2Proof.Machine
end

section
/-! The step on an empty queue (R93, R112, R467, R474). -/

namespace Sys2Proof.Machine

theorem step_empty {s : State} (h : s.pending = []) : step s = s.idle := by rw [step, h]

theorem idle_live {s : State} (h : s.live = true) : s.idle = .next (s.afterBb fun d => d.genTick.edgeEnd) := by
  rw [State.idle, live_held h, if_neg Bool.false_ne_true, liftBb_live h]

theorem idle_held {s : State} (h : s.live = false) : s.idle = .next { s with dev := s.dev.heldTick } := by
  have hheld : s.dev.pwr.held = true := by simpa [State.live] using h
  rw [State.idle, hheld, if_pos rfl]

/-- Settles O2: with no command waiting the step is the edge, out of reset and in it. -/
theorem emptyQueueStep : Obligations.EmptyQueueStep := by
  unfold Obligations.EmptyQueueStep
  refine ⟨fun s h hl => ?_, fun s h hl => ?_⟩
  · rw [step_empty h, idle_live hl]
  · rw [step_empty h, idle_held hl, Dev.heldTick]

end Sys2Proof.Machine
end

section
/-! What the operations of a queue do in the cases that a command's state settles: an IDLE word, room in the ring, whole or
corrupt pointer state (R85, R92, R95, R104 to R106, R109, R424). -/

namespace Sys2Proof.Machine

/-! ### Counters, events and errors -/

section Keeps
variable {α : Type} {P : Dev → α}

/-- What no event touches stays where one is raised under a condition. -/
theorem ite_event_keeps (hP : ∀ (d : Dev) code inst x, P (d.event code inst x) = P d) (d : Dev) (c : Prop) [Decidable c]
    (code inst : Nat) (x : Word) : P (if c then d.event code inst x else d) = P d := by
  split
  · exact hP d code inst x
  · rfl

theorem ite_err_keeps (hP : ∀ (d : Dev) x, P { d with err := x } = P d) (d : Dev) (c : Prop) [Decidable c] (x : ErrUnit) :
    P (if c then { d with err := x } else d) = P d := by
  split
  · exact hP d x
  · rfl

theorem incEv_keeps (hP : ∀ (d : Dev) code inst x, P (d.event code inst x) = P d) (d : Dev) (fl : Fld) (n code inst : Nat)
    (e3 : Nat → Word) : P (d.incEv fl n code inst e3) = P (d.inc fl n) := by
  unfold Dev.incEv
  exact ite_event_keeps hP _ _ _ _ _

/-- An error is counted, and for the rest met and raised. -/
theorem error_keeps (hev : ∀ (d : Dev) code inst x, P (d.event code inst x) = P d)
    (herr : ∀ (d : Dev) x, P { d with err := x } = P d) (d : Dev) (cls sev inst ah code : Nat) (q3 : Word) :
    P (d.error cls sev inst ah code q3) = P (d.inc (F.errCnt_COUNT cls) 1) := by
  unfold Dev.error
  exact (ite_event_keeps hev _ _ _ _ _).trans (ite_err_keeps herr _ _ _)

end Keeps

theorem incEv_mem (d : Dev) (fl : Fld) (n code inst : Nat) (e3 : Nat → Word) : (d.incEv fl n code inst e3).mem = d.mem :=
  (incEv_keeps event_mem d fl n code inst e3).trans (inc_mem d fl n)

theorem incEv_queues (d : Dev) (fl : Fld) (n code inst : Nat) (e3 : Nat → Word) :
    (d.incEv fl n code inst e3).queues = d.queues :=
  (incEv_keeps event_queues d fl n code inst e3).trans (inc_queues d fl n)

theorem incEv_reg (d : Dev) (fl : Fld) (n code inst : Nat) (e3 : Nat → Word) (o : Nat) :
    (d.incEv fl n code inst e3).reg o = (d.inc fl n).reg o :=
  incEv_keeps (P := (Dev.reg · o)) (fun d code inst x => event_reg d code inst x o) d fl n code inst e3

theorem incEv_f (d : Dev) (fl : Fld) (n code inst : Nat) (e3 : Nat → Word) (g : Fld) :
    (d.incEv fl n code inst e3).f g = (d.inc fl n).f g := by
  rw [Dev.f, Dev.f, incEv_reg]

theorem inc_reg_ne (d : Dev) (fl : Fld) (n : Nat) {o : Nat} (h : o ≠ fl.off) : (d.inc fl n).reg o = d.reg o :=
  reg_setF_ne d fl _ h

theorem error_queues (d : Dev) (cls sev inst ah code : Nat) (q3 : Word) :
    (d.error cls sev inst ah code q3).queues = d.queues :=
  (error_keeps event_queues (fun _ _ => rfl) d cls sev inst ah code q3).trans (inc_queues d _ 1)

theorem error_reg_ne (d : Dev) {cls : Nat} (sev inst ah code : Nat) (q3 : Word) {o : Nat} (ho : o ≠ R.errCnt cls) :
    (d.error cls sev inst ah code q3).reg o = d.reg o :=
  (error_keeps (P := (Dev.reg · o)) (fun d code inst x => event_reg d code inst x o) (fun d x => reg_of_err d x o)
    d cls sev inst ah code q3).trans (inc_reg_ne d _ 1 ho)

theorem satAdd_eq_min (m a b : Nat) : satAdd m a b = min m (a + b) := by
  unfold satAdd
  split <;> omega

/-- A counter counts up to its greatest value. -/
theorem f_inc_same (d : Dev) (fl : Fld) (n : Nat) (h : fl.lo ≤ fl.hi) (h36 : fl.hi < 36) :
    (d.inc fl n).f fl = min (2 ^ (fl.hi + 1 - fl.lo) - 1) (d.f fl + n) := by
  have hpos := Nat.two_pow_pos (fl.hi + 1 - fl.lo)
  rw [Dev.inc, f_setF_same d fl _ h h36, satAdd_eq_min, Nat.mod_eq_of_lt (by omega)]

/-! ### Words lost, words malformed -/

theorem qLost_reg_ne (d : Dev) (c q n : Nat) {o : Nat} (ho : o ≠ R.cluQlost c q) : (d.qLost c q n).reg o = d.reg o := by
  unfold Dev.qLost
  split
  · rfl
  · rw [incEv_reg, inc_reg_ne _ _ _ ho]

theorem qMalf_mem (d : Dev) (c q : Nat) : (d.qMalf c q).mem = d.mem := by rw [Dev.qMalf, incEv_mem, setF_mem]

theorem qMalf_queues (d : Dev) (c q : Nat) : (d.qMalf c q).queues = d.queues := by
  rw [Dev.qMalf, incEv_queues, setF_queues]

theorem qMalf_flags (d : Dev) (c q : Nat) : (d.qMalf c q).fb (F.cluQstat_MALFORMED c q) = true := by
  have hne : (F.cluQstat_MALFORMED c q).off ≠ (F.cluQerrcnt_MALF_CNT c q).off := by dsimp only; omega
  rw [Dev.fb, Dev.qMalf, incEv_f, Dev.inc, f_setF_reg _ _ _ _ hne, f_setF_same _ _ _ le_rfl (by simp)]
  simp

theorem qMalf_counts (d : Dev) (c q : Nat) :
    (d.qMalf c q).f (F.cluQerrcnt_MALF_CNT c q) = min 0xFFF (d.f (F.cluQerrcnt_MALF_CNT c q) + 1) := by
  have hne : (F.cluQerrcnt_MALF_CNT c q).off ≠ (F.cluQstat_MALFORMED c q).off := by dsimp only; omega
  rw [Dev.qMalf, incEv_f, f_inc_same _ _ _ (by simp) (by simp), f_setF_reg _ _ _ _ hne]
  rfl

/-! ### The pointer state -/

theorem qu_modQ (d : Dev) (c q : Nat) (f : Queue → Queue) : (d.modQ c q f).qu c q = f (d.qu c q) :=
  mget_mset_same _ _ _

/-- Whole pointer state passes the check (R424). -/
theorem qCheck_whole {d : Dev} {c q : Nat} (h : (d.qu c q).badPtr = false) : d.qCheck c q = d := by
  rw [Dev.qCheck, h, Bool.false_and, if_neg Bool.false_ne_true]

/-- An enabled FIFO queue whose pointer state is corrupt is met and emptied (R424, class 4). -/
def Dev.qEmptied (c q : Nat) (d : Dev) : Dev :=
  ((d.qLost c q (d.qu c q).ents.length).modQ c q fun _ => default).error 4 2 c 0 0 0

theorem qCheck_corrupt {d : Dev} {c q : Nat} (hen : d.fb (F.cluQcfg_EN c q) = true) (ho : d.qTweed c q = false)
    (h : (d.qu c q).badPtr = true) : d.qCheck c q = d.qEmptied c q := by
  rw [Dev.qCheck, h, hen, Bool.true_and, if_pos rfl, Dev.qCount, ho, if_neg Bool.false_ne_true, Dev.qEmptied]

theorem qEmptied_qu (d : Dev) (c q : Nat) : (d.qEmptied c q).qu c q = default := by
  rw [Dev.qEmptied, Dev.qu, error_queues]
  exact qu_modQ _ c q _

/-- The queue's configuration stays. -/
theorem qEmptied_fb (d : Dev) (c q hi lo : Nat) :
    (d.qEmptied c q).fb ⟨R.cluQcfg c q, hi, lo⟩ = d.fb ⟨R.cluQcfg c q, hi, lo⟩ := by
  have hcnt : R.cluQcfg c q ≠ R.errCnt 4 := by unfold R.cluQcfg R.errCnt; omega
  have hlost : R.cluQcfg c q ≠ R.cluQlost c q := by unfold R.cluQcfg R.cluQlost; omega
  rw [Dev.fb, Dev.f, Dev.qEmptied, error_reg_ne _ _ _ _ _ _ hcnt, modQ_reg, qLost_reg_ne _ _ _ _ hlost, Dev.fb, Dev.f]

/-- Without a drop-remainder of a full ring at this edge, a write finds the queue as it stands (R105). -/
theorem qTied_otherEdge {d : Dev} {c q : Nat} (h : (mget d.qTie (c * 128 + q)).edge ≠ d.epo.edges + 1) (w : Word) :
    d.qTied c q w = d := by
  rw [Dev.qTied]
  simp only [h, ne_eq, not_false_eq_true, decide_true, Bool.true_or, if_true]

/-! ### Pushes and pops -/

theorem qPush_idle {d : Dev} {c q : Nat} (hen : d.fb (F.cluQcfg_EN c q) = true) (hbad : (d.qu c q).badPtr = false) {w : Word}
    (hw : tagOf w = 1) (l : Nat) (ep : Option Nat) : d.qPush c q l w ep = d.qMalf c q := by
  simp only [Dev.qPush, qCheck_whole hbad, hen, hw, Bool.not_true, Bool.false_eq_true, if_false, if_true]

/-- With room in the ring, a word goes to its next place (R95). -/
theorem qPush_fifo {d : Dev} {c q : Nat} (hen : d.fb (F.cluQcfg_EN c q) = true) (hpkt : d.qPkt c q = false)
    (ho : d.qTweed c q = false) (hroom : (d.qu c q).ents.length < d.qDepth c q)
    (htie : (mget d.qTie (c * 128 + q)).edge ≠ d.epo.edges + 1) (hbad : (d.qu c q).badPtr = false) {w : Word}
    (hw : tagOf w ≠ 1) (l : Nat) (ep : Option Nat) : d.qPush c q l w ep = d.qStore c q w { kind := 0, ep := ep } := by
  simp only [Dev.qPush, Dev.qPushFifo, qCheck_whole hbad, qTied_otherEdge htie, hen, hw, hpkt, ho, Bool.not_true,
    Bool.false_eq_true, if_false, ge_iff_le, Nat.not_le.mpr hroom]

/-- With room in the ring of its level, an item goes to that ring's next place (R109). -/
theorem qPush_level {d : Dev} {c q l : Nat} (hen : d.fb (F.cluQcfg_EN c q) = true) (ho : d.qTweed c q = true)
    (hroom : mget (d.qu c q).lvCnt l < d.qDepth c q / 8) (hbad : (d.qu c q).badPtr = false) {w : Word}
    (hw : tagOf w ≠ 1) (ep : Option Nat) :
    d.qPush c q l w ep =
      (d.store (d.qAddr c q (l * (d.qDepth c q / 8) +
        (mget (d.qu c q).lvRd l + mget (d.qu c q).lvCnt l) % (d.qDepth c q / 8))) w).modQ c q fun u =>
          { u with lvCnt := mset u.lvCnt l (mget u.lvCnt l + 1) } := by
  simp only [Dev.qPush, Dev.qPushLevel, qCheck_whole hbad, hen, hw, ho, Bool.not_true, Bool.false_eq_true, if_false,
    if_true, ge_iff_le, Nat.not_le.mpr hroom]

/-- A word of good parity reads as it is stored (R102). -/
theorem qParRead_good {d : Dev} {a : Nat} (h : mget d.parBad a = 0) (c q : Nat) : d.qParRead c q a = (d.rd a, d) := by
  rw [Dev.qParRead]
  simp only [h, if_true]

theorem qPop_fifo {d : Dev} {c q : Nat} (hen : d.fb (F.cluQcfg_EN c q) = true) (hpkt : d.qPkt c q = false)
    (ho : d.qTweed c q = false) (hne : (d.qu c q).ents ≠ []) (hpar : mget d.parBad (d.qAddr c q (d.qu c q).rd) = 0)
    (hbad : (d.qu c q).badPtr = false) :
    d.qPop c q = (d.rd (d.qAddr c q (d.qu c q).rd), some ((d.qu c q).ents.headD default), d.qAdvance c q 1) := by
  simp only [Dev.qPop, Dev.qTake, qCheck_whole hbad, qParRead_good hpar, hen, hpkt, ho, hne, List.isEmpty_iff,
    Bool.not_true, Bool.false_eq_true, if_false]

/-- A pop that meets corrupt pointer state finds the queue empty. -/
theorem qPop_corrupt {d : Dev} {c q : Nat} (hen : d.fb (F.cluQcfg_EN c q) = true) (hpkt : d.qPkt c q = false)
    (ho : d.qTweed c q = false) (hbad : (d.qu c q).badPtr = true) : d.qPop c q = (idleW, none, d.qEmptied c q) := by
  have hpkt' : (d.qEmptied c q).qPkt c q = false := (qEmptied_fb d c q 34 34).trans hpkt
  have ho' : (d.qEmptied c q).qTweed c q = false := by
    rw [Dev.qTweed, qEmptied_fb, hpkt']
    rwa [Dev.qTweed, hpkt] at ho
  simp only [Dev.qPop, qCheck_corrupt hen ho hbad, qEmptied_fb, qEmptied_qu, hen, hpkt', ho', Bool.not_true,
    Bool.false_eq_true, if_false]
  rfl

/-- A QPOP returns the word popped. -/
theorem exec_qpop {s : State} (hl : s.live = true) {p : Path} {c : Fin 64} {q : Fin 128} {w : Word} {x : Option QEnt}
    {e : Dev} (h : s.dev.qPop c q = (w, x, e)) {g : Dev → Dev} (hg : e.emit (.readData p (R.cluQpop c q) w) = g s.dev) :
    exec (.qpop p c q) s = .next (s.after g) := by
  have hpop : exec (.qpop p c q) s =
    lift (fun d => (d.qPop c q).2.2.emit (.readData p (R.cluQpop c q) (d.qPop c q).1)) s := rfl
  rw [hpop]
  refine lift_live_eq hl ?_
  rw [h]
  exact hg

/-! ### Drop-remainder and configuration -/

/-- A drop-remainder in word mode discards every word present and counts them (R104, R105). -/
theorem qDropRem_words {d : Dev} {c q : Nat} (hen : d.fb (F.cluQcfg_EN c q) = true) (hpkt : d.qPkt c q = false)
    (hbad : (d.qu c q).badPtr = false) :
    d.qDropRem c q = (false, d.qCount c q, ((d.modQ c q fun u => { u with
      rd := (u.rd + u.ents.length) % d.qDepth c q, ents := [], lvRd := [], lvCnt := [] }).inc
        (F.cluQerrcnt_DROP_CNT c q) (d.qCount c q)).qNoteDrop c q d) := by
  simp only [Dev.qDropRem, Dev.qDropNow, qCheck_whole hbad, hen, hpkt, Bool.not_true, Bool.not_false,
    Bool.false_eq_true, if_false, if_true]

/-- A QUEUE_DROP_REM of such a queue is answered with what was dropped; a later write of the edge may amend the answer. -/
theorem queueDropRem_words {d : Dev} {n c q : Nat} (hz : bitsOf (d.arg n 1) 35 13 = 0) (hc : bitsOf (d.arg n 1) 12 7 = c)
    (hq : bitsOf (d.arg n 1) 6 0 = q) (hen : d.fb (F.cluQcfg_EN c q) = true) (hpkt : d.qPkt c q = false)
    (hbad : (d.qu c q).badPtr = false) :
    d.queueDropRem n =
      let k := d.qCount c q
      let w := dropWord false k
      let d := ((d.modQ c q fun u => { u with
        rd := (u.rd + u.ents.length) % d.qDepth c q, ents := [], lvRd := [], lvCnt := [] }).inc
          (F.cluQerrcnt_DROP_CNT c q) k).qNoteDrop c q d
      let d := if k = 0 || (mget d.qTie (c * 128 + q)).edge ≠ d.epo.edges + 1 then d
        else { d with qTie := mmod d.qTie (c * 128 + q) fun t => { t with rsp := some (n, d.rspWords n stOK [w]) } }
      d.reply n stOK [w] := by
  simp only [Dev.queueDropRem, hz, hc, hq, hen, qDropRem_words hen hpkt hbad, ne_eq, not_true_eq_false, decide_false,
    Bool.not_true, Bool.or_self, Bool.false_eq_true, if_false]

/-- A write that passes the tests of R107 and enables a disabled queue stores and starts it empty (R106). -/
theorem qcfgWrite_enables {d : Dev} {c q : Nat} {w : Word} (hoff : bitOf (d.reg (R.cluQcfg c q)) 35 = false)
    (hlo : 4 ≤ bitsOf w 32 28) (hhi : bitsOf w 32 28 ≤ 15) (hord : bitOf w 33 = false)
    (hv : d.violates (R.cluQcfg c q) w = false) (hen : bitOf w 35 = true) (p : Path) :
    d.qcfgWrite p c q w =
      (d.setReg (R.cluQcfg c q) (writeFields (d.locked (R.cluQcfg c q)) (fieldsOf (R.cluQcfg c q))
        (d.reg (R.cluQcfg c q)) w).1).modQ c q fun _ => default := by
  have hlo' : ¬ bitsOf w 32 28 < 4 := Nat.not_lt.mpr hlo
  have hhi' : ¬ bitsOf w 32 28 > 15 := Nat.not_lt.mpr hhi
  simp only [Dev.qcfgWrite, hoff, hlo', hhi', hord, hv, hen, Bool.false_and, decide_false, Bool.or_self,
    Bool.false_eq_true, if_false, ne_eq, not_false_eq_true, if_true]

end Sys2Proof.Machine
end

section
/-! The queue commands in their plain case, an IDLE word among the words pushed (R85, R92, R95, R96, R104, R106, R109, R110,
R424). -/

namespace Sys2Proof.Machine

/-- Settles O13: an IDLE word is counted as malformed, and both commands are pushes. -/
theorem idleWordDiscarded : Obligations.IdleWordDiscarded := by
  unfold Obligations.IdleWordDiscarded
  refine ⟨fun d c q l w ep hen hw hbad => ?_, fun s p c q w hl _ _ => lift_live hl _, fun s p c q l w hl _ _ => lift_live hl _⟩
  rw [qPush_idle hen hbad hw]
  exact ⟨qMalf_mem d c q, qMalf_queues d c q, qMalf_flags d c q, qMalf_counts d c q⟩

/-- Settles O22, row by row: the state passes the tests of the operation's plain case. -/
theorem queueCommands : Obligations.QueueCommands := by
  unfold Obligations.QueueCommands
  refine ⟨fun s p c q w hl hen hw hpkt ho hroom htie hbad => ?qpush, fun s p c q l w hl hen hw _ ho hroom hbad => ?qtpush,
    fun s p c q hl hen hpkt ho hne hpar hbad => ?qpop, fun s p c q hl hen hpkt ho hbad => ?qpopCorrupt,
    fun s p c w hl hen hpkt hbad => ?qdrop, fun s p c q w hl hoff hlo hhi hord hv hen => ?qcfgWrite,
    fun s n c q h hz hc hq hen hpkt hbad => ?queueDropRem⟩
  case qpush => exact lift_live_eq hl (qPush_fifo hen hpkt ho hroom htie hbad hw 0 none)
  case qtpush => exact lift_live_eq hl (qPush_level hen ho hroom hbad hw none)
  case qpop => exact exec_qpop hl (qPop_fifo hen hpkt ho hne hpar hbad) rfl
  case qpopCorrupt => exact exec_qpop hl (qPop_corrupt hen hpkt ho hbad) rfl
  case qdrop =>
    refine lift_live_eq (f := fun d => (d.qDropRem c (bitsOf w 6 0)).2.2) hl ?_
    rw [qDropRem_words hen hpkt hbad]
  case qcfgWrite => exact lift_live_eq hl (qcfgWrite_enables hoff hlo hhi hord hv hen p)
  case queueDropRem => exact lift_served_of_eq h rfl (queueDropRem_words hz hc hq hen hpkt hbad)

end Sys2Proof.Machine
end

section
/-! A push in Tweed order into a ring too short to have a place for each level (R92, R107, R109). -/

namespace Sys2Proof.Machine

/-- Out of reset, queue 5 of cluster 3 is enabled in Tweed order with a DEPTH of 0, a ring of one place. -/
def onePlaceLevels : State :=
  let d := ((State.reset.dev.setF (F.cluQcfg_EN 3 5) 1).setF (F.cluQcfg_ORDER 3 5) 1).setF (F.cluQcfg_DEPTH 3 5) 0
  { State.reset with dev := { d with pwr := { d.pwr with held := false } } }

set_option maxRecDepth 20000 in
/-- Its levels have no place: the push takes level 0 for full, moves its read index on, and stores at ring index 1. -/
theorem exec_qpush_beyondRing :
    ∃ t, exec (.qpush .cp 3 5 7) onePlaceLevels = .next t ∧
      t.dev.rd (onePlaceLevels.dev.qAddr 3 5 1) ≠ onePlaceLevels.dev.rd (onePlaceLevels.dev.qAddr 3 5 1) :=
  ⟨_, rfl, by decide⟩

theorem onePlaceLevels_outside :
    ∀ k, k < onePlaceLevels.dev.qDepth 3 5 → onePlaceLevels.dev.qAddr 3 5 1 ≠ onePlaceLevels.dev.qAddr 3 5 k := by
  decide

/-- Refutes O9, in its clause of QPUSH in any mode: unlike that of QTPUSH it does not ask for a DEPTH of 4, and in Tweed order
a ring of fewer than 8 places leaves its levels none, so that the push stores behind the ring. -/
theorem not_pushMemory : ¬ Obligations.PushMemory := by
  unfold Obligations.PushMemory
  rintro ⟨-, hframe, -⟩
  obtain ⟨t, ht, hne⟩ := exec_qpush_beyondRing
  exact hne (hframe onePlaceLevels t .cp 3 5 7 ht _ onePlaceLevels_outside)

end Sys2Proof.Machine
end

section
/-! Comparison of wrapping values (R118) by the difference of the two, which lies where their order as numbers puts it. -/

namespace Sys2Proof.Machine

/-- The difference modulo `m` of two numbers below it. -/
theorem wrapDiff_eq {m a b : Nat} (ha : a < m) (hb : b < m) :
    (a + m - b) % m = if b ≤ a then a - b else a + m - b := by
  split
  · next h =>
    rw [show a + m - b = a - b + m by omega, Nat.add_mod_right, Nat.mod_eq_of_lt (by omega)]
  · next h => exact Nat.mod_eq_of_lt (by omega)

theorem later_iff {n b : Nat} (a : Nat) (hb : b < 2 ^ n) :
    later n a b = true ↔ 1 ≤ (a + 2 ^ n - b) % 2 ^ n ∧ (a + 2 ^ n - b) % 2 ^ n < 2 ^ (n - 1) := by
  simp only [later, Nat.mod_eq_of_lt hb, Bool.and_eq_true, decide_eq_true_eq]

theorem earlier_iff {n b : Nat} (a : Nat) (hb : b < 2 ^ n) :
    earlier n a b = true ↔ 2 ^ (n - 1) < (a + 2 ^ n - b) % 2 ^ n := by
  simp only [earlier, Nat.mod_eq_of_lt hb, decide_eq_true_eq]

theorem notEarlier_iff {n a b : Nat} (ha : a < 2 ^ n) (hb : b < 2 ^ n) :
    notEarlier n a b = true ↔ a = b ∨ later n a b = true := by
  simp only [notEarlier, Nat.mod_eq_of_lt ha, Nat.mod_eq_of_lt hb, Bool.or_eq_true, beq_iff_eq]

/-- Settles O12: half the values lie ahead of one, half behind, and the one at the distance of a half is neither. -/
theorem wrappingOrder : Obligations.WrappingOrder := by
  unfold Obligations.WrappingOrder
  intro n a b hn ha hb
  dsimp only
  have hpow : 2 ^ n = 2 ^ (n - 1) + 2 ^ (n - 1) := (Nat.two_pow_pred_add_two_pow_pred hn).symm
  have hpos : 0 < 2 ^ (n - 1) := Nat.two_pow_pos _
  have hab := wrapDiff_eq ha hb
  have hba := wrapDiff_eq hb ha
  refine ⟨?equal, later_iff a hb, earlier_iff a hb, fun hd => ?unordered, ?exchanged, notEarlier_iff ha hb⟩
  case equal => split at hab <;> omega
  case unordered =>
    simp only [← Bool.not_eq_true, later_iff a hb, later_iff b ha, earlier_iff a hb, notEarlier_iff ha hb, notEarlier_iff hb ha]
    split at hab <;> split at hba <;> omega
  case exchanged =>
    rw [earlier_iff a hb, later_iff b ha]
    split at hab <;> split at hba <;> omega

end Sys2Proof.Machine
end

section
/-! The epoch's references, its leap seconds and its discipline (R112, R114 to R117, R123 to R132). -/

namespace Sys2Proof.Machine

/-! ### References -/

/-- A valid source that becomes lost (R123, R124). -/
theorem srcLose_valid {d : Dev} {s : Nat} (h : nbit (d.f F.epoStat_VALID) (2 - s) = true) (reason : Nat) :
    d.srcLose s reason =
      let e := d.setF F.epoStat_VALID (setNbit (d.f F.epoStat_VALID) (2 - s) false)
      ({ e with epo := { e.epo with failed := setNbit e.epo.failed s false } } : Dev).event 0x201 0
        (mkW [(2, 0, s), (7, 4, reason)]) := if_pos h

/-- A candidate that qualifies after the first lock is judged by its difference from the epoch (R124, R129). -/
theorem candQualifies_locked {d : Dev} (hst : d.epoState = 3) (hup : d.srcUp d.epoCand = true)
    (hever : d.fb F.epoStat_EVER_LOCKED = true) (t : Nat) : d.candQualifies t = d.candSlew (sdiff 72 t d.now) := by
  simp only [Dev.candQualifies, hst, hup, hever, bne_self_eq_false, Bool.not_true, Bool.or_self, Bool.false_and,
    Bool.false_eq_true, if_false]

/-- A difference within the bound of EPO_SLEW begins SLEW (R124, R129). -/
theorem candSlew_within {d : Dev} {delta : Int}
    (h : delta.natAbs ≤ epOf (Nat.min 1000000 (Nat.max 1 (bitsOf d.slewcfg 19 0))) 1000000) :
    d.candSlew delta =
      let e : Dev := { d with epo := { d.epo with qLost := false } }
      ((e.refGo 4 e.epoSel e.epoCand).setResid (delta * 65536)).slewEvent delta := if_neg (Nat.not_lt.mpr h)

/-! ### First lock -/

@[simp] theorem settle_sch (d : Dev) : d.settle.sch = d.sch :=
  (congrArg Dev.sch (settle_frame d).rest).trans rfl

@[simp] theorem setResid_sch (d : Dev) (r : Int) : (d.setResid r).sch = d.sch := setF_sch _ _ _

theorem setEpo_sch (d : Dev) (e : Epo) : ({ d with epo := e } : Dev).sch = d.sch := rfl

@[simp] theorem refGo_sch (d : Dev) (st sel cand : Nat) : (d.refGo st sel cand).sch = d.sch := by
  have hresid : (if st = 1 || st = 4 then d else d.setResid 0).sch = d.sch := by
    split
    · rfl
    · exact setResid_sch d 0
  refine ((event_sch _ _ _ _).trans <| (setF_sch _ _ _).trans <| (setF_sch _ _ _).trans <| (setF_sch _ _ _).trans <|
    setEpo_sch _ _).trans (Eq.trans ?_ hresid)
  split
  · exact setF_sch _ _ _
  · exact setEpo_sch _ _

/-- With no entry committed there is none to test again (R151). -/
theorem retest_noEntries {d : Dev} (h : d.sch.ents = []) :
    forN 4096 (fun e d => if (d.sch.ents.any fun p => p.1 == e) then d.schRetest e else d) d = d :=
  forN_keeps (P := (· = d)) (fun e x hx => by rw [hx, h]; rfl) 4096 rfl

/-- The first lock of a package without streams and without scheduler entries (R114, R115, R130). -/
theorem firstLockStep_noEntries {d : Dev} (hp : d.epo.stepPend = true) (hst : d.epoState = 3)
    (hever : d.fb F.epoStat_EVER_LOCKED = false) (hs : d.streamsOn = false) (hents : d.sch.ents = []) (t : Nat) :
    d.firstLockStep t =
      let tai := if d.epoCand < 2 then t + d.f F.epoTai_TAI_UTC else t
      let sec := (tai + 2 ^ 48 - d.origin % 2 ^ 48) % 2 ^ 36
      let e := d.setNow (sec * 2 ^ 36)
      let e : Dev := { e with epo := { e.epo with stepEdge := some e.epo.edges } }
      (e.event 0x202 0 (toW sec)).settle.refGo 1 d.epoCand noSrc := by
  simp only [Dev.firstLockStep, hp, hst, hever, hs, Bool.not_true, ne_eq, not_true_eq_false, decide_false, Bool.or_self,
    Bool.false_eq_true, if_false]
  refine retest_noEntries ?_
  rw [refGo_sch, settle_sch, event_sch, setEpo_sch, setNow_sch]
  exact hents

/-! ### Leap seconds -/

/-- The selected reference announces a leap second (R117). -/
theorem leapAnnounce_selected {d : Dev} {s dir : Nat} (hsel : d.epoSel = s) (hup : d.srcUp s = true) (hdir : dir ≠ 0)
    (dayEnd : Nat) : d.leapAnnounce s dir dayEnd =
      let e := d.setF F.epoTai_LEAP_PEND dir
      { e with epo := { e.epo with leapAt := some dayEnd } } := by
  simp only [Dev.leapAnnounce, hsel, hup, hdir, bne_self_eq_false, Bool.not_true, Bool.or_self, Bool.false_eq_true, if_false]

/-- The second that ends the announced day is reached (R117). -/
theorem taiUtcChange_due {d : Dev} {t : Nat} (ht : d.epo.leapAt = some t) (hend : notEarlier 36 d.nowSec t = true) :
    d.taiUtcChange =
      let v := (d.f F.epoTai_TAI_UTC + (if d.f F.epoTai_LEAP_PEND = 1 then 1 else 511)) % 512
      let e := (d.setF F.epoTai_TAI_UTC v).setF F.epoTai_LEAP_PEND 0
      ({ e with epo := { e.epo with leapAt := none } } : Dev).event 0x204 0 (toW v) := by
  simp only [Dev.taiUtcChange, ht, hend, if_true]

/-! ### The update -/

theorem epo_writes_none {x : Epo} (hr : x.refOld = none) (hs : x.slewOld = none) :
    { x with refOld := none, slewOld := none } = x := by
  cases x
  cases hr
  cases hs
  rfl

theorem refApply_none {d : Dev} (hr : d.epo.refOld = none) (hs : d.epo.slewOld = none) : d.refApply = d := by
  simp only [Dev.refApply, epo_writes_none hr hs, hr, Option.isSome_none, Bool.false_eq_true, if_false]

/-- Where no row of R126 applies, none does however often they are tried. -/
theorem refEval_of_refRow {d : Dev} (h : d.refRow = d) : d.refEval = d :=
  forN_keeps (P := (· = d)) (fun _ e he => by rw [he, h]) 4 rfl

theorem slewUpdate_none {d : Dev} (hst : d.epoState = 1) (hstart : d.epo.slewStart = false)
    (hlocked : d.epo.slewLocked = false) (t : Nat) : d.slewUpdate t = d := by
  simp only [Dev.slewUpdate, hst, hstart, hlocked]
  rfl

/-- In LOCKED the increment is the loop's (R131). -/
theorem incUpdate_locked {d : Dev} (hst : d.epoState = 1) :
    d.incUpdate = { (d.setF F.epoInc_INC (clampInc (Config.loopInc d.free))) with free := d.free + 1 } := by
  simp only [Dev.incUpdate, hst]
  rfl

/-- In LOCKED, with no write of its registers and no slew waiting, an update leaves the references and sets the increment
(R114, R131). -/
theorem discipline_locked {d : Dev} (hst : d.epoState = 1) (hrow : d.refRow = d) (hr : d.epo.refOld = none)
    (hs : d.epo.slewOld = none) (hstart : d.epo.slewStart = false) (hlocked : d.epo.slewLocked = false) (t : Nat) :
    ((((d.refApply.refEval).slewUpdate t).refEval).incUpdate).ocxoUpdate =
      ({ (d.setF F.epoInc_INC (clampInc (Config.loopInc d.free))) with free := d.free + 1 } : Dev).ocxoUpdate := by
  rw [refApply_none hr hs, refEval_of_refRow hrow, slewUpdate_none hst hstart hlocked, refEval_of_refRow hrow,
    incUpdate_locked hst]

/-! ### The rows -/

theorem exec_sourceLost (r : Fin 3) (reason : Fin 16) (s : State) :
    exec (.sourceLost r reason) s = execSourceLost r reason s := rfl

theorem exec_sourceReturn (r : Fin 3) (s : State) : exec (.sourceReturn r) s = execSourceReturn r s := rfl

theorem exec_candQualifies (t : Epoch) (s : State) : exec (.candQualifies t) s = execCandQualifies t s := rfl

theorem exec_wholeEpochSecond (s : State) : exec .wholeEpochSecond s = execWholeEpochSecond s := rfl

theorem exec_disciplineUpdate (t : Epoch) (s : State) : exec (.disciplineUpdate t) s = execDisciplineUpdate t s := rfl

/-- Settles O26, row by row: the state passes the tests of the operation. -/
theorem epochCommands : Obligations.EpochCommands := by
  unfold Obligations.EpochCommands
  refine ⟨fun s r reason hl hv => ?lost, fun s r hl hen => ?returned, fun s t hl hst hup hever hdiff => ?qualifies,
    fun s t hl hp hst hever hs hents => ?firstLock, fun s r dir e hl hsel hup hdir => ?announced,
    fun s t hl hat hend => ?changed, fun s v hl hv => ?second, fun s t hl hst hrow hr hs hstart hlocked => ?update,
    fun s n h => ?get⟩
  case lost => exact (exec_sourceLost r reason s).trans (lift_live_eq hl (congrArg Dev.refEval (srcLose_valid hv _)))
  case returned => exact (exec_sourceReturn r s).trans (lift_live_eq hl (if_pos hen))
  case qualifies =>
    refine (exec_candQualifies t s).trans (lift_live_eq hl ?_)
    exact (candQualifies_locked hst hup hever _).trans (candSlew_within hdiff)
  case firstLock => exact lift_live_eq hl (firstLockStep_noEntries hp hst hever hs hents _)
  case announced => exact lift_live_eq hl (leapAnnounce_selected hsel hup (Fin.val_ne_of_ne hdir) _)
  case changed => exact lift_live_eq hl (taiUtcChange_due hat hend)
  case second =>
    refine (exec_wholeEpochSecond s).trans (lift_live_eq hl ?_)
    simp only [hv, setF_epo]
  case update => exact (exec_disciplineUpdate t s).trans (lift_live_eq hl (discipline_locked hst hrow hr hs hstart hlocked _))
  case get => exact lift_served h (lenOk := (· == 0)) rfl _

end Sys2Proof.Machine
end

section
/-! The encoder axes (R133 to R137): what an accepted edge, an index edge and a whole SSI frame do in their mode. -/

namespace Sys2Proof.Machine

/-- A rising edge of A alone counts down where B is high, up where it is low (R134). -/
theorem quadEdge_riseA {d : Dev} {a : Nat} {lvB : Bool} (hm : d.f (F.axsCfg_MODE a) = 1) (he : mget d.sch.enc a = bit lvB) :
    d.quadEdge a true lvB =
      ({ d with sch := { d.sch with enc := mset d.sch.enc a (2 + bit lvB) } } : Dev).setPos a
        (if lvB then d.f (F.axsPos_POS a) + 2 ^ 36 - 1 else d.f (F.axsPos_POS a) + 1) := by
  have hA : nbit (bit lvB) 1 = false := by cases lvB <;> rfl
  have hB : nbit (bit lvB) 0 = lvB := by cases lvB <;> rfl
  have hf (x : SMap Nat) (fl : Fld) : ({ d with sch := { d.sch with enc := x } } : Dev).f fl = d.f fl := rfl
  simp only [Dev.quadEdge, he, hA, hB, hf, hm, ne_eq, not_true_eq_false, if_false, bne_self_eq_false, Bool.and_false,
    Bool.false_eq_true, Bool.bne_false, if_true, Bool.true_bne, Bool.not_eq_true', ← Bool.not_eq_true, ite_not]
  rfl

/-- An index edge of an axis that seeks its origin once sets it and seeks no more (R135). -/
theorem indexEdge_once {d : Dev} {a : Nat} (hm : d.f (F.axsCfg_MODE a) = 1) (hi : d.f (F.axsCfg_IDX a) = 1) :
    d.indexEdge a = ((d.setPos a 0).setF (F.axsStat_IDX_SEEN a) 1).setF (F.axsCfg_IDX a) 0 := by
  simp only [Dev.indexEdge, hm, hi, decide_true, Bool.true_or, Bool.and_self, if_true]

/-- A binary SSI frame with both of its high levels gives the position (R136). -/
theorem ssiDone_whole {d : Dev} {a : Nat} (hs : mget d.sch.ssi a = true) (hm : d.f (F.axsCfg_MODE a) = 2)
    (hg : d.fb (F.axsCfg_GRAY a) = false) (bits : Word) :
    d.ssiDone a bits true true =
      ({ d with sch := { d.sch with ssi := mset d.sch.ssi a false } } : Dev).setPos a
        (bits.toNat % 2 ^ Nat.min 36 (d.f (F.axsCfg_BITS a))) := by
  have hg' (x : SMap Bool) : ({ d with sch := { d.sch with ssi := x } } : Dev).fb (F.axsCfg_GRAY a) = false := hg
  simp only [Dev.ssiDone, hs, hm, hg', Bool.not_true, ne_eq, not_true_eq_false, decide_false, Bool.or_self, Bool.and_self,
    Bool.false_eq_true, if_false]
  rfl

/-- Settles O25, row by row: the axis is in the mode of its command. -/
theorem axisCommands : Obligations.AxisCommands := by
  unfold Obligations.AxisCommands
  refine ⟨fun s p a w hl => lift_live hl _, fun s a lvB hl hm he => lift_live_eq hl (quadEdge_riseA hm he),
    fun s a hl hm hi => lift_live_eq hl (indexEdge_once hm hi), fun s a hl hm => lift_live_eq hl (if_pos hm),
    fun s a bits hl hs hm hg => lift_live_eq hl (ssiDone_whole hs hm hg bits)⟩

end Sys2Proof.Machine
end

section
/-! Adding and cancelling scheduler entries, and the falling edge of a pulse (R138, R139, R142, R144, R149). -/

namespace Sys2Proof.Machine

/-- A legal entry on axis 0 whose target GRACE admits takes the lowest free index (R138, R139, R144). -/
theorem schedAdd_admitted {d : Dev} {n e : Nat} {late : Bool} (hok : schBadArg (fun i => d.arg n (i + 1)) = false)
    (hax : bitsOf (d.arg n 1) 31 29 = 0)
    (hg : d.graceTest ((d.arg n 2).toNat * 2 ^ 36 + (d.arg n 3).toNat) = some late) (hfree : d.schFreeIdx = some e) :
    d.schedAdd n = (d.schCommit e (fun i => d.arg n (i + 1)) late).reply n stOK
      [(d.schCommit e (fun i => d.arg n (i + 1)) late).schHandle e] := by
  simp only [Dev.schedAdd, hok, hax, hg, hfree, ne_eq, not_true_eq_false, Bool.false_eq_true, if_false]

/-- A cancel that names a committed entry by its GEN ends it, without an issue of the same edge (R149). -/
theorem schedCancel_named {d : Dev} {n e : Nat} (he : bitsOf (d.arg n 1) 11 0 = e) (hz : bitsOf (d.arg n 1) 35 20 = 0)
    (hlive : ((d.unissued e).schE e).live = true) (hgen : (d.unissued e).schGen e = bitsOf (d.arg n 1) 19 12) :
    d.schedCancel n =
      ((d.unissued e).schCancel e).reply n stOK [toW (Nat.min ((d.unissued e).schE e).issued 0xFFFF)] := by
  simp only [Dev.schedCancel, he, hz, hlive, hgen, ne_eq, not_true_eq_false, decide_false, Bool.not_true, bne_self_eq_false,
    Bool.or_self, Bool.false_eq_true, if_false]

/-- A pin that stands high is driven low. -/
theorem drivePin_fall {d : Dev} {pin : Nat} (h : nbit d.sch.pins pin = true) (dl : Nat) :
    d.drivePin pin false dl =
      ({ d with sch := { d.sch with pins := setNbit d.sch.pins pin false } } : Dev).emit (.pin pin false dl) := by
  simp only [Dev.drivePin, h, beq_false, Bool.not_true, Bool.false_eq_true, if_false]

theorem exec_pulseFallingEdge (pin : Fin 16) (s : State) : exec (.pulseFallingEdge pin) s = execPulseFallingEdge pin s := rfl

/-- Settles O24: SCHED_ADD and SCHED_CANCEL pass their tests, and the fall of a pulse is due at this edge. -/
theorem schedulerEntries : Obligations.SchedulerEntries := by
  unfold Obligations.SchedulerEntries
  refine ⟨fun s n e late h hok hax hg hfree => ?add, fun s n h hz hlive hgen => ?cancel,
    fun s pin t hl hfall hdue hlate hhigh => ?fall⟩
  case add => exact lift_served_of_eq h rfl (schedAdd_admitted (d := s.dev.taken) hok hax hg hfree)
  case cancel => exact lift_served_of_eq h rfl (schedCancel_named (d := s.dev.taken) rfl hz hlive hgen)
  case fall =>
    refine (exec_pulseFallingEdge pin s).trans (lift_live_eq hl ?_)
    simp only [hfall, hdue, hlate, if_true, Bool.false_eq_true, if_false]
    refine drivePin_fall ?_ _
    exact hhigh

end Sys2Proof.Machine
end

section
/-! Droop (R113, R174, R175): the period that a low rail stretches. -/

namespace Sys2Proof.Machine

/-- A period that stretches the CCLK cycle in progress (R113, R174): the epoch counts it, and so do the stretch and the
window of R175. -/
def Dev.stretchPeriod (d : Dev) : Dev :=
  let d := d.refEdge
  let d := if d.ing.stretch = 0 then d.inc F.ingStat_STRETCH_CNT 1 else d
  let now := d.epo.edges + (d.ing.stretched + 1)
  { d with ing := { d.ing with
    stretch := d.ing.stretch + 1, stretched := d.ing.stretched + 1
    win := now :: d.ing.win.filter fun e => now < e + 3200 } }

theorem stretchPeriod_win (d : Dev) :
    d.stretchPeriod.ing.win = (d.epo.edges + (d.ing.stretched + 1)) ::
      d.ing.win.filter fun e => d.epo.edges + (d.ing.stretched + 1) < e + 3200 := by
  have hing : d.refEdge.ing = d.ing := rfl
  have hedges : d.refEdge.epo.edges = d.epo.edges := rfl
  dsimp only [Dev.stretchPeriod]
  split <;> simp only [inc_ing, inc_epo, hing, hedges]

/-- With 640 of the last 3,200 periods stretched, or fewer, no lane buffer is overrun (R175). -/
theorem droopOverrun_within {d : Dev} (h : d.ing.win.length ≤ 640) : d.droopOverrun = d := if_pos h

theorem exec_stretchEnd (s : State) : exec .stretchEnd s = execStretchEnd s := rfl

theorem exec_droopStretch (r : RailLevel) (s : State) : exec (.droopStretch r) s = lift (fun d =>
    if d.f F.ingDroop_THRESH ≤ r.mv.toNat then d else d.stretchPeriod.droopOverrun) s := rfl

/-- Settles O30: below THRESH the period stretches and no buffer is overrun, at THRESH nothing happens; the end of a stretch is
its own row. -/
theorem droopCommands : Obligations.DroopCommands := by
  unfold Obligations.DroopCommands
  refine ⟨fun s rail mv hl hlow hwin => ?below, fun s rail mv hl hhigh => ?notBelow,
    fun s hl => (exec_stretchEnd s).trans (lift_live hl _)⟩
  case below =>
    rw [exec_droopStretch]
    refine lift_live_eq (g := Dev.stretchPeriod) hl ((if_neg (Nat.not_le.mpr hlow)).trans (droopOverrun_within ?_))
    rw [stretchPeriod_win]
    exact hwin
  case notBelow => exact (exec_droopStretch _ s).trans (lift_live_eq hl (if_pos hhigh))

end Sys2Proof.Machine
end

section
/-! An issue that a note of the edge takes back while it happens (R149, R474): REG_WRITE_ACTION writes LOOP_OUT_SET, which takes
back the watchdog expiry noted at its edge. -/

namespace Sys2Proof.Machine

/-- Scheduler entry 0 after `n` occurrences, without end: REG_WRITE_ACTION of LOOP_OUT[0].SET, its mask zero. -/
def loopSetEntry (n : Nat) (d : Dev) : Dev :=
  ((d.store (schAddr 0 0) (mkW [(35, 32, 4), (26, 25, 1)])).store (schAddr 0 5) (toW (R.loopOutSet 0))).modSch 0 fun x =>
    { x with live := true, issued := n }

/-- Out of reset, the entry has issued once, and the note of a watchdog expiry of output 0 at this edge holds, between its two
snapshots, that occurrence. -/
def occurrenceInExpiry : State :=
  let d : Dev := { State.reset.dev with pwr := { State.reset.dev.pwr with held := false } }
  { State.reset with dev := { loopSetEntry 1 d with
    ties := [{ kind := 4, idx := 0, edge := 1, before := (loopSetEntry 0 d).snap, after := (loopSetEntry 1 d).snap }] } }

/-- The notes that stand after a step. -/
def notesAfter (r : R) : Option Nat :=
  match r with
  | .next t => some t.dev.ties.length
  | _ => none

theorem occurrenceInExpiry_issues : occurrenceInExpiry.issues 0 4 false false = true := by decide +kernel

theorem occurrenceInExpiry_ok :
    (occurrenceInExpiry.dev.issueSlot.maskWrite (bitsOf (occurrenceInExpiry.dev.schArg 0 0) 22 0)
      (occurrenceInExpiry.dev.schArg 0 1) (occurrenceInExpiry.dev.schArg 0 2)).1 = stOK := by decide +kernel

/-- The write takes the first occurrence back and the issue counts it again, so that the entry stands as before, and nothing is
noted. -/
theorem occurrenceInExpiry_unnoted : notesAfter (exec (.regWriteAction 0) occurrenceInExpiry) = some 0 := by decide +kernel

theorem notesAfter_issueNoted (e : Nat) (s t : State) : notesAfter (.next (s.issueNoted e t)) ≠ some 0 :=
  fun h => Nat.succ_ne_zero _ (Option.some.inj h)

/-- Refutes O23, in its clause of REG_WRITE_ACTION: no hypothesis keeps the notes of the edge to what its commands did, and a
note of a watchdog expiry that holds an occurrence of the entry leaves the issue without its own note. -/
theorem not_schedulerActions : ¬ Obligations.SchedulerActions := by
  unfold Obligations.SchedulerActions
  rintro ⟨-, -, -, -, hwrite, -⟩
  have hclaim := hwrite occurrenceInExpiry 0 false occurrenceInExpiry_issues occurrenceInExpiry_ok
  exact notesAfter_issueNoted _ _ _ (hclaim ▸ occurrenceInExpiry_unnoted)

end Sys2Proof.Machine
end

section
/-! A lane listed twice in a link's map of lanes (R163, R164): its record, cleared on the way, is listed once afterwards. -/

namespace Sys2Proof.Machine

/-- Link 0 in RUN with E_sr captured; its lane 0 delivers, and its map lists the lane twice, with one EMB just come without its
marker. -/
def laneListedTwice : State :=
  let x : FelLane := { (default : FelLane) with markRun := 1 }
  let d := ((State.reset.dev.setF (F.felStat_STATE 0) 3).setF (F.felCfg0_LANES 0) 1).setF (F.felLane_UP 0 0) 1
  let d := d.modFel 0 fun _ => { (default : Fel) with esr := some 0, lanes := [(0, x), (0, x)] }
  { State.reset with dev := { d with pwr := { d.pwr with held := false } } }

/-- The entries of link 0's map of lanes after a step. -/
def laneEntriesAfter (r : R) : Option Nat :=
  match r with
  | .next t => some (t.dev.fel 0).lanes.length
  | _ => none

/-- The marker of EMB 0 clears the record to that of a lane with nothing held, which the map does not list: both entries go
before the EMB is put into the buffer. -/
theorem laneListedTwice_once :
    laneEntriesAfter (exec (.embArrival 0 0 0 0 [] true []) laneListedTwice) = some 1 := by decide +kernel

/-- Refutes O28, in its clause of an EMB that arrives in its window: no hypothesis keeps the map of lanes in its canonical form,
and the record changed at once leaves the second entry of a lane that is listed twice. -/
theorem not_linkLanes : ¬ Obligations.LinkLanes := by
  unfold Obligations.LinkLanes
  rintro ⟨-, -, harrival, -⟩
  have hclaim := congrArg laneEntriesAfter (harrival laneListedTwice 0 0 0 0 [] 0 (by decide +kernel) (by decide +kernel)
    (by decide +kernel) (by decide +kernel) (by decide +kernel) (by decide +kernel) (by decide +kernel) (by decide +kernel))
  rw [laneListedTwice_once] at hclaim
  exact absurd hclaim (by decide +kernel)

end Sys2Proof.Machine
end

section
/-! What an answer leaves (R65, R68, R405, R436 to R442): whichever way it goes, by the response buffer, by Lysith or into the
backlog reserve, it changes no block but those on that way. -/

namespace Sys2Proof.Machine

/-- `P` reads nothing of the block that a response changes on its way. -/
structure OffAnswer {α : Type} (P : Dev → α) : Prop where
  regs (d : Dev) (x : SMap Word) : P { d with regs := x } = P d
  mem (d : Dev) (m : SMap Word) (u c : SMap Bool) (p : SMap Nat) :
    P { d with mem := m, uncorr := u, corr := c, parBad := p } = P d
  free (d : Dev) (x : Nat) : P { d with free := x } = P d
  out (d : Dev) (x : List Out) : P { d with out := x } = P d
  cp (d : Dev) (x : Cp) : P { d with cp := x } = P d
  mbx (d : Dev) (x : SMap Mailbox) : P { d with mbx := x } = P d
  err (d : Dev) (x : ErrUnit) : P { d with err := x } = P d
  lnk (d : Dev) (x : SMap Lnk) : P { d with lnk := x } = P d
  pci (d : Dev) (x : Pci) : P { d with pci := x } = P d
  unreached (d : Dev) (x : List Nat) : P { d with unreached := x } = P d
  bbOwed (d : Dev) (x : List (List Word)) : P { d with bbOwed := x } = P d

namespace OffAnswer

theorem ing : OffAnswer Dev.ing := by constructor <;> intros <;> rfl

variable {α : Type} {P : Dev → α}

/-! ### Folds and cases -/

theorem foldl {β : Type} {f : Dev → β → Dev} (hf : ∀ d b, P (f d b) = P d) (l : List β) (d : Dev) : P (l.foldl f d) = P d :=
  foldl_keeps (P := (P · = P d)) (fun a b h => (hf a b).trans h) l rfl

theorem forN {f : Nat → Dev → Dev} (hf : ∀ i d, P (f i d) = P d) (n : Nat) (d : Dev) : P (forN n f d) = P d :=
  foldl (fun d i => hf i d) _ d

theorem ite {c : Prop} [Decidable c] {d e : Dev} {x : α} (hd : P d = x) (he : P e = x) : P (if c then d else e) = x := by
  split
  · exact hd
  · exact he

variable (h : OffAnswer P)
include h

/-! ### Updates, events, errors -/

theorem setF (d : Dev) (fl : Fld) (v : Nat) : P (d.setF fl v) = P d := h.regs d _
theorem inc (d : Dev) (fl : Fld) (n : Nat) : P (d.inc fl n) = P d := h.setF d fl _
theorem maxF (d : Dev) (fl : Fld) (v : Nat) : P (d.maxF fl v) = P d := ite (h.setF d fl v) rfl
theorem emit (d : Dev) (o : Out) : P (d.emit o) = P d := h.out d _
theorem event (d : Dev) (code inst : Nat) (x : Word) : P (d.event code inst x) = P d := h.cp d _
theorem modMb (d : Dev) (n : Nat) (f : Mailbox → Mailbox) : P (d.modMb n f) = P d := h.mbx d _
theorem modPort (d : Dev) (n : Nat) (f : Lnk → Lnk) : P (d.modPort n f) = P d := h.lnk d _
theorem modChain (d : Dev) (e : Nat) (f : Chain → Chain) : P (d.modChain e f) = P d := h.err d _

theorem error (d : Dev) (cls sev inst ah code : Nat) (q3 : Word) : P (d.error cls sev inst ah code q3) = P d :=
  (error_keeps h.event h.err d cls sev inst ah code q3).trans (h.inc d _ 1)

theorem addrError (d : Dev) (req addr : Nat) : P (d.addrError req addr) = P d :=
  (h.error _ _ _ _ _ _ _).trans (h.event d _ _ _)

theorem sendMsix (d : Dev) (v : Nat) : P (d.sendMsix v) = P d := ite (h.pci d _) (ite rfl (h.emit d _))

/-! ### Memory -/

theorem store (d : Dev) (a : Nat) (w : Word) : P (d.store a w) = P d := h.mem d _ _ _ _

theorem wrPart (d : Dev) (more : Bool) (a : Nat) (w : Word) : P (d.wrPart more a w) = P d := by
  unfold Dev.wrPart
  split
  · exact ite (ite (h.err d _) rfl) (h.store d _ w)
  · exact h.store d a w

theorem groupWhole (d : Dev) (a : Nat) : P (d.groupWhole a) = P d := by
  unfold Dev.groupWhole
  split
  · split
    · exact h.err d _
    · rfl
  · rfl

theorem wrs (d : Dev) (a : Nat) (ws : List Word) : P (d.wrs a ws) = P d :=
  (forN (fun _ d => h.groupWhole d _) _ _).trans (foldl (fun d _ => h.wrPart d _ _ _) _ d)

theorem bklWrs (d : Dev) (a : Nat) (ws : List Word) : P (d.bklWrs a ws) = P d :=
  ite (forN (fun _ d => h.addrError d _ _) _ d) (h.wrs d a ws)

/-! ### The backlog reserve -/

theorem bklDescribe (d : Dev) (c : Chunk) (next : Option Nat) : P (d.bklDescribe c next) = P d :=
  (h.bklWrs _ _ _).trans <| (h.bklWrs _ _ _).trans (h.free d _)

theorem bklDescribeEnd (d : Dev) (e : Nat) : P (d.bklDescribeEnd e) = P d := by
  have hlast (d d' : Dev) (x : Option Chunk) (hd : P d = P d') :
      P (match x with | some b => d.bklDescribe b none | none => d) = P d' := by
    cases x with
    | some b => exact (h.bklDescribe d b none).trans hd
    | none => exact hd
  unfold Dev.bklDescribeEnd
  refine hlast _ _ _ ?_
  split
  · exact ite (h.bklDescribe d _ _) rfl
  · rfl

theorem bklCount (d : Dev) (e : Nat) : P (d.bklCount e) = P d := by
  have hrise (d : Dev) (c : Prop) [Decidable c] (x : ErrUnit) (code inst : Nat) (w : Word) :
      P (if c then ({ d with err := x } : Dev).event code inst w else d) = P d :=
    ite ((h.event _ _ _ _).trans (h.err d x)) rfl
  exact (hrise _ _ _ _ _ _).trans <| (hrise _ _ _ _ _ _).trans <| (h.err _ _).trans <| (h.setF _ _ _).trans <|
    (h.maxF _ _ _).trans (h.setF d _ _)

theorem bklTrim (d : Dev) (e : Nat) (hold : List Nat) : P (d.bklTrim e hold) = P d :=
  ite rfl ((h.bklCount _ e).trans (h.modChain d e _))

theorem bklEmptied (d : Dev) (e : Nat) : P (d.bklEmptied e) = P d := ite ((h.event _ _ _ _).trans (h.modChain d e _)) rfl

theorem bklLoss (d : Dev) (e pkts words : Nat) : P (d.bklLoss e pkts words) = P d :=
  (h.bbOwed _ _).trans <| (h.free _ _).trans <| (h.event _ _ _ _).trans <| (h.error _ _ _ _ _ _ _).trans <|
    (h.inc _ _ _).trans (h.inc d _ _)

theorem bklGive (w : Nat) (hold : List Nat) (e len fuel : Nat) :
    ∀ (pk wd : Nat) (d : Dev), P (d.bklGive w hold e len pk wd fuel) = P d := by
  induction fuel with
  | zero => exact fun pk wd d => h.bklLoss d e pk wd
  | succ fuel ih =>
    intro pk wd d
    unfold Dev.bklGive
    split
    · exact ite rfl (h.bklLoss d e pk wd)
    · have hgone := fun i => (h.bklTrim _ e (if e = w then hold else [])).trans
        (h.modChain d e fun c => { c with pkts := c.pkts.eraseIdx i })
      exact ite ((h.bklLoss _ _ _ _).trans (hgone _)) ((ih _ _ _).trans (hgone _))

theorem bklRoom (w : Nat) (hold : List Nat) (fuel : Nat) : ∀ d : Dev, P (d.bklRoom w hold fuel) = P d := by
  induction fuel with
  | zero => exact fun _ => rfl
  | succ fuel ih =>
    intro d
    unfold Dev.bklRoom
    refine ite rfl ?_
    split
    · rfl
    · exact (ih _).trans <| (ite rfl (h.bklEmptied _ _)).trans (h.bklGive w hold _ _ _ 0 0 d)

theorem bklAlloc (d : Dev) (e : Nat) (hold : List Nat) : P (d.bklAlloc e hold).2 = P d := by
  unfold Dev.bklAlloc
  dsimp only
  split
  · exact (h.bklCount _ e).trans <| (h.modChain _ e _).trans (h.bklRoom e hold _ d)
  · exact h.bklRoom e hold _ d

theorem bklWords (e fuel : Nat) :
    ∀ (ws : List Word) (sp : List (Nat × Nat × Nat)) (d : Dev), P (d.bklWords e fuel ws sp).2.2 = P d := by
  induction fuel with
  | zero => exact fun _ _ _ => rfl
  | succ fuel ih =>
    intro ws sp d
    unfold Dev.bklWords
    split
    · rfl
    · dsimp only
      split
      · split
        · exact (ih ws sp _).trans (h.bklAlloc d e _)
        · exact h.bklAlloc d e _
      · exact (ih _ _ _).trans <| (h.modChain _ e _).trans (h.bklWrs d _ _)

theorem bklRecord (d : Dev) (e num : Nat) (head : Word) (len : Nat) (cont : Bool) :
    P (d.bklRecord e num head len cont) = P d := by
  unfold Dev.bklRecord
  refine (h.bklDescribeEnd _ e).trans <| (foldl (fun d i => ?_) _ _).trans (h.modChain d e _)
  split
  · exact ite (h.bklDescribe d _ _) rfl
  · rfl

theorem bklClose (d : Dev) (e : Nat) : P (d.bklClose e) = P d := ite (h.modChain d e _) rfl

theorem bklAppend (d : Dev) (e : Nat) (p : BklPkt) (ws : List Word) : P (d.bklAppend e p ws) = P d := by
  unfold Dev.bklAppend
  have hwritten : P (Dev.bklWords e (2 * (ws.length / 992 + 2)) ws []
      (Dev.bklClose e (if d.chainEmpty e then d.event 0xA10 0 (toW e) else d))).2.2 = P d :=
    (h.bklWords e _ ws [] _).trans <| (h.bklClose _ e).trans (ite (h.event d _ _ _) rfl)
  exact ite ((h.bklRecord _ _ _ _ _ _).trans <| (h.modChain _ e _).trans hwritten)
    ((h.bklLoss _ e 1 _).trans <| (h.bklTrim _ e []).trans <| (h.modChain _ e _).trans hwritten)

/-! ### Lysith -/

theorem sendFrame (d : Dev) (n type seq : Nat) (ws : List Word) : P (d.sendFrame n type seq ws) = P d :=
  (h.emit _ _).trans (ite rfl (h.modPort d n _))

theorem pumpOne (d : Dev) (n : Nat) : P (d.pumpOne n) = P d :=
  ite rfl ((h.sendFrame _ _ _ _ _).trans (h.modPort d n _))

theorem idleOut (d : Dev) (n : Nat) : P (d.idleOut n) = P d := ite (h.sendFrame d n 1 0 []) rfl

theorem pump (d : Dev) (n : Nat) : P (d.pump n) = P d := by
  have hsent := forN (fun _ d => h.pumpOne d n) ((d.port n).txq.length + 1) d
  exact ite ((h.idleOut _ n).trans hsent) hsent

theorem sendAll (d : Dev) (n : Nat) (ms : List Msg) : P (d.sendAll n ms) = P d :=
  ite (h.modPort d n _) ((h.pump _ n).trans (h.modPort d n _))

theorem sendRoute (d : Dev) (now : Bool) (rt dest : Nat) (ms : List Msg) : P (d.sendRoute now rt dest ms).2 = P d := by
  unfold Dev.sendRoute
  split
  · exact (h.sendAll _ _ ms).trans (h.unreached d _)
  · exact ite rfl ((h.event _ _ _ _).trans (h.unreached d _))

theorem sendPkt (d : Dev) (dest kind : Nat) (ws : List Word) : P (d.sendPkt dest kind ws) = P d := by
  have hroute := h.sendRoute d false 1 dest (({ src := d.pkgId, kind := kind } : PktInfo).msgs 1 dest false ws)
  exact ite hroute ((h.bklAppend _ _ _ _).trans hroute)

/-! ### The answer -/

theorem sendRsp (d : Dev) (o : Origin) (rsp : List Word) : P (d.sendRsp o rsp) = P d := by
  cases o with
  | lysith pkg _ => exact h.sendPkt d _ 2 rsp
  | link p => exact h.sendAll d _ _
  | mgmt mac => exact h.emit d _
  | _ => rfl

theorem giveRsp (d : Dev) (n : Nat) (rsp : List Word) : P (d.giveRsp n rsp) = P d := by
  have hdone (d : Dev) (x : Cp) (f : Mailbox → Mailbox) (v : Nat) (c : Prop) [Decidable c] :
      P (if c then ({ d.modMb n f with cp := x } : Dev).sendMsix v else { d.modMb n f with cp := x }) = P d :=
    have hfreed := (h.cp _ x).trans (h.modMb d n f)
    ite ((h.sendMsix _ v).trans hfreed) hfreed
  refine (hdone _ _ _ _ _).trans (ite rfl ?_)
  split
  · exact ite rfl (h.modMb d n _)
  · exact ite rfl (h.modMb d n _)
  · exact h.sendRsp d _ rsp

theorem reply (d : Dev) (n st : Nat) (body : List Word) : P (d.reply n st body) = P d :=
  (h.giveRsp _ n _).trans (h.modMb d n _)

end OffAnswer

@[simp] theorem reply_ing (d : Dev) (n st : Nat) (body : List Word) : (d.reply n st body).ing = d.ing :=
  OffAnswer.ing.reply d n st body

end Sys2Proof.Machine
end

section
/-! Fiuth-borne inputs (R169 to R173): what a start, a word, a deadline, a stop and an anchor do in the case that the state
settles. -/

namespace Sys2Proof.Machine

/-- An answer leaves the Fiuth-borne inputs. -/
@[simp] theorem reply_fch (d : Dev) (n st : Nat) (body : List Word) (k : Nat) : (d.reply n st body).fch k = d.fch k :=
  congrArg (fun x : Ing => mget x.fch k) (reply_ing d n st body)

/-- The least multiple of 1,024 not below a multiple of 1,024 is itself. -/
theorem up1024_of_multiple {m : Nat} (h : m % 1024 = 0) : up1024 m = m := by
  unfold up1024
  omega

/-- A start with a legal rate and SEQ0, of an input that stands still, at an epoch that is not past (R169). -/
theorem fchStart_starts {d : Dev} {n k : Nat} (hk : (d.arg n 1).toNat = k) (hlt : k < 1024) (hrun : d.fchRun k = false)
    (hlo : 1 ≤ d.f (F.ingFchRate_RATE k)) (hhi : d.f (F.ingFchRate_RATE k) ≤ 10000000000)
    (hz : bitsOf (d.arg n 4) 35 12 = 0)
    (hpast : earlier 72 ((d.arg n 2).toNat * 2 ^ 36 + (d.arg n 3).toNat) d.now = false) :
    d.fchStart n =
      let t0 := (d.arg n 2).toNat * 2 ^ 36 + (d.arg n 3).toNat
      let rate := d.f (F.ingFchRate_RATE k)
      let d := d.setF (F.ingFchCfg_RUN k) 1
      let d := { d with ing := { d.ing with
        fch := mset d.ing.fch k (⟨t0, bitsOf (d.arg n 4) 11 0, 0, none, none⟩ : Fch) } }
      (d.startInput (4096 + k) { a := (t0 * rate : Nat), st := 1000 * 2 ^ 36, den := rate, res := 0, slots := 0 }).reply
        n stOK [] := by
  have hbad : (decide (k > 1023) || d.fchRun k || decide (d.f (F.ingFchRate_RATE k) = 0) ||
      decide (d.f (F.ingFchRate_RATE k) > 10000000000) || decide (bitsOf (d.arg n 4) 35 12 ≠ 0)) = false := by
    simp only [hrun, hz, Bool.or_false, Bool.or_eq_false_iff, decide_eq_false_iff_not, ne_eq, not_true_eq_false, not_false_eq_true,
      and_true]
    omega
  simp only [Dev.fchStart, hk, hbad, hpast, Bool.false_and, Bool.false_eq_true, if_false]

/-- No deadline has come: nothing is filled (R173). -/
theorem fchFills_notDue {d : Dev} {k : Nat} (h : d.fchDue k = false) (n : Nat) : d.fchFills k n = d :=
  forN_keeps (P := (· = d)) (fun _ e he => by rw [he, Dev.fchFill, h]; rfl) n rfl

/-- A word with the sequence number of the next slot is that slot (R170, R171). -/
theorem fchSeq_expected {d : Dev} {k : Nat} {w : Word}
    (hseq : bitsOf w 35 24 = ((d.fch k).seq0 + (d.fch k).next) % 4096)
    (hahead : later 72 (ep72 (ceilQ ((d.inp (4096 + k)).num (d.fch k).next) (d.inp (4096 + k)).den)) d.now = false) :
    d.fchSeq k w = d.fchRelease k (tagged 0 (bitsOf w 23 0 * 256)) := by
  have hnone : (bitsOf w 35 24 + 8192 - ((d.fch k).seq0 + (d.fch k).next) % 4096) % 4096 = 0 := by omega
  have hskip (f : Nat → Dev → Dev) : forN 0 f d = d := rfl
  simp only [Dev.fchSeq, hnone, Nat.add_zero, hahead, hskip, Nat.sub_self, if_true, Bool.false_eq_true, if_false]
  rfl

/-- A word of a running input in FMT 0, with no deadline come and none of an earlier slot to lose it to (R170, R173). -/
theorem fchWord_seq {d : Dev} {k : Nat} (hrun : d.fchRun k = true) (hdue : d.fchDue k = false)
    (hfmt : d.fb (F.ingFchCfg_FMT k) = false) (w : Word) : d.fchWord k w = d.fchSeq k w := by
  simp only [Dev.fchWord, hrun, fchFills_notDue hdue, hfmt, Bool.not_true, Bool.false_eq_true, if_false]

/-- A stop at a multiple of 1,024 ends the input at once (R173). -/
theorem fchStop_atBoundary {d : Dev} {n k : Nat} (hk : (d.arg n 1).toNat = k) (hlt : k < 1024) (hrun : d.fchRun k = true)
    (hstop : (d.fch k).stopAt = none) (hnext : (d.fch k).next % 1024 = 0) :
    d.fchStop n =
      let d := d.reply n stOK []
      let d := { d with ing := { d.ing with
        fch := mset d.ing.fch k ({ d.fch k with stopAt := some (d.fch k).next } : Fch) } }
      d.setF (F.ingFchCfg_RUN k) 0 := by
  have hgood : (decide (k > 1023) || !d.fchRun k) = false := by
    rw [hrun, decide_eq_false (Nat.not_lt.mpr (Nat.le_of_lt_succ hlt))]
    rfl
  simp only [Dev.fchStop, hk, hgood, reply_fch, hstop, Option.getD_none, up1024_of_multiple hnext, if_true, Bool.false_eq_true,
    if_false]

/-- The anchor of an input that runs. -/
theorem ingAnchor_runs {d : Dev} {n : Nat} (hlt : (d.arg n 1).toNat ≤ 5119) (hrun : d.inputRuns (d.arg n 1).toNat = true) :
    d.ingAnchor n =
      let x := d.inp (d.arg n 1).toNat
      d.reply n stOK [toW (x.at 0 / 2 ^ 36), toW (x.at 0), toW (sTo 36 (roundHe x.res x.den)), toW (x.slots / 2 ^ 36),
        toW x.slots] := by
  have hgood : (decide ((d.arg n 1).toNat > 5119) || !d.inputRuns (d.arg n 1).toNat) = false := by
    rw [hrun, decide_eq_false (Nat.not_lt.mpr hlt)]
    rfl
  simp only [Dev.ingAnchor, hgood, Bool.false_eq_true, if_false]
  rfl

/-- Settles O29, row by row: the input stands or runs as its command needs. -/
theorem fiuthInputs : Obligations.FiuthInputs := by
  unfold Obligations.FiuthInputs
  refine ⟨fun s n k h hk hrun hlo hhi hz hpast => ?start, fun s k w hl hrun hdue hfmt hseq hahead => ?word,
    fun s k hl hdue => ?deadline, fun s n k h hk hrun hstop hnext => ?stop, fun s n h hlt hrun => ?anchor⟩
  case start => exact lift_served_of_eq h rfl (fchStart_starts (d := s.dev.taken) hk k.isLt hrun hlo hhi hz hpast)
  case word => exact lift_live_eq hl ((fchWord_seq hrun hdue hfmt w).trans (fchSeq_expected hseq hahead))
  case deadline => exact lift_live_eq hl (if_pos hdue)
  case stop => exact lift_served_of_eq h rfl (fchStop_atBoundary (d := s.dev.taken) hk k.isLt hrun hstop hnext)
  case anchor => exact lift_served_of_eq h rfl (ingAnchor_runs (d := s.dev.taken) hlt hrun)

end Sys2Proof.Machine
end

section
/-! The life of a JESD204C link (R152 to R160, R168): what each of its rows does to a link in the state that the row is for. -/

namespace Sys2Proof.Machine

/-- Two folds agree whose steps agree where a property holds that the steps keep. -/
theorem each_congr_of_keeps {α β : Type} {P : α → Prop} {f g : β → α → α} (hkeep : ∀ b a, P a → P (g b a))
    (hfg : ∀ b a, P a → f b a = g b a) (l : List β) {a : α} (h : P a) : each l f a = each l g a := by
  induction l generalizing a with
  | nil => rfl
  | cons b l ih =>
    have hstep : each (b :: l) f a = each l f (g b a) := congrArg (each l f) (hfg b a h)
    exact hstep.trans (ih (hkeep b a h))

/-- A link that goes DOWN leaves the epoch. -/
@[simp] theorem felDown_epo (d : Dev) (l st : Nat) : (d.felDown l st).epo = d.epo := by
  have hlanes := forN_keeps (P := fun e : Dev => e.epo = d.epo) (f := fun j e => e.setF (F.felLane_UP l j) 0)
    (fun j e he => (setF_epo e _ 0).trans he) 16 (setF_epo d (F.felStat_LANES_UP l) 0)
  exact (event_epo _ _ _ _).trans <| (setF_epo _ _ _).trans <| (modFel_epo _ l _).trans hlanes

@[simp] theorem felGo_epo (d : Dev) (l st status : Nat) : (d.felGo l st status).epo = d.epo :=
  (event_epo _ _ _ _).trans (setF_epo _ _ _)

/-! A start of an input leaves the epoch, and where the EMBs of a link lie in it. -/

theorem startInput_epo (d : Dev) (i : Nat) (x : Inp) : (d.startInput i x).epo = d.epo := rfl

theorem startInput_startNum (d : Dev) (i : Nat) (x : Inp) (l k : Nat) : (d.startInput i x).startNum l k = d.startNum l k := rfl

/-! ### The start -/

/-- A start of a link that is DOWN and passes every check (R152, R159). -/
theorem linkStart_down {d : Dev} {n l : Nat} (hl : (d.arg n 1).toNat = l) (hlt : l < 16) (hst : d.felState l = 0)
    (hok : d.linkReason l = none) :
    d.linkStart n = ((d.modFel l fun _ => default).reply n stOK [0]).felGo l 1 0 := by
  have hin : ¬ l > 15 := by omega
  simp only [Dev.linkStart, hl, hin, hst, hok, ne_eq, not_true_eq_false, if_false]

/-- A start that ends with its link DOWN is noted at the edge it ends at (R168). -/
theorem felFin_felDown (d : Dev) (l st : Nat) :
    (d.felDown l st).felFin l st = (d.felDown l st).modFel l fun x => { x with fin := some (d.epo.edges, st) } :=
  congrArg (fun x : Epo => (d.felDown l st).modFel l fun y => { y with fin := some (x.edges, st) }) (felDown_epo d l st)

/-- A SYSREF edge of a link that waits for it fixes E_sr (R157, R159). -/
theorem sysrefAt_captures {d : Dev} {l : Nat} (hesr : (d.fel l).esr = none) (hst : d.felState l = 2) (e : Nat) :
    d.sysrefAt l e =
      d.modFel l fun x => { x with esr := some e, k0 := (d.linkCfg l).k0, next := (d.linkCfg l).k0 } := by
  simp only [Dev.sysrefAt, hesr, hst, if_true]

/-- What input `i` starts with at its slot 0, `a` being the epoch of EMB k0 times FS (R160). -/
def Dev.firstInp (d : Dev) (a : Int) (fs i : Nat) : Inp :=
  { a := a, st := 2 ^ 36, den := fs, slots := 0
    res := (d.f (F.ingChSkew_SKEW i) * fs : Nat) - (d.skewK i fs * 2 ^ 36 : Nat) }

/-- Every enabled input of the link at its slot 0 (R160). -/
def Dev.firstSlots (l : Nat) (d : Dev) : Dev :=
  each (d.liveInputs l) (fun i e => e.startInput i (e.firstInp (e.startNum l (d.fel l).k0) (d.linkCfg l).fs i)) d

/-- No input's start moves another's slot 0. -/
theorem firstSlots_eq (d : Dev) (l : Nat) :
    d.firstSlots l = each (d.liveInputs l)
      (fun i e => e.startInput i (e.firstInp (d.startNum l (d.fel l).k0) (d.linkCfg l).fs i)) d :=
  each_congr_of_keeps (P := fun e : Dev => e.startNum l (d.fel l).k0 = d.startNum l (d.fel l).k0)
    (fun i e he => (startInput_startNum e i _ l _).trans he) (fun i e he => by rw [he]) _ rfl

@[simp] theorem firstSlots_epo (d : Dev) (l : Nat) : (d.firstSlots l).epo = d.epo :=
  each_keeps (P := fun e : Dev => e.epo = d.epo) (fun i e he => (startInput_epo e i _).trans he) _ rfl

theorem linkRun_eq (d : Dev) (l : Nat) :
    d.linkRun l =
      if d.felState l ≠ 2 || (d.fel l).esr.isNone || !notEarlier 72 d.now (d.relEp l (d.fel l).k0) then d
      else ((((d.firstSlots l).setF (F.felSlotLo_SLOT l) 0).setF (F.felSlotHi_SLOT l) 0).felGo l 3 0).felFin l stOK := rfl

/-- At the release point of its first EMB the link runs (R159, R160). -/
theorem linkRun_runs {d : Dev} {l e : Nat} (hst : d.felState l = 2) (hesr : (d.fel l).esr = some e)
    (hrel : notEarlier 72 d.now (d.relEp l (d.fel l).k0) = true) :
    d.linkRun l =
      ((((d.firstSlots l).setF (F.felSlotLo_SLOT l) 0).setF (F.felSlotHi_SLOT l) 0).felGo l 3 0).modFel l fun x =>
        { x with fin := some (d.epo.edges, stOK) } := by
  have hgo : (decide (d.felState l ≠ 2) || (d.fel l).esr.isNone || !notEarlier 72 d.now (d.relEp l (d.fel l).k0)) = false := by
    rw [hst, hesr, hrel]
    rfl
  rw [linkRun_eq, hgo, if_neg Bool.false_ne_true, Dev.felFin, felGo_epo, setF_epo, setF_epo, firstSlots_epo]

/-! ### The stop -/

/-- A stop before RUN, with no start just completed, ends the start CANCELLED (R168). -/
theorem linkStop_starting {d : Dev} {n l : Nat} (hl : (d.arg n 1).toNat = l) (hlt : l < 16) (hjust : d.felJust l = none)
    (hst : d.felState l = 1 ∨ d.felState l = 2) :
    d.linkStop n = (d.reply n stOK []).felDown l stCANCELLED := by
  have hin : ¬ l > 15 := by omega
  have hup : d.felState l ≠ 0 := by omega
  have hrun : d.felState l ≠ 3 := by omega
  simp only [Dev.linkStop, hl, hin, hjust, hup, hrun, ne_eq, not_false_eq_true, if_true, if_false]

/-! ### The rows -/

theorem exec_linkLaneLock (l : Fin 16) (s : State) : exec (.linkLaneLock l) s = execLinkLaneLock l s := rfl

theorem exec_linkSyncTimeout (l : Fin 16) (s : State) : exec (.linkSyncTimeout l) s = execLinkSyncTimeout l s := rfl

theorem exec_sysrefWaitTimeout (l : Fin 16) (s : State) : exec (.sysrefWaitTimeout l) s = execSysrefWaitTimeout l s := rfl

/-- Settles O27, row by row: the link is in the state of its row. -/
theorem linkLife : Obligations.LinkLife := by
  unfold Obligations.LinkLife
  refine ⟨fun s n l h harg hst hok => ?start, fun s l hl hst => ?lock, fun s l hl hst => ?syncLimit,
    fun s l e hl hesr hst => ?sysref, fun s l hl hst hesr => ?sysrefLimit, fun s l e hl hst hesr hrel => ?run,
    fun s n l h harg hjust hst => ?stop⟩
  case start => exact lift_served_of_eq h rfl (linkStart_down (d := s.dev.taken) harg l.isLt hst hok)
  case lock => exact (exec_linkLaneLock l s).trans (lift_live_eq hl (if_neg (not_not_intro hst)))
  case syncLimit => exact (exec_linkSyncTimeout l s).trans (lift_live_eq hl ((if_pos hst).trans (felFin_felDown _ _ _)))
  case sysref => exact lift_live_eq hl (sysrefAt_captures hesr hst _)
  case sysrefLimit =>
    have hwaits : (decide (s.dev.felState l = 2) && (s.dev.fel l).esr.isNone) = true := by
      rw [hst, hesr]
      rfl
    exact (exec_sysrefWaitTimeout l s).trans (lift_live_eq hl ((if_pos hwaits).trans (felFin_felDown _ _ _)))
  case run =>
    refine lift_live_eq hl ((linkRun_runs hst hesr hrel).trans ?_)
    rw [firstSlots_eq]
    rfl
  case stop => exact lift_served_of_eq h rfl (linkStop_starting (d := s.dev.taken) harg l.isLt hjust hst)

end Sys2Proof.Machine
end

section
/-! Recipes, models, beams and tables (R177, R185, R195, R205, R206, R233): what each of the four loads does when its checks
pass and the regions that it adds load to admit it. -/

namespace Sys2Proof.Machine

/-! ### The request and its words -/

/-- A served command has the length that its header names. -/
theorem served_hdrLen {s : State} {n op len : Nat} (h : s.served n op len = true) : hdrLen (s.dev.taken.arg n 0) = len := by
  simp only [State.served, Dev.front, Bool.and_eq_true, beq_iff_eq] at h
  exact h.2.2

/-- A command that settles the bridge has the effect that it has on the block without its request. -/
theorem liftBb_served_brgSettle {s : State} {n op len : Nat} (h : s.served n op len = true) {lenOk : Nat → Bool}
    (hl : lenOk len = true) {k g : Dev → Dev} (hkg : k s.dev.taken = g s.dev.taken) :
    liftBb (fun d => (Dev.takeCmd n op lenOk k d).brgSettle) s = .next (s.afterBb fun d => (d.cmdDone g).brgSettle) := by
  refine liftBb_live_eq (served_live h) (congrArg Dev.brgSettle ((takeCmd_served h lenOk hl k).trans ?_))
  rw [Dev.cmdDone, Dev.cmdDone, hkg]

/-- A word below a power of two is its own low field. -/
theorem bitsOf_low_of_lt {w : Word} {hi : Nat} (h : w.toNat < 2 ^ (hi + 1)) : bitsOf w hi 0 = w.toNat := by
  rw [bitsOf, Nat.pow_zero, Nat.div_one, Nat.sub_zero, Nat.mod_eq_of_lt h]

/-- A word below a power of two has nothing above it. -/
theorem bitsOf_high_of_lt {w : Word} {lo : Nat} (h : w.toNat < 2 ^ lo) (hi : Nat) : bitsOf w hi lo = 0 := by
  rw [bitsOf, Nat.div_eq_of_lt h, Nat.zero_mod]

/-- No region is refused when every region admits the load. -/
theorem refused_isEmpty {p : Nat → Bool} {rs : List Nat} (h : rs.all p = true) :
    (rs.filter fun r => !p r).isEmpty = true := by
  rw [List.isEmpty_iff, List.filter_eq_nil_iff]
  intro r hr
  rw [List.all_eq_true.mp h r hr]
  exact Bool.false_ne_true

/-- Word 1 of a request names beam `i`, or input `i` of the package (R177, R205). -/
structure Dev.NamesSource (d : Dev) (n : Nat) (beam : Bool) (i : Nat) : Prop where
  kind : bitOf (d.arg n 1) 35 = beam
  index : bitsOf (d.arg n 1) 13 0 = i
  reserved : bitsOf (d.arg n 1) 34 14 = 0
  inRange : beam = true ∨ i ≤ 5119

/-- A source that is named passes the test of its index. -/
theorem Dev.NamesSource.legal {d : Dev} {n i : Nat} {beam : Bool} (h : d.NamesSource n beam i) :
    (!beam && decide (i > 5119)) = false := by
  obtain rfl | hle := h.inRange
  · rfl
  · rw [decide_eq_false (Nat.not_lt.mpr hle), Bool.and_false]

/-! ### RECIPE_SET -/

/-- A recipe that passes every check of R177 and that its regions admit is put in place (R233). -/
theorem recipeSet_admitted {d : Dev} {n cnt i k : Nat} {beam : Bool} (hk : k = if beam then 0x10000 + i else i)
    (hname : d.NamesSource n beam i) (hlen : hdrLen (d.arg n 0) = 2 + 3 * cnt) (hcnt : (d.arg n 2).toNat = cnt)
    (hpos : 0 < cnt) (hmax : cnt ≤ 6) (hidle : (if beam then d.beamRuns i else d.inputRuns i) = false)
    (hreason : d.recipeReason k beam (d.recipeSteps n cnt).1 = 0)
    (hadm : ((d.loadRegions k).all (d.admits ((d.recipeSteps n cnt).2.fresh.2.putRecipe k
      ((d.recipeSteps n cnt).2.fresh.1 % 2 ^ 18) (d.recipeSteps n cnt).1))) = true) :
    d.recipeSet n =
      let v := (d.recipeSteps n cnt).2.fresh
      (each (d.loadRegions k) Dev.loadUpdate (v.2.putRecipe k (v.1 % 2 ^ 18) (d.recipeSteps n cnt).1)).reply n stOK
        [0, toW (v.1 % 2 ^ 18)] := by
  have hlow : bitsOf (d.arg n 2) 2 0 = cnt := (bitsOf_low_of_lt (by omega)).trans hcnt
  have hhigh : bitsOf (d.arg n 2) 35 3 = 0 := bitsOf_high_of_lt (by omega) 35
  have hsteps : cnt ≠ 0 ∧ ¬ cnt > 6 := by omega
  subst hk
  simp only [Dev.recipeSet, hname.kind, hname.index, hname.reserved, hname.legal, hlow, hlen, hhigh, hsteps, hidle, hreason,
    refused_isEmpty hadm, ne_eq, not_true_eq_false, decide_false, Bool.and_false, Bool.or_self, Bool.false_eq_true, if_false,
    if_true]

/-! ### MODEL_LOAD -/

/-- A model load of a running input that has a step for it and whose anchor's block neither step has begun (R185). -/
theorem modelLoad_runs {d : Dev} {n i na : Nat} (hi : (d.arg n 1).toNat = i) (hlt : i ≤ 5119)
    (hna : (d.arg n 2).toNat * 2 ^ 36 + (d.arg n 3).toNat = na) (hrun : d.inputRuns i = true)
    (hvals : ((List.range 48).all fun k => bitsOf (d.arg n (4 + k)) 35 32 == 0) = true)
    (hhas : ((d.source i).recipe.any (·.code == 1) || (d.source i).recipe.any (·.code == 2)) = true)
    (hahead : ([1, 2].all fun c => !(d.source i).recipe.any (·.code == c) ||
      decide ((mget (d.source i).steps c).begun * 1024 ≤ na)) = true) :
    d.modelLoad n =
      let has := fun c => (d.source i).recipe.any (·.code == c)
      let kept := fun (p : Loads) => p.filter fun x => [1, 2].any fun c =>
        has c && decide (x.1 < (mget (d.source i).steps c).begun * 1024)
      ((d.modSource i fun x => { x with
        dPend := if has 1 then kept x.dPend ++ [(na, (List.range 6).map fun k => d.arg128 n (4 + 4 * k))] else x.dPend
        pPend := if has 2 then kept x.pPend ++ [(na, (List.range 6).map fun k => d.arg128 n (28 + 4 * k))]
          else x.pPend }).noteCmd i {
        edge := d.epo.edges + 1, step := 0, slot := na, mbx := n, dPend := (d.source i).dPend, pPend := (d.source i).pPend
        rsp := d.rspWords n stOK (epWords ((d.inp i).at na % 2 ^ 72)) }).reply n stOK
          (epWords ((d.inp i).at na % 2 ^ 72)) := by
  have hlegal : ((List.range 48).any fun k => bitsOf (d.arg n (4 + k)) 35 32 != 0) = false := by
    rw [← Bool.not_eq_true', List.not_any_eq_all_not]
    simpa only [bne, Bool.not_not] using hvals
  have hwait (c : Nat) (hc : c ∈ [1, 2]) : ((d.source i).recipe.any (·.code == c) &&
      decide ((mget (d.source i).steps c).begun * 1024 > na)) = false := by
    rw [← Bool.not_eq_true', Bool.not_and, ← decide_not]
    simpa only [Nat.not_lt] using List.all_eq_true.mp hahead c hc
  have hin : ¬ i > 5119 := by omega
  simp only [Dev.modelLoad, hi, hna, hrun, hhas, hlegal, hwait 1 (by simp), hwait 2 (by simp), hin, decide_false, Bool.not_true,
    Bool.or_self, Bool.false_eq_true, if_false, if_true]

/-! ### BEAM_SET -/

/-- The beam of a BEAM_SET request with its members as its tables name them, and the block after its free values. -/
def Dev.beamRead (n : Nat) (d : Dev) : Beam × Dev :=
  let x := d.beamArg n
  let tab0 := d.tableWords [] x.tab0 (2 * Nat.min 5120 x.count)
  let tab1 := tab0.2.tableWords [] x.tab1 (2 * Nat.min 5120 x.count)
  ({ x with cost := tab1.2.fresh.1 % 256, members := membersOf tab0.1, members1 := membersOf tab1.1 }, tab1.2.fresh.2)

/-- The block with that beam put in place: no step of it has begun, and its recipe is the one that was to come. -/
def Dev.beamEntered (n : Nat) (d : Dev) : Dev :=
  let b := bitsOf (d.arg n 1) 13 0
  ((d.beamRead n).2.modBeam b fun _ => (d.beamRead n).1).modSource (0x10000 + b) fun y =>
    { y with recipe := y.coming, next := none, steps := [], cancelAt := none, cancelled := 0 }

/-- The bits of a BEAM_SET request in no field are 0 (R195). -/
structure Dev.BeamReserved (d : Dev) (n : Nat) : Prop where
  clu : bitsOf (d.arg n 1) 34 20 = 0
  area : bitsOf (d.arg n 2) 35 28 = 0
  shifts : bitsOf (d.arg n 3) 35 25 = 0
  tab0 : bitsOf (d.arg n 4) 35 28 = 0
  tab1 : bitsOf (d.arg n 5) 35 28 = 0
  count : bitsOf (d.arg n 6) 35 13 = 0
  nMemb : bitsOf (d.arg n 7) 35 18 = 0

/-- The values of a BEAM_SET request are in range, its ring and tables backed, and its members ends of recipes (R195,
R205). -/
structure Dev.BeamLegal (d : Dev) (n : Nat) : Prop where
  nContrib : 0 < (d.beamArg n).nContrib
  rshift : (d.beamArg n).rshift ≤ 44
  oshift : (d.beamArg n).oshift ≤ 35
  nMemb : 0 < (d.beamArg n).nMemb
  ring : d.beamBacked (d.beamArg n).area (4 * 3088) = true
  tables : d.tabsBacked (d.beamArg n) = true
  members : (d.beamRead n).1.members.all d.memberOk = true

/-- A line-aligned part of a beam is backed where it holds a word. -/
theorem beamBacked_of {d : Dev} {a m : Nat} (ha : a % 16 = 0) (hm : m = 0 ∨ d.rsaBacked a m = true) :
    d.beamBacked a m = true := by
  simpa only [Dev.beamBacked, ha, beq_self_eq_true, Bool.true_and, Bool.or_eq_true, beq_iff_eq] using hm

/-- Both tables can be read when they are line-aligned, and backed unless they are empty. -/
theorem tabsBacked_of {d : Dev} {x : Beam} (hcount : x.count ≤ 5120) (h0 : x.tab0 % 16 = 0) (h1 : x.tab1 % 16 = 0)
    (hback : x.count = 0 ∨ d.rsaBacked x.tab0 (2 * x.count) = true ∧ d.rsaBacked x.tab1 (2 * x.count) = true) :
    d.tabsBacked x = true := by
  have hempty : x.count = 0 → 2 * x.count = 0 := fun h => by rw [h]
  rw [Dev.tabsBacked, decide_eq_true hcount, beamBacked_of h0 (hback.imp hempty And.left),
    beamBacked_of h1 (hback.imp hempty And.right)]
  rfl

/-- BEAM_SET's checks in their order, over the beam as it is read. -/
theorem beamPut_eq (d : Dev) (n : Nat) (ans : Nat → Dev → Dev) :
    d.beamPut n [] ans =
      let w := d.arg n
      let b := bitsOf (w 1) 13 0
      let x := d.beamArg n
      let high := bitsOf (w 1) 34 20 ≠ 0 || bitsOf (w 2) 35 28 ≠ 0 || bitsOf (w 3) 35 25 ≠ 0 || bitsOf (w 4) 35 28 ≠ 0
        || bitsOf (w 5) 35 28 ≠ 0 || bitsOf (w 6) 35 13 ≠ 0 || bitsOf (w 7) 35 18 ≠ 0
      if d.beamRuns b || (x.count ≤ 5120 && (d.beamRead n).1.members.any fun m => d.inputRuns m.1) then ans stBUSY d
      else if high || x.nContrib = 0 || x.rshift > 44 || x.oshift > 35 || !d.tabsBacked x || x.nMemb = 0
          || !d.beamBacked x.area (4 * 3088) || !(d.beamRead n).1.members.all d.memberOk then ans stBAD_ARG d
      else
        let regs := (d.beamEntered n).loadRegions (0x10000 + b)
        let full := regs.filter fun r => !d.admits (d.beamEntered n) r
        if full.isEmpty then
          let e := ans stOK (each regs Dev.loadUpdate (d.beamEntered n))
          if x.collect then e.ringClear (d.beamRead n).1 else e
        else ans stNO_RESOURCE (Dev.admReject (d.beamEntered n) full d) := rfl

/-- A beam that does not run, whose request is legal and whose regions admit it, is put in place, and the ring of
one that collects is zeroed (R195, R197, R233). -/
theorem beamPut_admitted {d : Dev} {n : Nat} (hidle : d.beamRuns (bitsOf (d.arg n 1) 13 0) = false)
    (hstill : ((d.beamRead n).1.members.any fun m => d.inputRuns m.1) = false) (hz : d.BeamReserved n) (hok : d.BeamLegal n)
    (hadm : (((d.beamEntered n).loadRegions (0x10000 + bitsOf (d.arg n 1) 13 0)).all (d.admits (d.beamEntered n))) = true)
    (ans : Nat → Dev → Dev) :
    d.beamPut n [] ans =
      let e := ans stOK (each ((d.beamEntered n).loadRegions (0x10000 + bitsOf (d.arg n 1) 13 0)) Dev.loadUpdate
        (d.beamEntered n))
      if (d.beamArg n).collect then e.ringClear (d.beamRead n).1 else e := by
  have hcontrib : (d.beamArg n).nContrib ≠ 0 := Nat.ne_of_gt hok.nContrib
  have hmemb : (d.beamArg n).nMemb ≠ 0 := Nat.ne_of_gt hok.nMemb
  have hr : ¬ (d.beamArg n).rshift > 44 := Nat.not_lt.mpr hok.rshift
  have ho : ¬ (d.beamArg n).oshift > 35 := Nat.not_lt.mpr hok.oshift
  simp only [beamPut_eq, hidle, hstill, hz.clu, hz.area, hz.shifts, hz.tab0, hz.tab1, hz.count, hz.nMemb, hcontrib, hmemb,
    hr, ho, hok.ring, hok.tables, hok.members, refused_isEmpty hadm, ne_eq, not_true_eq_false, decide_false, Bool.and_false,
    Bool.not_true, Bool.or_self, Bool.false_eq_true, if_false, if_true]

/-- The lines of the tables of a BEAM_SET request of which this package does not hold every word. -/
def Dev.beamFar (n : Nat) (d : Dev) : List (Nat × Nat) :=
  let x := d.beamArg n
  d.tabLines x.tab0 (2 * x.count) ++ d.tabLines x.tab1 (2 * x.count)

theorem beamSet_eq (d : Dev) (n : Nat) :
    d.beamSet n =
      let ls := if d.tabsBacked (d.beamArg n) then d.beamFar n else []
      if ls.isEmpty then d.beamPut n [] fun st d => d.reply n st [] else (d.hold n).tabAsk n ls := rfl

/-- With no table word in another package BEAM_SET goes on at once (R366). -/
theorem beamSet_local {d : Dev} {n : Nat} (h : d.beamFar n = []) :
    d.beamSet n = d.beamPut n [] fun st d => d.reply n st [] := by
  simp only [beamSet_eq, h, ite_self, List.isEmpty_nil, if_true]

/-- Table words that another package holds are read first, and the command waits for them (R366). -/
theorem beamSet_asks {d : Dev} {n : Nat} (hback : d.tabsBacked (d.beamArg n) = true) (h : d.beamFar n ≠ []) :
    d.beamSet n = (d.hold n).tabAsk n (d.beamFar n) := by
  simp only [beamSet_eq, hback, List.isEmpty_iff, h, if_true, if_false]

/-! ### TABLE_SWITCH -/

/-- A switch of a step that the input or beam has, at a slot that the step has not begun (R205, R206). -/
theorem tableSwitch_ahead {d : Dev} {n i k code slot : Nat} {beam : Bool} (hk : k = if beam then 0x10000 + i else i)
    (hname : d.NamesSource n beam i) (hcode : (d.arg n 2).toNat = code)
    (hhas : (if beam then code == 4 && (d.beam i).set
      else (code == 1 || code == 3) && (d.source k).coming.any (·.code == code)) = true)
    (hslot : (d.arg n 3).toNat * 2 ^ 36 + (d.arg n 4).toNat = slot) (hahead : d.begunSlots k code ≤ slot) :
    d.tableSwitch n =
      let e := ((d.modRun k code fun r => { r with
        switches := r.switches.filter (· < d.begunSlots k code) ++ [slot] }).noteCmd k {
          edge := d.epo.edges + 1, step := code, slot := slot, mbx := n, rsp := d.rspWords n stOK []
          switches := (d.stepRun k code).switches }).reply n stOK []
      if beam then (e.bankAsk i ((e.stepRun k 4).bank slot)).brgSettle else e := by
  have hnow : ¬ slot < d.begunSlots k code := Nat.not_lt.mpr hahead
  subst hk
  simp only [Dev.tableSwitch, hname.kind, hname.index, hname.reserved, hname.legal, hcode, hhas, hslot, hnow, ne_eq,
    not_true_eq_false, decide_false, Bool.not_true, Bool.or_self, Bool.false_eq_true, if_false]
  rfl

/-! ### The rows -/

theorem exec_beamSet (n : Mbx) (s : State) : exec (.beamSet n) s = execBeamSet n s := rfl

/-- Settles O31, row by row: each load passes its checks and is admitted. -/
theorem recipeCommands : Obligations.RecipeCommands := by
  unfold Obligations.RecipeCommands
  refine ⟨fun s n cnt beam i h hbeam hi hz hrange hcnt hpos hmax hidle hreason hadm => ?recipe,
    fun s n i na h hi hlt hna hrun hvals hhas hahead => ?model,
    fun s n h hidle hstill hz1 hz2 hz3 hz4 hz5 hz6 hz7 hcontrib hr ho hcount hmemb harea h0 h1 hring hback hlocal
      hmembers hadm => ?beamHere,
    fun s n h hback hfar => ?beamAsks,
    fun s n beam i code slot h hbeam hi hz hrange hcode hhas hslot hahead => ?switch⟩
  case recipe =>
    have hlen : (decide (5 ≤ 2 + 3 * cnt) && decide (2 + 3 * cnt ≤ 20) && (2 + 3 * cnt) % 3 == 2) = true := by
      simp only [Bool.and_eq_true, decide_eq_true_eq, beq_iff_eq]
      omega
    exact lift_served_of_eq h hlen
      (recipeSet_admitted rfl ⟨hbeam, hi, hz, hrange⟩ (served_hdrLen h) hcnt hpos hmax hidle hreason hadm)
  case model => exact lift_served_of_eq h rfl (modelLoad_runs (d := s.dev.taken) hi hlt hna hrun hvals hhas hahead)
  case beamHere =>
    have hz : s.dev.taken.BeamReserved n := ⟨hz1, hz2, hz3, hz4, hz5, hz6, hz7⟩
    have hok : s.dev.taken.BeamLegal n :=
      ⟨hcontrib, hr, ho, hmemb, beamBacked_of harea (Or.inr hring), tabsBacked_of hcount h0 h1 hback, hmembers⟩
    exact (exec_beamSet n s).trans (liftBb_served_brgSettle h rfl
      ((beamSet_local hlocal).trans (beamPut_admitted hidle hstill hz hok hadm _)))
  case beamAsks => exact (exec_beamSet n s).trans (liftBb_served_brgSettle h rfl (beamSet_asks hback hfar))
  case switch =>
    exact lift_served_of_eq h rfl
      (tableSwitch_ahead (d := s.dev.taken) rfl ⟨hbeam, hi, hz, hrange⟩ hcode hhas hslot hahead)

end Sys2Proof.Machine
end

section
/-! Cancelling tasks, fencing units and the load of the regions (R224 to R229, R232, R233): what each command does when its
checks pass, and each detection to a unit in service. -/

namespace Sys2Proof.Machine

/-- A source with a recipe, or a beam that BEAM_SET has defined, is one that a cancel may name (R224). -/
theorem cancelNamed_exists {d : Dev} {k i : Nat} {beam : Bool}
    (h : (d.source k).coming ≠ [] ∨ beam = true ∧ (d.beam i).set = true) :
    ((d.source k).coming.isEmpty && !(beam && (d.beam i).set)) = false := by
  obtain hrecipe | ⟨hbeam, hset⟩ := h
  · rw [List.isEmpty_eq_false_iff.mpr hrecipe, Bool.false_and]
  · rw [hbeam, hset]
    exact Bool.and_false _

/-- A cancel of a source that has tasks and of which no cancel is under way (R224, R225). -/
theorem taskCancel_accepted {d : Dev} {n i k g : Nat} {beam : Bool} (hk : k = if beam then 0x10000 + i else i)
    (hname : d.NamesSource n beam i) (hz : bitsOf (d.arg n 3) 35 26 = 0)
    (hg : (d.arg n 2).toNat + (d.arg n 3).toNat * 2 ^ 36 = g)
    (hsrc : (d.source k).coming ≠ [] ∨ beam = true ∧ (d.beam i).set = true) (hidle : (d.source k).cancelling = false) :
    d.taskCancel n =
      let e := ((each d.ties (Dev.cancelStolen k g) d).reply n stOK []).modSource k fun x => { x with
        cancelAt := some (Nat.min g (x.cancelAt.getD g)), cancelled := 0, cancelling := true, cancelEdge := d.epo.edges }
      forN 1024 (Dev.cancelDeque k g) (forN 64 (Dev.cancelGen k g) e) := by
  have hexists := cancelNamed_exists hsrc
  subst hk
  simp only [Dev.taskCancel, hname.kind, hname.index, hname.reserved, hname.legal, hz, hg, hexists, hidle, ne_eq,
    not_true_eq_false, decide_false, Bool.or_self, Bool.false_eq_true, if_false]

/-- An answer that is not `true`, or none, counts as `false`. -/
theorem getD_false_of_ne_some_true {o : Option Bool} (h : o ≠ some true) : o.getD false = false := by
  cases o with
  | none => rfl
  | some b => exact Bool.eq_false_iff.mpr fun hb => h (congrArg some hb)

/-- A test that is true of no descriptor that a unit runs finds none. -/
theorem noUnitRuns {units : SMap UnitS} {p : List Word → Bool}
    (h : (units.all fun x => (x.2.run.map p) != some true) = true) :
    (units.any fun x => (x.2.run.map p).getD false) = false := by
  rw [List.any_eq_false]
  intro x hx
  rw [getD_false_of_ne_some_true (bne_iff_ne.mp (List.all_eq_true.mp h x hx))]
  exact Bool.false_ne_true

/-- The end of a cancel: no unit runs a task that it covers (R224). -/
theorem cancelComplete_ends {d : Dev} {k g : Nat} (hon : (d.source k).cancelling = true)
    (hat : (d.source k).cancelAt = some g)
    (hnone : (d.tsk.units.all fun x => (x.2.run.map (hit k g)) != some true) = true) :
    d.cancelComplete k =
      (d.modSource k fun x => { x with cancelling := false }).event 0x414 0
        (mkW [(35, 28, stCANCELLED), (27, 0, Nat.min (d.source k).cancelled 0xFFFFFFF)]) := by
  have hruns := noUnitRuns hnone
  simp only [Dev.cancelComplete, hon, hat, Option.getD_some, hruns, Bool.not_true, Bool.or_self, Bool.false_eq_true, if_false]

/-- A fence by command of a unit that is not fenced (R227). -/
theorem unitFence_accepted {d : Dev} {n u : Nat} (hu : (d.arg n 1).toNat = u) (hlt : u < 1024) (hf : d.fenced u = false) :
    d.unitFence n = (d.fence u 4).reply n stOK [] := by
  have hin : ¬ u > 1023 := by omega
  simp only [Dev.unitFence, hu, hin, hf, decide_false, Bool.or_self, Bool.false_eq_true, if_false]

/-- An unfence of a fenced unit whose self-test passes (R229). -/
theorem unitUnfence_passes {d : Dev} {n u : Nat} (hu : (d.arg n 1).toNat = u) (hlt : u < 1024) (hf : d.fenced u = true) :
    d.unitUnfence n 0 =
      (((d.setF (F.tskUnit_FENCED u) 0).modUnit u fun x => { x with turned := d.epo.edges + 1 }).loadUpdate
        (u / 128)).reply n stOK [0] := by
  have hin : ¬ u > 1023 := by omega
  simp only [Dev.unitUnfence, hu, hin, hf, decide_false, Bool.not_true, Bool.or_self, Bool.false_eq_true, if_false, ne_eq,
    not_true_eq_false]

/-! ### The rows -/

theorem exec_cancelComplete (src : Src) (s : State) : exec (.cancelComplete src) s = execCancelComplete src s := rfl

theorem exec_taskWatchdogExpiry (u : Fin 1024) (s : State) :
    exec (.taskWatchdogExpiry u) s = execTaskWatchdogExpiry u s := rfl

/-- Settles O32, row by row: every check of the commands passes, and a detection meets a unit in service. -/
theorem cancelFenceLoad : Obligations.CancelFenceLoad := by
  unfold Obligations.CancelFenceLoad
  refine ⟨fun s n beam i g h hbeam hi hz hz3 hrange hg hsrc hidle => ?cancel,
    fun s src g hl hon hat hnone => ?cancelEnd, fun s n u h hu hlt hf => ?fence, fun s n u h hu hlt hf => ?unfence,
    fun s n h => ?load, fun s u hl _ => ?ecc, fun s u hl _ => ?residue, fun s u hl _ hrun => ?watchdog⟩
  case cancel =>
    exact lift_served_of_eq h rfl
      (taskCancel_accepted (d := s.dev.taken) rfl ⟨hbeam, hi, hz, hrange⟩ hz3 hg hsrc hidle)
  case cancelEnd => exact (exec_cancelComplete src s).trans (lift_live_eq hl (cancelComplete_ends hon hat hnone))
  case fence => exact lift_served_of_eq h rfl (unitFence_accepted (d := s.dev.taken) hu hlt hf)
  case unfence => exact lift_served_of_eq h rfl (unitUnfence_passes (d := s.dev.taken) hu hlt hf)
  case load => exact lift_served h (· == 0) rfl (Dev.taskLoadGet n)
  case ecc => exact lift_live hl (Dev.fence u 1)
  case residue => exact lift_live hl (Dev.fence u 2)
  case watchdog => exact (exec_taskWatchdogExpiry u s).trans (lift_live_eq hl (if_pos hrun))

end Sys2Proof.Machine
end

section
/-! The life of a task (R208 to R221, R230): what each of its rows does in the state that the row is for. -/

namespace Sys2Proof.Machine

/-! ### Made and pushed -/

/-- The task of the next block of a row, as it is created (R208, R210, R211). -/
def Dev.newTask (d : Dev) (k st c : Nat) : Task :=
  { step := st, beam := decide (0x10000 ≤ k), index := k % 0x10000, seq := 0, g := (d.rowRun k st c).ready
    outq := (d.outQueue k st).getD 0, ordered := (d.outQueue k st).isSome, due := (d.now + d.budget st) % 2 ^ 72
    home := if st = 4 then c else d.srcHome k, cost := d.costOf k st, first := (d.rowRun k st c).ready == 0
    orphan := false, rerun := 0 }

/-- A row that is ready is covered by no cancel (R224). -/
theorem rowCancelled_of_readyNow {d : Dev} {k st c : Nat} (h : d.readyNow k st c = true) : d.rowCancelled k st c = false := by
  rw [Dev.readyNow, Bool.and_eq_true, Bool.not_eq_true'] at h
  exact h.1

/-- The block of a ready row whose task is the next for its queue: the task joins those of its home's generator, which pushes
what it can (R208, R210, R214). -/
theorem taskReady_created {d : Dev} {k st c : Nat} (hready : d.readyNow k st c = true)
    (hfirst : ((d.outQueue k st).map (d.outrun k st)).getD false = false) :
    d.taskReady k st c =
      let t := d.newTask k st c
      let e := d.modRow k st c fun r => { r with ready := r.ready + 1 }
      (e.setGen t.home (e.genInsert t (e.gen t.home))).genPush t.home := by
  simp only [Dev.taskReady, rowCancelled_of_readyNow hready, hready, hfirst, Bool.false_and, Bool.not_true, Bool.or_self,
    Bool.false_eq_true, if_false]
  rfl

/-- A task that has its SEQ keeps it (R210). -/
theorem allot_made {d : Dev} {t : GenT} (h : t.made = true) : d.allot t = some (t, d) := by
  obtain ⟨desc, made⟩ := t
  subst h
  simp only [Dev.allot, Bool.true_or, if_true]

/-- The only task of a generator goes to the shortest deque, where there is room (R214). -/
theorem genPush_single {d : Dev} {c u : Nat} {t : GenT} (hgen : d.gen c = [t]) (hmade : t.made = true)
    (hleast : d.leastUnit c = some u) (hroom : (d.unit u).cnt < 32) :
    d.genPush c = (d.pushBottom u t.desc).setGen c [] := by
  simp only [Dev.genPush, hgen, Dev.genRun, allot_made hmade, hleast, Nat.not_le.mpr hroom, if_false,
    List.reverse_nil]

/-! ### Started -/

/-- A unit whose deque is not empty has no last entry to win back (R220). -/
theorem ownerWins_of_cnt_pos {d : Dev} {u : Nat} (h : 0 < (d.unit u).cnt) : d.ownerWins u = d := by
  simp only [Dev.ownerWins, Nat.ne_of_gt h, ne_eq, not_false_eq_true, decide_true, Bool.or_true, if_true]

/-- An idle unit in service takes the top task of its deque (R215). -/
theorem taskStart_top {d : Dev} {u : Nat} (hin : d.inService u = true) (hrun : (d.unit u).run = none)
    (hcnt : 0 < (d.unit u).cnt) (hshadow : d.shadowBusy u = false) :
    d.taskStart u = (d.takeTop u).2.begin u (d.takeTop u).1 false := by
  simp only [Dev.taskStart, ownerWins_of_cnt_pos hcnt, hin, hrun, hshadow, Nat.ne_of_gt hcnt, Option.isSome_none,
    Bool.not_true, decide_false, Bool.or_self, Bool.false_eq_true, if_false]

/-! ### Stolen -/

/-- The units of the cluster of unit `u`, in ascending order. -/
def ownUnits (u : Nat) : List Nat := (List.range 16).map (u / 16 * 16 + ·)

/-- The units of the region of unit `u` outside its cluster. -/
def farUnits (u : Nat) : List Nat := ((List.range 128).map (u / 128 * 128 + ·)).filter fun v => v / 16 ≠ u / 16

theorem cluster_of_mem_ownUnits {u v : Nat} (h : v ∈ ownUnits u) : v / 16 = u / 16 := by
  obtain ⟨i, hi, rfl⟩ := List.mem_map.mp h
  have := List.mem_range.mp hi
  omega

/-- A search looks at units of the package alone. -/
theorem lt_of_mem_searched {u v : Nat} (hu : u < 1024) (h : v ∈ ownUnits u ++ farUnits u) : v < 1024 := by
  obtain hown | hfar := List.mem_append.mp h
  · have := cluster_of_mem_ownUnits hown
    omega
  · obtain ⟨i, hi, rfl⟩ := List.mem_map.mp (List.mem_filter.mp hfar).1
    have := List.mem_range.mp hi
    omega

theorem mem_of_mem_victims {d : Dev} {us : List Nat} {v : Nat} (h : v ∈ d.victims us) : v ∈ us := by
  obtain ⟨_, _, hv⟩ := List.mem_flatMap.mp (List.mem_of_mem_take h)
  exact (List.mem_filter.mp (List.mem_filter.mp hv).1).1

/-- What is taken is taken from one of the victims tried (R216). -/
theorem mem_of_tryVictims {u v : Nat} {ws : List Word} {vs : List Nat} {d : Dev}
    (h : (d.tryVictims u vs).1 = some (v, ws)) : v ∈ vs := by
  induction vs generalizing d with
  | nil => exact absurd h nofun
  | cons x xs ih =>
    rw [Dev.tryVictims] at h
    split at h
    · obtain ⟨rfl, -⟩ := Prod.mk.inj (Option.some.inj h)
      exact List.mem_cons_self
    · exact List.mem_cons_of_mem x (ih h)

/-- No unit with tasks has been fenced before this edge: the first step of a search finds none (R216, R227). -/
theorem noOrphans {d : Dev} {u : Nat} (hu : u < 1024)
    (h : ((List.range 1024).all fun v => (d.unit v).cnt == 0 || !d.fenced v || d.turnedNow v) = true) :
    ((ownUnits u ++ farUnits u).find? fun v => d.fenced v && !d.turnedNow v && (d.unit v).cnt != 0) = none := by
  rw [List.find?_eq_none]
  intro v hv
  have hnot := List.all_eq_true.mp h v (List.mem_range.mpr (lt_of_mem_searched hu hv))
  simp only [Bool.or_eq_true, beq_iff_eq, Bool.not_eq_true', Bool.and_eq_true, bne_iff_ne] at hnot ⊢
  rintro ⟨⟨hfenced, hbefore⟩, hcnt⟩
  obtain (hempty | hfree) | hnow := hnot
  · exact hcnt hempty
  · exact Bool.false_ne_true (hfree.symm.trans hfenced)
  · exact Bool.false_ne_true (hbefore.symm.trans hnow)

/-- A search with no orphan to take takes the bottom task of a victim of its cluster (R216, step 2). -/
theorem stealPick_own {d : Dev} {u v : Nat} {ws : List Word}
    (horphan : ((ownUnits u ++ farUnits u).find? fun v => d.fenced v && !d.turnedNow v && (d.unit v).cnt != 0) = none)
    (htry : (d.tryVictims u (d.victims (ownUnits u))).1 = some (v, ws)) :
    d.stealPick u = (some (v, false, ws, ws), (d.tryVictims u (d.victims (ownUnits u))).2) := by
  have hpair : d.tryVictims u (d.victims (ownUnits u)) = (some (v, ws), (d.tryVictims u (d.victims (ownUnits u))).2) :=
    Prod.ext htry rfl
  simp only [ownUnits, farUnits] at horphan hpair ⊢
  simp only [Dev.stealPick, horphan]
  rw [hpair]

/-- The block after unit `u` has taken `ws` from unit `v` of its cluster, the steal counted and noted (R216, R220). -/
def Dev.stoleNear (u v : Nat) (ws : List Word) (d : Dev) : Dev :=
  let fl := F.tskRgnSteals_CLUSTER (u / 128)
  let e := d.inc fl 1
  (e.modUnit u fun x => { x with steal := some {
    edge := d.epo.edges + 1, victim := v, top := false, ws := ws, counted := d.f fl != e.f fl } }).begin u ws true

/-- An idle unit with an empty deque, with no orphan to take and no thief to come before, steals in its cluster (R216). -/
theorem stealSearch_near {d : Dev} {u v : Nat} {ws : List Word} (hu : u < 1024) (hin : d.inService u = true)
    (hrun : (d.unit u).run = none) (hcnt : (d.unit u).cnt = 0) (hshadow : d.shadowBusy u = false)
    (horphan : ((List.range 1024).all fun v => (d.unit v).cnt == 0 || !d.fenced v || d.turnedNow v) = true)
    (hthief : d.beatenThief u = none) (htry : (d.tryVictims u (d.victims (ownUnits u))).1 = some (v, ws)) :
    d.stealSearch u = (d.tryVictims u (d.victims (ownUnits u))).2.stoleNear u v ws := by
  have hnear : stealsFld u v = F.tskRgnSteals_CLUSTER (u / 128) :=
    if_pos (cluster_of_mem_ownUnits (mem_of_mem_victims (mem_of_tryVictims htry)))
  simp only [Dev.stealSearch, hin, hrun, hcnt, hshadow, hthief, Option.isSome_none, Bool.not_true, ne_eq, not_true_eq_false,
    decide_false, Bool.or_self, Bool.false_eq_true, if_false]
  simp only [Dev.search, stealPick_own (noOrphans hu horphan) htry, hnear, Dev.stoleNear]

/-- A meaning that answers next is noted by what it changed. -/
theorem tied_next {kind idx : Nat} {has : Dev → Dev → Bool} {m : State → R} {s t : State} (h : m s = .next t) :
    tied kind idx has m s = .next { t with dev := t.dev.note kind idx (has s.dev t.dev) s.dev } := by
  rw [tied, h]

/-! ### Completed and released -/

/-- The block after task `t` of unit `u` has given `out` for its queue and `sat` saturated values (R181, R209, R221, R222). -/
def Dev.taskFinish (u : Nat) (t : Task) (out : List OutW) (sat : Nat) (d : Dev) : Dev :=
  let e := (d.satCount t.home (if t.step = 7 then 4 else t.step) sat).unitFree u
  let e := if t.ordered then e.addDone t.home t.outq t.seq out else e
  if later 72 e.now t.due then e.incEv (F.tskRgnCnt_LATE (t.home / 8)) 1 0x410 (t.home / 8) toW else e

/-- A task of the next block of its row gives its result (R209). -/
theorem complete_next {d e : Dev} {u sat : Nat} {t : Task} {out : List OutW} (hdone : (d.taskRun t).done = t.g)
    (hready : t.g < (d.taskRun t).ready) (hres : d.taskResult u t = some (out, sat, e)) :
    d.complete u t = e.taskFinish u t out sat := by
  simp only [Dev.complete, hdone, Nat.not_le.mpr hready, hres, ne_eq, not_true_eq_false, decide_false, Bool.or_self,
    Bool.false_eq_true, if_false, Dev.taskFinish]

/-- A unit whose task, as far as it goes now, has done its reads and writes completes it (R209). -/
theorem taskComplete_done {d e : Dev} {u : Nat} {ws : List Word} (hgo : d.unitGo u 8 = e) (hrun : (e.unit u).run = some ws)
    (hwait : (e.unit u).wait = 0) (hsent : (e.unit u).sent = 5) : d.taskComplete u = e.complete u (taskOf ws) := by
  have hends : (decide ((e.unit u).wait = 0) && decide ((e.unit u).sent = 5)) = true := by
    rw [hwait, hsent]
    rfl
  unfold Dev.taskComplete
  simp only [hgo, hrun, hends, if_true]

/-- The done task whose SEQ is the next of its queue is released; the others of the queue wait (R221). -/
theorem taskRelease_next {d : Dev} {c q seq : Nat} {ws : List OutW} {rest : List (Nat × List OutW)}
    (hnext : d.f (F.tskQseq_NEXT_REL c q) = seq) (hdone : mget d.tsk.done (c * 128 + q) = (seq, ws) :: rest)
    (hothers : rest.all (fun x => x.1 != seq) = true) :
    d.taskRelease c q =
      (({ d with tsk := { d.tsk with done := mset d.tsk.done (c * 128 + q) rest } } : Dev).releaseWords c q ws).setF
        (F.tskQseq_NEXT_REL c q) (seq + 1) := by
  have hrest : rest.filter (fun x => x.1 != seq) = rest := List.filter_eq_self.mpr (List.all_eq_true.mp hothers)
  simp only [Dev.taskRelease, hnext, hdone, List.find?_cons_of_pos, List.filter_cons, beq_self_eq_true, bne_self_eq_false,
    Bool.false_eq_true, if_false, hrest]

/-! ### The beam wait -/

/-- A COUNT that stands here short of N_CONTRIB does not fill the block, unless the wait has expired (R208, R230). -/
theorem countFull_short {d : Dev} {b g : Nat} {w : Word} (hexp : (d.beam b).expired.contains g = false)
    (hpeek : d.rsPeek ((d.beam b).ring g) = some w) (hshort : w.toNat ≠ (d.beam b).nContrib) : d.countFull b g = false := by
  have hcount : d.countOf b g = some w.toNat := by simp only [Dev.countOf, hpeek]
  rw [Dev.countFull, hexp, hcount, Bool.false_or, beq_eq_false_iff_ne]
  exact fun h => hshort (Option.some.inj h)

/-- The beam wait ends for the next block of a beam collected here, and the block is not full (R230). -/
structure Dev.WaitEnds (d : Dev) (b g : Nat) : Prop where
  set : (d.beam b).set = true
  collect : (d.beam b).collect = true
  ready : (d.stepRun (0x10000 + b) 4).ready = g
  done : (d.stepRun (0x10000 + b) 4).done = g
  short : d.countFull b g = false
  due : notEarlier 72 d.now ((d.beamAt b (g * 1024 + 1023) + d.budget 7 + epOf (d.f F.tskCfg_BEAM_WAIT) 1000000) % 2 ^ 72) =
    true

/-- With its COUNT here, the wait has expired (R230). -/
theorem beamWait_expires {d : Dev} {b g : Nat} {w : Word} (h : d.WaitEnds b g)
    (hpeek : d.rsPeek ((d.beam b).ring g) = some w) : d.beamWait b = d.beamExpire b g w.toNat := by
  simp only [Dev.beamWait, h.set, h.collect, h.ready, h.done, h.short, h.due, hpeek, Bool.not_true, ne_eq, not_true_eq_false,
    decide_false, Bool.or_self, Bool.false_eq_true, if_false]

/-- A COUNT in another package is read first (R199, R230). -/
theorem beamWait_asks {d : Dev} {b g : Nat} (h : d.WaitEnds b g) (hpeek : d.rsPeek ((d.beam b).ring g) = none) :
    d.beamWait b =
      d.cohSend (.countAt b g) (d.beam b).clu { code := 3, addr := (d.beam b).ring g, mask := 1 } := by
  simp only [Dev.beamWait, h.set, h.collect, h.ready, h.done, h.short, h.due, hpeek, Bool.not_true, ne_eq, not_true_eq_false,
    decide_false, Bool.or_self, Bool.false_eq_true, if_false]

/-- A changed beam, read. -/
theorem modBeam_beam_same (d : Dev) (b : Nat) (f : Beam → Beam) : (d.modBeam b f).beam b = f (d.beam b) := by
  simp only [Dev.modBeam, Dev.beam, mmod, mget_mset_same]

/-- The block that expires is noted, and the event names the region of the collecting cluster (R230). -/
theorem beamExpire_eq (d : Dev) (b g cnt : Nat) :
    d.beamExpire b g cnt = (d.modBeam b fun x => { x with expired := x.expired ++ [g] }).event 0x413
      ((d.beam b).clu / 8) (mkW [(31, 18, b), (11, 0, cnt)]) := by
  simp only [Dev.beamExpire, modBeam_beam_same]

/-! ### The rows -/

theorem exec_taskReady (src : Src) (st : Fin 8) (c : Fin 64) (s : State) :
    exec (.taskReady src st c) s = execTaskReady src st c s := rfl

theorem exec_generatorPush (c : Fin 64) (s : State) : exec (.generatorPush c) s = execGeneratorPush c s := rfl

theorem exec_taskStart (u : Fin 1024) (s : State) : exec (.taskStart u) s = execTaskStart u s := rfl

theorem exec_stealSearch (u : Fin 1024) (s : State) : exec (.stealSearch u) s = execStealSearch u s := rfl

theorem exec_taskComplete (u : Fin 1024) (s : State) : exec (.taskComplete u) s = execTaskComplete u s := rfl

theorem exec_taskRelease (c : Fin 64) (q : Fin 128) (s : State) : exec (.taskRelease c q) s = execTaskRelease c q s := rfl

theorem exec_beamWaitExpiry (b : Fin 16384) (s : State) : exec (.beamWaitExpiry b) s = execBeamWaitExpiry b s := rfl

/-- Settles O33, row by row: the source, the unit, the queue or the beam is in the state of its row. -/
theorem taskLife : Obligations.TaskLife := by
  unfold Obligations.TaskLife
  refine ⟨fun s src st c hl hready hfirst => ?ready, fun s c t u hl hgen hmade hleast hroom => ?push,
    fun s u hl hin hrun hcnt hshadow => ?start,
    fun s u v ws hl hin hrun hcnt hshadow horphan hthief htry => ?steal,
    fun s u ws hl hrun hwait hsent hdone hready hsome => ?complete, fun s c q seq ws rest hl hnext hdone hothers => ?release,
    fun s b w hl hset hcoll hdone hexp hpeek hshort hdue => ?expiry,
    fun s b hl hset hcoll hdone hfull hpeek hdue => ?asks⟩
  case ready =>
    have hpartial : (st = 4) = (st.val = 4) := propext Fin.ext_iff
    refine (exec_taskReady src st c s).trans (liftBb_live_eq hl (congrArg Dev.brgSettle ?_))
    refine (taskReady_created hready hfirst).trans ?_
    simp only [hpartial]
    rfl
  case push => exact (exec_generatorPush c s).trans (lift_live_eq hl (genPush_single hgen hmade hleast hroom))
  case start => exact (exec_taskStart u s).trans (liftBb_live_eq hl (taskStart_top hin hrun hcnt hshadow))
  case steal =>
    have hstep : liftBb (Dev.stealSearch u) s = .next (s.afterBb fun d =>
        (d.tryVictims u (d.victims (ownUnits u))).2.stoleNear u v ws) :=
      liftBb_live_eq hl (stealSearch_near u.isLt hin hrun hcnt hshadow horphan hthief htry)
    refine (exec_stealSearch u s).trans ((tied_next hstep).trans ?_)
    simp only [hrun, Option.isNone_none, Bool.true_and]
    rfl
  case complete =>
    obtain ⟨⟨out, sat, e⟩, hres⟩ := Option.isSome_iff_exists.mp hsome
    refine (exec_taskComplete u s).trans (liftBb_live_eq hl ?_)
    rw [hres]
    exact (taskComplete_done rfl hrun hwait hsent).trans (complete_next hdone hready hres)
  case release => exact (exec_taskRelease c q s).trans (lift_live_eq hl (taskRelease_next hnext hdone hothers))
  case expiry =>
    have hends : s.dev.WaitEnds b _ := ⟨hset, hcoll, rfl, hdone, countFull_short hexp hpeek hshort, hdue⟩
    exact (exec_beamWaitExpiry b s).trans
      (liftBb_live_eq hl (congrArg Dev.brgSettle ((beamWait_expires hends hpeek).trans (beamExpire_eq _ _ _ _))))
  case asks =>
    exact (exec_beamWaitExpiry b s).trans
      (liftBb_live_eq hl (congrArg Dev.brgSettle (beamWait_asks ⟨hset, hcoll, rfl, hdone, hfull, hdue⟩ hpeek)))

end Sys2Proof.Machine
end

section
/-! Capture channels and trigger engines under the updates of the block (R236, R238, R241): what the taking of a request, a change
of a channel, of an engine, of STATE and of DMK_STAT leave. -/

namespace Sys2Proof.Machine

/-- The word at a local address depends on registers, errors, memory and marks alone. -/
theorem rd_congr {d e : Dev} (h1 : d.regs = e.regs) (h2 : d.err = e.err) (h3 : d.mem = e.mem) (h4 : d.uncorr = e.uncorr)
    (a : Nat) : d.rd a = e.rd a := by
  rw [Dev.rd, Dev.rd, rdP_congr h1 h2 h3 h4]

/-- Outside the HBM windows it depends on memory alone. -/
theorem rd_of_not_hbm {d : Dev} {a : Nat} (h : ∀ s, winOf a ≠ .hbm s) : d.rd a = mapGet (fun _ => 0) d.mem a := by
  unfold Dev.rd Dev.rdP
  split
  · next s hs => exact absurd hs (h s)
  · rfl

/-! ### The taking of a request -/

@[simp] theorem taken_capW (d : Dev) (ch i : Nat) : d.taken.capW ch i = d.capW ch i := taken_rd d _
@[simp] theorem taken_capEn (d : Dev) (ch : Nat) : d.taken.capEn ch = d.capEn ch := by rw [Dev.capEn, Dev.capEn, taken_capW]
@[simp] theorem taken_capLen (d : Dev) (ch : Nat) : d.taken.capLen ch = d.capLen ch := by
  rw [Dev.capLen, Dev.capLen, taken_capW]
@[simp] theorem taken_capBase (d : Dev) (ch : Nat) : d.taken.capBase ch = d.capBase ch := by
  rw [Dev.capBase, Dev.capBase, taken_capW]
@[simp] theorem taken_capPer (d : Dev) (ch : Nat) : d.taken.capPer ch = d.capPer ch := by
  rw [Dev.capPer, Dev.capPer, taken_capW, taken_capW]
@[simp] theorem taken_capWords (d : Dev) (ch : Nat) : d.taken.capWords ch = d.capWords ch := by
  rw [Dev.capWords, Dev.capWords, taken_capLen]
@[simp] theorem taken_trgState (d : Dev) (t : Nat) : d.taken.trgState t = d.trgState t := rfl
@[simp] theorem taken_trgNow (d : Dev) (t : Nat) : d.taken.trgNow t = d.trgNow t := rfl

@[simp] theorem taken_meetsChan (d : Dev) (a len : Nat) (skip : Option Nat) :
    d.taken.meetsChan a len skip = d.meetsChan a len skip := by
  simp only [Dev.meetsChan, taken_capEn, taken_capBase, taken_capWords]

@[simp] theorem taken_armReason (d : Dev) (t : Nat) : d.taken.armReason t = d.armReason t := by
  simp only [Dev.armReason, taken_capEn, taken_capPer, taken_capLen, taken_meetsChan, taken_rd]
  rfl

/-! ### A channel changed -/

@[simp] theorem chan_modChan_same (d : Dev) (ch : Nat) (f : CapChan → CapChan) : (d.modChan ch f).chan ch = f (d.chan ch) := by
  simp only [Dev.modChan, Dev.chan, mmod, mget_mset_same]

@[simp] theorem modChan_capW (d : Dev) (ch c i : Nat) (f : CapChan → CapChan) : (d.modChan ch f).capW c i = d.capW c i :=
  rd_congr rfl rfl rfl rfl _

/-! ### An engine changed -/

@[simp] theorem trgShow_cap (n : Nat) (d : Dev) : (d.trgShow n).cap = d.cap := by
  unfold Dev.trgShow
  rw [setF_cap, setF_cap]

@[simp] theorem trg_modTrg_same (d : Dev) (n : Nat) (f : Trg → Trg) : (d.modTrg n f).trg n = f (d.trg n) := by
  simp only [Dev.modTrg, Dev.trg, trgShow_cap, mmod, mget_mset_same]

/-- STATE lies beside the fields of STAT that show the engine. -/
@[simp] theorem modTrg_trgState (d : Dev) (n : Nat) (f : Trg → Trg) : (d.modTrg n f).trgState n = d.trgState n := by
  simp only [Dev.modTrg, Dev.trgShow, Dev.trgState]
  rw [f_setF_apart, f_setF_apart]
  · rfl
  all_goals simp

@[simp] theorem trgGo_cap (d : Dev) (n st : Nat) : (d.trgGo n st).cap = d.cap := by
  unfold Dev.trgGo
  split
  · rfl
  · rw [event_cap, setF_cap]

@[simp] theorem trgGo_trg (d : Dev) (n st k : Nat) : (d.trgGo n st).trg k = d.trg k := by
  rw [Dev.trg, Dev.trg, trgGo_cap]

/-- Another STATE is set and reported (R241). -/
theorem trgGo_of_ne {d : Dev} {n st : Nat} (h : d.trgState n ≠ st) :
    d.trgGo n st = (d.setF (F.trgStat_STATE n) st).event 0x500 n (toW st) := if_neg h

/-! ### The Damask engine shown -/

@[simp] theorem dmkShow_mem (d : Dev) : d.dmkShow.mem = d.mem := by rw [Dev.dmkShow, setF_mem, setF_mem]
@[simp] theorem dmkShow_cap (d : Dev) : d.dmkShow.cap = d.cap := by rw [Dev.dmkShow, setF_cap, setF_cap]

/-- A field below another that is set stays, in the same register or not. -/
theorem f_setF_below (d : Dev) (fl g : Fld) (v : Nat) (h : fl.lo ≤ fl.hi) (h36 : fl.hi < 36) (hg : g.lo ≤ g.hi)
    (hd : g.hi < fl.lo) : (d.setF fl v).f g = d.f g := by
  by_cases ho : g.off = fl.off
  · exact f_setF_apart d fl g v h h36 hg ho (Or.inr hd)
  · exact f_setF_reg d fl g v ho

/-- Fields below QDEPTH and BUSY stay. -/
theorem dmkShow_f_low (d : Dev) {fl : Fld} (h : fl.lo ≤ fl.hi) (hlow : fl.hi < 30) : d.dmkShow.f fl = d.f fl := by
  unfold Dev.dmkShow
  rw [f_setF_below _ F.dmkStat_BUSY _ _ (by decide) (by decide) h hlow,
    f_setF_below _ F.dmkStat_QDEPTH _ _ (by decide) (by decide) h (Nat.lt_succ_of_lt hlow)]

end Sys2Proof.Machine
end

section
/-! The capture commands (R236, R237, R241, R242, R244, R250, R253, R260) in the case that their operands and the state settle. -/

namespace Sys2Proof.Machine

/-! ### CAP_CHAN_SET -/

/-- C0 to C3 as a channel may have them (R237): lengths in range, reserved bits zero, a period, and a ring that meets nothing. -/
structure Dev.ChanLegal (d : Dev) (ch : Nat) (c : Nat → Word) : Prop where
  least : 12 ≤ bitsOf (c 0) 34 30
  most : bitsOf (c 0) 34 30 ≤ 30
  packet : bitsOf (c 0) 29 26 ≤ 10
  reserved0 : bitsOf (c 0) 25 20 = 0
  period : (c 2).toNat ≠ 0 ∨ (c 3).toNat ≠ 0
  aligned : bitsOf (c 1) 33 0 % 16 = 0
  reserved1 : bitsOf (c 1) 35 34 = 0
  range : hbmRange (bitsOf (c 1) 33 0) (2 ^ bitsOf (c 0) 34 30 + 2 ^ bitsOf (c 0) 34 30 / 512) = true
  chans : d.meetsChan (bitsOf (c 1) 33 0) (2 ^ bitsOf (c 0) 34 30 + 2 ^ bitsOf (c 0) 34 30 / 512) (some ch) = false
  recs : d.meetsRec (bitsOf (c 1) 33 0) (2 ^ bitsOf (c 0) 34 30 + 2 ^ bitsOf (c 0) 34 30 / 512) none = false
  backlog : d.meetsBkl (bitsOf (c 1) 33 0) (2 ^ bitsOf (c 0) 34 30 + 2 ^ bitsOf (c 0) 34 30 / 512) = false

/-- The channel may be set: disabled, or with no word changed but for EN (R237). -/
def Dev.ChanKept (d : Dev) (ch : Nat) (c : Nat → Word) : Prop :=
  d.capEn ch = false ∨ putBits (c 0) 35 35 0 = putBits (d.capW ch 0) 35 35 0 ∧ c 1 = d.capW ch 1 ∧ c 2 = d.capW ch 2 ∧
    c 3 = d.capW ch 3

/-- No engine out of IDLE names the channel. -/
theorem unnamed_of_all {d : Dev} {ch : Nat}
    (h : ((List.range 16).all fun t => d.trgState t == 0 || !d.engineNames t ch) = true) :
    ((List.range 16).any fun t => decide (d.trgState t ≠ 0) && d.engineNames t ch) = false := by
  rw [List.any_eq_false]
  intro t ht
  have := List.all_eq_true.mp h t ht
  simp only [Bool.or_eq_true, beq_iff_eq, Bool.not_eq_true'] at this
  obtain hidle | hother := this
  · simp [hidle]
  · simp [hother]

/-- A legal setting of such a channel is stored, and the counts of an enabled one start anew. -/
theorem capChanSet_legal {d : Dev} {n ch : Nat} (hch : (d.arg n 1).toNat = ch) (hle : ch ≤ 4095)
    (hkept : d.ChanKept ch fun i => d.arg n (2 + i))
    (hfree : ((List.range 16).all fun t => d.trgState t == 0 || !d.engineNames t ch) = true)
    (hlegal : d.ChanLegal ch fun i => d.arg n (2 + i)) :
    d.capChanSet n =
      let e := forN 4 (fun i d' => d'.store (capAddr ch i) (d.arg n (2 + i))) d
      (if bitOf (d.arg n (2 + 0)) 35 then (forN 3 (fun i e => e.store (capAddr ch (4 + i)) 0) e).modChan ch fun _ => default
        else e).reply n stOK [] := by
  have hsame : (d.capEn ch && (decide (putBits (d.arg n (2 + 0)) 35 35 0 ≠ putBits (d.capW ch 0) 35 35 0) ||
      (List.range 4).any fun i => decide (i > 0) && d.arg n (2 + i) != d.capW ch i)) = false := by
    obtain hoff | ⟨e0, e1, e2, e3⟩ := hkept
    · rw [hoff, Bool.false_and]
    · simp [List.range_succ, e0, e1, e2, e3]
  have hzero : (decide ((d.arg n (2 + 2)).toNat = 0) && decide ((d.arg n (2 + 3)).toNat = 0)) = false := by
    simpa only [Bool.and_eq_false_iff, decide_eq_false_iff_not] using hlegal.period
  subst hch
  simp only [Dev.capChanSet, unnamed_of_all hfree, hsame, hzero, hlegal.reserved0, hlegal.aligned, hlegal.reserved1,
    hlegal.range, hlegal.chans, hlegal.recs, hlegal.backlog, Nat.not_lt.mpr hle, Nat.not_lt.mpr hlegal.least,
    Nat.not_lt.mpr hlegal.most, Nat.not_lt.mpr hlegal.packet, gt_iff_lt, ne_eq, not_true_eq_false, decide_false,
    Bool.not_true, Bool.or_self, Bool.false_eq_true, if_false]

/-! ### CAP_ARM -/

/-- An engine in IDLE or STOPPED that passes every check is armed anew (R241, R253). -/
theorem capArm_passes {d : Dev} {n t : Nat} (ht : bitsOf (d.arg n 1) 3 0 = t) (hz : bitsOf (d.arg n 1) 35 5 = 0)
    (hst : d.trgState t = 0 ∨ d.trgState t = 4) (hok : d.armReason t = 0) :
    d.capArm n =
      (((d.setF (F.trgStat_CONT t) (bitsOf (d.arg n 1) 4 4)).modTrg t fun x => { x with
        ofs := 0, cut := none, disarm := false, stop := false }).trgGo t 1).reply n stOK [0] := by
  subst ht
  obtain hst | hst := hst <;> simp [Dev.capArm, hz, hst, hok]

/-- One in ARMED takes CONT only. -/
theorem capArm_armed {d : Dev} {n t : Nat} (ht : bitsOf (d.arg n 1) 3 0 = t) (hz : bitsOf (d.arg n 1) 35 5 = 0)
    (hst : d.trgState t = 1) :
    d.capArm n = (d.setF (F.trgStat_CONT t) (bitsOf (d.arg n 1) 4 4)).reply n stOK [0] := by
  subst ht
  simp [Dev.capArm, hz, hst]

/-! ### CAP_DISARM -/

/-- An engine that leaves ARMED: to STOPPED where a mask test has asked for it, else to IDLE (R241, R262). -/
def Dev.leaveArmed (t : Nat) (d : Dev) : Dev :=
  if (d.trg t).stop then (d.modTrg t fun x => { x with stop := false }).trgGo t 4 else d.trgGo t 0

theorem leaveArmed_recs (d : Dev) (t : Nat) : ((d.leaveArmed t).trg t).recs = (d.trg t).recs := by
  unfold Dev.leaveArmed
  split
  · rw [trgGo_trg, trg_modTrg_same]
  · rw [trgGo_trg]

theorem leaveArmed_unasked {d : Dev} {t : Nat} (h : (d.trg t).stop = false) : d.leaveArmed t = d.trgGo t 0 :=
  if_neg (Bool.eq_false_iff.mp h)

theorem disarmTrg_armed {d : Dev} {t : Nat} (hst : d.trgState t = 1) (hnow : d.trgNow t = []) :
    d.disarmTrg t = d.leaveArmed t := by
  simp only [Dev.disarmTrg, hnow, List.isEmpty_nil, if_true, hst, Dev.leaveArmed]

theorem disarmTrg_later {d : Dev} {t : Nat} (hst : d.trgState t = 3 ∨ d.trgState t = 2) (hnow : d.trgNow t = []) :
    d.disarmTrg t = d.modTrg t fun x => { x with disarm := true } := by
  obtain hst | hst := hst <;> simp only [Dev.disarmTrg, hnow, List.isEmpty_nil, if_true, hst]

theorem disarmTrg_still {d : Dev} {t : Nat} (hst : d.trgState t = 0 ∨ d.trgState t = 4) (hnow : d.trgNow t = []) :
    d.disarmTrg t = d := by
  obtain hst | hst := hst <;> simp only [Dev.disarmTrg, hnow, List.isEmpty_nil, if_true, hst]

/-- Triggers of the edge are taken back first, and an engine then in ARMED leaves it (R250). -/
theorem disarmTrg_untriggered {d : Dev} {t : Nat} (hnow : d.trgNow t ≠ []) (hst : (d.untrigger t).trgState t = 1) :
    d.disarmTrg t = (d.untrigger t).leaveArmed t := by
  have hsome : (d.trgNow t).isEmpty = false := List.isEmpty_eq_false_iff.mpr hnow
  simp only [Dev.disarmTrg, hsome, Bool.false_eq_true, if_false, hst, Dev.leaveArmed]

/-- The answer counts the records, which the disarming leaves. -/
theorem capDisarm_eq {d e : Dev} {n t k : Nat} (ht : (d.arg n 1).toNat = t) (hle : t ≤ 15) (he : d.disarmTrg t = e)
    (hk : (e.trg t).recs.length = k) : d.capDisarm n = e.reply n stOK [toW (Nat.min 255 k)] := by
  subst ht hk
  simp only [Dev.capDisarm, gt_iff_lt, Nat.not_lt.mpr hle, if_false, he]

/-! ### CAP_TRIGGER -/

/-- The masked engines with a COMMAND condition that are neither IDLE nor STOPPED trigger (R242, R244). -/
theorem capTrigger_masked {d : Dev} {n mask e : Nat} (hmask : (d.arg n 1).toNat = mask) (hne : mask ≠ 0)
    (hle : mask ≤ 0xFFFF) (he : (d.arg n 2).toNat * 2 ^ 36 + (d.arg n 3).toNat = e) :
    d.capTrigger n =
      let took := (List.range 16).filter fun t =>
        nbit mask t && 1 ≤ d.trgState t && d.trgState t ≤ 3 && d.epochMask t 8 0 ≠ 0
      (each took (fun t d' => d'.epochFire t (d'.epochMask t 8 0) (if e = 0 then d.now else e)) d).reply n stOK
        [toW (took.foldl (fun m t => m + 2 ^ t) 0)] := by
  subst hmask he
  simp only [Dev.capTrigger, hne, Nat.not_lt.mpr hle, decide_false, Bool.or_self, Bool.false_eq_true, if_false]

/-! ### DMK_MASK_LOAD -/

/-- No engine out of IDLE tests against the mask. -/
theorem maskUnused_of_all {d : Dev} {m : Nat}
    (h : ((List.range 16).all fun t => d.trgState t == 0 || !d.fb (F.trgCfg_KIND t) || d.f (F.trgCfg_MASK t) != m) = true) :
    ((List.range 16).any fun t => decide (d.trgState t ≠ 0) && d.fb (F.trgCfg_KIND t) && decide (d.f (F.trgCfg_MASK t) = m)) =
      false := by
  rw [List.any_eq_false]
  intro t ht
  have := List.all_eq_true.mp h t ht
  simp only [Bool.or_eq_true, beq_iff_eq, Bool.not_eq_true', bne_iff_ne] at this
  obtain (hidle | hkind) | hother := this
  · simp [hidle]
  · simp [hkind]
  · simp [hother]

/-- A legal header, the start and `k` segments of an unused mask are stored (R260). -/
theorem dmkMaskLoad_unused {d : Dev} {n k s0 m : Nat} {m0 : Word} (hlen : hdrLen (d.arg n 0) = 3 + 3 * k)
    (hs0 : bitsOf (d.arg n 1) 23 12 = s0) (hm : bitsOf (d.arg n 1) 2 0 = m) (hm0 : d.arg n 2 = m0)
    (hz1 : bitsOf (d.arg n 1) 35 24 = 0) (hz2 : bitsOf (d.arg n 1) 11 3 = 0) (hfit : s0 + k ≤ bitsOf m0 11 0)
    (hsome : bitsOf m0 11 0 ≠ 0) (hmax : bitsOf m0 11 0 ≤ 2730) (hfield : bitsOf m0 35 33 ≤ 5) (hz3 : bitsOf m0 31 12 = 0)
    (hunused : ((List.range 16).all fun t => d.trgState t == 0 || !d.fb (F.trgCfg_KIND t) ||
      d.f (F.trgCfg_MASK t) != m) = true) :
    d.dmkMaskLoad n =
      (forN (3 * k) (fun i d => d.store (dmkAddr m (2 + 3 * s0 + i)) (d.arg n (4 + i)))
        ((d.store (dmkAddr m 0) m0).store (dmkAddr m 1) (d.arg n 3))).reply n stOK [] := by
  have hk : (3 + 3 * k - 3) / 3 = k := by omega
  subst hs0 hm hm0
  simp only [Dev.dmkMaskLoad, hlen, hk, maskUnused_of_all hunused, hz1, hz2, hz3, hsome, Nat.not_lt.mpr hfit,
    Nat.not_lt.mpr hmax, Nat.not_lt.mpr hfield, ne_eq, not_true_eq_false, decide_false, Bool.or_self,
    Bool.false_eq_true, if_false]

/-! ### The rows -/

theorem exec_capChanSet (n : Mbx) (s : State) : exec (.capChanSet n) s = execCapChanSet n s := rfl

theorem exec_capArm (n : Mbx) (s : State) : exec (.capArm n) s = execCapArm n s := rfl

theorem exec_capDisarm (n : Mbx) (s : State) : exec (.capDisarm n) s = execCapDisarm n s := rfl

theorem exec_capTrigger (n : Mbx) (s : State) : exec (.capTrigger n) s = execCapTrigger n s := rfl

theorem exec_dmkMaskLoad (n : Mbx) (s : State) : exec (.dmkMaskLoad n) s = execDmkMaskLoad n s := rfl

/-- Settles O34, row by row: the operands pass the tests, and the engine is in the state of its row. -/
theorem captureCommands : Obligations.CaptureCommands := by
  unfold Obligations.CaptureCommands
  refine ⟨fun s n ch h hch hle hkept hfree hleast hmost hpacket hz0 hper halign hz1 hrange hchans
      hrecs hbkl => ?chanSet,
    fun s n t h ht hz hst hok => ?arm, fun s n t h ht hz hst => ?cont, fun s n t h ht hle hst hnow => ?disarm,
    fun s n t h ht hle hst hnow => ?later, fun s n t h ht hle hst hnow => ?still,
    fun s n t h ht hle hnow hst hstop => ?untriggered, fun s n mask e h hmask hne hle he => ?trigger,
    fun s n k h hz1 hz2 hfit hsome hmax hfield hz3 hunused => ?maskLoad⟩
  case chanSet =>
    have hkept' : s.dev.taken.ChanKept ch fun i => s.dev.taken.arg n (2 + i) := by
      simpa only [Dev.ChanKept, taken_capEn, taken_capW, taken_arg] using hkept
    have hlegal : s.dev.taken.ChanLegal ch fun i => s.dev.taken.arg n (2 + i) :=
      ⟨hleast, hmost, hpacket, hz0, hper, halign, hz1, hrange, (taken_meetsChan _ _ _ _).trans hchans, hrecs, hbkl⟩
    exact (exec_capChanSet n s).trans (lift_served_of_eq h rfl (capChanSet_legal hch hle hkept' hfree hlegal))
  case arm =>
    exact (exec_capArm n s).trans
      (lift_served_of_eq h rfl (capArm_passes ht hz hst ((taken_armReason s.dev t).trans hok)))
  case cont => exact (exec_capArm n s).trans (lift_served_of_eq h rfl (capArm_armed ht hz hst))
  case disarm =>
    exact (exec_capDisarm n s).trans (lift_served_of_eq h rfl
      (capDisarm_eq ht hle (disarmTrg_armed hst hnow) (congrArg List.length (leaveArmed_recs _ t))))
  case later =>
    exact (exec_capDisarm n s).trans (lift_served_of_eq h rfl
      (capDisarm_eq ht hle (disarmTrg_later hst hnow) (by rw [trg_modTrg_same])))
  case still =>
    exact (exec_capDisarm n s).trans (lift_served_of_eq h rfl (capDisarm_eq ht hle (disarmTrg_still hst hnow) rfl))
  case untriggered =>
    exact (exec_capDisarm n s).trans (lift_served_of_eq h rfl (capDisarm_eq ht hle
      ((disarmTrg_untriggered (d := s.dev.taken) hnow hst).trans (leaveArmed_unasked hstop)) (by rw [trgGo_trg])))
  case trigger =>
    exact (exec_capTrigger n s).trans (lift_served_of_eq h rfl (capTrigger_masked hmask hne hle he))
  case maskLoad =>
    have hlen : (decide (3 ≤ 3 + 3 * k) && (3 + 3 * k) % 3 == 0) = true := by
      simp only [Bool.and_eq_true, decide_eq_true_eq, beq_iff_eq]
      omega
    exact (exec_dmkMaskLoad n s).trans (lift_served_of_eq h hlen (dmkMaskLoad_unused (served_hdrLen h) rfl rfl rfl hz1 hz2
      hfit hsome hmax hfield hz3 hunused))

end Sys2Proof.Machine
end

section
/-! What happens to capture channels and trigger engines (R238 to R245, R249, R252, R256, R261), each in its plain case. -/

namespace Sys2Proof.Machine

/-! ### A packet in sequence -/

/-- The packet that an enabled, started channel expects next, whole (R238, R239). -/
structure Dev.PacketDue (d : Dev) (ch : Nat) (p : CapPkt) : Prop where
  enabled : d.capEn ch = true
  started : (d.chan ch).started = true
  head : tagOf (p.ws.headD 0) = 3
  endpoint : bitsOf (p.ws.headD 0) 31 12 = bitsOf (d.capW ch 0) 19 0
  inSequence : bitsOf (p.ws.headD 0) 11 0 = (d.chan ch).seq
  whole : ((p.ws.drop 1).filter fun w => slotTag (tagOf w)).length = d.capPlen ch

/-- It enters the ring, and the one after it is expected next. -/
theorem capPacket_due {d : Dev} {ch : Nat} {p : CapPkt} (h : d.PacketDue ch p) :
    d.capPacket ch p =
      (d.capPosition ch p.ep ((p.ws.drop 1).filter fun w => slotTag (tagOf w))).modChan ch fun x => { x with
        seq := ((d.chan ch).seq + 1) % 4096, started := true } := by
  have hgap : ((d.chan ch).seq + 4096 - (d.chan ch).seq) % 4096 = 0 := by omega
  simp only [Dev.capPacket, h.enabled, h.started, h.head, h.endpoint, h.inSequence, h.whole, hgap, ne_eq, not_true_eq_false,
    decide_false, decide_true, Bool.or_true, Bool.not_true, Bool.false_eq_true, if_false, if_true]

/-- The oldest packet delivered is taken. -/
theorem capturePacket_due {d : Dev} {ch : Nat} {p : CapPkt} {ps : List CapPkt} (hpend : (d.chan ch).pend = p :: ps)
    (h : d.PacketDue ch p) :
    d.capturePacket ch =
      ((d.modChan ch fun x => { x with pend := ps }).capPosition ch p.ep
        ((p.ws.drop 1).filter fun w => slotTag (tagOf w))).modChan ch fun x => { x with
          seq := ((d.chan ch).seq + 1) % 4096, started := true } := by
  have hdue : (d.modChan ch fun x => { x with pend := ps }).PacketDue ch p := by
    obtain ⟨h1, h2, h3, h4, h5, h6⟩ := h
    constructor <;> simpa only [Dev.capEn, Dev.capPlen, modChan_capW, chan_modChan_same]
  simp only [Dev.capturePacket, hpend, capPacket_due hdue, chan_modChan_same]

/-! ### The end of POST and of REARM -/

/-- The limit of POST of the record being cut (R252). -/
theorem postLimit_cut {d : Dev} {n : Nat} {c : Cut} (h : (d.trg n).cut = some c) :
    d.postLimit n = (c.et + d.perRound (d.trgWatch n) (d.trgPost n) + epOf (Nat.max 1 (d.f (F.trgCfg_TMO n))) 1000) % 2 ^ 72 := by
  simp only [Dev.postLimit, h, Option.map_some, Option.getD_some]

/-- REARM ends 74 CCLK edges after POST: the engine is in ARMED again, or in IDLE where it was disarmed (R249). -/
theorem rearmCatch_ended {d : Dev} {n : Nat} (hst : d.trgState n = 3) (hedge : (d.trg n).postEdge + 75 ≤ d.epo.edges) :
    d.rearmCatch n =
      ((d.modTrg n fun x => { x with disarm := false }).setF (F.trgStat_STATE n) (if (d.trg n).disarm then 0 else 1)).event
        0x500 n (toW (if (d.trg n).disarm then 0 else 1)) := by
  have hne : (d.modTrg n fun x => { x with disarm := false }).trgState n ≠ if (d.trg n).disarm then 0 else 1 := by
    rw [modTrg_trgState, hst]
    split <;> decide
  simp only [Dev.rearmCatch, hst, hedge, decide_true, Bool.and_self, if_true, trgGo_of_ne hne]

/-! ### A mask test passed -/

/-- Neither HBM window reaches past the first 2^33 words (R21). -/
theorem winOf_ne_hbm {a : Nat} (h : 0x200000000 ≤ a) (s : Nat) : winOf a ≠ .hbm s := by
  have h0 : ¬ a < hbmWords := by unfold hbmWords; omega
  have h1 : ¬ a < 0x100000000 + hbmWords := by unfold hbmWords; omega
  simp only [winOf, h0, h1, show ¬ a < 0x100000000 by omega, show ¬ a < 0x200000000 by omega, if_false]
  split_ifs <;> exact Win.noConfusion

/-- Masks stand in the tables (R260). -/
theorem rd_dmkAddr (d : Dev) (m i : Nat) : d.rd (dmkAddr m i) = mapGet (fun _ => 0) d.mem (dmkAddr m i) :=
  rd_of_not_hbm (winOf_ne_hbm (by unfold dmkAddr; omega))

theorem dmkAddr_add (m i k : Nat) : dmkAddr m i + k = dmkAddr m (i + k) := Nat.add_assoc _ _ _

/-- A mask's segments depend on memory alone. -/
theorem dmkSegs_congr {d e : Dev} (h : d.mem = e.mem) (m : Nat) : d.dmkSegs m = e.dmkSegs m := by
  simp only [Dev.dmkSegs, dmkAddr_add, rd_dmkAddr, h]

/-- The violations of record `r` in its channel `c` against mask `m`: position and segment (R261). -/
def Dev.maskViolations (d : Dev) (m : Nat) (r : Rec) (c : Nat) : List (Nat × Nat) :=
  dmkTest (bitsOf (d.rd (dmkAddr m 0)) 35 33) (bitOf (d.rd (dmkAddr m 0)) 32) (d.dmkSegs m) r.pre
    ((r.body.drop (11 + c * r.npos)).take r.npos)

theorem maskViolations_congr {d e : Dev} (h : d.mem = e.mem) (m : Nat) (r : Rec) (c : Nat) :
    d.maskViolations m r c = e.maskViolations m r c := by
  simp only [Dev.maskViolations, rd_dmkAddr, dmkSegs_congr h, h]

/-- The record at the front of the queue has no violation: it is stored with the trailer of a passed test (R261). -/
theorem damaskDone_passed {d : Dev} {n num : Nat} {rest : List (Nat × Nat)} {r : Rec} (hq : d.cap.dmk = (n, num) :: rest)
    (hr : (d.trg n).recs.find? (fun r => r.num == num && !r.ready) = some r)
    (hpass : (List.range r.nch).flatMap (d.maskViolations (d.f (F.trgCfg_MASK n)) r) = []) :
    d.damaskDone =
      (({ d with cap := { d.cap with dmk := rest } } : Dev).dmkShow.inc F.dmkCnt_TESTED 1).recStore n r
        [markC 0xB0 0, markC 0xB1 0xFFFFFF, markC 0xB2 0xFFF] := by
  have htrg : (({ d with cap := { d.cap with dmk := rest } } : Dev).dmkShow).trg n = d.trg n := by
    rw [Dev.trg, dmkShow_cap]
    rfl
  have hmask : (({ d with cap := { d.cap with dmk := rest } } : Dev).dmkShow).f (F.trgCfg_MASK n) =
      d.f (F.trgCfg_MASK n) := dmkShow_f_low _ (show 23 ≤ 25 by decide) (show 25 < 30 by decide)
  have hmem : (({ d with cap := { d.cap with dmk := rest } } : Dev).dmkShow).mem = d.mem := dmkShow_mem _
  unfold Dev.damaskDone
  rw [hq]
  dsimp only
  generalize ({ d with cap := { d.cap with dmk := rest } } : Dev).dmkShow = e at htrg hmask hmem ⊢
  have hnone : ((List.range r.nch).flatMap fun c =>
      (e.maskViolations (d.f (F.trgCfg_MASK n)) r c).map fun v => (c, v.1, v.2)) = [] := by
    simpa only [maskViolations_congr hmem, List.flatMap_eq_nil_iff, List.map_eq_nil_iff] using hpass
  simp only [Dev.maskViolations] at hnone
  simp [htrg, hr, hmask, hnone, bit]

/-! ### The rows -/

theorem exec_capturePacket (ch : Fin 4096) (s : State) : exec (.capturePacket ch) s = execCapturePacket ch s := rfl

theorem exec_trigInEdge (pin : Fin 8) (e : Epoch) (s : State) : exec (.trigInEdge pin e) s = execTrigInEdge pin e s := rfl

theorem exec_postTimeout (n : Fin 16) (s : State) : exec (.postTimeout n) s = execPostTimeout n s := rfl

theorem exec_rearmEnd (n : Fin 16) (s : State) : exec (.rearmEnd n) s = execRearmEnd n s := rfl

theorem exec_decimTick (s : State) : exec .decimTick s = execDecimTick s := rfl

theorem exec_damaskTestDone (s : State) : exec .damaskTestDone s = execDamaskTestDone s := rfl

/-- Settles O35, row by row: the channel, the engine, the epoch or the queue of records is in the state of its row. -/
theorem captureEvents : Obligations.CaptureEvents := by
  unfold Obligations.CaptureEvents
  refine ⟨fun s ch p ps hl hpend hen hstarted hhead hep hseq hwhole => ?packet, fun s pin e hl => ?edge,
    fun s n c hl hcut _ hdue => ?timeout, fun s n hl hst hedge => ?rearm, fun s hl htick => ?tick,
    fun s n num rest r hl hq hr hpass => ?test⟩
  case packet =>
    exact (exec_capturePacket ch s).trans
      (lift_live_eq hl (capturePacket_due hpend ⟨hen, hstarted, hhead, hep, hseq, hwhole⟩))
  case edge => exact (exec_trigInEdge pin e s).trans (lift_live hl _)
  case timeout =>
    exact (exec_postTimeout n s).trans (lift_live_eq hl (if_pos ((postLimit_cut hcut).symm ▸ hdue)))
  case rearm => exact (exec_rearmEnd n s).trans (lift_live_eq hl (rearmCatch_ended hst hedge))
  case tick => exact (exec_decimTick s).trans (lift_live_eq hl (if_neg htick))
  case test => exact (exec_damaskTestDone s).trans (lift_live_eq hl (damaskDone_passed hq hr hpass))

end Sys2Proof.Machine
end

section
/-! A packet with an ESCAPE NOP in it (R87, R235, R339): the route memory, which consumes the words of a packet, discards the
NOP before it routes the rest. -/

namespace Sys2Proof.Machine

/-- A HEAD of endpoint 5, an ESCAPE NOP and the TAIL. -/
def packetWithNop : List Word := [mkW [(35, 32, 3), (31, 12, 5)], mkW [(35, 32, 15)], mkW [(35, 32, 4)]]

/-- Out of reset, the packet has come over Lysith, and the entry of endpoint 5 only copies its packets to capture channel 3. -/
def nopForCapture : State :=
  let d := State.reset.dev.store (rteAddr 5) (mkW [(35, 33, 4), (32, 32, 1), (31, 20, 3)])
  { State.reset with dev := { d with rte := { d.rte with rx := [packetWithNop] }, pwr := { d.pwr with held := false } } }

/-- The words of the packets that wait for capture channel 3 after a step. -/
def copiesAfter (r : R) : List (List Word) :=
  match r with
  | .next t => (t.dev.chan 3).pend.map (·.ws)
  | _ => []

/-- The copy holds HEAD and TAIL alone. -/
theorem nopForCapture_copies :
    copiesAfter (exec (.routePacket .lysith) nopForCapture) = [noNops packetWithNop] := by decide +kernel

/-- Refutes O47, in its clause of a packet that came over Lysith: the words routed are not those of the packet but those that a
consumer sees, and a copy for a capture channel shows the difference. -/
theorem not_routePackets : ¬ Obligations.RoutePackets := by
  unfold Obligations.RoutePackets
  rintro ⟨-, -, -, hlysith, -⟩
  have hclaim := congrArg copiesAfter (hlysith nopForCapture packetWithNop [] rfl rfl (by decide +kernel))
  rw [nopForCapture_copies] at hclaim
  exact absurd hclaim (by decide +kernel)

end Sys2Proof.Machine
end

section
/-! The Canvas banks and the calibration job (R263 to R278): each command when none of its refusals holds. -/

namespace Sys2Proof.Machine

/-! ### Refusals that do not hold -/

/-- A test that the state passes refuses nothing. -/
theorem not_refused {b : Bool} (h : b = true) : ¬(!b) = true := by rw [h]; decide

/-- No job runs and the pending bank takes writes. -/
theorem not_runBusy {d : Dev} (hcal : d.cal = none) (hshut : d.bankShut = false) :
    ¬(d.cal.isSome || d.bankShut) = true := by simp [hcal, hshut]

/-- No unit that is to serve as a shadow unit is fenced, and every pin finds a free scheduler entry (R272). -/
theorem not_resourcesShort {d : Dev} {clus : List Nat} {free pins : Nat}
    (hunits : (clus.all fun c => !d.fenced (d.shadowOf c)) = true) (hfree : pins ≤ free) :
    ¬((clus.any fun c => d.fenced (d.shadowOf c)) || decide (free < pins)) = true := by
  simpa [Nat.not_lt.mpr hfree] using hunits

/-- No bank retires and no job runs. -/
theorem not_sealBusy {d : Dev} (hret : d.f F.calStat_PSTATE ≠ 2) (hcal : d.cal = none) :
    ¬(decide (d.f F.calStat_PSTATE = 2) || d.cal.isSome) = true := by simp [hret, hcal]

/-- VERIFY is 0, or 1 with the stored sum right (R278). -/
theorem sealMode_legal {w : Nat} {check sum : Word} (h : w = 0 ∨ w = 1 ∧ check = sum) :
    ¬w > 1 ∧ ¬(decide (w = 1) && decide (check ≠ sum)) = true := by
  obtain rfl | ⟨rfl, rfl⟩ := h <;> simp

/-- One to 254 words of a bank (R263). -/
theorem not_readRange {rsv first cnt : Nat} (hz : rsv = 0) (hpos : 0 < cnt) (hmax : cnt ≤ 254)
    (hfit : first + cnt ≤ bankWords) :
    ¬(decide (rsv ≠ 0) || decide (cnt = 0) || decide (cnt > 254) || decide (first + cnt > bankWords)) = true := by
  simp only [Bool.or_eq_true, decide_eq_true_eq]
  omega

/-- A bank that does not retire, at an edge without CAL_APPLY, takes writes (R266, R271). -/
theorem bankShut_eq_false {d : Dev} (hret : d.f F.calStat_PSTATE ≠ 2) (hnone : d.tieNow.applied = none) :
    d.bankShut = false := by simp [Dev.bankShut, hret, hnone]

/-- Words of a bank that CANVAS_WRITE may write: word 3 and the entries. -/
theorem not_writeRange {first cnt : Nat} (hfit : first + cnt ≤ bankWords)
    (hwords : ((List.range cnt).all fun k => first + k == 3 || 16 ≤ first + k) = true) :
    ¬(decide (first + cnt > bankWords) ||
      (List.range cnt).any fun k => first + k != 3 && decide (first + k < 16)) = true := by
  simp only [Bool.or_eq_true, decide_eq_true_eq, List.any_eq_true, not_or, not_exists, not_and]
  refine ⟨Nat.not_lt.mpr hfit, fun k hk hbad => ?_⟩
  have hlegal := List.all_eq_true.mp hwords k hk
  simp only [Bool.or_eq_true, beq_iff_eq, decide_eq_true_eq, Bool.and_eq_true, bne_iff_ne] at hlegal hbad
  omega

/-! ### Commands by their case -/

/-- CANVAS_PREP of idle inputs in mode 0, of an open pending bank in mode 1. -/
theorem canvasPrep_passes {d : Dev} {n mode : Nat} (hmode : (d.arg n 1).toNat = mode) (hcal : d.cal = none)
    (hbanks : d.banksOk = true) (hready : mode = 0 ∧ d.runningInputs = [] ∨ mode = 1 ∧ d.bankShut = false) :
    d.canvasPrep n =
      (if mode = 0 then d.canvasInit else (d.noteWrite n 16 (bankWords - 16)).canvasCopy).reply n stOK [] := by
  obtain ⟨rfl, hidle⟩ | ⟨rfl, hopen⟩ := hready
  · simp [Dev.canvasPrep, hmode, hcal, hbanks, hidle]
  · simp [Dev.canvasPrep, hmode, hcal, hbanks, hopen]

/-- CAL_ABORT of a running job (R277). -/
theorem calAbort_job {d : Dev} {j : CalJob} (n : Nat) (hcal : d.cal = some j) :
    d.calAbort n =
      ((each j.ents (fun x d => if (d.schE x.1).live && d.schGen x.1 == x.2 then d.schCancel x.1 else d) d).reply n stOK
        []).calDone j stCANCELLED 0 0 := by
  simp only [Dev.calAbort, hcal]

/-! ### The rows -/

theorem exec_canvasPrep (n : Mbx) (s : State) : exec (.canvasPrep n) s = execCanvasPrep n s := rfl

theorem exec_calRun (n : Mbx) (s : State) : exec (.calRun n) s = execCalRun n s := rfl

theorem exec_calAbort (n : Mbx) (s : State) : exec (.calAbort n) s = execCalAbort n s := rfl

theorem exec_calSeal (n : Mbx) (s : State) : exec (.calSeal n) s = execCalSeal n s := rfl

theorem exec_canvasRead (n : Mbx) (s : State) : exec (.canvasRead n) s = execCanvasRead n s := rfl

theorem exec_canvasWrite (n : Mbx) (s : State) : exec (.canvasWrite n) s = execCanvasWrite n s := rfl

/-- Settles O36, row by row: the operands and the state pass each test of the command. -/
theorem canvasCommands : Obligations.CanvasCommands := by
  unfold Obligations.CanvasCommands
  refine ⟨fun s n mode h hmode hcal hbanks hready => ?prep,
    fun s n h hcal hshut hrange hinit hinputs hqueues hnow hunits hfree => ?run, fun s n j h hcal => ?abort,
    fun s n h hret hcal hres hmode => ?close, fun s n first cnt h hz hfirst hcnt hpos hmax hfit => ?read,
    fun s n len first h hret happlied hfirst hfit hwords => ?write⟩
  case prep => exact (exec_canvasPrep n s).trans (lift_served_of_eq h rfl (canvasPrep_passes hmode hcal hbanks hready))
  case run =>
    refine (exec_calRun n s).trans (lift_served_of_eq h rfl ?_)
    refine (if_neg (not_runBusy hcal hshut)).trans <| (if_neg (Bool.eq_false_iff.mp hrange)).trans <|
      (if_neg (not_refused hinit)).trans <| (if_neg (not_refused hinputs)).trans <|
      (if_neg (not_refused hqueues)).trans <| (if_neg (not_refused hnow)).trans <|
      (if_neg (not_resourcesShort hunits hfree)).trans ?_
    -- Both sides agree whatever search finds a pin its entry, and `rfl` must not run the one of the scheduler.
    generalize Dev.schFreeIdx = free
    rfl
  case abort => exact (exec_calAbort n s).trans (lift_served_of_eq h rfl (calAbort_job n hcal))
  case close =>
    obtain ⟨hle, hsum⟩ := sealMode_legal hmode
    exact (exec_calSeal n s).trans (lift_served_of_eq h rfl <|
      (if_neg (not_sealBusy hret hcal)).trans <| (if_neg hle).trans <| (if_neg hsum).trans <|
      if_neg (Bool.eq_false_iff.mp hres))
  case read =>
    subst hfirst hcnt
    exact (exec_canvasRead n s).trans (liftBb_served_brgSettle h rfl (if_neg (not_readRange hz hpos hmax hfit)))
  case write =>
    subst hfirst
    exact (exec_canvasWrite n s).trans (lift_served_of_eq h (decide_eq_true (Nat.le_add_left 2 len)) <|
      (if_neg (Bool.eq_false_iff.mp (bankShut_eq_false hret happlied))).trans (if_neg (not_writeRange hfit hwords)))

end Sys2Proof.Machine
end

section
/-! Steps of a calibration (R270, R274 to R276): the end of a retirement and the solve of a job. -/

namespace Sys2Proof.Machine

theorem exec_retirementEnd (s : State) : exec .retirementEnd s = execRetirementEnd s := rfl

theorem exec_calSolve (s : State) : exec .calSolve s = execCalSolve s := rfl

/-- A job at the end of its last window is solved input by input (R274 to R276). -/
theorem calSolve_due {d : Dev} {j : CalJob} (hcal : d.cal = some j) (hend : notEarlier 72 d.now j.endEp = true) :
    d.calSolve =
      let r := j.inputs.foldl (fun a i => Dev.solveInput j j.endEp i a) ((0, 0), d)
      let d' := r.2.modTie fun t => { t with
        done := some (j.mbx, j.seq, mkW [(35, 28, stOK), (25, 13, r.1.1), (12, 0, r.1.2)], r.2.f F.calCnt_JOBS) }
      (d'.inc F.calCnt_JOBS 1).calDone j stOK r.1.1 r.1.2 := by
  simp only [Dev.calSolve, hcal, hend, Bool.not_true, Bool.false_eq_true, if_false]

/-- Settles O37: every running input has retired, or the job's last window has ended. -/
theorem calibrationEvents : Obligations.CalibrationEvents := by
  unfold Obligations.CalibrationEvents
  refine ⟨fun s hl hret hall => ?retired, fun s j hl hcal hend => ?solved⟩
  case retired => exact (exec_retirementEnd s).trans (lift_live_eq hl (if_pos (by simp [hret, hall])))
  case solved => exact (exec_calSolve s).trans (lift_live_eq hl (calSolve_due hcal hend))

end Sys2Proof.Machine
end

section
/-! Rails, sensors, throttling and trims (R280, R458, R460, R464 to R467): what a sensor's reading leaves of the record of hot
sensors, and a conversion with and without a thermal shutdown. -/

namespace Sys2Proof.Machine

/-! ### What a reading leaves -/

@[simp] theorem error_pwr (d : Dev) (cls sev inst ah code : Nat) (q3 : Word) :
    (d.error cls sev inst ah code q3).pwr = d.pwr :=
  (error_keeps event_pwr (fun _ _ => rfl) d cls sev inst ah code q3).trans (inc_pwr d _ 1)

@[simp] theorem warnEval_pwr (d : Dev) (i : Nat) (t : Int) : (d.warnEval i t).pwr = d.pwr := by
  unfold Dev.warnEval
  dsimp only
  split_ifs
  · rfl
  · rw [event_pwr, error_pwr, inc_pwr, setF_pwr]
  · rw [setF_pwr]
  · rfl

@[simp] theorem coldEval_pwr (d : Dev) (i : Nat) (t : Int) : (d.coldEval i t).pwr = d.pwr := by
  unfold Dev.coldEval
  dsimp only
  split_ifs
  · rfl
  · rw [event_pwr, error_pwr, setF_pwr]
  · rw [setF_pwr]
  · rfl

@[simp] theorem pwr_modPwr_same (d : Dev) (f : Pwr → Pwr) : (d.modPwr f).pwr = f d.pwr := rfl

@[simp] theorem sensorRead_hot (d : Dev) (i raw : Nat) : (d.sensorRead i raw).2.pwr.hot = d.pwr.hot := by
  unfold Dev.sensorRead
  dsimp only
  generalize (satS 12 _).1 = t
  split_ifs
  · rw [pwr_modPwr_same, setF_pwr, setF_pwr]
  · rw [setF_pwr]
  · rw [setF_pwr]

/-! ### A conversion -/

/-- Stacks have no SHUTDOWN and no COLD (R465, R467). -/
theorem sensorConv_stack {d : Dev} {i : Nat} (raw : Nat) (h : 10 ≤ i) :
    d.sensorConv i raw = (false, (d.sensorRead i raw).2.warnEval i (d.sensorRead i raw).1) := by
  simp only [Dev.sensorConv, h, if_true]

/-- A sensor's reading is noted as hot or not; the second hot one in succession shuts down (R467). -/
theorem sensorConv_sensor {d : Dev} {i raw : Nat} {r : Int × Dev} (hr : d.sensorRead i raw = r) (h : i < 10) :
    d.sensorConv i raw =
      (mget d.pwr.hot i && decide (r.1 ≥ 0x730), ((r.2.warnEval i r.1).coldEval i r.1).modPwr fun p =>
        { p with hot := mset p.hot i (decide (r.1 ≥ 0x730)) }) := by
  have hhot : r.2.pwr.hot = d.pwr.hot := hr ▸ sensorRead_hot d i raw
  simp only [Dev.sensorConv, hr, ge_iff_le, Nat.not_le.mpr h, if_false, coldEval_pwr, warnEval_pwr, hhot]

theorem exec_sensorConversion (i : Fin 12) (t : BitVec 12) (s : State) :
    exec (.sensorConversion i t) s = execSensorConversion i t s := rfl

/-- A conversion that does not shut down. -/
theorem sensorConversion_stays {s : State} {i : Fin 12} {t : BitVec 12} {f : Dev → Dev} (hl : s.live = true)
    (h : s.dev.sensorConv i t.toNat = (false, f s.dev)) : exec (.sensorConversion i t) s = .next (s.after f) := by
  rw [exec_sensorConversion, execSensorConversion, stopCauseNow_live hl, if_neg (by decide), gate_live hl, h]
  rfl

/-- One that does: the error and the event go out, and the stop follows. -/
theorem sensorConversion_shuts {s : State} {i : Fin 12} {t : BitVec 12} {d : Dev} (hl : s.live = true)
    (h : s.dev.sensorConv i t.toNat = (true, d)) :
    exec (.sensorConversion i t) s = .next (
      let det := toW (bitsOf (d.reg (R.thmSens i)) 11 0)
      let u := ksShutdown { s with dev := ((d.error 22 3 i 0 0xB12 det).event 0xB12 i det).settle }
      State.settle { u with dev := (u.dev.stop 1 false).coolDown }) := by
  rw [exec_sensorConversion, execSensorConversion, stopCauseNow_live hl, if_neg (by decide), gate_live hl, h]
  rfl

/-! ### A trim -/

/-- A sensor on its reference, or at the end of its range, keeps its trim; else it moves by one step (R280). -/
theorem trimOne_eq (d : Dev) (i : Nat) :
    d.trimOne i =
      let diff := d.temp i - d.temp (8 + i / 4)
      let old := mget d.pwr.trim i
      let want := if diff > 0 then old - 1 else if diff < 0 then old + 1 else old
      let far := (want - mget d.pwr.fact i).natAbs
      if want = old ∨ far > 64 then d
      else
        let d := (d.modPwr fun p => { p with trim := mset p.trim i want }).inc F.calTrim_TRIM_STEPS 1
        if far = 64 then d.event 0x604 0 (toW i) else d := by
  simp only [Dev.trimOne, ite_or]

/-! ### The rows -/

theorem exec_railMonitorSample (mv : List (BitVec 12)) (cur : List (BitVec 16)) (s : State) :
    exec (.railMonitorSample mv cur) s = execRailMonitorSample mv cur s := rfl

theorem exec_throttleUpdate (s : State) : exec .throttleUpdate s = execThrottleUpdate s := rfl

theorem exec_trimUpdate (s : State) : exec .trimUpdate s = execTrimUpdate s := rfl

/-- Settles O59, row by row: samples, throttle and trim updates act as they are, and a conversion shuts down only as the second
hot reading of a sensor. -/
theorem railsAndSensors : Obligations.RailsAndSensors := by
  unfold Obligations.RailsAndSensors
  refine ⟨fun s mv cur hl => ?rails, fun s i t hl hcool => ?stays, fun s i t hl hsensor hwas hhot => ?shuts,
    fun s hl => ?throttle, fun s hl => ?trim⟩
  case rails => exact (exec_railMonitorSample mv cur s).trans (lift_live hl _)
  case stays =>
    refine sensorConversion_stays hl ?_
    by_cases hi : 10 ≤ i.val
    · rw [if_pos hi]
      exact sensorConv_stack _ hi
    · have hnot : (mget s.dev.pwr.hot i && decide ((s.dev.sensorRead i t.toNat).1 ≥ 0x730)) = false := by
        obtain h | h | h := hcool
        · exact absurd h hi
        · rw [h, Bool.false_and]
        · rw [decide_eq_false (not_le.mpr h), Bool.and_false]
      rw [sensorConv_sensor rfl (Nat.not_le.mp hi), if_neg hi, hnot]
  case shuts =>
    have hconv := sensorConv_sensor (d := s.dev) (raw := t.toNat) rfl hsensor
    rw [hwas, decide_eq_true hhot] at hconv
    exact sensorConversion_shuts hl hconv
  case throttle => exact (exec_throttleUpdate s).trans (lift_live hl _)
  case trim =>
    refine (exec_trimUpdate s).trans (lift_live_eq hl ?_)
    exact congrArg (forN 8 · s.dev) (funext fun i => funext fun d => trimOne_eq d i)

end Sys2Proof.Machine
end

section
/-! The course of an inbound cycle (R295, R320 to R325, R333). -/

namespace Sys2Proof.Machine

/-! ### What waits, by its case -/

/-- R320: a read other than a locked one without its completion at edge IMM is deferred, held for its retry, or waits. -/
theorem immEdge_waiting {d : Dev} {p i : Nat} {r : InRead} (hr : d.inRead p i = some r) (hans : r.ans = 0)
    (hcmd : r.cmd ≠ 5) :
    d.immEdge p i =
      if d.defOk p r.src then (d.setRead p i { r with ans := 1 }).emit (.fiuAns p 2 (p * 64 + i) [])
      else if d.rtyOk p r.src then (d.setRead p i { r with ans := 2 }).retryAns p
      else d.setRead p i { r with ans := 3 } := by
  rw [Dev.immEdge, hr]
  exact (if_neg (not_not.mpr hans)).trans (if_neg hcmd)

/-- R325: the master whose words still wait for room at edge 96 is answered RETRY or REJECT. -/
theorem edge96_held {d : Dev} {p src : Nat} {h : HeldWr} (hheld : (d.fp p).held = some h) (hsrc : h.src = src) :
    d.edge96 p src =
      let d := (d.modFp p fun x => { x with held := none }).inc (F.brgPortCnt_PW_FULL p) 1
      if d.rtyOk p src then d.retryAns p else d.rej p := by
  rw [Dev.edge96, hheld]
  exact if_pos hsrc

/-- The package's own completion of a read is what the operands cannot change. -/
theorem inCompletion_own {r : InRead} {stn : Nat} {ws : List (Word × Bool)} (hdata : r.data = some (stn, ws)) (d : Dev)
    (p i : Nat) (st : CplStatus) (ds : List BusWord) : d.inCompletion p i r st ds = some (stn, ws, d) := by
  rw [Dev.inCompletion, hdata]

/-- R320, R324: the handshake that waits is answered. -/
theorem readCompletion_answers {d : Dev} {p i : Nat} {r : InRead} {stn : Nat} {ws : List (Word × Bool)}
    (hr : d.inRead p i = some r) (hdata : r.data = some (stn, ws)) (hans : r.ans = 0 ∨ r.ans = 3) (st : CplStatus)
    (ds : List BusWord) : d.readCompletion p i st ds = d.inAnswer p i r stn ws := by
  have hopen : ¬(decide (r.ans ≥ 5) || decide (r.ans = 1) && (d.fp p).replying i) = true := by
    obtain h | h := hans <;> simp [h]
  have hwaits : (decide (r.ans = 0) || decide (r.ans = 3)) = true := by simpa using hans
  rw [Dev.readCompletion, hr]
  dsimp only
  rw [if_neg hopen, inCompletion_own hdata]
  exact if_pos hwaits

/-- R321: a deferred read gets its REPLY. -/
theorem readCompletion_replies {d : Dev} {p i : Nat} {r : InRead} {stn : Nat} {ws : List (Word × Bool)}
    (hr : d.inRead p i = some r) (hdata : r.data = some (stn, ws)) (hans : r.ans = 1)
    (hfirst : (d.fp p).replying i = false) (st : CplStatus) (ds : List BusWord) :
    d.readCompletion p i st ds = d.inReply p i r stn ws := by
  rw [Dev.readCompletion, hr]
  dsimp only
  rw [if_neg (by simp [hans, hfirst]), inCompletion_own hdata]
  dsimp only
  rw [if_neg (by simp [hans]), if_pos hans]

/-- R332, R333: the oldest message, with every write ahead of it acknowledged. -/
theorem msgDelivery_due {d : Dev} {p : Nat} {m : BrgMsg} {ms : List BrgMsg} (hmsgs : (d.fp p).msgs = m :: ms)
    (hahead : (m.ahead.all fun k => (d.fp p).posted.all fun w => w.num != k) = true) :
    d.msgDelivery p =
      let cnt := (d.fp p).msgCnt
      let d := d.modFp p fun x => { x with msgs := ms, msgCnt := x.msgCnt + 1 }
      let d := if d.fb (F.brgMsg_EVT p) then d.eventAt 0x712 p m.ep (toW (m.m0 % 2 ^ 24)) else d
      if d.fb (F.brgMsg_PKT p) = false then d
      else if d.fb F.rteGen_FIXED = false then d.inc (F.brgMsg_MSG_DROP p) 1
      else d.modFp p fun x => { x with
        pkts := x.pkts ++ [⟨tagged 3 ((0xFFC30 + p) * 2 ^ 12 + cnt % 4096) :: m.marks ++ [tagged 4 0], some m.ep⟩] } := by
  have hpassed : ¬(m.ahead.any fun n => (d.fp p).posted.any fun w => w.num == n) = true := by
    simp only [List.any_eq_true, List.all_eq_true, beq_iff_eq, bne_iff_ne, not_exists, not_and] at hahead ⊢
    exact hahead
  rw [Dev.msgDelivery, hmsgs]
  dsimp only
  rw [if_neg hpassed]
  simp only [Bool.not_eq_true']

/-! ### The rows -/

theorem exec_immEdge (p : Fin 4) (t : Fin 64) (s : State) : exec (.immEdge p t) s = execImmEdge p t s := rfl

theorem exec_edge96 (p : Fin 4) (src : Fin 17) (s : State) : exec (.edge96 p src) s = execEdge96 p src s := rfl

theorem exec_bridgeReadCompletion (p : Fin 4) (t : Fin 64) (st : CplStatus) (ds : List BusWord) (s : State) :
    exec (.bridgeReadCompletion p t st ds) s = execBridgeReadCompletion p t st ds s := rfl

theorem exec_retryHoldExpiry (p : Fin 4) (sl : Fin 17) (s : State) :
    exec (.retryHoldExpiry p sl) s = execRetryHoldExpiry p sl s := rfl

theorem exec_bridgeMsgDelivery (p : Fin 4) (s : State) :
    exec (.bridgeMsgDelivery p) s = execBridgeMsgDelivery p s := rfl

/-- Settles O43, row by row: the read, the held write, the hold or the message is in the state of its row. -/
theorem inboundCourse : Obligations.InboundCourse := by
  unfold Obligations.InboundCourse
  refine ⟨fun s p t r hl hr hans hcmd => ?imm, fun s p src h hl hheld hsrc => ?edge96,
    fun s p t st ds r ws stn hl hr hdata hans => ?answer, fun s p t st ds r ws stn hl hr hdata hans hfirst => ?reply,
    fun s p sl i r hl hhold => ?hold, fun s p m ms hl hmsgs hahead => ?message⟩
  case imm =>
    exact (exec_immEdge p t s).trans (liftBb_live_eq hl (congrArg Dev.brgSettle (immEdge_waiting hr hans hcmd)))
  case edge96 =>
    exact (exec_edge96 p src s).trans (liftBb_live_eq hl (congrArg Dev.brgSettle (edge96_held hheld hsrc)))
  case answer =>
    exact (exec_bridgeReadCompletion p t st ds s).trans
      (liftBb_live_eq hl (congrArg Dev.brgSettle (readCompletion_answers hr hdata hans st ds)))
  case reply =>
    exact (exec_bridgeReadCompletion p t st ds s).trans
      (liftBb_live_eq hl (congrArg Dev.brgSettle (readCompletion_replies hr hdata hans hfirst st ds)))
  case hold =>
    refine (exec_retryHoldExpiry p sl s).trans (liftBb_live_eq hl ?_)
    rw [hhold]
  case message =>
    exact (exec_bridgeMsgDelivery p s).trans
      (liftBb_live_eq hl (congrArg Dev.brgSettle (msgDelivery_due hmsgs hahead)))

end Sys2Proof.Machine
end

section
/-! What the coherent fabric leaves of a Fiuth port: whatever messages its delivery takes through this package's homes and caches
(R354 to R378), the port keeps its state and the reads deferred on it. So does the port when a header breaks a lock (R290). -/

namespace Sys2Proof.Machine

theorem setF_fp (d : Dev) (fl : Fld) (v q : Nat) : (d.setF fl v).fp q = d.fp q := rfl

/-- The state of a port and the reads deferred on it. -/
def Dev.portView (p : Fin 4) (d : Dev) : Nat × List DefRd := (d.fpState p, (d.fp p).deferred)

theorem ueClass_lt {a c : Nat} (h : ueClass a = some c) : c < 32 := by
  unfold ueClass at h
  split at h <;> simp at h <;> omega

theorem ceClass_lt {a c : Nat} (h : ceClass a = some c) : c < 32 := by
  unfold ceClass at h
  split at h <;> simp at h <;> omega

namespace PortView
variable {p : Fin 4}

open OffAnswer (foldl ite)

/-! ### Updates, errors, memory -/

theorem event (d : Dev) (code inst : Nat) (x : Word) : (d.event code inst x).portView p = d.portView p := rfl
theorem emit (d : Dev) (o : Out) : (d.emit o).portView p = d.portView p := rfl
theorem modCoh (d : Dev) (f : Coh → Coh) : (d.modCoh f).portView p = d.portView p := rfl
theorem modCache (d : Dev) (c : Nat) (f : List CLine → List CLine) : (d.modCache c f).portView p = d.portView p := rfl
theorem modPort (d : Dev) (n : Nat) (f : Lnk → Lnk) : (d.modPort n f).portView p = d.portView p := rfl

theorem setF (d : Dev) {fl : Fld} (h : (F.fiuStat_STATE p).off ≠ fl.off) (v : Nat) :
    (d.setF fl v).portView p = d.portView p := by
  rw [Dev.portView, Dev.fpState, f_setF_reg d fl _ v h]
  rfl

theorem inc (d : Dev) {fl : Fld} (h : (F.fiuStat_STATE p).off ≠ fl.off) (n : Nat) :
    (d.inc fl n).portView p = d.portView p := setF d h _

theorem incEv (d : Dev) {fl : Fld} (h : (F.fiuStat_STATE p).off ≠ fl.off) (n code inst : Nat) (e3 : Nat → Word) :
    (d.incEv fl n code inst e3).portView p = d.portView p := (incEv_keeps event d fl n code inst e3).trans (inc d h n)

theorem error (d : Dev) {cls : Nat} (h : cls < 32) (sev inst ah code : Nat) (q3 : Word) :
    (d.error cls sev inst ah code q3).portView p = d.portView p := by
  have hoff : (F.fiuStat_STATE p).off ≠ (F.errCnt_COUNT cls).off := by
    dsimp only
    omega
  exact (error_keeps event (fun _ _ => rfl) d cls sev inst ah code q3).trans (inc d hoff 1)

theorem addrError (d : Dev) (req addr : Nat) : (d.addrError req addr).portView p = d.portView p :=
  (error _ (by decide) _ _ _ _ _).trans (event d _ _ _)

theorem wordErrs (d : Dev) (as : List Nat) : (d.wordErrs as).portView p = d.portView p := by
  refine foldl (fun d a => ite ?_ (ite ?_ rfl)) as d <;> dsimp only
  · split
    · next hc => exact error d (ueClass_lt hc) _ _ _ _ _
    · rfl
  · split
    · next hc => exact error d (ceClass_lt hc) _ _ _ _ _
    · rfl

theorem wrPart (d : Dev) (more : Bool) (a : Nat) (w : Word) : (d.wrPart more a w).portView p = d.portView p := by
  unfold Dev.wrPart
  split
  · exact ite (ite rfl rfl) rfl
  · rfl

theorem groupWhole (d : Dev) (a : Nat) : (d.groupWhole a).portView p = d.portView p := by
  unfold Dev.groupWhole
  split
  · split <;> rfl
  · rfl

theorem wrs (d : Dev) (a : Nat) (ws : List Word) : (d.wrs a ws).portView p = d.portView p :=
  (OffAnswer.forN (fun _ d => groupWhole d _) _ _).trans (foldl (fun d _ => wrPart d _ _ _) _ d)

/-! ### Lysith -/

theorem sendFrame (d : Dev) (n type seq : Nat) (ws : List Word) : (d.sendFrame n type seq ws).portView p = d.portView p :=
  (emit _ _).trans (ite rfl (modPort d n _))

theorem idleOut (d : Dev) (n : Nat) : (d.idleOut n).portView p = d.portView p := ite (sendFrame d n 1 0 []) rfl

theorem pump (d : Dev) (n : Nat) : (d.pump n).portView p = d.portView p := by
  have hone (d : Dev) : (d.pumpOne n).portView p = d.portView p :=
    ite rfl ((sendFrame _ _ _ _ _).trans (modPort d n _))
  have hsent := OffAnswer.forN (fun _ d => hone d) ((d.port n).txq.length + 1) d
  exact ite ((idleOut _ n).trans hsent) hsent

theorem sendRt (d : Dev) (rt dest : Nat) (m : Msg) : (d.sendRt rt dest m).2.portView p = d.portView p := by
  unfold Dev.sendRt Dev.sendRoute
  split
  · exact ite rfl (pump _ _)
  · exact ite rfl rfl

theorem cohTo (d : Dev) (k : Nat) (m : CMsg) : (d.cohTo k m).portView p = d.portView p :=
  ite rfl (ite (ite rfl (ite (sendRt d 0 k _) (sendRt d 0 k _))) (ite (sendRt d 1 _ _) rfl))

/-! ### Counters of the fabric, caches, snoops -/

theorem lateRsp (d : Dev) : d.lateRsp.portView p = d.portView p := inc d (by revert p; decide) 1

theorem cohTimeout (d : Dev) (addr : Nat) : (d.cohTimeout addr).portView p = d.portView p := by
  have hcount := incEv d (p := p) (fl := F.cohCnt_TIMEOUT) (by revert p; decide) 1 0x803 0 fun _ => toW (addr % 2 ^ 40 / 16)
  exact ite ((error _ (by decide) _ _ _ _ _).trans hcount) ((error _ (by decide) _ _ _ _ _).trans hcount)

theorem cohStray (d : Dev) : d.cohStray.portView p = d.portView p := error d (by decide) _ _ _ _ _

theorem makeDP (d : Dev) (l : Nat) : (d.makeDP l).portView p = d.portView p :=
  (incEv _ (by revert p; decide) _ _ _ _).trans <| (setF _ (by revert p; decide) _).trans (setF _ (by revert p; decide) _)

theorem dirLook (d : Dev) (l : Nat) : (d.dirLook l).portView p = d.portView p := ite (makeDP d l) (ite rfl rfl)

theorem cacheEvict (d : Dev) (c : Nat) (x : CLine) : (d.cacheEvict c x).portView p = d.portView p := by
  unfold Dev.cacheEvict
  dsimp only
  split
  · exact cohTo _ _ _
  · exact cohTo _ _ _
  · rfl
  · rfl

theorem snoopAnswer (d : Dev) (m : CMsg) (c ans : Nat) : (d.snoopAnswer m c ans).portView p = d.portView p := cohTo d _ _

theorem snoopData (d : Dev) (m : CMsg) (grant : Nat) (ws : List Word) :
    (d.snoopData m grant ws).portView p = d.portView p := cohTo d _ _

theorem snoopDirty (d : Dev) (m : CMsg) (c : Nat) (ws : List Word) :
    (d.snoopDirty m c ws).portView p = d.portView p := cohTo d _ _

theorem snoopArrive (d : Dev) (m : CMsg) : (d.snoopArrive m).portView p = d.portView p := by
  have hdrop (l c : Nat) (d : Dev) : (if ((findLine (d.cacheOf c) l).map (·.st)) == some 3 then d.modCache c (dropLine l)
      else d).portView p = d.portView p := ite (modCache d c _) rfl
  unfold Dev.snoopArrive
  dsimp only
  refine ite ((snoopAnswer _ _ _ _).trans (OffAnswer.forN (hdrop _) 64 d)) ?_
  split
  · exact snoopAnswer d _ _ _
  · refine ite (snoopAnswer d _ _ _) ?_
    split
    · refine ite ?_ (ite ((snoopAnswer _ _ _ _).trans (snoopData d _ _ _)) (snoopAnswer d _ _ _))
      exact (snoopAnswer _ _ _ _).trans ((snoopDirty _ _ _ _).trans (snoopData d _ _ _))
    · exact ite ((snoopAnswer _ _ _ _).trans (snoopData d _ _ _)) (snoopAnswer _ _ _ _)
    · exact ite ((snoopAnswer _ _ _ _).trans (snoopData d _ _ _)) (snoopAnswer d _ _ _)
    · exact ite ((snoopAnswer _ _ _ _).trans (snoopDirty d _ _ _)) (snoopAnswer _ _ _ _)

/-! ### The home's store -/

theorem homeRead (d : Dev) (a : Nat) (is : List Nat) : (d.homeRead a is).2.2.portView p = d.portView p := wordErrs d _

theorem leaveRepeat (d : Dev) (a mask : Nat) (ws : List Word) : (d.leaveRepeat a mask ws).portView p = d.portView p := by
  unfold Dev.leaveRepeat
  split
  · exact ite (sendRt d _ _ _) rfl
  · rfl

theorem homeWrite (d : Dev) (a mask : Nat) (ws : List Word) : (d.homeWrite a mask ws).portView p = d.portView p :=
  (leaveRepeat _ _ _ _).trans (ite (wrs d _ _) (foldl (fun d _ => wrPart d _ _ _) _ d))

theorem bankOpen (d : Dev) (m : CMsg) (a : Nat) : (d.bankOpen m a).portView p = d.portView p :=
  ite (ite (setF _ (by revert p; decide) _) rfl) rfl

theorem dirtyWrite (d : Dev) (ag l : Nat) (ws : List Word) : (d.dirtyWrite ag l ws).portView p = d.portView p :=
  ite (addrError d _ _) (homeWrite d _ _ _)

theorem homeAtom (d : Dev) (m : CMsg) (a : Nat) : (d.homeAtom m a).2.2.portView p = d.portView p :=
  (homeWrite _ _ _ _).trans (homeRead d a _)

theorem homeReply (d : Dev) (m : CMsg) (code st grant : Nat) (ws : List Word) :
    (d.homeReply m code st grant ws).portView p = d.portView p := ite (sendRt d 1 _ _) (cohTo d _ _)

/-! ### Requests at a home -/

theorem setDir (d : Dev) (l : Nat) (e : DirEnt) : (d.setDir l e).portView p = d.portView p := rfl
theorem setTxn (d : Dev) (l : Nat) (t : Option CTxn) : (d.setTxn l t).portView p = d.portView p := rfl

/-- Of the block that an entry comes with. -/
theorem sndIte {c : Prop} [Decidable c] {x y : DirEnt × Dev} {v : Nat × List DefRd} (hx : x.2.portView p = v)
    (hy : y.2.portView p = v) : (if c then x else y).2.portView p = v := by
  split
  · exact hx
  · exact hy

theorem homePerform (d : Dev) (m : CMsg) (e : DirEnt) : (d.homePerform m e).2.portView p = d.portView p := by
  have hopen := bankOpen (p := p) d m m.lineA
  have hread (is : List Nat) := (homeRead (p := p) (d.bankOpen m m.lineA) m.lineA is).trans hopen
  have hatom := (homeAtom (p := p) (d.bankOpen m m.lineA) m m.lineA).trans hopen
  unfold Dev.homePerform
  dsimp only
  refine sndIte (homeReply d _ _ _ _ _) ?_
  have hanswer (is : List Nat) (code st grant : Nat) (ws : List Word) := (homeReply _ m code st grant ws).trans (hread is)
  split
  · exact hopen
  · exact ite ((homeReply _ _ _ _ _ _).trans hatom) ((homeReply _ _ _ _ _ _).trans hatom)
  · exact (homeReply _ _ _ _ _ _).trans ((homeWrite _ _ _ _).trans hopen)
  · exact hanswer _ _ _ _ _
  · exact sndIte (hanswer _ _ _ _ _) (sndIte (hanswer _ _ _ _ _) (hanswer _ _ _ _ _))
  · exact sndIte (hanswer _ _ _ _ _) (sndIte (hanswer _ _ _ _ _) (hanswer _ _ _ _ _))
  · exact hanswer _ _ _ _ _

theorem relay (d : Dev) (m : CMsg) : (d.relay m).2.portView p = d.portView p := by
  unfold Dev.relay
  split <;> rfl

theorem unrelay (d : Dev) (m : CMsg) : (d.unrelay m).portView p = d.portView p := ite rfl rfl

theorem homeStart (d : Dev) (m : CMsg) : (d.homeStart m).portView p = d.portView p := by
  unfold Dev.homeStart
  refine ite ?_ (ite ?_ ?_)
  · exact (cohTo _ _ _).trans ((relay _ m).trans (dirLook d _))
  · exact (foldl (fun d _ => cohTo d _ _) _ _).trans (dirLook d _)
  · exact ite ((homePerform _ m _).trans (dirLook d _)) ((homePerform _ m _).trans (dirLook d _))

theorem homeNextN (fuel : Nat) : ∀ d : Dev, (d.homeNextN fuel).portView p = d.portView p := by
  induction fuel with
  | zero => exact fun _ => rfl
  | succ fuel ih =>
    intro d
    unfold Dev.homeNextN
    split
    · rfl
    · split
      · rfl
      · exact (ih _).trans (homeStart _ _)

theorem homeNext (d : Dev) : d.homeNext.portView p = d.portView p := homeNextN _ d

theorem wbApply (d : Dev) (l a : Nat) (ws : Option (List Word)) : (d.wbApply l a ws).portView p = d.portView p := by
  refine ite ((cohTo _ _ _).trans ?_) ((cohStray _).trans (dirLook d l))
  cases ws with
  | some ws => exact (dirtyWrite _ a l ws).trans (dirLook d l)
  | none => exact dirLook d l

theorem homeClose (d : Dev) (l : Nat) : (d.homeClose l).portView p = d.portView p := by
  unfold Dev.homeClose
  split
  · rfl
  · refine ite ((homeNext _).trans ?_) rfl
    split
    · exact wbApply _ l _ _
    · rfl

theorem homeAdvance (d : Dev) (l : Nat) : (d.homeAdvance l).portView p = d.portView p := by
  unfold Dev.homeAdvance
  split
  · rfl
  · next t _ =>
    refine ite (homeClose d l) ((homeClose _ l).trans ?_)
    dsimp only
    generalize hd : (if (t.cross && t.owner.isSome) = true then _ else _ : Dev) = e
    have hstored : e.portView p = d.portView p := by
      rw [← hd]
      cases t.sdata with
      | none =>
        refine ite ((cohTo _ _ _).trans ?_) rfl
        split
        · exact dirtyWrite d _ l _
        · rfl
      | some ws =>
        have hdata := dirtyWrite (p := p) d (t.owner.getD 0) l ws
        refine ite ((cohTo _ _ _).trans ?_) hdata
        split
        · exact (dirtyWrite _ _ l _).trans hdata
        · exact hdata
    refine (setTxn _ _ _).trans (Eq.trans ?_ hstored)
    exact sndIte (sndIte (makeDP e l) rfl) <| sndIte rfl <| sndIte rfl <| sndIte rfl <|
      (homePerform _ _ _).trans (unrelay e _)

theorem homeError (d : Dev) (m : CMsg) : (d.homeError m).portView p = d.portView p :=
  (homeReply _ _ _ _ _ _).trans (addrError d _ _)

theorem homeUnlock (d : Dev) (m : CMsg) : (d.homeUnlock m).portView p = d.portView p := by
  unfold Dev.homeUnlock
  dsimp only
  have hopen := bankOpen (p := p) d m (m.lineA / 16 * 16)
  exact ite ((homeNext _).trans <| (setDir _ _ _).trans <| sndIte (homeReply d _ _ _ _ _) <|
    sndIte ((homeReply _ _ _ _ _ _).trans ((homeWrite _ _ _ _).trans hopen)) hopen) (ite (homeReply d _ _ _ _ _) rfl)

theorem homeArrive (d : Dev) (m : CMsg) : (d.homeArrive m).portView p = d.portView p := by
  unfold Dev.homeArrive
  dsimp only
  refine ite rfl (ite (homeError d m) (ite rfl (ite (homeReply d _ _ _ _ _) ?_)))
  have henter : (if m.code = 7 || m.code = 8 then d.homeUnlock m
      else if d.homeFree m && !d.coh.waiting.any (fun w => w.lineA == m.lineA) then d.homeStart m
      else d.modCoh fun c => { c with waiting := c.waiting ++ [m] }).portView p = d.portView p :=
    ite (homeUnlock d m) (ite (homeStart d m) rfl)
  split
  · refine ite rfl (ite ?_ henter)
    split
    · exact sendRt d 1 _ _
    · exact homeReply d _ _ _ _ _
  · exact henter

/-! ### Answers at a home -/

theorem srspArrive (d : Dev) (k l ans : Nat) : (d.srspArrive k l ans).portView p = d.portView p := by
  unfold Dev.srspArrive
  split
  · exact lateRsp d
  · exact ite (lateRsp d) (homeAdvance _ l)

theorem sdataArrive (d : Dev) (l : Nat) (ws : List Word) : (d.sdataArrive l ws).portView p = d.portView p := by
  unfold Dev.sdataArrive
  split
  · exact lateRsp d
  · exact ite (lateRsp d) (homeAdvance _ l)

theorem cackArrive (d : Dev) (a l : Nat) : (d.cackArrive a l).portView p = d.portView p := by
  unfold Dev.cackArrive
  split
  · exact ite (homeClose _ l) (ite rfl (lateRsp d))
  · exact lateRsp d

theorem wbArrive (d : Dev) (a l : Nat) (ws : Option (List Word)) : (d.wbArrive a l ws).portView p = d.portView p := by
  unfold Dev.wbArrive
  split
  · exact (homeNext _).trans (wbApply d l a ws)
  · exact ite rfl (ite (homeAdvance _ l) (ite rfl (cohStray d)))

/-! ### Requests of this package's agents -/

theorem cohDone (d : Dev) (o : COut) (st : Nat) (ws : List Word) : (d.cohDone o st ws).portView p = d.portView p := by
  unfold Dev.cohDone
  split
  · rfl
  · exact (homeNext _).trans (homeReply d _ _ _ _ _)
  · rfl

theorem cohIssue (d : Dev) (who : CohWho) (la : Nat) (tag : Option Nat) (m : CMsg) :
    (d.cohIssue who la tag m).2.portView p = d.portView p := by
  unfold Dev.cohIssue
  dsimp only
  split
  · rfl
  · dsimp only
    split
    · exact cohTo _ _ _
    · exact cohTo _ _ _
    · exact (cohDone _ _ _ _).trans (cohTimeout d _)
    · exact ite (sendRt d 1 _ _) ((cohDone _ _ _ _).trans ((cohTimeout _ _).trans (sendRt d 1 _ _)))
    · exact (cohDone _ _ _ _).trans (addrError d _ _)

theorem cohGo (d : Dev) (w : CWait) : (d.cohGo w).portView p = d.portView p := by
  unfold Dev.cohGo
  dsimp only
  split
  · exact ite (cohDone _ _ _ _) (cohDone _ _ _ _)
  · exact cohIssue d _ _ _ _

theorem cohAsk (d : Dev) (w : CWait) : (d.cohAsk w).portView p = d.portView p := ite (cohGo d w) rfl

theorem sendCack (d : Dev) (o : COut) : (d.sendCack o).portView p = d.portView p := ite (cohTo d _ _) rfl

theorem answerArrive (d : Dev) (pst : Bool) (m : CMsg) : (d.answerArrive pst m).portView p = d.portView p := by
  unfold Dev.answerArrive
  split
  · exact lateRsp d
  · split
    · rfl
    · next o _ =>
      have hdrop (d : Dev) (la : Nat) : (if d.coh.leave.isNone then d
          else each (findLine (d.cacheOf la) (o.m.addr / 16)).toList (Dev.cacheEvict la) d).portView p = d.portView p :=
        ite rfl (foldl (fun d x => cacheEvict d la x) _ d)
      dsimp only
      generalize hd : Dev.sendCack o _ = e
      have hsent : e.portView p = d.portView p := by
        rw [← hd]
        exact (sendCack _ o).trans <| (ite (modCache _ _ _) rfl).trans (ite (cohTimeout _ _) rfl)
      refine Eq.trans ?_ hsent
      clear hd
      refine ite ((cohDone _ _ _ _).trans (ite (hdrop e _) rfl)) (ite ?_ (ite (cohAsk e _) (cohDone e _ _ _)))
      exact (cohDone _ _ _ _).trans ((hdrop _ _).trans (modCache e _ _))

/-! ### Delivery -/

theorem cohDeliver (d : Dev) (m : CMsg) : (d.cohDeliver m).portView p = d.portView p := by
  unfold Dev.cohDeliver
  refine ite (homeArrive d m) (ite (snoopArrive d m) ?_)
  split
  · exact wbArrive d _ _ _
  · exact wbArrive d _ _ _
  · exact srspArrive d _ _ _
  · exact answerArrive d _ m
  · exact cackArrive d _ _
  · rfl
  · exact answerArrive d _ m
  · exact answerArrive d _ m
  · exact sdataArrive d _ _

theorem cohRun (fuel : Nat) : ∀ d : Dev, (d.cohRun fuel).portView p = d.portView p := by
  induction fuel with
  | zero => exact fun _ => rfl
  | succ fuel ih =>
    intro d
    unfold Dev.cohRun
    split
    · split
      · rfl
      · exact (ih _).trans (cohDeliver _ _)
    · exact (ih _).trans (cohDeliver _ _)

/-! ### A lock broken -/

theorem sendUnlock (d : Dev) (q addr : Nat) : (d.sendUnlock q addr).portView p = d.portView p := by
  unfold Dev.sendUnlock
  dsimp only
  split
  · exact (cohRun _ _).trans (cohTo d _ _)
  · exact cohTo d _ _
  · exact sendRt d 1 _ _
  · rfl

/-- A port changed in other fields. -/
theorem modFp (d : Dev) (q : Nat) {f : FiuPort → FiuPort} (h : ∀ x, (f x).deferred = x.deferred) :
    (d.modFp q f).portView p = d.portView p := by
  refine Prod.ext rfl ?_
  change ((d.modFp q f).fp p).deferred = (d.fp p).deferred
  rw [fp_modFp_ite]
  split
  · next hq => rw [h, hq]
  · rfl

theorem brgUnlock (d : Dev) (q : Nat) : (d.brgUnlock q).portView p = d.portView p := by
  refine foldl (fun d x => ?_) _ d
  dsimp only
  split
  · exact ite ((sendUnlock _ _ _).trans (modFp d q fun _ => rfl)) rfl
  · rfl

/-- LOCK_BRK shares its register with the state, but no bit. -/
theorem setLockBrk_fpState (d : Dev) (v : Nat) : (d.setF (F.fiuStat_LOCK_BRK p) v).fpState p = d.fpState p :=
  f_setF_apart d (F.fiuStat_LOCK_BRK p) (F.fiuStat_STATE p) v (Nat.le_refl 29) (show 29 < 36 by decide)
    (show 33 ≤ 35 by decide) rfl (.inl (show 29 < 33 by decide))

theorem setLockBrk (d : Dev) (v : Nat) : (d.setF (F.fiuStat_LOCK_BRK p) v).portView p = d.portView p := by
  rw [Dev.portView, Dev.portView, setLockBrk_fpState, setF_fp]

theorem lockBreak (d : Dev) : (d.lockBreak p).portView p = d.portView p := by
  unfold Dev.lockBreak
  split
  · exact (event _ _ _ _).trans <| (setLockBrk _ 1).trans <| (brgUnlock _ p).trans (modFp d p fun _ => rfl)
  · rfl

theorem headerSeen (d : Dev) (cmd : Nat) : (d.headerSeen p cmd).portView p = d.portView p := by
  refine (modFp _ p ?_).trans (lockBreak d)
  exact fun _ => rfl

end PortView

@[simp] theorem headerSeen_fpState (d : Dev) (p : Fin 4) (cmd : Nat) : (d.headerSeen p cmd).fpState p = d.fpState p :=
  congrArg Prod.fst (PortView.headerSeen d cmd)

@[simp] theorem headerSeen_deferred (d : Dev) (p : Fin 4) (cmd : Nat) :
    ((d.headerSeen p cmd).fp p).deferred = (d.fp p).deferred := congrArg Prod.snd (PortView.headerSeen d cmd)

end Sys2Proof.Machine
end

section
/-! Commands on a Fiuth segment (R289, R301 to R304, R306): each when its operands and the state of the port are those of its
row. -/

namespace Sys2Proof.Machine

/-! ### Mailbox commands -/

/-- FIU_SLOT_ADMIT of a slot that is present and not enabled. -/
theorem fiuSlotAdmit_present {d : Dev} {n p sl : Nat} (hz : bitsOf (d.arg n 1) 35 10 = 0) (hp : bitsOf (d.arg n 1) 9 8 = p)
    (hsl : bitsOf (d.arg n 1) 7 4 = sl) (hst : d.fpState p = 2) (hpres : d.fb (F.fiuMod_PRESENT p sl) = true)
    (hen : d.fb (F.fiuMod_EN p sl) = false) :
    d.fiuSlotAdmit n = (d.admitCycle p sl (bitsOf (d.arg n 1) 3 0) (some n)).hold n := by
  subst hp hsl
  exact if_neg (by simp [hz, hst, hpres, hen])

/-- FIU_SLOT_REMOVE of a slot that is present. -/
theorem fiuSlotRemove_present {d : Dev} {n p sl : Nat} (hz : bitsOf (d.arg n 1) 35 10 = 0)
    (hp : bitsOf (d.arg n 1) 9 8 = p) (hsl : bitsOf (d.arg n 1) 7 4 = sl) (hz' : bitsOf (d.arg n 1) 3 0 = 0)
    (hst : d.fpState p = 2) (hpres : d.fb (F.fiuMod_PRESENT p sl) = true) :
    d.fiuSlotRemove n =
      (((d.setF (F.fiuMod_EN p sl) 0).clearMaps p sl).modFp p fun x =>
        { x with removing := if x.removing.contains sl then x.removing else x.removing ++ [sl],
                 granted := if x.granted = some sl then none else x.granted }).reply n stOK [] := by
  subst hp hsl
  exact if_neg (by simp [hz, hz', hst, hpres])

/-- FIU_SEG_RESET of a port in CONTROL whose segment is not being reset. -/
theorem fiuSegReset_starts {d : Dev} {n p : Nat} (hp : (d.arg n 1).toNat = p) (hlt : p < 4) (hst : d.fpState p = 2)
    (hidle : (d.fp p).segReset = none) : d.fiuSegReset n = (d.segResetStart p (some n)).hold n := by
  subst hp
  exact (if_neg (by simp [hst, Nat.le_of_lt_succ hlt])).trans (if_neg (by simp [hidle]))

/-- FIU_GEO, whose read has no word. -/
theorem fiuGeo_queued {d : Dev} {n p : Nat} {wr : Bool} (hp : bitsOf (d.arg n 1) 17 16 = p)
    (hwr : bitOf (d.arg n 1) 35 = wr) (hz : bitsOf (d.arg n 1) 34 18 = 0)
    (hword : wr = true ∨ (d.arg n 2).toNat = 0) (hst : d.fpState p = 2) :
    d.fiuGeo n =
      (d.ownPush p (geoCycle wr (bitsOf (d.arg n 1) 15 12) (bitsOf (d.arg n 1) 11 0) (d.arg n 2) (.geo n wr))).hold n := by
  subst hp hwr
  exact if_neg (by obtain h | h := hword <;> simp [h, hz, hst])

/-! ### Writes of a port's registers -/

/-- R301: SYNC_PULSE in MODE 2 of a controller. -/
theorem syncPulse_pulses {d : Dev} {p : Nat} {w : Word} (hw : bitOf w 0 = true) (hst : d.fpState p = 2)
    (hmode : d.f (F.fiuSyncCfg_MODE p) = 2) : d.syncPulse p w = d.emit (.fiuLine p 2 1) :=
  if_pos (by simp [hw, hst, hmode])

/-- R306: a write of EN from 0 to 1 opens a port that is OFF. -/
theorem fiuCfgWrite_opens {d : Dev} {p : Nat} {w : Word} (hwas : d.fb (F.fiuCfg_EN p) = false)
    (hnow : (d.setReg (R.fiuCfg p) (putBits w 2 0 0)).fb (F.fiuCfg_EN p) = true)
    (hoff : ((d.setReg (R.fiuCfg p) (putBits w 2 0 0)).haltRefresh p).fpState p = 0) :
    d.fiuCfgWrite p w =
      (((d.setReg (R.fiuCfg p) (putBits w 2 0 0)).haltRefresh p).modFp p fun x => { x with
        latch := some (((d.setReg (R.fiuCfg p) (putBits w 2 0 0)).haltRefresh p).cfgRole p) }).portOn p :=
  (if_pos (by rw [hwas, hnow]; decide)).trans (if_pos hoff)

/-- R306, R307: a write of EN from 1 to 0 closes one that is not. -/
theorem fiuCfgWrite_closes {d : Dev} {p : Nat} {w : Word} (hwas : d.fb (F.fiuCfg_EN p) = true)
    (hnow : (d.setReg (R.fiuCfg p) (putBits w 2 0 0)).fb (F.fiuCfg_EN p) = false)
    (hon : ((d.setReg (R.fiuCfg p) (putBits w 2 0 0)).haltRefresh p).fpState p ≠ 0) :
    d.fiuCfgWrite p w =
      (((d.setReg (R.fiuCfg p) (putBits w 2 0 0)).haltRefresh p).modFp p fun x => { x with
        closing := true
        offEdge := some ((d.setReg (R.fiuCfg p) (putBits w 2 0 0)).haltRefresh p).epo.edges }).portIdle p :=
  (if_neg (by simp [hwas])).trans (if_pos (by rw [hwas, hnow]; simp [hon]))

/-! ### The rows -/

theorem exec_fiuSlotAdmit (n : Mbx) (s : State) : exec (.fiuSlotAdmit n) s = execFiuSlotAdmit n s := rfl

theorem exec_fiuSlotRemove (n : Mbx) (s : State) : exec (.fiuSlotRemove n) s = execFiuSlotRemove n s := rfl

theorem exec_fiuSegReset (n : Mbx) (s : State) : exec (.fiuSegReset n) s = execFiuSegReset n s := rfl

theorem exec_fiuGeo (n : Mbx) (s : State) : exec (.fiuGeo n) s = execFiuGeo n s := rfl

theorem exec_syncPulse (pa : Path) (p : Fin 4) (w : Word) (s : State) :
    exec (.syncPulse pa p w) s = execSyncPulse pa p w s := rfl

theorem exec_fiuPortEnWrite (pa : Path) (p : Fin 4) (w : Word) (s : State) :
    exec (.fiuPortEnWrite pa p w) s = execFiuPortEnWrite pa p w s := rfl

/-- Settles O38, row by row: the operands pass the tests of the command, or the written EN differs from the one before. -/
theorem fiuthCommands : Obligations.FiuthCommands := by
  unfold Obligations.FiuthCommands
  refine ⟨fun s n p sl h hz hp hsl hst hpres hen => ?enable, fun s n p sl h hz hp hsl hz' hst hpres => ?remove,
    fun s n p h hp hlt hst hidle => ?segReset, fun s n p wr h hp hwr hz hword hst => ?geo,
    fun s pa p w hl hw hst hmode => ?pulse, fun s pa p w hl hwas hnow hoff => ?opens,
    fun s pa p w hl hwas hnow hon => ?closes⟩
  case enable =>
    exact (exec_fiuSlotAdmit n s).trans (lift_served_of_eq h rfl (fiuSlotAdmit_present hz hp hsl hst hpres hen))
  case remove =>
    exact (exec_fiuSlotRemove n s).trans (lift_served_of_eq h rfl (fiuSlotRemove_present hz hp hsl hz' hst hpres))
  case segReset =>
    exact (exec_fiuSegReset n s).trans (lift_served_of_eq h rfl (fiuSegReset_starts hp hlt hst hidle))
  case geo => exact (exec_fiuGeo n s).trans (lift_served_of_eq h rfl (fiuGeo_queued hp hwr hz hword hst))
  case pulse => exact (exec_syncPulse pa p w s).trans (lift_live_eq hl (syncPulse_pulses hw hst hmode))
  case opens => exact (exec_fiuPortEnWrite pa p w s).trans (lift_live_eq hl (fiuCfgWrite_opens hwas hnow hoff))
  case closes => exact (exec_fiuPortEnWrite pa p w s).trans (lift_live_eq hl (fiuCfgWrite_closes hwas hnow hon))

end Sys2Proof.Machine
end

section
/-! Modules of a segment, and TM9 as a member of one (R291, R298, R303 to R306, R329). -/

namespace Sys2Proof.Machine

/-! ### Slots of a segment that TM9 controls -/

/-- R303, R302: a slot that is not present, or re-presents, of a port without cycles of its own. -/
theorem presence_begins {d : Dev} {p sl : Nat} (hst : d.fpState p = 2)
    (hnew : d.fb (F.fiuMod_PRESENT p sl) = false ∨ (d.fp p).represent.contains sl = true) (hown : (d.fp p).own = []) :
    d.presence p sl = d.ownPush p (geoCycle false sl 0 0 (.presence sl none)) := by
  have hidle : (d.fp p).own.any = fun _ => false := by rw [hown]; rfl
  refine if_neg ?_
  obtain h | h := hnew <;> simp only [hst, h, hidle] <;> simp

/-- R304: the last cycle to a slot that is being removed, once no read to or from it is deferred. -/
theorem execSlotRemovalComplete_last {s : State} {p : Fin 4} {sl : Fin 16} (hl : s.live = true)
    (hrem : (s.dev.fp p).removing.contains sl.val = true)
    (hdef : ((s.dev.fp p).deferred.any fun r => r.src == sl.val) = false) (htags : (s.dev.fp p).tags = []) :
    execSlotRemovalComplete p sl s = .next (s.after fun d =>
      (d.modFp p fun x => { x with removing := x.removing.filter (· != sl.val) }).ownPush p
        (geoCycle true sl 2 0 (.remove sl))) :=
  lift_live_eq hl (if_neg (by simp only [hrem, hdef, htags, List.any_nil]; decide))

/-! ### The end of MONITOR -/

/-- F_HALT, and the message that it makes, leave NO_RST. -/
theorem haltRefresh_noRst (d : Dev) (p : Nat) : ((d.haltRefresh p).fp p).noRst = (d.fp p).noRst := by
  have hport (d : Dev) {f : FiuPort → FiuPort} (h : ∀ x, (f x).noRst = x.noRst) :
      ((d.modFp p f).fp p).noRst = (d.fp p).noRst := by rw [fp_modFp, h]
  have hmsg (d : Dev) (kind code lvl level vec ep : Nat) :
      ((d.brgMessage p kind code lvl level vec ep).fp p).noRst = (d.fp p).noRst :=
    OffAnswer.ite (P := fun d : Dev => (d.fp p).noRst) (congrArg FiuPort.noRst (setF_fp d _ _ p)) (hport d fun _ => rfl)
  have hlevel (d : Dev) (lv : Bool) : ((d.haltLevel p lv).fp p).noRst = (d.fp p).noRst := by
    have hraised (code inst : Nat) (x : Word) (fl : Fld) (v : Nat) :
        (((d.setF fl v).event code inst x).fp p).noRst = (d.fp p).noRst := rfl
    have hgrant (x : FiuPort) : ({ x with granted := none } : FiuPort).noRst = x.noRst := rfl
    unfold Dev.haltLevel
    dsimp only
    split_ifs
    · rfl
    · exact (hmsg _ _ _ _ _ _ _).trans ((hport _ hgrant).trans (hraised _ _ _ _ _))
    · exact (hport _ hgrant).trans (hraised _ _ _ _ _)
    · exact (hmsg _ _ _ _ _ _ _).trans (hraised _ _ _ _ _)
    · exact hraised _ _ _ _ _
  have hdriven (x : FiuPort) : ({ x with haltOut := d.haltOwn p } : FiuPort).noRst = x.noRst := rfl
  unfold Dev.haltRefresh
  dsimp only
  split_ifs
  · rfl
  · exact (hlevel _ _).trans (hport d hdriven)

/-- R306: a port that has heard no other controller takes the segment over, its slots empty. -/
def Dev.controls (p : Nat) (d : Dev) : Dev :=
  forN 16 (fun sl d => (d.setF (F.fiuMod_PRESENT p sl) 0).setF (F.fiuMod_EN p sl) 0) ((d.setFpState p 2).haltRefresh p)

theorem controls_noRst (d : Dev) (p : Nat) : ((d.controls p).fp p).noRst = (d.fp p).noRst := by
  have hslot (sl : Nat) (d : Dev) :
      (((d.setF (F.fiuMod_PRESENT p sl) 0).setF (F.fiuMod_EN p sl) 0).fp p).noRst = (d.fp p).noRst := by
    rw [setF_fp, setF_fp]
  refine (OffAnswer.forN (P := fun d : Dev => (d.fp p).noRst) hslot 16 _).trans ((haltRefresh_noRst _ p).trans ?_)
  rw [Dev.setFpState, setF_fp]

/-- The controlled segment is reset unless NO_RST forbids it. -/
theorem execMonitorEnd_alone {s : State} {p : Fin 4} (hl : s.live = true) (hst : s.dev.fpState p = 1) :
    execMonitorEnd p false s = .next (s.after fun d =>
      if (d.fp p).noRst then d.controls p else (d.controls p).segResetStart p none) := by
  have hrst : ((s.dev.controls p).fp p).noRst = (s.dev.fp p).noRst := controls_noRst s.dev p
  refine lift_live_eq hl ((if_neg (not_not.mpr hst)).trans ((if_neg Bool.false_ne_true).trans ?_))
  change (if ((s.dev.controls p).fp p).noRst = true then s.dev.controls p
    else (s.dev.controls p).segResetStart p none) = _
  rw [hrst]

/-- Another controller was seen. -/
theorem execMonitorEnd_other {s : State} {p : Fin 4} (hl : s.live = true) (hst : s.dev.fpState p = 1) :
    execMonitorEnd p true s = .next (s.after fun d =>
      (((d.setFpState p 5).setF (F.fiuStat_CONFLICT p) 1).event 0x706 p 0).haltRefresh p) := by
  refine lift_live_eq hl ((if_neg (not_not.mpr hst)).trans ?_)
  rw [if_pos rfl]

/-! ### TM9 as a member -/

/-- A header of good parity. -/
theorem memberHeader_good (p cmd : Nat) (f : Dev → Dev) (d : Dev) : d.memberHeader p cmd false f = f (d.headerSeen p cmd) := rfl

/-- R283: one of bad parity is refused. -/
theorem memberHeader_bad (p cmd : Nat) (f : Dev → Dev) (d : Dev) :
    d.memberHeader p cmd true f = ((d.headerSeen p cmd).fiuPar p 1).emit (.fiuAns p 1 0 []) := rfl

/-- CSR read of a member's words 0 to 2. -/
theorem execGeoRead_low {s : State} {p : Fin 4} {sl : Fin 16} {off : BitVec 12} (hl : s.live = true)
    (hm : s.dev.isMember p sl = true) (hoff : off.toNat < 3) :
    execGeoRead p sl ⟨off, false⟩ s = .next (s.after fun d => (d.headerSeen p 10).emit (.fiuAns p 0 0
      [(toW (if off.toNat = 0 then Config.fiuId else if off.toNat = 1 then 0xF
        else ((d.headerSeen p 10).fp p).ctl), false)])) := by
  refine lift_live_eq hl ((if_neg (not_refused hm)).trans ((memberHeader_good _ _ _ _).trans ?_))
  dsimp only
  obtain h | h | h : off.toNat = 0 ∨ off.toNat = 1 ∨ off.toNat = 2 := by omega
  all_goals rw [h]; rfl

theorem execGeoRead_bad {s : State} {p : Fin 4} {sl : Fin 16} (off : BitVec 12) (hl : s.live = true)
    (hm : s.dev.isMember p sl = true) :
    execGeoRead p sl ⟨off, true⟩ s = .next (s.after fun d => ((d.headerSeen p 10).fiuPar p 1).emit (.fiuAns p 1 0 [])) :=
  lift_live_eq hl ((if_neg (not_refused hm)).trans (memberHeader_bad _ _ _ _))

theorem execGeoWrite_good {s : State} {p : Fin 4} {sl : Fin 16} (off : BitVec 12) {w : BusWord} (hl : s.live = true)
    (hm : s.dev.isMember p sl = true) (hw : w.bad = false) :
    execGeoWrite p sl ⟨off, false⟩ w s =
      .next (s.after fun d => ((d.headerSeen p 11).geoApply p off.toNat w.w).emit (.fiuAns p 0 0 [])) :=
  lift_live_eq hl ((if_neg (not_refused hm)).trans ((memberHeader_good _ _ _ _).trans (if_neg (by simp [hw]))))

/-- A member takes a BCAST_WRITE as a write of its words; the header before it changes no state of the port. -/
theorem execBcastWrite_member {s : State} {p : Fin 4} (off : BitVec 12) {w : BusWord} (hl : s.live = true)
    (hst : s.dev.fpState p = 3 ∨ s.dev.fpState p = 4) (hdeaf : s.dev.fpDeaf p = false) (hw : w.bad = false) :
    execBcastWrite p ⟨off, false⟩ w s = .next (s.after fun d => (d.headerSeen p 7).geoApply p off.toNat w.w) := by
  have hon : ¬(s.dev.fpState p = 1 || s.dev.fpState p = 5) = true := by
    obtain h | h := hst <;> simp [h]
  have hmember : ¬(s.dev.headerSeen p 7).fpState p = 2 := by
    rw [headerSeen_fpState]
    omega
  refine lift_live_eq hl ((if_neg (by simp [hdeaf])).trans ((if_neg hon).trans ((memberHeader_good _ _ _ _).trans ?_)))
  exact (if_neg hmember).trans (if_neg (by simp [hw]))

/-- R329: the line that TM9 drives is the one its CTL names. -/
theorem irqLine_named {d : Dev} {p l : Nat} (hst : d.fpState p = 4) (hirq : d.fb F.brgCfg_MIRQ = true)
    (hctl : nbit (d.fp p).ctl 4 = true) (hl : (d.fp p).ctl / 2 % 8 = l) (hcause : d.memberIrq p ≠ 0) :
    d.irqLine p = 2 ^ l := by
  subst hl
  exact if_pos (by simp [hst, hirq, hctl, hcause])

theorem execIack_own {s : State} {p : Fin 4} {sl : Fin 16} {l : Fin 8} (hl : s.live = true) (hst : s.dev.fpState p = 4)
    (hm : s.dev.isMember p sl = true) (hline : (s.dev.headerSeen p 8).irqLine p = 2 ^ l.val) :
    execIack p sl ⟨l, false⟩ s = .next (s.after fun _ => (s.dev.headerSeen p 8).emit (.fiuAns p 0 0
      [(mkW [(10, 8, (s.dev.headerSeen p 8).memberIrq p), (7, 0, (s.dev.headerSeen p 8).f F.brgCfg_MVEC)], false)])) :=
  lift_live_eq hl ((if_neg (by simp [hst, hm])).trans ((memberHeader_good _ _ _ _).trans (if_pos hline)))

/-! ### The rows -/

theorem exec_modulePresence (p : Fin 4) (sl : Fin 16) (s : State) :
    exec (.modulePresence p sl) s = execModulePresence p sl s := rfl

theorem exec_presenceRetry (p : Fin 4) (sl : Fin 16) (s : State) :
    exec (.presenceRetry p sl) s = execPresenceRetry p sl s := rfl

theorem exec_slotPoll (p : Fin 4) (sl : Fin 16) (s : State) : exec (.slotPoll p sl) s = execSlotPoll p sl s := rfl

theorem exec_slotRemovalComplete (p : Fin 4) (sl : Fin 16) (s : State) :
    exec (.slotRemovalComplete p sl) s = execSlotRemovalComplete p sl s := rfl

theorem exec_geoRead (p : Fin 4) (sl : Fin 16) (h : HdrOff) (s : State) :
    exec (.geoRead p sl h) s = execGeoRead p sl h s := rfl

theorem exec_geoWrite (p : Fin 4) (sl : Fin 16) (h : HdrOff) (w : BusWord) (s : State) :
    exec (.geoWrite p sl h w) s = execGeoWrite p sl h w s := rfl

theorem exec_bcastWrite (p : Fin 4) (h : HdrOff) (w : BusWord) (s : State) :
    exec (.bcastWrite p h w) s = execBcastWrite p h w s := rfl

theorem exec_iack (p : Fin 4) (sl : Fin 16) (h : HdrLevel) (s : State) : exec (.iack p sl h) s = execIack p sl h s := rfl

theorem exec_monitorEnd (p : Fin 4) (seen : Bool) (s : State) :
    exec (.monitorEnd p seen) s = execMonitorEnd p seen s := rfl

/-- Settles O41, row by row: a slot's own cycle begins, a member answers what its words and its line say, and MONITOR ends in
CONFLICT or in control of the segment. -/
theorem fiuthModules : Obligations.FiuthModules := by
  unfold Obligations.FiuthModules
  refine ⟨fun s p sl hl hst hnew hown => ?presence, fun s p sl hl hst hnew hown => ?again,
    fun s p sl hl hst hpres => ?poll, fun s p sl hl hrem hdef htags => ?removed,
    fun s p sl off hl hm hoff => ?read, fun s p sl off hl hm => ?badRead, fun s p sl off w hl hm hw => ?write,
    fun s p off w hl hst hdeaf hw => ?bcast, fun s p sl l hl hst hm hirq hctl hlvl hcause => ?iack,
    fun s p hl hst => ?conflict, fun s p hl hst hrst => ?control, fun s p hl hst hrst => ?reset⟩
  case presence => exact (exec_modulePresence p sl s).trans (lift_live_eq hl (presence_begins hst hnew hown))
  case again => exact (exec_presenceRetry p sl s).trans (lift_live_eq hl (presence_begins hst hnew hown))
  case poll => exact (exec_slotPoll p sl s).trans (lift_live_eq hl (if_pos (by simp [hst, hpres])))
  case removed => exact (exec_slotRemovalComplete p sl s).trans (execSlotRemovalComplete_last hl hrem hdef htags)
  case read => exact (exec_geoRead p sl _ s).trans (execGeoRead_low hl hm hoff)
  case badRead => exact (exec_geoRead p sl _ s).trans (execGeoRead_bad off hl hm)
  case write => exact (exec_geoWrite p sl _ w s).trans (execGeoWrite_good off hl hm hw)
  case bcast => exact (exec_bcastWrite p _ w s).trans (execBcastWrite_member off hl hst hdeaf hw)
  case iack =>
    have hmember : (s.dev.headerSeen p 8).fpState p = 4 := (headerSeen_fpState _ p 8).trans hst
    exact (exec_iack p sl _ s).trans (execIack_own hl hst hm (irqLine_named hmember hirq hctl hlvl hcause))
  case conflict => exact (exec_monitorEnd p true s).trans (execMonitorEnd_other hl hst)
  case control =>
    exact (exec_monitorEnd p false s).trans ((execMonitorEnd_alone hl hst).trans (congrArg _ (after_congr (if_pos hrst))))
  case reset =>
    exact (exec_monitorEnd p false s).trans ((execMonitorEnd_alone hl hst).trans (congrArg _ (after_congr (if_neg (by simp [hrst])))))

end Sys2Proof.Machine
end

section
/-! Interrupt and side-band lines of Fiuth (R299 to R302, R330): F_IRQ of a controller, F_HALT, F_SYNC and F_RST of a port. -/

namespace Sys2Proof.Machine

/-! ### Interrupts -/

/-- A key whose entries are all kept. -/
theorem mget_filter {α : Type} [Inhabited α] (m : SMap α) {keep : Nat → Bool} {k : Nat} (h : keep k = true) :
    mget (m.filter fun q => keep q.1) k = mget m k := by
  induction m with
  | nil => rfl
  | cons q m ih =>
    rw [List.filter_cons]
    split
    · exact congrArg (if k = q.1 then q.2 else ·) ih
    · next hq =>
      have hne : k ≠ q.1 := fun he => hq (he ▸ h)
      exact ih.trans (if_neg hne).symm

/-- The levels that F_IRQ carries: recorded, and those it leaves start their passes anew. -/
def Dev.irqSeen (p irq : Nat) (d : Dev) : Dev :=
  (d.setF (F.fiuStat_IRQ_IN p) irq).modFp p fun x => { x with pass := x.pass.filter (fun q => nbit irq q.1) }

section
variable {p : Fin 4}

theorem irqSeen_fp (d : Dev) (irq : Nat) :
    (d.irqSeen p irq).fp p = { d.fp p with pass := (d.fp p).pass.filter (fun q => nbit irq q.1) } := by
  rw [Dev.irqSeen, fp_modFp, setF_fp]

/-- IRQ_IN shares its register with the state, but no bit. -/
theorem irqSeen_fpState (d : Dev) (irq : Nat) : (d.irqSeen p irq).fpState p = d.fpState p := by
  rw [Dev.irqSeen, Dev.fpState, modFp_f]
  exact f_setF_apart d (F.fiuStat_IRQ_IN p) (F.fiuStat_STATE p) irq (show 16 ≤ 23 by decide) (show 23 < 36 by decide)
    (show 33 ≤ 35 by decide) rfl (.inl (show 23 < 33 by decide))

theorem irqSeen_slots (d : Dev) (irq l : Nat) :
    (d.irqSeen p irq).f (F.fiuIrqMap_SLOTS p l) = d.f (F.fiuIrqMap_SLOTS p l) := by
  rw [Dev.irqSeen, modFp_f]
  refine f_setF_reg d _ _ irq ?_
  dsimp only
  omega

/-- R299: the highest level that is mapped and not held off, before its pass is through, on a port that can take a cycle more. -/
theorem irqService_acknowledges {d : Dev} {irq l sl : Nat} {rest : List Nat} (hst : d.fpState p = 2)
    (hfind : [7, 6, 5, 4, 3, 2, 1, 0].find? (fun l =>
      nbit irq l && d.f (F.fiuIrqMap_SLOTS p l) ≠ 0 && !nbit (d.fp p).holdoff l) = some l)
    (hord : (d.irqSeen p irq).irqOrder p l = sl :: rest) (hpass : mget ((d.irqSeen p irq).fp p).pass l ≤ rest.length)
    (hack : (d.fp p).iacking = false) (hmsgs : (d.fp p).msgs.length < 16) (hfill : (d.fp p).nFill < 16)
    (hopen : (d.fp p).closing = false) :
    d.irqService p irq = (d.irqSeen p irq).ownPush p
      { cmd := 8, addr := mkW [(35, 32, sl), (2, 0, l)], cnt := 1, ws := [], k := 0, got := [], retries := 0,
        owner := .iack l sl } := by
  have hlevel : nbit irq l = true := by
    have hl := List.find?_some hfind
    simp only [Bool.and_eq_true] at hl
    exact hl.1.1
  have hkept : mget (d.fp p).pass l ≤ rest.length := by
    rw [irqSeen_fp] at hpass
    exact (mget_filter (d.fp p).pass hlevel).symm.le.trans hpass
  have hseen : ((d.setF (F.fiuStat_IRQ_IN p) irq).modFp p fun x =>
      { x with pass := x.pass.filter (fun q => nbit irq q.1) }) = d.irqSeen p irq := rfl
  have hport : (d.setF (F.fiuStat_IRQ_IN p) irq).fp p = d.fp p := setF_fp d _ irq p
  unfold Dev.irqService
  dsimp only
  rw [hseen]
  rw [if_neg (not_not.mpr ((irqSeen_fpState d irq).trans hst))]
  simp only [irqSeen_slots, hport, hfind, hord]
  exact (if_neg (Nat.not_le.mpr (Nat.lt_succ_of_le hkept))).trans (if_neg (by simp [hack, hopen, hmsgs, hfill]))

/-! ### F_HALT, F_SYNC, F_RST -/

/-- R300: a level of F_HALT other than the one seen last, where no message is made of it. -/
theorem haltLevel_changed {d : Dev} {lv : Bool} (hin : d.fb (F.fiuStat_HALT_IN p) = !lv) (hmsg : d.msgOn p 9 = false) :
    d.haltLevel p lv =
      if lv then ((d.setF (F.fiuStat_HALT_IN p) (bit lv)).event 0x703 p (toW (bit lv))).modFp p fun x =>
        { x with granted := none }
      else (d.setF (F.fiuStat_HALT_IN p) (bit lv)).event 0x703 p (toW (bit lv)) := by
  have hquiet {e : Dev} (he : e.f (F.brgMsg_SRC p) = (d.setF (F.fiuStat_HALT_IN p) (bit lv)).f (F.brgMsg_SRC p)) :
      ¬e.msgOn p 9 = true := by
    have hoff : (F.brgMsg_SRC p).off ≠ (F.fiuStat_HALT_IN p).off := by
      dsimp only
      omega
    rw [Dev.msgOn, he, f_setF_reg d _ _ _ hoff]
    exact Bool.eq_false_iff.mp hmsg
  refine (if_neg (by rw [hin]; cases lv <;> decide)).trans (if_neg (hquiet ?_))
  cases lv with
  | true => rw [if_pos rfl, modFp_f, event_f]
  | false => rw [if_neg Bool.false_ne_true, event_f]

theorem execHaltChange_seen {s : State} {lv : Bool} (hl : s.live = true) (hown : s.dev.haltOwn p = false)
    (hin : s.dev.fb (F.fiuStat_HALT_IN p) = !lv) (hmsg : s.dev.msgOn p 9 = false) :
    execHaltChange p lv s = .next (s.after fun d =>
      let e := ((d.modFp p fun x => { x with haltExt := lv }).setF (F.fiuStat_HALT_IN p) (bit lv)).event 0x703 p
        (toW (bit lv))
      if lv then e.modFp p fun x => { x with granted := none } else e) := by
  refine lift_live_eq hl ?_
  dsimp only
  rw [hown, Bool.or_false]
  exact haltLevel_changed hin hmsg

/-- R301: F_SYNC of a controller in MODE 1, at a start of its period. -/
theorem execSyncPeriodic_due {s : State} (hl : s.live = true) (hst : s.dev.fpState p = 2)
    (hmode : s.dev.f (F.fiuSyncCfg_MODE p) = 1)
    (hper : s.dev.now % 2 ^ 36 * 1000 / 2 ^ 36 % Nat.min 1000 (Nat.max 1 (s.dev.f (F.fiuSyncCfg_PERIOD p))) = 0) :
    execSyncPeriodic p s = .next (s.after fun d => d.emit (.fiuLine p 2 1)) := by
  refine lift_live_eq hl (if_pos ?_)
  rw [hst, hmode, hper]
  decide

/-- R302: the end of a segment's reset, which answers the command that asked for it. -/
def Dev.resetEnded (p : Nat) (m : Option Nat) (d : Dev) : Dev :=
  let d := (d.modFp p fun x => { x with
    segReset := none, rstOut := false
    represent := (List.range 16).filter fun sl => d.fb (F.fiuMod_PRESENT p sl) }).emit (.fiuLine p 1 0)
  let d := (d.haltRefresh p).failDeferred p
  let d := forN 16 (fun sl d => d.setF (F.fiuMod_EN p sl) 0) d
  let d := forN 8 (fun l d => d.setF (F.fiuIrqMap_SLOTS p l) 0) d
  match m with
  | some n => d.finish n stOK []
  | none => d

theorem segResetDone_driven {d : Dev} {m : Option Nat} (hreset : (d.fp p).segReset = some m)
    (hrst : (d.fp p).rstOut = true) : d.segResetDone p = d.resetEnded p m := by
  unfold Dev.segResetDone
  rw [hreset, hrst]
  rfl

end

/-! ### The rows -/

theorem exec_irqService (p : Fin 4) (irq : BitVec 8) (s : State) :
    exec (.irqService p irq) s = execIrqService p irq s := rfl

theorem exec_strayHoldoffExpiry (p : Fin 4) (l : Fin 8) (s : State) :
    exec (.strayHoldoffExpiry p l) s = execStrayHoldoffExpiry p l s := rfl

theorem exec_haltChange (p : Fin 4) (lv : Bool) (s : State) : exec (.haltChange p lv) s = execHaltChange p lv s := rfl

theorem exec_syncPeriodic (p : Fin 4) (s : State) : exec (.syncPeriodic p) s = execSyncPeriodic p s := rfl

theorem exec_syncEdge (p : Fin 4) (s : State) : exec (.syncEdge p) s = execSyncEdge p s := rfl

theorem exec_rstSampled (p : Fin 4) (s : State) : exec (.rstSampled p) s = execRstSampled p s := rfl

theorem exec_segResetDone (p : Fin 4) (s : State) : exec (.segResetDone p) s = execSegResetDone p s := rfl

/-- Settles O40, row by row: the level that F_IRQ's service takes, and each change or sample of a side-band line. -/
theorem fiuthLines : Obligations.FiuthLines := by
  unfold Obligations.FiuthLines
  refine ⟨fun s p irq l sl rest hl hst hfind hord hpass hack hmsgs hfill hopen => ?irq, fun s p l hl => ?holdoff,
    fun s p lv hl hown hin hmsg => ?halt, fun s p hl hst hmode hper => ?periodic, fun s p hl hst => ?sync,
    fun s p hl => ?rst, fun s p m hl hreset hrst => ?reset⟩
  case irq =>
    exact (exec_irqService p irq s).trans
      (lift_live_eq hl (irqService_acknowledges hst hfind hord hpass hack hmsgs hfill hopen))
  case holdoff => exact (exec_strayHoldoffExpiry p l s).trans (lift_live hl _)
  case halt => exact (exec_haltChange p lv s).trans (execHaltChange_seen hl hown hin hmsg)
  case periodic => exact (exec_syncPeriodic p s).trans (execSyncPeriodic_due hl hst hmode hper)
  case sync => exact (exec_syncEdge p s).trans (lift_live_eq hl (if_neg hst))
  case rst => exact (exec_rstSampled p s).trans (lift_live hl _)
  case reset => exact (exec_segResetDone p s).trans (lift_live_eq hl (segResetDone_driven hreset hrst))

end Sys2Proof.Machine
end

section
/-! Cycles on a Fiuth segment (R283 to R286, R290, R292 to R294, R297, R306): what an answer, a reply or a time limit makes of a
cycle of TM9's own, what a header of another master does, and a grant that is not used (R389). -/

namespace Sys2Proof.Machine

/-! ### Answers to a cycle of TM9's own -/

theorem portIdle_busy {d : Dev} {p : Nat} (h : (d.fp p).busy = true) : d.portIdle p = d := if_pos h

section
variable {d : Dev} {p : Nat} {o : Own}

theorem slaveAnswer_accept (hcur : (d.fp p).cur = some o) (b : BusWord) : d.slaveAnswer p (.accept b) = d.ownAccept p b o := by
  unfold Dev.slaveAnswer
  rw [hcur]

theorem slaveAnswer_reject (hcur : (d.fp p).cur = some o) :
    d.slaveAnswer p .reject = (d.inc (F.fiuErrcnt_REJ p) 1).ownFail p 3 := by
  unfold Dev.slaveAnswer
  rw [hcur]

theorem slaveAnswer_retry (hcur : (d.fp p).cur = some o) : d.slaveAnswer p .retry = d.ownRetry p o := by
  unfold Dev.slaveAnswer
  rw [hcur]

/-- R292: a read may be deferred before its first word. -/
theorem slaveAnswer_defer (hcur : (d.fp p).cur = some o) (src : Fin 17) (t : Byte) (hread : o.isRead = true) (hk : o.k = 0) :
    d.slaveAnswer p (.defer src t) = d.ownDefer p src t.toNat o := by
  unfold Dev.slaveAnswer
  rw [hcur]
  exact if_pos (by simp [hread, hk])

/-- R286: an answer after the time limit. -/
theorem slaveAnswer_late (hcur : (d.fp p).cur = none) (hlate : (d.fp p).late = true) (a : BusAnswer) :
    d.slaveAnswer p a = d.fiuProto p (d.fp p).lastCmd := by
  unfold Dev.slaveAnswer
  rw [hcur]
  exact if_pos hlate

theorem ownAccept_more {b : BusWord} (h : o.k + 1 < o.cnt) :
    d.ownAccept p b o = (if (o.isRead || o.cmd = 8 || o.cmd = 10) && b.bad then d.fiuPar p 0 else d).modFp p fun x => { x with
      cur := some { o with k := o.k + 1
                           got := if o.isRead || o.cmd = 8 || o.cmd = 10 then o.got ++ [(b.w, b.bad)] else o.got } } :=
  if_neg (Nat.not_le.mpr h)

theorem ownAccept_last {b : BusWord} (h : o.k + 1 = o.cnt) :
    let e := { o with k := o.k + 1
                      got := if o.isRead || o.cmd = 8 || o.cmd = 10 then o.got ++ [(b.w, b.bad)] else o.got }
    d.ownAccept p b o =
      (((if (o.isRead || o.cmd = 8 || o.cmd = 10) && b.bad then d.fiuPar p 0 else d).ownOff p).slotAnswered p e true).ownEnd p e
        true 0 :=
  if_pos h.ge

/-- The cycle goes on with its next word. -/
theorem accepted_busy (e : Own) : ((d.modFp p fun x => { x with cur := some e }).fp p).busy = true := by
  rw [fp_modFp]
  rfl

end

theorem execAnswerTimeout_own {s : State} {p : Fin 4} {o : Own} (hl : s.live = true) (hcur : (s.dev.fp p).cur = some o) :
    execAnswerTimeout p s = .next (s.after fun d =>
      (((d.modFp p fun x => { x with late := true, lockReq := none, other := none }).fiuNoAns p o.addr).ownFail p
        4).portIdle p) := by
  refine lift_live_eq hl ?_
  dsimp only
  rw [fp_modFp]
  dsimp only
  rw [hcur]

theorem execRetryWaitExpiry_first {s : State} {p : Fin 4} {o : Own} {os : List Own} (hl : s.live = true)
    (hwait : (s.dev.fp p).wait = o :: os) :
    execRetryWaitExpiry p s = .next (s.after fun d => d.modFp p fun x => { x with wait := os, queue := o :: x.queue }) := by
  refine lift_live_eq hl ?_
  rw [hwait]

/-! ### Deferred reads -/

/-- R292: a reply is of the first deferred read of its source and tag. -/
theorem findIdx?_deferred {r : DefRd} {tag src : Nat} (rest : List DefRd) (htag : r.tag = tag) (hsrc : r.src = src) :
    (r :: rest).findIdx? (fun r => r.tag == tag && r.src == src) = some 0 := by
  rw [List.findIdx?_cons, if_pos (by simp [htag, hsrc])]

/-- No word of bad parity counts as one. -/
theorem each_good (p : Nat) (ds : List BusWord) (d : Dev) (h : ds.all (fun b => !b.bad) = true) :
    each ds (fun b d => if b.bad then d.fiuPar p 0 else d) d = d := by
  unfold each
  induction ds with
  | nil => rfl
  | cons b ds ih =>
    rw [List.all_cons, Bool.and_eq_true] at h
    rw [List.foldl_cons]
    exact (congrArg (ds.foldl _) (if_neg (by simpa using h.1))).trans (ih h.2)

theorem replyCycle_accepted {d : Dev} {p : Fin 4} {hdr : BusWord} {ds : List BusWord} {r : DefRd} {rest : List DefRd}
    (hst : d.fpState p = 2 ∨ d.fpState p = 4) (hdeaf : d.fpDeaf p = false) (hmine : bitsOf hdr.w 12 8 = d.myCode p)
    (hgood : hdr.bad = false) (hok : bitOf hdr.w 24 = false) (hdef : (d.fp p).deferred = r :: rest)
    (htag : r.tag = bitsOf hdr.w 7 0) (hsrc : r.src = bitsOf hdr.w 17 13) (hds : ds.all (fun b => !b.bad) = true) :
    d.replyCycle p hdr ds =
      ((d.headerSeen p 9).emit (.fiuAns p 0 0 [])).defEnd p 0 r true (ds.map fun b => (b.w, b.bad)) := by
  have hon : ¬((d.fpState p ≠ 2 && d.fpState p ≠ 4) || d.fpDeaf p || bitsOf hdr.w 12 8 ≠ d.myCode p) = true := by
    obtain h | h := hst <;> simp [h, hdeaf, hmine]
  have hfirst : ((d.headerSeen p 9).fp p).deferred = r :: rest := (headerSeen_deferred d p 9).trans hdef
  unfold Dev.replyCycle
  dsimp only
  rw [if_neg hon, if_neg (by simp [hgood]), hfirst, findIdx?_deferred rest htag hsrc]
  dsimp only [List.getElem?_cons_zero]
  rw [if_neg (by simp [hok]), each_good p ds _ hds]

theorem execDeferTimeout_first {s : State} {p : Fin 4} {src : Fin 17} {tag : Byte} {r : DefRd} {rest : List DefRd}
    (hl : s.live = true) (hdef : (s.dev.fp p).deferred = r :: rest) (htag : r.tag = tag.toNat) (hsrc : r.src = src.val) :
    execDeferTimeout p src tag s = .next (s.after fun d =>
      (d.event 0x705 p (mkW [(12, 8, src.val), (7, 0, tag.toNat)])).defEnd p 0 r false []) := by
  refine lift_live_eq hl ?_
  rw [hdef, findIdx?_deferred rest htag hsrc]
  rfl

/-! ### Headers of other masters -/

theorem execHeaderOnSegment_good {s : State} {p : Fin 4} (src : Fin 17) {cmd : BitVec 4} {a : BusWord} (hl : s.live = true)
    (hst : s.dev.fpState p = 2) (hdeaf : s.dev.fpDeaf p = false) (hgood : a.bad = false) (hcmd : cmd.toNat < 12)
    (hlock : cmd.toNat ≠ 5) (hunlock : cmd.toNat ≠ 6) :
    execHeaderOnSegment p src cmd a s = .next (s.after fun d =>
      ((d.headerSeen p cmd.toNat).otherWords cmd.toNat a.w).2.modFp p fun x =>
        { x with other := some ((d.headerSeen p cmd.toNat).otherWords cmd.toNat a.w).1 }) := by
  have hon : (2 ≤ (s.dev.headerSeen p cmd.toNat).fpState p && (s.dev.headerSeen p cmd.toNat).fpState p ≤ 4) = true := by
    simp [hst]
  refine lift_live_eq hl ?_
  dsimp only
  rw [if_neg (by simp [hdeaf]), if_neg (by simp [hgood]), if_neg (by simp [hcmd]), if_neg (by simp [hlock]),
    if_neg (by simp [hunlock])]
  exact if_pos hon

theorem execHeaderOnSegment_bad {s : State} {p : Fin 4} (src : Fin 17) (cmd : BitVec 4) {a : BusWord} (hl : s.live = true)
    (hst : s.dev.fpState p = 2) (hdeaf : s.dev.fpDeaf p = false) (hbad : a.bad = true) :
    execHeaderOnSegment p src cmd a s = .next (s.after fun d =>
      (((d.headerSeen p cmd.toNat).emit (.fiuAns p 1 0 [])).fiuPar p 1).portIdle p) := by
  refine lift_live_eq hl ?_
  dsimp only
  rw [if_neg (by simp [hdeaf]), if_pos (by simp [hst, hbad]), if_neg (by simp [hbad])]

/-- R290: the LOCK_WRITE of the pair that another slave's lock is for. -/
theorem execHeaderOnSegment_unlocks {s : State} {p : Fin 4} {src : Fin 17} {a : BusWord} (hl : s.live = true)
    (hdeaf : s.dev.fpDeaf p = false) (hgood : a.bad = false) (hlock : (s.dev.fp p).lock = some (src.val, a.w, false)) :
    execHeaderOnSegment p src 6 a s = .next (s.after fun d =>
      ((d.modFp p fun x => { x with lock := none }).headerSeen p 6).otherStart p 6 a.w) := by
  refine lift_live_eq hl ?_
  dsimp only
  rw [if_neg (by simp [hdeaf]), if_neg (by simp [hgood]), if_neg (by simp), if_neg (by simp),
    if_pos (by simp [hgood, hlock])]
  rfl

theorem lockBreak_locked {d : Dev} {p m : Nat} {a : Word} {sl : Bool} (hlock : (d.fp p).lock = some (m, a, sl)) :
    d.lockBreak p = (((d.modFp p fun x => { x with lock := none, granted := none }).brgUnlock p).setF
      (F.fiuStat_LOCK_BRK p) 1).event 0x707 p a := by
  unfold Dev.lockBreak
  rw [hlock]

/-! ### Grants -/

theorem fiuDead_granted {d : Dev} {p c : Nat} (h : (d.fp p).granted = some c) :
    d.fiuDead p = (d.modFp p fun x => { x with granted := none, waits := mset x.waits c none }).incEv (F.fiuTwlCnt_DEAD p) 1
      0x810 (twlInst p) (fun _ => toW c) := by
  unfold Dev.fiuDead
  rw [h]

theorem twlDead_granted {d : Dev} {inst code dir : Nat} {g : TwlAns}
    (h : (d.twlOf inst).ans.find? (fun x => x.granted && x.code == code && x.dir == dir) = some g) :
    d.twlDead inst code dir = (d.modTwl inst fun t => { t with ans := t.ans.erase g }).incEv (twlF inst 0x102 35 18) 1 0x810 inst
      (fun _ => toW code) := by
  unfold Dev.twlDead
  rw [h]

theorem execMemberPortGrant_free {s : State} {p : Fin 4} (hl : s.live = true) (hst : s.dev.fpState p = 4)
    (hhalt : s.dev.fb (F.fiuStat_HALT_IN p) = false) (hcur : (s.dev.fp p).cur = none)
    (hopen : (s.dev.fp p).closing = false) :
    execMemberPortGrant p s = .next (s.after fun d => ((d.lockBreak p).modFp p FiuPort.refill).ownStart p) :=
  lift_live_eq hl (if_pos (by rw [hst, hhalt, hcur, hopen]; decide))

end Sys2Proof.Machine
end

section
/-! What a decision of the stores and HBM channels may grant (R381 to R386): no more in a direction than it has ports, one for a
requester, each a request that asked, to the bank of the cycle's role. -/

namespace Sys2Proof.Machine

theorem mem_twlInsert {r q : TwlReq} {qs : List TwlReq} (h : q ∈ twlInsert r qs) : q = r ∨ q ∈ qs := by
  induction qs with
  | nil => exact .inl (List.mem_singleton.mp h)
  | cons a qs ih =>
    unfold twlInsert at h
    split at h
    · rcases List.mem_cons.mp h with rfl | h
      · exact .inr List.mem_cons_self
      · exact (ih h).imp_right (List.mem_cons_of_mem a)
    · exact List.mem_cons.mp h

/-- The requests in order of age are those there were. -/
theorem mem_twlSort {q : TwlReq} {rs : List TwlReq} (h : q ∈ twlSort rs) : q ∈ rs := by
  have hall : ∀ a ∈ twlSort rs, a ∈ rs := by
    unfold twlSort
    refine List.foldlRecOn (motive := fun l => ∀ a ∈ l, a ∈ rs) rs _ (fun a ha => absurd ha List.not_mem_nil) ?_
    intro l hl r hr a ha
    rcases mem_twlInsert ha with rfl | ha
    · exact hr
    · exact hl a ha
  exact hall q h

/-- What holds of a decision between the requests `rs`, at every point of it. -/
structure TwlRun.Sound (kind cycle : Nat) (rs : List TwlReq) (x : TwlRun) : Prop where
  ports (dir : Nat) : x.got.countP (fun g => g.dir == dir) ≤ twlPorts kind dir
  apart : x.got.Pairwise fun g h => g.dir = h.dir → g.code ≠ h.code
  asked {g : TwlReq} : g ∈ x.got → g ∈ rs
  bank {g : TwlReq} : g ∈ x.got → kind = 0 → g.bank = (cycle + g.dir) % 2
  waiting {r : TwlReq} : r ∈ x.rest → r ∈ rs

namespace TwlRun.Sound
variable {kind cycle : Nat} {rs : List TwlReq} {x : TwlRun}

theorem start : Sound kind cycle rs ⟨[], [], rs⟩ where
  ports _ := Nat.zero_le _
  apart := List.Pairwise.nil
  asked h := absurd h List.not_mem_nil
  bank h := absurd h List.not_mem_nil
  waiting h := h

/-- One grant more keeps it, since a request is granted only where it fits. -/
theorem grant (hx : Sound kind cycle rs x) (aged : Bool) {r : TwlReq} (hr : r ∈ rs) :
    Sound kind cycle rs (x.grant kind cycle aged r) := by
  unfold TwlRun.grant
  split
  case isFalse => exact hx
  case isTrue hfits =>
    simp only [TwlRun.fits, Bool.and_eq_true, decide_eq_true_eq, Bool.not_eq_true', List.any_eq_false] at hfits
    obtain ⟨⟨hroom, hother⟩, hbank⟩ := hfits
    have hlast {g : TwlReq} (hg : g ∈ x.got ++ [r]) : g ∈ x.got ∨ g = r :=
      (List.mem_append.mp hg).imp_right List.mem_singleton.mp
    refine ⟨fun dir => ?ports, ?apart, fun hg => ?asked, fun hg hk => ?bank, fun h => hx.waiting (List.mem_of_mem_erase h)⟩
    case ports =>
      rw [List.countP_append, List.countP_singleton]
      split
      · next hdir => exact beq_iff_eq.mp hdir ▸ hroom
      · exact hx.ports dir
    case apart =>
      refine List.pairwise_append.mpr ⟨hx.apart, List.pairwise_singleton _ r, fun g hg h hh => ?_⟩
      obtain rfl := List.mem_singleton.mp hh
      intro hdir hcode
      exact hother g hg (by simp [hdir, hcode])
    case asked =>
      rcases hlast hg with hg | rfl
      · exact hx.asked hg
      · exact hr
    case bank =>
      rcases hlast hg with hg | rfl
      · exact hx.bank hg hk
      · simpa [hk] using hbank

theorem foldl_grant (aged : Bool) {l : List TwlReq} (hl : ∀ r ∈ l, r ∈ rs) (hx : Sound kind cycle rs x) :
    Sound kind cycle rs (l.foldl (TwlRun.grant kind cycle aged) x) :=
  List.foldlRecOn l _ hx fun _ hy r hr => hy.grant aged (hl r hr)

theorem grant_rest (hx : Sound kind cycle rs x) :
    Sound kind cycle rs ((twlSort x.rest).foldl (TwlRun.grant kind cycle false) x) :=
  foldl_grant false (fun _ hr => hx.waiting (mem_twlSort hr)) hx

/-- The requests too old, then the owners of the slots, then the others by age. -/
theorem twlDecide (maxWait : Nat) (slots : List (Option Nat)) :
    Sound kind cycle rs (twlDecide kind cycle maxWait slots rs) := by
  have haged : Sound kind cycle rs (if maxWait = 0 then ⟨[], [], rs⟩
      else (twlSort (rs.filter fun r => maxWait ≤ r.waited)).foldl (TwlRun.grant kind cycle true) ⟨[], [], rs⟩) := by
    split
    · exact start
    · exact foldl_grant true (fun r hr => List.mem_of_mem_filter (mem_twlSort hr)) start
  unfold Machine.twlDecide
  refine grant_rest (List.foldlRecOn slots _ haged fun y hy s _ => ?_)
  split
  · next r hr =>
    obtain ⟨c, -, hfind⟩ := Option.bind_eq_some_iff.mp hr
    exact hy.grant false (hy.waiting (List.mem_of_find?_eq_some hfind))
  · exact hy

end TwlRun.Sound

/-! ### A decision with one request -/

/-- A request of an HBM channel fits while nothing is granted. -/
theorem grant_alone (cycle : Nat) {r : TwlReq} (hdir : r.dir = 0) :
    (⟨[], [], [r]⟩ : TwlRun).grant 2 cycle false r = ⟨[r], [], []⟩ := by
  have hfits : (⟨[], [], [r]⟩ : TwlRun).fits 2 cycle r = true := by
    simp [TwlRun.fits, hdir, twlPorts]
  simp [TwlRun.grant, hfits]

/-- It is granted at a slot that names it, or at the end. -/
theorem twlDecide_alone (cycle maxWait : Nat) (slots : List (Option Nat)) {r : TwlReq} (hdir : r.dir = 0) (hnew : r.waited = 0) :
    twlDecide 2 cycle maxWait slots [r] = ⟨[r], [], []⟩ := by
  have haged : (if maxWait = 0 then ⟨[], [], [r]⟩
      else (twlSort ([r].filter fun r => maxWait ≤ r.waited)).foldl (TwlRun.grant 2 cycle true) ⟨[], [], [r]⟩) =
      (⟨[], [], [r]⟩ : TwlRun) := by
    split
    · rfl
    · next h =>
      rw [List.filter_cons_of_neg (by simp [hnew, h])]
      rfl
  have hend {x : TwlRun} (h : x = ⟨[], [], [r]⟩ ∨ x = ⟨[r], [], []⟩) :
      (twlSort x.rest).foldl (TwlRun.grant 2 cycle false) x = ⟨[r], [], []⟩ := by
    obtain rfl | rfl := h
    · exact grant_alone cycle hdir
    · rfl
  unfold twlDecide
  dsimp only
  rw [haged]
  refine hend (List.foldlRecOn (motive := fun x : TwlRun => x = ⟨[], [], [r]⟩ ∨ x = ⟨[r], [], []⟩) slots _ (.inl rfl)
    fun x hx s _ => ?_)
  split
  · next q hq =>
    obtain ⟨c, -, hfind⟩ := Option.bind_eq_some_iff.mp hq
    have hmem := List.mem_of_find?_eq_some hfind
    obtain rfl | rfl := hx
    · obtain rfl := List.mem_singleton.mp hmem
      exact .inr (grant_alone cycle hdir)
    · exact absurd hmem List.not_mem_nil
  · exact hx

/-- R382, R385: one new request where none waits is granted, and has waited for none. -/
theorem twlDecision_alone {d : Dev} {inst code : Nat} (hkind : inst / 64 = 2) (hpend : (d.twlOf inst).pend = [])
    (hcode : code < 8) :
    d.twlDecision inst [⟨code, 0, 0, 0, 0⟩] [] =
      let d := ((d.twlRead inst (d.twlSlots inst)).inc (twlF inst (0x220 + code) 35 0) 1).maxF
        (twlF inst (0x200 + code) 32 21) 0
      let d := d.modTwl inst fun t => { t with pend := [], cycle := t.cycle + 1, ans := [⟨true, code, 0, none⟩] }
      (each (List.range 8) (fun c d => d.setF (twlF inst (0x200 + c) 35 33) 0) d).twlStep inst := by
  have hasked : [(⟨code, 0, 0, 0, 0⟩ : TwlReq)].foldl (fun l r =>
      if r.code < twlCodes 2 && l.countP (fun q => q.code == r.code) < 4 then l ++ [r] else l) [] = [⟨code, 0, 0, 0, 0⟩] :=
    if_pos (by simp [twlCodes, hcode])
  unfold Dev.twlDecision
  dsimp only
  rw [hkind, hpend, hasked, twlDecide_alone _ _ _ rfl rfl]
  have hnone {α : Type} (f : α → Dev → Dev) (d : Dev) : each [] f d = d := rfl
  have hone {α : Type} (a : α) (f : α → Dev → Dev) (d : Dev) : each [a] f d = f a d := rfl
  simp only [List.filterMap_nil, List.filter_nil, List.foldl_nil, List.countP_nil, hnone, hone]
  rfl

/-- An HBM channel counts no edges of its own: nothing is caught up. -/
theorem twlCatch_hbm {inst : Nat} (hkind : inst / 64 = 2) (fuel : Nat) (d : Dev) : d.twlCatch inst fuel = d := by
  cases fuel with
  | zero => rfl
  | succ fuel => exact if_pos (by simp [hkind])

theorem execGrantDecision_hbm {s : State} {h : Fin 32} {y : TwlIn} {r : TwlNew} (hl : s.live = true) (hask : y.asked = [r])
    (hgone : y.gone = []) (hcode : r.code.val < 8) (hpend : (s.dev.twlOf (128 + h.val)).pend = []) :
    execGrantDecision (.hbm h) y s = .next (s.after fun d =>
      let d := ((d.twlRead (128 + h) (d.twlSlots (128 + h))).inc (twlF (128 + h) (0x220 + r.code) 35 0) 1).maxF
        (twlF (128 + h) (0x200 + r.code) 32 21) 0
      let d := d.modTwl (128 + h) fun t => { t with pend := [], cycle := t.cycle + 1, ans := [⟨true, r.code, 0, none⟩] }
      (each (List.range 8) (fun c d => d.setF (twlF (128 + h) (0x200 + c) 35 33) 0) d).twlStep (128 + h)) := by
  have hkind : (128 + h.val) / 64 = 2 := by omega
  have hone : y.asked.map (twlReqOf 2) = [⟨r.code, 0, 0, 0, 0⟩] := by
    rw [hask]
    rfl
  have hnone : (y.gone.map fun g => (g.1.val, g.2.val)) = [] := by
    rw [hgone]
    rfl
  refine lift_live_eq hl ?_
  change ((s.dev.twlCatch (128 + h.val) 1024).twlDecision (128 + h.val) (y.asked.map (twlReqOf 2))
    (y.gone.map fun g => (g.1.val, g.2.val))) = _
  rw [hone, hnone, twlCatch_hbm hkind]
  exact twlDecision_alone hkind hpend hcode

end Sys2Proof.Machine
end

section
/-! Decisions of a segment's arbiter (R296, R384 to R387), and the rows of the cycles and of arbitration. -/

namespace Sys2Proof.Machine

/-- Who asks for the segment: the enabled slots whose F_BREQ is seen, and the controller when a cycle of its own may come. -/
def Dev.segAskers (p : Nat) (y : TwlIn) (d : Dev) : List Nat :=
  (List.range 16).filter (fun sl => nbit y.breq.toNat sl && d.fb (F.fiuMod_EN p sl)) ++
    (if (FiuPort.refill (d.fp p)).pick.isSome then [16] else [])

/-- The state in which the decision looks for who is served. -/
def Dev.segAsked (p : Nat) (rs : List Nat) (d : Dev) : Dev :=
  let e := (d.modFp p FiuPort.refill).modFp p fun x => { x with waits := x.waits.filter (fun w => rs.contains w.1) }
  (if (FiuPort.refill (d.fp p)).queue.countP (fun o => o.waited ≥ 1) ≥ 4 then e.inc (F.fiuTwlReq_STALL p 16) 1
    else e).fiuBadSlot p

/-- R296, R300: the port may decide. -/
def Dev.segOpen (p : Nat) (d : Dev) : Prop :=
  let x := FiuPort.refill (d.fp p)
  d.fpState p = 2 ∧ d.fb (F.fiuStat_HALT_IN p) = false ∧ x.cur = none ∧ x.granted = none ∧ x.lock = none ∧ x.segReset = none ∧
    x.closing = false

theorem segOpen_goes {d : Dev} {p : Nat} (h : d.segOpen p) :
    ¬(d.fpState p ≠ 2 || d.fb (F.fiuStat_HALT_IN p) || (FiuPort.refill (d.fp p)).cur.isSome ||
      (FiuPort.refill (d.fp p)).granted.isSome || (FiuPort.refill (d.fp p)).lock.isSome ||
      (FiuPort.refill (d.fp p)).segReset.isSome || (FiuPort.refill (d.fp p)).closing) = true := by
  obtain ⟨hst, hhalt, hcur, hgranted, hlock, hreset, hopen⟩ := h
  rw [hst, hhalt, hcur, hgranted, hlock, hreset, hopen]
  decide

/-- What follows the choice: the counters of a grant, the waits, what is shown, the next slot of the table, the grant itself. -/
def Dev.segServe (p : Nat) (rs : List Nat) (g : Option (Nat × Bool)) (d : Dev) : Dev :=
  let d := match g with
    | some (c, aged) => d.twillCount p c aged
    | none => d
  let d := ((d.modFp p (FiuPort.waitMore rs (g.map (·.1)))).twillShow p (g.map (·.1))).twillStep p
  match g with
  | none => d
  | some (c, _) => if c = 16 then d.ownStart p else (d.modFp p fun x => { x with granted := some c }).emit (.fiuLine p 3 c)

theorem grantDecision_open {d : Dev} {p : Nat} {y : TwlIn} (h : d.segOpen p) :
    d.grantDecision p y.breq.toNat = (d.segAsked p (d.segAskers p y)).segServe p (d.segAskers p y)
      ((d.segAsked p (d.segAskers p y)).twillPick p (d.segAskers p y)) := by
  have hport := fp_modFp d p FiuPort.refill
  have hstate : (d.modFp p FiuPort.refill).fpState p = d.fpState p := modFp_f ..
  have hfb (fl : Fld) : (d.modFp p FiuPort.refill).fb fl = d.fb fl := modFp_fb ..
  have hgoes := segOpen_goes h
  simp only [← hfb] at hgoes
  unfold Dev.grantDecision
  dsimp only
  rw [hport, hstate, if_neg hgoes]
  simp only [hfb]
  rfl

/-! ### No requester -/

theorem pick_empty {x : FiuPort} (h : x.queue = []) : x.pick = none := by
  have hpn : x.pickPN = none := by
    unfold FiuPort.pickPN
    rw [h]
    split_ifs <;> rfl
  unfold FiuPort.pick
  rw [hpn, h]
  dsimp only
  split <;> rfl

theorem twillPick_nobody (d : Dev) (p : Nat) : d.twillPick p [] = none := by
  unfold Dev.twillPick
  dsimp only [List.filter_nil, FiuPort.oldest, List.find?_nil]
  rw [if_neg (by simp)]
  rfl

theorem segAsked_nobody {d : Dev} {p : Nat} (h : (FiuPort.refill (d.fp p)).queue = []) :
    d.segAsked p [] = ((d.modFp p FiuPort.refill).modFp p fun x => { x with waits := [] }).fiuBadSlot p := by
  have hclear : (fun x : FiuPort => { x with waits := x.waits.filter fun w => ([] : List Nat).contains w.1 }) =
      fun x => { x with waits := [] } := by
    funext x
    rw [List.filter_eq_nil_iff.mpr (by simp)]
  unfold Dev.segAsked
  dsimp only
  rw [h, hclear]
  rfl

theorem grantDecision_nobody {d : Dev} {p : Nat} {y : TwlIn} (h : d.segOpen p) (hqueue : (FiuPort.refill (d.fp p)).queue = [])
    (hslots : (List.range 16).filter (fun sl => nbit y.breq.toNat sl && d.fb (F.fiuMod_EN p sl)) = []) :
    d.grantDecision p y.breq.toNat =
      (((((d.modFp p FiuPort.refill).modFp p fun x => { x with waits := [] }).fiuBadSlot p).modFp p
        (FiuPort.waitMore [] none)).twillShow p none).twillStep p := by
  have hrs : d.segAskers p y = [] := by
    rw [Dev.segAskers, hslots, pick_empty hqueue]
    rfl
  rw [grantDecision_open h, hrs, twillPick_nobody, segAsked_nobody hqueue]
  rfl

/-! ### A requester is served -/

theorem waitOf_slot (x : FiuPort) {c : Nat} (h : c ≠ 16) : x.waitOf c = (mget x.waits c).getD 0 := if_neg h

/-- The wait that a grant counts: of the cycle picked, or of the slot. -/
def Dev.segWait (p c : Nat) (d : Dev) : Nat :=
  if c = 16 then (((d.fp p).pick.bind ((d.fp p).queue[·]?)).map (·.waited)).getD 0 else (mget (d.fp p).waits c).getD 0

theorem twillCount_wait (d : Dev) (p c : Nat) (aged : Bool) :
    d.twillCount p c aged =
      let e := if aged then d.incEv (F.fiuTwlCnt_AGED p) 1 0x811 (twlInst p) (fun _ => toW c) else d
      (e.inc (F.fiuTwlGnt_COUNT p c) 1).maxF (F.fiuTwlReq_MAX_WAIT p c) (Nat.min (d.segWait p c) 0xFFF) := by
  unfold Dev.twillCount Dev.segWait
  dsimp only
  by_cases h : c = 16
  · rw [if_pos h, if_pos h]
  · rw [if_neg h, if_neg h, waitOf_slot _ h]

theorem segServe_some (d : Dev) (p : Nat) (rs : List Nat) (c : Nat) (aged : Bool) :
    d.segServe p rs (some (c, aged)) =
      let e := (((d.twillCount p c aged).modFp p (FiuPort.waitMore rs (some c))).twillShow p (some c)).twillStep p
      if c = 16 then e.ownStart p else (e.modFp p fun x => { x with granted := some c }).emit (.fiuLine p 3 c) := rfl

/-- A requester shows as pending after the decision if it was not the one served. -/
theorem twillShow_some (d : Dev) (p c : Nat) :
    d.twillShow p (some c) = forN 17 (fun r d => d.setF (F.fiuTwlReq_PEND p r)
      (if r = 16 then Nat.min 4 ((d.fp p).queue.length - bit (c == 16)) else bit ((mget (d.fp p).waits r).isSome))) d := rfl

theorem grantDecision_served {d : Dev} {p : Nat} {y : TwlIn} {c : Nat} {aged : Bool} (h : d.segOpen p)
    (hpick : (d.segAsked p (d.segAskers p y)).twillPick p (d.segAskers p y) = some (c, aged)) :
    d.grantDecision p y.breq.toNat =
      let rs := d.segAskers p y
      let d1 := d.segAsked p rs
      let d := if aged then d1.incEv (F.fiuTwlCnt_AGED p) 1 0x811 (twlInst p) (fun _ => toW c) else d1
      let d := (d.inc (F.fiuTwlGnt_COUNT p c) 1).maxF (F.fiuTwlReq_MAX_WAIT p c) (Nat.min (d1.segWait p c) 0xFFF)
      let d := d.modFp p (FiuPort.waitMore rs (some c))
      let d := forN 17 (fun r d => d.setF (F.fiuTwlReq_PEND p r)
        (if r = 16 then Nat.min 4 ((d.fp p).queue.length - bit (c == 16)) else bit ((mget (d.fp p).waits r).isSome))) d
      if c = 16 then (d.twillStep p).ownStart p
      else ((d.twillStep p).modFp p fun x => { x with granted := some c }).emit (.fiuLine p 3 c) := by
  rw [grantDecision_open h, hpick, segServe_some, twillCount_wait, twillShow_some]

/-! ### The rows -/

theorem exec_slaveAnswer (p : Fin 4) (a : BusAnswer) (s : State) : exec (.slaveAnswer p a) s = execSlaveAnswer p a s := rfl

theorem exec_answerTimeout (p : Fin 4) (s : State) : exec (.answerTimeout p) s = execAnswerTimeout p s := rfl

theorem exec_retryWaitExpiry (p : Fin 4) (s : State) : exec (.retryWaitExpiry p) s = execRetryWaitExpiry p s := rfl

theorem exec_reply (p : Fin 4) (h : BusWord) (ds : List BusWord) (s : State) :
    exec (.reply p h ds) s = execReply p h ds s := rfl

theorem exec_deferTimeout (p : Fin 4) (src : Fin 17) (tag : Byte) (s : State) :
    exec (.deferTimeout p src tag) s = execDeferTimeout p src tag s := rfl

theorem exec_grantDecision (a : TwlAt) (y : TwlIn) (s : State) :
    exec (.grantDecision a y) s = execGrantDecision a y s := rfl

theorem exec_headerAfterGrantMissed (x : TwlDead) (s : State) :
    exec (.headerAfterGrantMissed x) s = execHeaderAfterGrantMissed x s := rfl

theorem exec_tenureTimeout (p : Fin 4) (s : State) : exec (.tenureTimeout p) s = execTenureTimeout p s := rfl

theorem exec_memberPortGrant (p : Fin 4) (s : State) : exec (.memberPortGrant p) s = execMemberPortGrant p s := rfl

theorem exec_headerOnSegment (p : Fin 4) (src : Fin 17) (cmd : BitVec 4) (a : BusWord) (s : State) :
    exec (.headerOnSegment p src cmd a) s = execHeaderOnSegment p src cmd a s := rfl

theorem exec_lockWindowExpiry (p : Fin 4) (s : State) : exec (.lockWindowExpiry p) s = execLockWindowExpiry p s := rfl

/-- An answer to the port's own cycle, after which it may be idle. -/
theorem execSlaveAnswer_eq {s : State} {p : Fin 4} {a : BusAnswer} {g : Dev → Dev} (hl : s.live = true)
    (h : s.dev.slaveAnswer p a = g s.dev) : execSlaveAnswer p a s = .next (s.after fun d => (g d).portIdle p) :=
  lift_live_eq hl (congrArg (Dev.portIdle p) h)

/-- Settles O39, row by row; the bound on the grants is `TwlRun.Sound.twlDecide`. -/
theorem fiuthCycles : Obligations.FiuthCycles := by
  unfold Obligations.FiuthCycles
  refine ⟨fun s p o b hl hcur hmore => ?more, fun s p o b hl hcur hlast => ?last, fun s p o hl hcur => ?reject,
    fun s p a hl hcur hlate => ?late, fun s p o hl hcur _ => ?retry, fun s p o src t hl hcur hread hk => ?defer,
    fun s p o hl hcur => ?silent, fun s p o os hl hwait => ?again,
    fun s p h ds r rest hl hst hdeaf hmine hgood hok hdef htag hsrc hds => ?reply,
    fun s p src tag r rest hl hdef htag hsrc => ?deferLost,
    fun s p y hl hst hhalt hcur hgranted hlock hreset hopen hqueue hnone => ?nobody,
    fun s p y c aged hl hst hhalt hcur hgranted hlock hreset hopen hpick => ?served,
    fun s h y r hl hask hgone hcode hpend => ?channel, fun s p c hl hgranted => ?unused,
    fun s a code rd g hl hfind => ?unusedStore, fun s p hl hst => ?tenure,
    fun s p hl hst hhalt hcur hopen => ?member, fun s p src cmd a hl hst hdeaf hgood hcmd hlock hunlock => ?header,
    fun s p src cmd a hl hst hdeaf hbad => ?badHeader, fun s p src a hl hdeaf hgood hlock => ?unlock,
    fun s p m a sl hl hlock => ?lockOver, fun kind cycle maxWait slots rs dir => ?bound⟩
  case more =>
    refine (exec_slaveAnswer p _ s).trans (lift_live_eq hl ?_)
    rw [slaveAnswer_accept hcur, ownAccept_more hmore, portIdle_busy (accepted_busy _)]
  case last =>
    exact (exec_slaveAnswer p _ s).trans
      (execSlaveAnswer_eq hl ((slaveAnswer_accept hcur b).trans (ownAccept_last hlast)))
  case reject => exact (exec_slaveAnswer p _ s).trans (execSlaveAnswer_eq hl (slaveAnswer_reject hcur))
  case late => exact (exec_slaveAnswer p a s).trans (execSlaveAnswer_eq hl (slaveAnswer_late hcur hlate a))
  case retry => exact (exec_slaveAnswer p _ s).trans (execSlaveAnswer_eq hl (slaveAnswer_retry hcur))
  case defer =>
    exact (exec_slaveAnswer p _ s).trans (execSlaveAnswer_eq hl (slaveAnswer_defer hcur src t hread hk))
  case silent => exact (exec_answerTimeout p s).trans (execAnswerTimeout_own hl hcur)
  case again => exact (exec_retryWaitExpiry p s).trans (execRetryWaitExpiry_first hl hwait)
  case reply =>
    exact (exec_reply p h ds s).trans
      (lift_live_eq hl (replyCycle_accepted hst hdeaf hmine hgood hok hdef htag hsrc hds))
  case deferLost => exact (exec_deferTimeout p src tag s).trans (execDeferTimeout_first hl hdef htag hsrc)
  case nobody =>
    refine (exec_grantDecision _ y s).trans (lift_live_eq hl ?_)
    exact grantDecision_nobody ⟨hst, hhalt, hcur, hgranted, hlock, hreset, hopen⟩ hqueue hnone
  case served =>
    refine (exec_grantDecision _ y s).trans (lift_live_eq hl ?_)
    exact grantDecision_served ⟨hst, hhalt, hcur, hgranted, hlock, hreset, hopen⟩ hpick
  case channel => exact (exec_grantDecision _ y s).trans (execGrantDecision_hbm hl hask hgone hcode hpend)
  case unused => exact (exec_headerAfterGrantMissed _ s).trans (lift_live_eq hl (fiuDead_granted hgranted))
  case unusedStore => exact (exec_headerAfterGrantMissed _ s).trans (lift_live_eq hl (twlDead_granted hfind))
  case tenure => exact (exec_tenureTimeout p s).trans (lift_live_eq hl (if_neg hst))
  case member => exact (exec_memberPortGrant p s).trans (execMemberPortGrant_free hl hst hhalt hcur hopen)
  case header =>
    exact (exec_headerOnSegment p src cmd a s).trans
      (execHeaderOnSegment_good src hl hst hdeaf hgood hcmd hlock hunlock)
  case badHeader => exact (exec_headerOnSegment p src cmd a s).trans (execHeaderOnSegment_bad src cmd hl hst hdeaf hbad)
  case unlock => exact (exec_headerOnSegment p src 6 a s).trans (execHeaderOnSegment_unlocks hl hdeaf hgood hlock)
  case lockOver => exact (exec_lockWindowExpiry p s).trans (lift_live_eq hl (lockBreak_locked hlock))
  case bound =>
    have hsound : TwlRun.Sound kind cycle rs (twlDecide kind cycle maxWait slots rs) := .twlDecide maxWait slots
    exact ⟨hsound.ports dir, hsound.apart, fun g hg => ⟨hsound.asked hg, hsound.bank hg⟩⟩

end Sys2Proof.Machine
end

section
/-! The queue of commands: a step takes its front away, and no command adds to it (spec/95). -/

namespace Sys2Proof.Machine

/-- Settles O1: the step's case for a waiting command. -/
theorem stepRunsFront : Obligations.StepRunsFront := by
  unfold Obligations.StepRunsFront
  intro s c rest hq
  rw [step, hq]

/-! ### Meanings that leave the queue -/

/-- The state that the meaning answers with has the queue that it was given. -/
def KeepsQueue (m : State → R) : Prop := ∀ s t, m s = .next t → t.pending = s.pending

theorem keepsQueue_next {f : State → State} (hf : ∀ s, (f s).pending = s.pending) : KeepsQueue fun s => .next (f s) := by
  intro s t h
  injection h with h
  rw [← h, hf]

theorem keepsQueue_of_next {m : State → R} {f : State → State} (hm : ∀ s, m s = .next (f s))
    (hf : ∀ s, (f s).pending = s.pending) : KeepsQueue m :=
  fun s t h => keepsQueue_next hf s t ((hm s).symm.trans h)

theorem keepsQueue_gate {f : State → State} (hf : ∀ s, (f s).pending = s.pending) : KeepsQueue (gate f) :=
  keepsQueue_next fun s => by
    split
    · rfl
    · exact hf s

theorem keepsQueue_lift (f : Dev → Dev) : KeepsQueue (lift f) := keepsQueue_gate fun _ => rfl

theorem keepsQueue_liftRd (f : Fuses → KeepStore → Dev → Dev) : KeepsQueue (liftRd f) := keepsQueue_gate fun _ => rfl

theorem keepsQueue_liftBb (f : Dev → Dev) : KeepsQueue (liftBb f) := keepsQueue_gate fun _ => flushBb_pending _

theorem keepsQueue_tied {m : State → R} (hm : KeepsQueue m) (kind idx : Nat) (has : Dev → Dev → Bool) :
    KeepsQueue (tied kind idx has m) := by
  intro s t h
  obtain ⟨u, hu, rfl⟩ := tied_cases h
  exact hm s u hu

theorem keepsQueue_issueOf {m : State → R} (hm : KeepsQueue m) (e : Nat) : KeepsQueue (issueOf e m) :=
  keepsQueue_tied hm 0 e _

theorem keepsQueue_ite {p : State → Prop} [DecidablePred p] {m n : State → R} (hm : KeepsQueue m) (hn : KeepsQueue n) :
    KeepsQueue fun s => if p s then m s else n s := by
  intro s t h
  dsimp only at h
  split at h
  · exact hm s t h
  · exact hn s t h

theorem keepsQueue_of_gate {m : State → R} {f : State → State} (hm : ∀ s, m s = gate f s)
    (hf : ∀ s, (f s).pending = s.pending) : KeepsQueue m :=
  fun s t h => keepsQueue_gate hf s t ((hm s).symm.trans h)

/-! ### Operations on the keep store -/

theorem ksFinish_pending (s : State) : (ksFinish s).pending = s.pending := by
  unfold ksFinish
  split <;> rfl

theorem ksInterrupt_pending (s : State) : (ksInterrupt s).pending = s.pending := by
  unfold ksInterrupt
  split <;> rfl

theorem ksShutdown_pending (s : State) : (ksShutdown s).pending = s.pending := by
  unfold ksShutdown
  dsimp only
  split
  · split <;> rfl
  · exact ksInterrupt_pending s

/-! ### Every command -/

theorem exec_keepsQueue (c : Instr) : KeepsQueue (exec c) := by
  cases c with
  | nop | pinSet | pinPulse | sysref | calApply | routeSwitch | trigger | mark | event =>
    exact keepsQueue_issueOf (keepsQueue_lift _) _
  | regWriteAction => exact keepsQueue_issueOf (keepsQueue_liftBb _) _
  | stealSearch u =>
    change KeepsQueue (execStealSearch u)
    exact keepsQueue_tied (keepsQueue_liftBb _) _ _ _
  | loopWatchdogExpiry k =>
    change KeepsQueue (execLoopWatchdogExpiry k)
    exact keepsQueue_tied (keepsQueue_lift _) _ _ _
  | vaonApplied | resetRelease | wakeRequest | wakeRailEnable => exact keepsQueue_of_next (fun _ => rfl) fun _ => rfl
  | rstNAsserted =>
    exact keepsQueue_ite (keepsQueue_next fun _ => rfl)
      (keepsQueue_of_next (fun _ => rfl) fun s => ksInterrupt_pending s)
  | supplyLoss =>
    exact keepsQueue_ite (keepsQueue_of_next (fun _ => rfl) fun _ => rfl)
      (keepsQueue_gate fun s => ksInterrupt_pending { s with dev := (s.dev.error 22 3 0 0 0 0).settle })
  | sensorConversion i t =>
    refine keepsQueue_ite (keepsQueue_of_next (fun _ => rfl) fun _ => rfl) (keepsQueue_gate fun s => ?_)
    generalize s.dev.sensorConv i t.toNat = r
    obtain ⟨shut, d⟩ := r
    dsimp only
    split
    · rw [ksShutdown_pending]
    · rfl
  | standbyEntry =>
    refine keepsQueue_of_gate (fun _ => rfl) fun s => ?_
    split
    · rfl
    · exact ksFinish_pending { s with dev := s.dev.event 0xB01 0 0 }
  | ksErase n =>
    refine keepsQueue_of_gate (fun _ => rfl) fun s => ?_
    dsimp only
    split <;> rfl
  | verifyDone => exact keepsQueue_of_gate (fun _ => rfl) fun _ => flushBb_pending _
  | ksOperationDone => exact keepsQueue_of_gate (fun _ => rfl) fun s => (flushBb_pending _).trans (ksFinish_pending s)
  | egressStall | backlogDrain | routePacket | srtSet | remapComplete | regRead | regWrite | registerWrite
  | stagedLoWrite | hiWriteCommit | blockLock | topViewWrite | cohEnWrite | read | blockRead | write | blockWrite
  | lockRead | lockWrite | immEdge | edge96 | bridgeReadCompletion | retryHoldExpiry | bridgeMsgDelivery | canvasRead
  | hostWideRead | hostPartialWrite | bar2Request | rdS | rdX | naRd | rdNc | wrNc | acc36 | add | min | max | swap
  | cas | lockRd | lockWr | unlock | snpS | snpX | snpInv | snpNa | snpRcl | wb | evict | srsp | cmp | cack | wback
  | pack | data | sdata | hello | helloTimer | formTimeout | map | dead | down | resync | tree | snoopTimeout
  | requestTimeout | cacheSnoopTimeout | lockHoldTimeout | pkt | dataFrame | idleFrame | nakFrame | trainingRetry
  | trainingDone | partnerRefresh | laneRemoval | lysithLaneRejoin | retrainTimeout | downTimeout | resyncTimeout
  | firmwareForward | domainJoin | domainLeave | leaveCopyDone | leaveForwardEnd | taskReady | taskComplete
  | taskStart | beamWaitExpiry | beamSet => exact keepsQueue_of_gate (fun _ => rfl) fun _ => flushBb_pending _
  | _ => exact keepsQueue_of_gate (fun _ => rfl) fun _ => rfl

/-- Settles O3: a step runs the front of the queue, which leaves the rest, or passes an edge with none waiting. -/
theorem commandsInOrder : Obligations.CommandsInOrder := by
  unfold Obligations.CommandsInOrder
  intro s t h
  unfold stepsTo step at h
  split at h
  · next c rest hq => rw [exec_keepsQueue c _ t h, hq, List.tail_cons]
  · next hq =>
    rw [hq, List.tail_nil, ← hq]
    unfold State.idle at h
    split at h
    · exact keepsQueue_next (f := fun s => { s with dev := s.dev.heldTick }) (fun _ => rfl) s t h
    · exact keepsQueue_liftBb _ s t h

end Sys2Proof.Machine
end

section
/-! TM9 held in reset (R455, R457, R463, R467, R474): what a command does then. -/

namespace Sys2Proof.Machine

/-! ### Commands that do nothing -/

theorem held_of_not_live {s : State} (h : s.live = false) : s.dev.pwr.held = true := by
  simpa only [State.live, Bool.not_eq_eq_eq_not, Bool.not_false] using h

/-- With no stop of this edge no other command can turn one. -/
theorem stopCauseNow_none {d : Dev} (h : d.pwr.stopNow = none) : d.stopCauseNow = 0 := by
  rw [Dev.stopCauseNow, h]
  exact ite_self 0

/-- The meaning does nothing while TM9 is held in reset and no stop of this edge can be turned. -/
def StillInReset (m : State → R) : Prop := ∀ s, s.live = false → s.dev.pwr.stopNow = none → m s = .next s

theorem stillInReset_of_gate {m : State → R} {f : State → State} (hm : ∀ s, m s = gate f s) : StillInReset m :=
  fun s hl _ => (hm s).trans (gate_held hl f)

/-- There is no change for a note to keep. -/
theorem stillInReset_tied {m : State → R} (hm : StillInReset m) {kind idx : Nat} {has : Dev → Dev → Bool}
    (hhas : ∀ d, has d d = false) : StillInReset (tied kind idx has m) := by
  intro s hl hstop
  rw [tied, hm s hl hstop]
  dsimp only
  rw [Dev.note, hhas, if_neg Bool.false_ne_true]

theorem stillInReset_issueOf (e : Nat) (f : State → State) : StillInReset (issueOf e (gate f)) :=
  stillInReset_tied (stillInReset_of_gate fun _ => rfl) fun _ => by simp only [bne_self_eq_false, Bool.or_self]

theorem exec_stillInReset {c : Instr} (hc : actsInReset c = false) : StillInReset (exec c) := by
  cases c with
  | vaonApplied | resetRelease | rstNAsserted | wakeRequest | wakeRailEnable => exact absurd hc (by decide)
  | nop | pinSet | pinPulse | sysref | regWriteAction | calApply | routeSwitch | trigger | mark | event =>
    exact stillInReset_issueOf _ _
  | stealSearch u =>
    change StillInReset (execStealSearch u)
    exact stillInReset_tied (stillInReset_of_gate fun _ => rfl) fun d => by cases (d.unit u).run <;> rfl
  | loopWatchdogExpiry k =>
    change StillInReset (execLoopWatchdogExpiry k)
    exact stillInReset_tied (stillInReset_of_gate fun _ => rfl) fun _ => Bool.not_and_self _
  | supplyLoss =>
    intro s hl hstop
    change execSupplyLoss s = _
    rw [execSupplyLoss, stopCauseNow_none hstop, if_neg (by decide), gate_held hl]
  | sensorConversion i t =>
    intro s hl hstop
    change execSensorConversion i t s = _
    rw [execSensorConversion, stopCauseNow_none hstop, if_neg (by decide), gate_held hl]
  | _ => exact stillInReset_of_gate fun _ => rfl

/-! ### Power and reset after a command -/

/-- A gated meaning leaves power and reset as they are in reset. -/
theorem Gated.held_pwr {m : State → R} (hm : Gated m) {s t : State} (hl : s.live = false) (h : m s = .next t) :
    t.dev.pwr = s.dev.pwr := by
  cases hm with
  | plain f hf =>
    rw [hf, gate_held hl] at h
    injection h with h
    rw [h]
  | noted kind idx has f hf =>
    obtain ⟨u, hu, rfl⟩ := tied_cases (hf s ▸ h)
    rw [gate_held hl] at hu
    injection hu with hu
    obtain ⟨ts, hn⟩ := note_eq kind idx (has s.dev u.dev) s.dev u.dev
    dsimp only
    rw [hn, hu]

theorem toReset_held (d : Dev) : d.toReset.pwr.held = true := by
  unfold Dev.toReset
  dsimp only
  refine foldl_keeps (P := fun z : Dev => z.pwr.held = true) (fun z fl hz => ?_) muslinRegs ?_
  · rw [setF_pwr]
    exact hz
  · rfl

theorem loopsFail_pwr (d : Dev) : d.loopsFail.pwr = d.pwr := by
  unfold Dev.loopsFail
  exact forN_keeps (P := fun z : Dev => z.pwr = d.pwr) (fun k z hz => (emit_pwr z _).trans hz) 16 rfl

theorem modPwr_pwr (d : Dev) (f : Pwr → Pwr) : (d.modPwr f).pwr = f d.pwr := rfl

theorem railEn_held (d : Dev) (on : Bool) : (d.railEn on).pwr.held = d.pwr.held := rfl

theorem restop_held (d : Dev) (cause : Nat) : (d.restop cause).pwr.held = d.pwr.held := by
  rw [Dev.restop, modPwr_pwr, setF_pwr]

theorem coolDown_held (d : Dev) : d.coolDown.pwr.held = d.pwr.held := rfl

theorem lateShutdown_held (d : Dev) (i raw : Nat) : (d.lateShutdown i raw).pwr.held = d.pwr.held := by
  unfold Dev.lateShutdown
  split
  · refine iteInduction (motive := fun z : Dev => z.pwr.held = d.pwr.held) (fun _ => ?_) fun _ => rfl
    rw [coolDown_held, railEn_held, modPwr_pwr, restop_held]
  · rfl

theorem not_live_of_held {t : State} (h : t.dev.pwr.held = true) : t.live = false := by rw [State.live, h, Bool.not_true]

/-- Of all commands only RESET_RELEASE brings TM9 out of reset. -/
theorem exec_stays_held {s t : State} {c : Instr} (hl : s.live = false) (hc : c ≠ .resetRelease) (h : exec c s = .next t) :
    t.live = false := by
  have hheld := held_of_not_live hl
  cases hown : ownGate c with
  | false => exact not_live_of_held (((exec_gated hown).held_pwr hl h).symm ▸ hheld)
  | true =>
    refine not_live_of_held ?_
    cases c with
    | vaonApplied =>
      change execVaonApplied s = _ at h
      rw [execVaonApplied_eq] at h
      injection h with h
      rw [← h]
      rw [railEn_held, modPwr_pwr, loopsFail_pwr]
      dsimp only
      rw [toReset_held]
    | resetRelease => exact absurd rfl hc
    | rstNAsserted =>
      change execRstNAsserted s = _ at h
      rw [execRstNAsserted, if_pos hheld] at h
      injection h with h
      rw [← h, hheld]
    | supplyLoss =>
      change execSupplyLoss s = _ at h
      unfold execSupplyLoss at h
      split at h
      · injection h with h
        rw [← h]
        dsimp only
        rw [railEn_held, modPwr_pwr]
        dsimp only
        rw [restop_held, hheld]
      · rw [gate_held hl] at h
        injection h with h
        rw [← h, hheld]
    | wakeRequest =>
      injection h with h
      rw [← h]
      exact iteInduction (motive := fun z : Dev => z.pwr.held = true) (fun _ => hheld) fun _ => hheld
    | wakeRailEnable =>
      injection h with h
      rw [← h]
      exact iteInduction (motive := fun z : Dev => z.pwr.held = true) (fun _ => hheld) fun _ => hheld
    | sensorConversion i x =>
      change execSensorConversion i x s = _ at h
      unfold execSensorConversion at h
      split at h
      · injection h with h
        rw [← h]
        exact (lateShutdown_held _ _ _).trans hheld
      · rw [gate_held hl] at h
        injection h with h
        rw [← h, hheld]
    | _ => exact absurd hown Bool.false_ne_true

/-- With RAIL_EN low reset is not released. -/
theorem resetRelease_railOff {d : Dev} (h : d.pwr.railOff = true) : d.resetRelease = d := by
  rw [Dev.resetRelease, h, Bool.true_or, if_pos rfl]

/-- Settles O5: a gated command does nothing, and of those with a gate of their own just RESET_RELEASE leaves reset. -/
theorem heldInReset : Obligations.HeldInReset := by
  unfold Obligations.HeldInReset
  refine ⟨fun s c hl hstop hc => exec_stillInReset hc s hl hstop, fun s t c hl h ht => ?_⟩
  by_cases hc : c = .resetRelease
  · subst hc
    refine ⟨rfl, Bool.eq_false_of_not_eq_true fun hoff => ?_⟩
    change execResetRelease s = _ at h
    rw [execResetRelease, resetRelease_railOff hoff] at h
    injection h with h
    exact absurd (h ▸ ht) (by rw [hl]; decide)
  · exact absurd ht (by rw [exec_stays_held hl hc h]; decide)

end Sys2Proof.Machine
end

section
/-! Events on a Lysith port (R395 to R397, R401 to R403, R406, R421): what each does where the port's state lets it act. -/

namespace Sys2Proof.Machine

section Port
variable {d : Dev} {n : Nat}

/-! ### Training -/

theorem trainingRetry_trains (hen : d.fb (F.lnkCfg_EN n) = true) (hup : d.portUp n = false)
    (hrec : (d.port n).recovering = false) : d.trainingRetry n = (d.lnkGo n 1).train n := by
  rw [Dev.trainingRetry, hen, hup, hrec]
  rfl

/-- What a training must meet, in the form of the command's own check (R395). -/
theorem trainingAccepted {lanes : Nat} {p : Peer} {stays : Bool} (hen : d.fb (F.lnkCfg_EN n) = true)
    (hlanes : 2 ≤ popcount 4 lanes) (htrunk : p.trunk = d.fb (F.lnkCfg_TRUNK n)) (hrec : (d.port n).recovering = false)
    (hstays : stays = false) :
    (!d.fb (F.lnkCfg_EN n) || decide (popcount 4 lanes < 2) || p.trunk != d.fb (F.lnkCfg_TRUNK n) || (d.port n).recovering
      || stays) = false := by
  rw [hen, hrec, hstays, htrunk, decide_eq_false (Nat.not_lt.mpr hlanes), bne_self_eq_false]
  rfl

/-- A port that was not up starts its frame sequence anew (R395). -/
theorem trainingDone_starts {lanes : Nat} {p : Peer} (hen : d.fb (F.lnkCfg_EN n) = true)
    (hlanes : 2 ≤ popcount 4 (lanes &&& (15 - (d.port n).cutNow))) (htrunk : p.trunk = d.fb (F.lnkCfg_TRUNK n))
    (hrec : (d.port n).recovering = false) (hup : d.portUp n = false) (hre : (d.port n).retraining = false) :
    d.trainingDone n lanes p =
      (((((d.modPort n fun x => { x with
        tx := 0, rx := 0, unacked := [], nakSent := false, naks := 0, credit := [], owed := startOwed, pktLast := false
        rxPart := [], txPart := none, rejoin := 0 }).setF
        (F.lnkStat_LANES n) (lanes &&& (15 - (d.port n).cutNow))).setPeer n p).lnkGo n 2).pump n).creditOut n := by
  have hstays : (d.portUp n && !(d.port n).retraining) = false := by rw [hup]; rfl
  rw [Dev.trainingDone]
  dsimp only
  rw [trainingAccepted hen hlanes htrunk hrec hstays, hre, if_neg Bool.false_ne_true, if_neg Bool.false_ne_true]

/-- A retrain that ends keeps the frame sequence (R402). -/
theorem trainingDone_retrains {lanes : Nat} {p : Peer} (hen : d.fb (F.lnkCfg_EN n) = true)
    (hlanes : 2 ≤ popcount 4 (lanes &&& (15 - (d.port n).cutNow))) (htrunk : p.trunk = d.fb (F.lnkCfg_TRUNK n))
    (hrec : (d.port n).recovering = false) (hre : (d.port n).retraining = true) :
    d.trainingDone n lanes p =
      ((((d.modPort n fun x => { x with
        retraining := false, naks := 0
        rejoin := x.rejoin &&& (15 - (lanes &&& (15 - (d.port n).cutNow))) }).setF
        (F.lnkStat_LANES n) (lanes &&& (15 - (d.port n).cutNow))).setPeer n p).lnkGo n 2).pump n := by
  have hstays : (d.portUp n && !(d.port n).retraining) = false := by rw [hre]; exact Bool.and_false _
  rw [Dev.trainingDone]
  dsimp only
  rw [trainingAccepted hen hlanes htrunk hrec hstays, hre, if_neg Bool.false_ne_true, if_pos rfl]

/-- The registers of the partner's values. -/
def Dev.peerRegs (n : Nat) (p : Peer) (d : Dev) : Dev :=
  (((((d.setF (F.lnkStat_PEER_ID n) p.pkgId.toNat).setF (F.lnkStat_PEER_ID_OK n) (bit p.assigned)).setF
    (F.lnkStat_PEER_PORT n) p.port).setF (F.lnkStat_PEER_BOOT n) p.boot).setF (F.lnkPeerSerLo_SERIAL n) p.serial.toNat).setF
    (F.lnkPeerSerHi_SERIAL n) (p.serial.toNat / 2 ^ 36)

theorem setPeer_eq (d : Dev) (n : Nat) (p : Peer) : d.setPeer n p = (d.peerRegs n p).modPort n fun x =>
    { x with peerOk := true, peerTrunk := p.trunk, peerSerial := p.serial.toNat, fwdWait := false } := rfl

theorem f_peerRegs (d : Dev) (n : Nat) (p : Peer) (fl : Fld) (hstat : fl.off ≠ 0x20011 + 0x800 * n)
    (hlo : fl.off ≠ 0x20012 + 0x800 * n) (hhi : fl.off ≠ 0x20013 + 0x800 * n) : (d.peerRegs n p).f fl = d.f fl := by
  rw [Dev.peerRegs, f_setF_reg _ _ _ _ hhi, f_setF_reg _ _ _ _ hlo, f_setF_reg _ _ _ _ hstat,
    f_setF_reg _ _ _ _ hstat, f_setF_reg _ _ _ _ hstat, f_setF_reg _ _ _ _ hstat]

/-- A refresh of the partner's values changes its three registers only. -/
theorem f_setPeer (d : Dev) (n : Nat) (p : Peer) (fl : Fld) (hstat : fl.off ≠ 0x20011 + 0x800 * n)
    (hlo : fl.off ≠ 0x20012 + 0x800 * n) (hhi : fl.off ≠ 0x20013 + 0x800 * n) : (d.setPeer n p).f fl = d.f fl := by
  rw [setPeer_eq, modPort_f, f_peerRegs d n p fl hstat hlo hhi]

theorem setPeer_serial (d : Dev) (n : Nat) (p : Peer) : (d.setPeer n p).serial = d.serial := by
  rw [setPeer_eq, modPort_serial, Dev.peerRegs, setF_serial, setF_serial, setF_serial, setF_serial, setF_serial, setF_serial]

/-- The partner's values are not TM9's own. -/
theorem ownPeer_setPeer (d : Dev) (n : Nat) (p : Peer) : (d.setPeer n p).ownPeer n = d.ownPeer n := by
  have hid : (d.setPeer n p).f F.topPkg_ID = d.f F.topPkg_ID :=
    f_setPeer d n p _ (by simp only; omega) (by simp only; omega) (by simp only; omega)
  have hassigned : (d.setPeer n p).f F.topPkg_ASSIGNED = d.f F.topPkg_ASSIGNED :=
    f_setPeer d n p _ (by simp only; omega) (by simp only; omega) (by simp only; omega)
  have hboot : (d.setPeer n p).f F.cpBoot_STATE = d.f F.cpBoot_STATE :=
    f_setPeer d n p _ (by simp only; omega) (by simp only; omega) (by simp only; omega)
  have htrunk : (d.setPeer n p).f (F.lnkCfg_TRUNK n) = d.f (F.lnkCfg_TRUNK n) :=
    f_setPeer d n p _ (by simp only; omega) (by simp only; omega) (by simp only; omega)
  rw [Dev.ownPeer, Dev.pkgId, Dev.fb, Dev.fb, setPeer_serial, hid, hassigned, hboot, htrunk]
  rfl

theorem partnerRefresh_up {p : Peer} (hup : d.portUp n = true) :
    d.partnerRefresh n p = (d.setPeer n p).emit (.refresh n ((d.setPeer n p).ownPeer n)) := by
  rw [Dev.partnerRefresh, hup, if_pos rfl, ownPeer_setPeer]

/-! ### Frames -/

/-- A DATA frame with a bad codeword, a bad CRC or another SEQ is answered with a NAK, once (R397). -/
theorem frameAccept_nak {good : Bool} {ws : List Word} (hup : d.portUp n = true) (hnak : (d.port n).nakSent = false)
    (hbad : good = false ∨ frameCrc ws = false ∨ bitsOf (nth ws 0) 35 24 ≠ (d.port n).rx) :
    d.frameAccept n good ws =
      ([], ((d.modPort n fun x => { x with nakSent := true }).inc (F.lnkCnt_NAK n) 1).sendFrame n 2 0 []) := by
  have hno : (good && frameCrc ws && decide (bitsOf (nth ws 0) 35 24 = (d.port n).rx)) = false := by
    rcases hbad with h | h | h
    · rw [h]; rfl
    · rw [h, Bool.and_false]; rfl
    · rw [decide_eq_false h]; exact Bool.and_false _
  rw [Dev.frameAccept]
  dsimp only
  rw [hup, hno, hnak]
  rfl

/-- The messages of an accepted frame are taken one after another. -/
theorem dataFrame_eq (d : Dev) (n : Nat) (good : Bool) (ws : List Word) :
    d.dataFrame n good ws =
      (each (d.frameAccept n good ws).1 (fun m (e : Dev) => (e.msgIn n m).brgSettle) (d.frameAccept n good ws).2).pumpAck n := by
  rw [Dev.dataFrame]

theorem idleFrame_heads {ws : List Word} (hup : d.portUp n = true) (hcrc : frameCrc ws = true) :
    d.idleFrame n ws = (d.frameHead n (nth ws 0)).pump n := by
  rw [Dev.idleFrame, hup, hcrc]
  rfl

/-- The first NAK for a SEQ replays (R397). -/
theorem nakFrame_replays {ws : List Word} (hup : d.portUp n = true) (hcrc : frameCrc ws = true)
    (hfirst : ((d.frameHead n (nth ws 0)).port n).naks = 0 ∨
      ((d.frameHead n (nth ws 0)).port n).nakSeq ≠ bitsOf (nth ws 0) 23 12) :
    d.nakFrame n ws =
      ((((d.frameHead n (nth ws 0)).modPort n fun x =>
        { x with nakSeq := bitsOf (nth ws 0) 23 12, naks := 1 }).replay n).pump n) := by
  have hk : ¬ (decide (((d.frameHead n (nth ws 0)).port n).naks > 0) &&
      decide (((d.frameHead n (nth ws 0)).port n).nakSeq = bitsOf (nth ws 0) 23 12)) = true := by
    rw [Bool.and_eq_true, decide_eq_true_eq, decide_eq_true_eq]
    rintro ⟨hsome, hsame⟩
    rcases hfirst with h | h
    · exact absurd h hsome.ne'
    · exact h hsame
  have hfew : ¬ 1 ≥ 8 := by decide
  rw [Dev.nakFrame]
  dsimp only
  rw [hup, hcrc, if_neg hk, if_neg hfew, Bool.not_true, if_neg Bool.false_ne_true, if_neg Bool.false_ne_true]

/-! ### Lanes -/

/-- A lane lost with two or more left (R401). -/
theorem laneRemoval_degrades {lane : Nat} (hup : d.portUp n = true)
    (hin : nbit (d.f (F.lnkStat_LANES n)) lane = true)
    (htwo : 2 ≤ popcount 4 (setNbit (d.f (F.lnkStat_LANES n)) lane false)) :
    d.laneRemoval n lane =
      let left := setNbit (d.f (F.lnkStat_LANES n)) lane false
      let det := mkW [(5, 4, 1), (1, 0, lane)]
      let d1 := (((((d.setF (F.lnkStat_LANES n) left).modPort n fun x =>
        { x.cutLane (d.epo.edges + 1) lane with rejoin := setNbit x.rejoin lane true }).inc (F.lnkCnt_LANE_LOSS n) 1).lnkError n
        0x901 det).event 0x901 n det).lnkGo n 3
      d1.fresh.2.event 0xA02 0 (mkW [(35, 32, 1), (17, 0, d1.fresh.1)]) := by
  have hacts : ¬ (!d.portUp n || !nbit (d.f (F.lnkStat_LANES n)) lane) = true := by
    rw [hup, hin]
    exact Bool.false_ne_true
  exact (if_neg hacts).trans (if_neg (Nat.not_lt.mpr htwo))

theorem modPort_port_same (d : Dev) (n : Nat) (f : Lnk → Lnk) : (d.modPort n f).port n = f (d.port n) :=
  mget_mset_same _ _ _

/-- What LYSITH_LANE_REJOIN asks of its port (R403). -/
theorem laneRejoin_returns {lane : Nat} (hup : d.portUp n = true) (hauto : d.fb (F.lnkCfg_AUTO_REJOIN n) = true)
    (hout : nbit (d.port n).rejoin lane = true) :
    d.laneRejoin n lane =
      let e := ((d.modPort n fun x => { x with rejoin := setNbit x.rejoin lane false }).setF (F.lnkStat_LANES n)
        (setNbit (d.f (F.lnkStat_LANES n)) lane true)).event 0x901 n (mkW [(5, 4, 2), (1, 0, lane)])
      if setNbit (d.port n).rejoin lane false = 0 then e.lnkGo n 2 else e := by
  have hacts : ¬ (!d.portUp n || !d.fb (F.lnkCfg_AUTO_REJOIN n) || !nbit (d.port n).rejoin lane) = true := by
    rw [hup, hauto, hout]
    exact Bool.false_ne_true
  have hport : (((d.modPort n fun x => { x with rejoin := setNbit x.rejoin lane false }).setF (F.lnkStat_LANES n)
      (setNbit (d.f (F.lnkStat_LANES n)) lane true)).event 0x901 n (mkW [(5, 4, 2), (1, 0, lane)])).port n =
      { d.port n with rejoin := setNbit (d.port n).rejoin lane false } := by
    rw [Dev.port, event_lnk, setF_lnk, ← Dev.port, modPort_port_same]
  refine (if_neg hacts).trans ?_
  dsimp only
  rw [modPort_f, hport]

/-! ### DOWN and its recovery -/

theorem retrainTimeout_downs (hre : (d.port n).retraining = true) : d.retrainTimeout n = d.linkDown n := if_pos hre

theorem downTimeout_downs (hup : d.portUp n = true) : d.downTimeout n = d.linkDown n := if_pos hup

theorem resyncTimeout_expires (hrec : (d.port n).recovering = true) :
    d.resyncTimeout n = d.modPort n fun x => { x with expired := true } := if_pos hrec

/-- The limit of a recovery has passed: its frames' messages are discarded (R406, step 5). -/
theorem lnkEdge_expired (hrec : (d.port n).recovering = true) (hexp : (d.port n).expired = true) :
    d.lnkEdge n = each ((d.port n).unsent (d.port n).unacked) Dev.destGone (d.recoverEnd n stTIMEOUT []) := by
  rw [Dev.lnkEdge]
  rw [hrec, hexp]
  rfl

/-- A port that went DOWN at this edge asks its partner over another way (R406, step 2). -/
theorem lnkEdge_asks {rt dest : Nat} (hrec : (d.port n).recovering = true) (hexp : (d.port n).expired = false)
    (hsync : (d.port n).sync = true)
    (hroute : (d.modPort n fun x => { x with sync := false }).resyncRoute n = some (rt, dest)) :
    d.lnkEdge n =
      let e := d.modPort n fun x => { x with sync := false }
      (e.sendRoute true rt dest [ctrlMsg rt dest 4 0 (resyncWords (e.f (F.lnkStat_PEER_PORT n)) false
        (((((e.port n).unacked.head?).map (·.seq)).getD (e.port n).tx + 4095) % 4096))]).2 := by
  rw [Dev.lnkEdge]
  rw [hrec, hexp, hsync, Bool.not_true, if_neg Bool.false_ne_true, if_neg Bool.false_ne_true, if_pos rfl, Dev.syncStart]
  dsimp only
  rw [hroute]

/-! ### Firmware forwarding -/

/-- A delivery of the image begins (R421). -/
theorem firmwareForward_begins {st fail : Nat} (hrun : d.running = true) (hcfg : d.fb (F.lnkCfg_FW_FWD n) = true)
    (hup : d.portUp n = true) (hboot : d.f (F.lnkStat_PEER_BOOT n) = 2) (hnone : (d.port n).fwd = none)
    (hwait : (d.port n).fwdWait = false) (hheld : d.hbmHeld 0 = false) :
    d.firmwareForward n st fail =
      (d.sendLink n 1 [mkW [(35, 24, 0x010), (15, 8, 1)], toW d.cp.loader.retLen]).modPort n fun x =>
        { x with fwd := some 0, fwdHeld := false } := by
  have hacts : (d.running && d.fb (F.lnkCfg_FW_FWD n) && d.portUp n && decide (d.f (F.lnkStat_PEER_BOOT n) = 2) &&
      !(d.port n).fwdWait) = true := by
    rw [hrun, hcfg, hup, decide_eq_true hboot, hwait]
    rfl
  rw [Dev.firmwareForward, hnone, if_pos hacts, Dev.fwdSend, hheld, if_neg Bool.false_ne_true]
  rfl

/-- A delivery goes on with an OK response (R421). -/
theorem firmwareForward_goesOn {st fail k : Nat} (hrun : d.running = true) (hsome : (d.port n).fwd = some k)
    (hsent : (d.port n).fwdHeld = false) (hok : st = stOK) (hleft : k ≤ d.fwdChunks) (hheld : d.hbmHeld 0 = false) :
    d.firmwareForward n st fail =
      (d.sendLink n 1 (d.fwdRequest (k + 1))).modPort n fun x => { x with fwd := some (k + 1), fwdHeld := false } := by
  have hacts : (decide (st = stOK) && decide (k ≤ d.fwdChunks) && d.running) = true := by
    rw [hrun, decide_eq_true hok, decide_eq_true hleft]
    rfl
  rw [Dev.firmwareForward, hsome, hsent]
  dsimp only
  rw [if_neg Bool.false_ne_true, if_pos hacts, Dev.fwdSend, hheld, if_neg Bool.false_ne_true]

/-- A delivery ends with a refusal, or after its last request (R421). -/
theorem firmwareForward_ends {st fail k : Nat} (hrun : d.running = true) (hsome : (d.port n).fwd = some k)
    (hsent : (d.port n).fwdHeld = false) (hend : st ≠ stOK ∨ d.fwdChunks < k) :
    d.firmwareForward n st fail =
      (d.modPort n fun x => { x with fwd := none, fwdWait := k = 0 && st == stBUSY }).event 0x908 n
        (mkW [(35, 28, st), (4, 0, fail)]) := by
  have hends : ¬ (decide (st = stOK) && decide (k ≤ d.fwdChunks) && d.running) = true := by
    rw [Bool.and_eq_true, Bool.and_eq_true, decide_eq_true_eq, decide_eq_true_eq]
    rintro ⟨⟨hok, hleft⟩, -⟩
    rcases hend with h | h
    · exact h hok
    · exact absurd hleft (Nat.not_le.mpr h)
  have hrun' (f : Lnk → Lnk) : (d.modPort n f).running = true := hrun
  rw [Dev.firmwareForward, hsome]
  dsimp only
  rw [hsent, if_neg Bool.false_ne_true, if_neg hends, hrun', if_pos rfl]

end Port

/-! ### The rows -/

theorem exec_trainingRetry (n : Fin 8) (s : State) :
    exec (.trainingRetry n) s = liftBb (fun d => (d.trainingRetry n).brgSettle) s := rfl

theorem exec_trainingDone (n : Fin 8) (lanes : BitVec 4) (p : Peer) (s : State) :
    exec (.trainingDone n lanes p) s = liftBb (fun d => (d.trainingDone n lanes.toNat p).brgSettle) s := rfl

theorem exec_partnerRefresh (n : Fin 8) (p : Peer) (s : State) :
    exec (.partnerRefresh n p) s = liftBb (Dev.partnerRefresh n p) s := rfl

theorem exec_dataFrame (n : Fin 8) (good : Bool) (ws : List Word) (s : State) :
    exec (.dataFrame n good ws) s = liftBb (Dev.dataFrame n good ws) s := rfl

theorem exec_idleFrame (n : Fin 8) (ws : List Word) (s : State) :
    exec (.idleFrame n ws) s = liftBb (Dev.idleFrame n ws) s := rfl

theorem exec_nakFrame (n : Fin 8) (ws : List Word) (s : State) :
    exec (.nakFrame n ws) s = liftBb (Dev.nakFrame n ws) s := rfl

theorem exec_laneRemoval (n : Fin 8) (lane : Fin 4) (s : State) :
    exec (.laneRemoval n lane) s = liftBb (fun d => (d.laneRemoval n lane).brgSettle) s := rfl

theorem exec_lysithLaneRejoin (n : Fin 8) (lane : Fin 4) (s : State) :
    exec (.lysithLaneRejoin n lane) s = liftBb (fun d => (d.laneRejoin n lane).brgSettle) s := rfl

theorem exec_retrainTimeout (n : Fin 8) (s : State) :
    exec (.retrainTimeout n) s = liftBb (fun d => (d.retrainTimeout n).brgSettle) s := rfl

theorem exec_downTimeout (n : Fin 8) (s : State) :
    exec (.downTimeout n) s = liftBb (fun d => (d.downTimeout n).brgSettle) s := rfl

theorem exec_resyncTimeout (n : Fin 8) (s : State) :
    exec (.resyncTimeout n) s = liftBb (fun d => (d.resyncTimeout n).brgSettle) s := rfl

theorem exec_firmwareForward (n : Fin 8) (st : Byte) (fail : BitVec 5) (s : State) :
    exec (.firmwareForward n st fail) s = liftBb (Dev.firmwareForward n st.toNat fail.toNat) s := rfl

/-- Settles O52, row by row: the state of the port decides what each event of it does. -/
theorem portEvents : Obligations.PortEvents := by
  unfold Obligations.PortEvents
  refine ⟨fun s n hl hen hup hrec => ?retry, fun s n lanes p hl hen hlanes htrunk hrec hup hre => ?starts,
    fun s n lanes p hl hen hlanes htrunk hrec hre => ?retrains, fun s n p hl hup => ?refresh,
    fun s n ws hl hup hcrc hseq => ?accept, fun s n good ws hl hup hnak hbad => ?nak, fun s n ws hl hup hcrc => ?idle,
    fun s n ws hl hup hcrc hfirst => ?replay, fun s n lane hl hup hin htwo => ?lose,
    fun s n lane hl hup hauto hout hmore => ?rejoin, fun s n lane hl hup hauto hout hlast => ?rejoinLast,
    fun s n hl hre => ?retrainOut, fun s n hl hup => ?downOut, fun s n hl hrec => ?resyncOut,
    fun d n hrec hexp => lnkEdge_expired hrec hexp,
    fun d n rt dest hrec hexp hsync hroute => lnkEdge_asks hrec hexp hsync hroute,
    fun s n st fail hl hrun hcfg hup hboot hnone hwait hheld => ?fwdBegin,
    fun s n st fail k hl hrun hsome hsent hok hleft hheld => ?fwdNext,
    fun s n st fail k hl hrun hsome hsent hend => ?fwdEnd⟩
  case retry =>
    rw [exec_trainingRetry]
    exact liftBb_live_eq hl (congrArg Dev.brgSettle (trainingRetry_trains hen hup hrec))
  case starts =>
    rw [exec_trainingDone]
    exact liftBb_live_eq hl (congrArg Dev.brgSettle (trainingDone_starts hen hlanes htrunk hrec hup hre))
  case retrains =>
    rw [exec_trainingDone]
    exact liftBb_live_eq hl (congrArg Dev.brgSettle (trainingDone_retrains hen hlanes htrunk hrec hre))
  case refresh =>
    rw [exec_partnerRefresh]
    exact liftBb_live_eq hl (partnerRefresh_up hup)
  case accept =>
    rw [exec_dataFrame]
    exact liftBb_live_eq hl (dataFrame_eq s.dev n true ws)
  case nak =>
    rw [exec_dataFrame]
    refine liftBb_live_eq hl ?_
    rw [dataFrame_eq, frameAccept_nak hup hnak hbad]
    rfl
  case idle =>
    rw [exec_idleFrame]
    exact liftBb_live_eq hl (idleFrame_heads hup hcrc)
  case replay =>
    rw [exec_nakFrame]
    exact liftBb_live_eq hl (nakFrame_replays hup hcrc hfirst)
  case lose =>
    rw [exec_laneRemoval]
    exact liftBb_live_eq hl (congrArg Dev.brgSettle (laneRemoval_degrades hup hin htwo))
  case rejoin =>
    rw [exec_lysithLaneRejoin]
    exact liftBb_live_eq hl (congrArg Dev.brgSettle ((laneRejoin_returns hup hauto hout).trans (if_neg hmore)))
  case rejoinLast =>
    rw [exec_lysithLaneRejoin]
    exact liftBb_live_eq hl (congrArg Dev.brgSettle ((laneRejoin_returns hup hauto hout).trans (if_pos hlast)))
  case retrainOut =>
    rw [exec_retrainTimeout]
    exact liftBb_live_eq hl (congrArg Dev.brgSettle (retrainTimeout_downs hre))
  case downOut =>
    rw [exec_downTimeout]
    exact liftBb_live_eq hl (congrArg Dev.brgSettle (downTimeout_downs hup))
  case resyncOut =>
    rw [exec_resyncTimeout]
    exact liftBb_live_eq hl (congrArg Dev.brgSettle (resyncTimeout_expires hrec))
  case fwdBegin =>
    rw [exec_firmwareForward]
    exact liftBb_live_eq hl (firmwareForward_begins hrun hcfg hup hboot hnone hwait hheld)
  case fwdNext =>
    rw [exec_firmwareForward]
    exact liftBb_live_eq hl (firmwareForward_goesOn hrun hsome hsent hok hleft hheld)
  case fwdEnd =>
    rw [exec_firmwareForward]
    exact liftBb_live_eq hl (firmwareForward_ends hrun hsome hsent hend)

end Sys2Proof.Machine
end

section
/-! The host link, its resets and the masks of MSI-X (R412, R413, R416, R443). -/

namespace Sys2Proof.Machine

/-! ### Masks of MSI-X -/

/-- The pending message of a vector, sent where nothing but the mask of the function could hold it. -/
def Dev.msixFlush (v : Nat) (d : Dev) : Dev :=
  let e := mget d.pci.msix v
  if mget d.pci.pba v ∧ e.unmasked ∧ d.fb F.pciStat_D3HOT = false ∧ d.fb F.pciStat_LINK_UP ∧ d.pci.flr = false then
    ({ d with pci := { d.pci with pba := mset d.pci.pba v false } } : Dev).emit (.msix v e.addr e.data)
  else d

/-- A function that is masked keeps its messages pending. -/
theorem msixRelease_masked {d : Dev} (h : d.pci.fmask = true) (v : Nat) : d.msixRelease v = d := by
  rw [Dev.msixRelease]
  refine if_neg ?_
  rw [h, Bool.not_true, Bool.and_false]
  exact Bool.false_ne_true

theorem msixRelease_unmasked {d : Dev} (h : d.pci.fmask = false) (v : Nat) : d.msixRelease v = d.msixFlush v := by
  rw [Dev.msixRelease, Dev.msixFlush]
  refine if_congr ?_ rfl rfl
  rw [h]
  simp only [Bool.not_false, Bool.and_true, Bool.and_eq_true, Bool.not_eq_eq_eq_not, Bool.not_true, and_assoc]

theorem msixFlush_fmask (d : Dev) (v : Nat) : (d.msixFlush v).pci.fmask = d.pci.fmask := by
  rw [Dev.msixFlush]
  dsimp only
  rw [apply_ite Dev.pci, apply_ite Pci.fmask]
  exact ite_self _

theorem each_msixRelease_masked {d : Dev} (h : d.pci.fmask = true) (vs : List Nat) : each vs Dev.msixRelease d = d :=
  foldl_keeps (P := fun e : Dev => e = d) (fun e v he => by rw [he, msixRelease_masked h]) vs rfl

theorem each_msixRelease_unmasked {d : Dev} (h : d.pci.fmask = false) (vs : List Nat) :
    each vs Dev.msixRelease d = each vs Dev.msixFlush d :=
  each_congr_of_keeps (P := fun e : Dev => e.pci.fmask = false) (fun v e he => (msixFlush_fmask e v).trans he)
    (fun v _ he => msixRelease_unmasked he v) vs h

/-- The mask bit of an entry cleared. -/
def Dev.unmaskEntry (v : Nat) (d : Dev) : Dev :=
  { d with pci := { d.pci with msix := mset d.pci.msix v { mget d.pci.msix v with unmasked := true } } }

theorem unmaskEntry_msix (d : Dev) (v : Nat) :
    mget (d.unmaskEntry v).pci.msix v = { mget d.pci.msix v with unmasked := true } := mget_mset_same _ _ _

/-- The pending message of an entry whose mask bit is cleared goes out at once where nothing else holds it. -/
theorem unmaskEntry_sends {d : Dev} {v : Nat} (hpend : mget d.pci.pba v = true) (hf : d.pci.fmask = false)
    (hd3 : d.fb F.pciStat_D3HOT = false) (hup : d.fb F.pciStat_LINK_UP = true) (hflr : d.pci.flr = false) :
    (d.unmaskEntry v).msixRelease v =
      let e := mget d.pci.msix v
      ({ d with pci := { d.pci with
        msix := mset d.pci.msix v { e with unmasked := true }, pba := mset d.pci.pba v false } } : Dev).emit
          (.msix v e.addr e.data) := by
  have hmask : (d.unmaskEntry v).pci.fmask = false := hf
  rw [msixRelease_unmasked hmask, Dev.msixFlush, unmaskEntry_msix]
  exact if_pos ⟨hpend, rfl, hd3, hup, hflr⟩

/-! ### The rows -/

/-- Configuration requests are answered from the end of the retry status on (R412). -/
theorem crsEnd_opens {d : Dev} (hperst : d.pci.perst = false) (hboot : d.f F.cpBoot_STATE ≠ 0) :
    (if d.pci.perst || d.f F.cpBoot_STATE = 0 then d else { d with pci := { d.pci with cfgOk := true } }) =
      { d with pci := { d.pci with cfgOk := true } } := by
  rw [hperst, decide_eq_false hboot]
  rfl

theorem exec_msixUnmask_entry (v : Fin 2048) (s : State) : exec (.msixUnmask (.entry v)) s =
    lift (fun d => (d.unmaskEntry v.val).msixRelease v.val) s := rfl

theorem exec_msixUnmask_function (mask : Bool) (s : State) : exec (.msixUnmask (.function mask)) s =
    lift (fun d => each (d.pci.pba.map (·.1)) Dev.msixRelease { d with pci := { d.pci with fmask := mask } }) s := rfl

/-- Settles O53, row by row: the resets do what they are for in every state, and an unmasking sends what waited for it. -/
theorem hostLinkCommands : Obligations.HostLinkCommands := by
  unfold Obligations.HostLinkCommands
  refine ⟨fun s hl => ?dlDown, fun s speed width hl => ?dlUp, fun s hl => ?hotReset, fun s hl => ?perst,
    fun s hl => ?perstEnd, fun s hl hperst hboot => ?crsEnd, fun s hl => ?flr, fun s hl => ?flrEnd, fun s hl => ?d3hot,
    fun s hl => ?d0, fun s v hl hpend hf hd3 hup hflr => ?entry, fun s hl => ?mask, fun s hl => ?unmask⟩
  case dlDown =>
    change execDlDown s = _
    exact lift_live hl _
  case dlUp =>
    change execDlUp speed width s = _
    exact lift_live hl _
  case hotReset =>
    change execHotReset s = _
    exact lift_live hl _
  case perst =>
    change execPerstAssert s = _
    exact lift_live hl _
  case perstEnd =>
    change execPerstDeassert s = _
    exact lift_live hl _
  case crsEnd =>
    change execCrsEnd s = _
    exact lift_live_eq hl (crsEnd_opens hperst hboot)
  case flr =>
    change execFlr s = _
    exact lift_live hl _
  case flrEnd =>
    change execFlrComplete s = _
    exact lift_live hl _
  case d3hot =>
    change execD3hotEntry s = _
    exact lift_live hl _
  case d0 =>
    change execD0Entry s = _
    exact lift_live hl _
  case entry =>
    rw [exec_msixUnmask_entry]
    exact lift_live_eq hl (unmaskEntry_sends hpend hf hd3 hup hflr)
  case mask =>
    rw [exec_msixUnmask_function]
    exact lift_live_eq hl (each_msixRelease_masked rfl _)
  case unmask =>
    rw [exec_msixUnmask_function]
    exact lift_live_eq hl (each_msixRelease_unmasked rfl _)

end Sys2Proof.Machine
end

section
/-! FIU_ACCESS, FIU_RESULT and the time limit of an access (R315, R316, R326, R327, R346). -/

namespace Sys2Proof.Machine

section Access
variable {d : Dev} {n : Nat}

/-- The cycles of an access, queued at its port for the run (R315, R326). -/
theorem fiuAccess_starts {wr : Bool} {w c ofs : Nat} (hlen : hdrLen (d.arg n 0) = if wr then c + 2 else 2)
    (hwr : bitOf (d.arg n 1) 35 = wr) (hw : bitsOf (d.arg n 1) 19 16 = w) (hc : bitsOf (d.arg n 1) 5 0 + 1 = c)
    (hhigh : bitsOf (d.arg n 1) 34 20 = 0) (hlow : bitsOf (d.arg n 1) 15 6 = 0) (hofs : (d.arg n 2).toNat = ofs)
    (hlt : ofs < 2 ^ 26) (hen : d.fb (F.brgOwinCfg_EN w) = true) (hlimit : ofs + c ≤ d.f (F.brgOwinCfg_LIMIT w) + 1)
    (hfree : d.fiuAcc n = none) (hport : d.fpState (d.f (F.brgOwinCfg_PORT w)) = 2 ∨ d.fpState (d.f (F.brgOwinCfg_PORT w)) = 4) :
    d.fiuAccess n =
      let base := d.owinAddr w ofs
      let p := d.f (F.brgOwinCfg_PORT w)
      let ws := ((d.mb n).req.drop 3).map fun x => (widthW (d.f (F.brgOwinCfg_WIDTH w)) x, false)
      let cut := cutRun (d.fb (F.brgOwinCfg_BLOCK w)) base c 0 c
      let acc : FiuAcc := {
        id := d.accNum, width := d.f (F.brgOwinCfg_WIDTH w), seq := d.seqOf n, port := p, win := w, write := wr, cnt := c
        left := cut.length, got := [], poisoned := false, failed := false, deferred := false }
      (each cut (fun x (d : Dev) =>
        d.ownPush p {
          cmd := runCmd wr x.2, addr := toW (base + x.1), cnt := x.2, ws := if wr then (ws.drop x.1).take x.2 else []
          k := 0, got := [], retries := 0, owner := .access n acc.id x.1 })
        { d with acc := mset d.acc n (some acc), accNum := d.accNum + 1 }).hold n := by
  have hgood : ¬ (bitsOf (d.arg n 1) 34 20 ≠ 0 || bitsOf (d.arg n 1) 15 6 ≠ 0 || ofs ≥ 2 ^ 26 ||
      hdrLen (d.arg n 0) ≠ (if wr then c + 2 else 2) || !d.fb (F.brgOwinCfg_EN w) ||
      ofs + c > d.f (F.brgOwinCfg_LIMIT w) + 1) = true := by
    rw [decide_eq_false (not_not.mpr hhigh), decide_eq_false (not_not.mpr hlow), decide_eq_false (Nat.not_le.mpr hlt),
      decide_eq_false (not_not.mpr hlen), hen, decide_eq_false (Nat.not_lt.mpr hlimit)]
    exact Bool.false_ne_true
  have hidle : ¬ (d.fiuAcc n).isSome = true := by
    rw [hfree]
    exact Bool.false_ne_true
  have hup : ¬ (d.fpState (d.f (F.brgOwinCfg_PORT w)) ≠ 2 && d.fpState (d.f (F.brgOwinCfg_PORT w)) ≠ 4) = true := by
    rw [Bool.and_eq_true, decide_eq_true_eq, decide_eq_true_eq]
    rintro ⟨hnot2, hnot4⟩
    exact hport.elim hnot2 hnot4
  rw [Dev.fiuAccess]
  dsimp only
  rw [hwr, hw, hc, hofs, if_neg hgood, if_neg hidle, if_neg hup]

/-- The result that is held for the request's mailbox and sequence (R327). -/
theorem fiuResult_held {r : FiuAcc} (hhigh : bitsOf (d.arg n 1) 35 12 = 0)
    (hheld : d.fiuAcc (16 + bitsOf (d.arg n 1) 11 8) = some r) (hseq : r.seq = bitsOf (d.arg n 1) 7 0) :
    d.fiuResult n = d.reply n r.status r.words := by
  have hmatch : (bitsOf (d.arg n 1) 35 12 = 0 && r.seq = bitsOf (d.arg n 1) 7 0) = true := by
    rw [decide_eq_true hhigh, decide_eq_true hseq]
    rfl
  rw [Dev.fiuResult, hheld]
  exact if_pos hmatch

/-- An access with no deferred cycle ends at its time limit (R346). -/
theorem accTimeLimit_ends {a : FiuAcc} (hacc : d.fiuAcc n = some a) (hdef : a.deferred = false) :
    d.accTimeLimit n =
      ({ d.accWithdraw n a.id a.port with acc := mset (d.accWithdraw n a.id a.port).acc n none } : Dev).finish n stTIMEOUT [] := by
  rw [Dev.accTimeLimit, hacc]
  dsimp only
  rw [hdef, if_neg Bool.false_ne_true]

end Access

theorem exec_fiuAccess (n : Mbx) (s : State) :
    exec (.fiuAccess n) s = lift (Dev.takeCmd n 0x710 (2 ≤ ·) (Dev.fiuAccess n)) s := rfl

theorem exec_fiuResult (n : Mbx) (s : State) :
    exec (.fiuResult n) s = lift (Dev.takeCmd n 0x711 (· == 1) (Dev.fiuResult n)) s := rfl

theorem exec_fiuAccessTimeLimit (n : Mbx) (s : State) :
    exec (.fiuAccessTimeLimit n) s = lift (Dev.accTimeLimit n) s := rfl

/-- A write carries at least one word and a read none. -/
theorem accessLen_ok (wr : Bool) (c : Nat) : decide (2 ≤ if wr then c + 2 else 2) = true := by
  cases wr with
  | false => rfl
  | true => exact decide_eq_true (Nat.le_add_left 2 c)

/-- Settles O44, row by row. -/
theorem fiuthAccesses : Obligations.FiuthAccesses := by
  unfold Obligations.FiuthAccesses
  refine ⟨fun s n wr w c ofs h hwr hw hc hhigh hlow hofs hlt hen hlimit hfree hport => ?access,
    fun s n r h hhigh hheld hseq => ?result, fun s n a hl hacc hdef => ?limit⟩
  case access =>
    rw [exec_fiuAccess]
    exact lift_served_of_eq h (accessLen_ok wr c)
      (fiuAccess_starts (d := s.dev.taken) (served_hdrLen h) hwr hw hc hhigh hlow hofs hlt hen hlimit hfree hport)
  case result =>
    rw [exec_fiuResult]
    exact lift_served_of_eq h rfl (fiuResult_held (d := s.dev.taken) hhigh hheld hseq)
  case limit =>
    rw [exec_fiuAccessTimeLimit]
    exact lift_live_eq hl (accTimeLimit_ends hacc hdef)

end Sys2Proof.Machine
end

section
/-! The commands of the route memory (R338, R340 to R345). -/

namespace Sys2Proof.Machine

section Route
variable {d : Dev} {n : Nat}

/-- An entry outside the staged changes is written at once (R341). -/
theorem routeSet_writes {ep : Nat} (hep : (d.arg n 1).toNat = ep) (hlt : ep < 2 ^ 20) (hstaged : d.stagedFor ep = none)
    (hgood : d.rteBad (d.arg n 2) (d.arg n 3) = false) :
    d.routeSet n = (d.rtePut ep (d.arg n 2) (d.arg n 3)).reply n stOK [] := by
  have hlow : bitsOf (d.arg n 1) 19 0 = ep := (bitsOf_low_of_lt (hep ▸ hlt)).trans hep
  have hhigh : bitsOf (d.arg n 1) 35 20 = 0 := bitsOf_high_of_lt (hep ▸ hlt) 35
  have hok : ¬ (bitsOf (d.arg n 1) 35 20 ≠ 0 || d.rteBad (d.arg n 2) (d.arg n 3)) = true := by
    rw [decide_eq_false (not_not.mpr hhigh), hgood]
    exact Bool.false_ne_true
  rw [Dev.routeSet]
  rw [hlow, hstaged, if_neg hok]
  rfl

/-- Good changes join the list and the table area (R342). -/
theorem routeStage_stages {k : Nat} (hlen : hdrLen (d.arg n 0) = 1 + 3 * k) (hk : 0 < k) (hcount : (d.arg n 1).toNat = k)
    (hst : d.f F.rteGen_STATE ≠ 3)
    (hgood : ((d.stageBody n k).all fun x => bitsOf x.1 35 20 == 0 && !d.rteBad x.2.x0 x.2.x1) = true)
    (hfit : (((d.stageBody n k).map (·.2)).foldl stageOne d.rte.staged).length ≤ 8192) :
    d.routeStage n =
      let body := d.stageBody n k
      let l := (body.map (·.2)).foldl stageOne d.rte.staged
      let d := each body (fun x d => (l.findIdx? fun y => y.ep == x.2.ep).elim d fun i => d.stageWrite i (l.getD i x.2))
        ({ d with rte := { d.rte with staged := l } } : Dev)
      ((d.setF F.rteGen_STATE 1).setF F.rteStg_COUNT l.length).reply n stOK [] := by
  have hk3 : (1 + 3 * k - 1) / 3 = k := by omega
  have hbody : ¬ (k = 0 || (d.arg n 1).toNat ≠ k ||
      (d.stageBody n k).any fun x => bitsOf x.1 35 20 ≠ 0 || d.rteBad x.2.x0 x.2.x1) = true := by
    have hnone : ((d.stageBody n k).any fun x => bitsOf x.1 35 20 ≠ 0 || d.rteBad x.2.x0 x.2.x1) = false := by
      rw [List.any_eq_false]
      intro x hx
      have := List.all_eq_true.mp hgood x hx
      simp only [Bool.and_eq_true, beq_iff_eq, Bool.not_eq_eq_eq_not, Bool.not_true] at this
      rw [this.1, this.2]
      exact Bool.false_ne_true
    rw [decide_eq_false hk.ne', decide_eq_false (not_not.mpr hcount), hnone]
    exact Bool.false_ne_true
  rw [Dev.routeStage]
  dsimp only
  rw [hlen, hk3, if_neg hst, if_neg hbody, if_neg (Nat.not_lt.mpr hfit)]
  refine congrArg (fun e : Dev => ((e.setF F.rteGen_STATE 1).setF F.rteStg_COUNT _).reply n stOK [])
    (each_congr_of_keeps (P := fun _ => True) (fun _ _ _ => trivial) (fun x e _ => ?_) _ trivial)
  cases List.findIdx? (fun y => y.ep == x.2.ep) (((d.stageBody n k).map (·.2)).foldl stageOne d.rte.staged) with
  | none => rfl
  | some i => rfl

/-- A commit of staged changes (R343). -/
theorem routeCommit_commits (hst : d.f F.rteGen_STATE = 1 ∨ d.f F.rteGen_STATE = 2) :
    d.routeCommit n =
      let d := (d.setF F.rteGen_STG_GEN (d.f F.rteGen_ACT_GEN + 1)).setF F.rteGen_STATE 2
      d.reply n stOK [toW (d.f F.rteGen_STG_GEN)] := by
  have h3 : ¬ d.f F.rteGen_STATE = 3 := by omega
  have h0 : ¬ d.f F.rteGen_STATE = 0 := by omega
  rw [Dev.routeCommit]
  dsimp only
  rw [if_neg h3, if_neg h0]

/-- The fixed block is taken when nothing uses its endpoints (R345). -/
theorem routeFixed_sets {m : Nat} (hm : (d.arg n 1).toNat = m) (hfree : m = 0 ∨ m = 1 ∧ d.fixedUsed = false) :
    d.routeFixed n = (d.setF F.rteGen_FIXED m).reply n stOK [] := by
  have hbit : ¬ m > 1 := by omega
  have hok : ¬ (m = 1 && !d.fb F.rteGen_FIXED && d.fixedUsed) = true := by
    rw [Bool.and_eq_true, Bool.and_eq_true, decide_eq_true_eq]
    rintro ⟨⟨h1, -⟩, hused⟩
    rcases hfree with h | ⟨-, h⟩
    · omega
    · exact Bool.false_ne_true (h.symm.trans hused)
  rw [Dev.routeFixed]
  rw [hm, if_neg hbit, if_neg hok]

end Route

/-- No entry written reaches the list of the staged changes. -/
theorem rteStaged_written (d : Dev) : (each d.rte.staged (fun c => Dev.rtePut c.ep c.x0 c.x1) d).rte = d.rte :=
  have hrte : OffAnswer Dev.rte := by constructor <;> intros <;> rfl
  foldl_keeps (P := fun e : Dev => e.rte = d.rte)
    (fun _ _ he => ((hrte.wrPart _ false _ _).trans (hrte.wrPart _ false _ _)).trans he) _ rfl

/-- The end of a switch: every staged entry is written (R343). -/
theorem execRouteSwitchFinal_writes {s : State} {ers : Nat} (hl : s.live = true) (hers : s.dev.rte.ers = some ers)
    (hlater : later 72 s.dev.now ((ers + 2 ^ 36) % 2 ^ 72) = true) :
    execRouteSwitchFinal s = .next (s.after fun d =>
      (({ each d.rte.staged (fun c => Dev.rtePut c.ep c.x0 c.x1) d with
        rte := { d.rte with staged := [], ers := none } } : Dev).setF F.rteGen_STATE 0).setF F.rteStg_COUNT 0) := by
  rw [execRouteSwitchFinal]
  refine lift_live_eq hl ?_
  dsimp only
  rw [hers]
  dsimp only
  rw [if_pos hlater, rteStaged_written]

theorem exec_routeSet (n : Mbx) (s : State) :
    exec (.routeSet n) s = lift (Dev.takeCmd n 0x712 (· == 3) (Dev.routeSet n)) s := rfl

theorem exec_routeStage (n : Mbx) (s : State) :
    exec (.routeStage n) s = lift (Dev.takeCmd n 0x713 (fun l => l % 3 == 1) (Dev.routeStage n)) s := rfl

theorem exec_routeCommit (n : Mbx) (s : State) :
    exec (.routeCommit n) s = lift (Dev.takeCmd n 0x714 (· == 0) (Dev.routeCommit n)) s := rfl

theorem exec_routeFixed (n : Mbx) (s : State) :
    exec (.routeFixed n) s = lift (Dev.takeCmd n 0x715 (· == 1) (Dev.routeFixed n)) s := rfl

theorem stageLen_ok (k : Nat) : ((1 + 3 * k) % 3 == 1) = true := by
  rw [beq_iff_eq]
  omega

/-- Settles O46, row by row. -/
theorem routeCommands : Obligations.RouteCommands := by
  unfold Obligations.RouteCommands
  refine ⟨fun s n ep h hep hlt hstaged hgood => ?set, fun s n k h hk hcount hst hgood hfit => ?stage,
    fun s n h hst => ?commit, fun s n m h hm hfree => ?fixed, fun s ers hl hers hlater => ?final⟩
  case set =>
    rw [exec_routeSet]
    exact lift_served_of_eq h rfl (routeSet_writes (d := s.dev.taken) hep hlt hstaged hgood)
  case stage =>
    rw [exec_routeStage]
    exact lift_served_of_eq h (stageLen_ok k)
      (routeStage_stages (d := s.dev.taken) (served_hdrLen h) hk hcount hst hgood hfit)
  case commit =>
    rw [exec_routeCommit]
    exact lift_served_of_eq h rfl (routeCommit_commits (d := s.dev.taken) hst)
  case fixed =>
    rw [exec_routeFixed]
    exact lift_served_of_eq h rfl (routeFixed_sets (d := s.dev.taken) hm hfree)
  case final =>
    change execRouteSwitchFinal s = _
    exact execRouteSwitchFinal_writes hl hers hlater

end Sys2Proof.Machine
end

section
/-! The CP log, the hardware error queue and the failure of an HBM channel (R427 to R429, R434, R435). -/

namespace Sys2Proof.Machine

section Errors
variable {d : Dev} {n : Nat}

/-! ### The log and the queue -/

theorem errLogRead_reads {c : Nat} (hc : (d.arg n 2).toNat = c) (hpos : 0 < c) (hle : c ≤ 50) :
    d.errLogRead n =
      let first := (d.arg n 1).toNat
      let skip := if later 36 first d.logOldest then (first + 2 ^ 36 - d.logOldest) % 2 ^ 36 else 0
      d.reply n stOK ([toW d.logOldest, toW d.cp.logSeq] ++ ((d.cp.log.drop skip).take c).flatMap logWords) := by
  have hok : ¬ (c = 0 || c > 50) = true := by
    rw [decide_eq_false hpos.ne', decide_eq_false (Nat.not_lt.mpr hle)]
    exact Bool.false_ne_true
  rw [Dev.errLogRead]
  dsimp only
  rw [hc, if_neg hok]

/-- A pop takes the words of the oldest entry one after another (R427). -/
theorem errPop_cons {e : List Word} {es : List (List Word)} (h : d.err.queue = e :: es) :
    d.errPop = (nth e d.err.rd,
      if d.err.rd < 3 then { d with err := { d.err with rd := d.err.rd + 1 } }
      else { d with err := { d.err with queue := es, rd := 0 } }) := by
  rw [Dev.errPop, h]
  dsimp only
  by_cases hrd : d.err.rd < 3
  · rw [if_neg (Nat.not_le.mpr hrd), if_pos hrd]
  · rw [if_pos (Nat.not_lt.mp hrd), if_neg hrd]

theorem errPop_nil (h : d.err.queue = []) : d.errPop = (idleW, d) := by rw [Dev.errPop, h]

/-! ### Failure of a channel -/

theorem nbit_zero (i : Nat) : nbit 0 i = false := Nat.zero_testBit i

theorem setNbit_zero (i : Nat) : setNbit 0 i true = 2 ^ i := by
  rw [setNbit, Nat.zero_testBit, if_neg (by decide), if_pos rfl, Nat.zero_add]

/-- The number of failed channels stays with what tells of the first one. -/
theorem nfail_setF (d : Dev) (st ch : Nat) :
    ((d.setF (F.errHbmStat_FAILED st) 1).setF (F.errHbmStat_CH st) ch).f (F.errHbmStat_NFAIL st) =
      d.f (F.errHbmStat_NFAIL st) :=
  (f_setF_below _ _ _ _ (by simp) (by simp) (by simp) (by simp)).trans
    (f_setF_below _ _ _ _ (by simp) (by simp) (by simp) (by simp))

/-- The first failed channel of a stack with a spare stops the stack until the remap (R434). -/
theorem hbmFailure_first {st ch : Nat} (hnone : mget d.err.hbmFail st = 0) (hspare : d.hbmSpare st = true) :
    d.hbmFailure st ch =
      let d := { d with err := { d.err with
        hbmFail := mset d.err.hbmFail st (2 ^ ch), hbmStop := mset d.err.hbmStop st true } }
      (((d.setF (F.errHbmStat_FAILED st) 1).setF (F.errHbmStat_CH st) ch).setF (F.errHbmStat_NFAIL st)
        (Nat.min 3 (d.f (F.errHbmStat_NFAIL st) + 1))).error 11 2 0 0 0xA03 (hbmDetail true st ch) := by
  rw [Dev.hbmFailure]
  dsimp only
  rw [hnone, hspare, nbit_zero, setNbit_zero, decide_eq_true rfl, Bool.true_and, if_neg Bool.false_ne_true, if_pos rfl,
    if_pos rfl, if_pos rfl, if_pos rfl, if_pos rfl, nfail_setF]

/-- The remap of a stack, with `mine` the writes that were kept for it (R434). -/
def Dev.remapWith (st : Nat) (mine : List (Nat × List Word)) (d : Dev) : Dev :=
  let d := d.setF (F.errHbmStat_REMAP st) 1
  let d := { d with err := { d.err with
    hbmStop := mset d.err.hbmStop st false
    hbmKept := d.err.hbmKept.filter fun x => hbmStack x.1 != st
    hbmWritten := d.err.hbmWritten.filter fun g => hbmStack g.1 != st } }
  let d := (each mine (fun r d => d.wrs r.1 r.2) d).hbmResume
  let d := d.event 0xA03 0 (hbmDetail true st (d.f (F.errHbmStat_CH st)))
  (d.fresh.2.event 0xA02 0 (mkW [(35, 32, 4), (17, 0, d.fresh.1)])).oweBbFree

theorem remapComplete_resumes {st : Nat} (hstop : mget d.err.hbmStop st = true) :
    d.remapComplete st = d.remapWith st (d.err.hbmKept.filter fun x => hbmStack x.1 == st) := by
  have hacts : ¬ (!mget d.err.hbmStop st) = true := by
    rw [hstop]
    exact Bool.false_ne_true
  have hmodel : d.remapComplete st =
      d.remapWith st ((d.setF (F.errHbmStat_REMAP st) 1).err.hbmKept.filter fun x => hbmStack x.1 == st) := if_neg hacts
  rw [hmodel, setF_err]

end Errors

/-! ### The rows -/

theorem exec_errLogRead (n : Mbx) (s : State) :
    exec (.errLogRead n) s = lift (Dev.takeCmd n 0xA00 (· == 2) (Dev.errLogRead n)) s := rfl

theorem exec_errQpop (p : Path) (s : State) :
    exec (.errQpop p) s = lift (fun d => d.errPop.2.emit (.readData p R.errQpop d.errPop.1)) s := rfl

theorem exec_hbmChannelFailure (st : Fin 2) (ch : Fin 16) (s : State) :
    exec (.hbmChannelFailure st ch) s = lift (Dev.hbmFailure st ch) s := rfl

theorem exec_remapComplete (st : Fin 2) (s : State) :
    exec (.remapComplete st) s = liftBb (Dev.remapComplete st) s := rfl

/-- Settles O56, row by row. -/
theorem errorReports : Obligations.ErrorReports := by
  unfold Obligations.ErrorReports
  refine ⟨fun s n c h hc hpos hle => ?log, fun s p e es hl hq => ?pop, fun s p hl hq => ?popEmpty,
    fun s st ch hl hnone hspare => ?failure, fun s st hl hstop => ?remap⟩
  case log =>
    rw [exec_errLogRead]
    exact lift_served_of_eq h rfl (errLogRead_reads (d := s.dev.taken) hc hpos hle)
  case pop =>
    rw [exec_errQpop]
    refine lift_live_eq hl ?_
    rw [errPop_cons hq]
  case popEmpty =>
    rw [exec_errQpop]
    refine lift_live_eq hl ?_
    rw [errPop_nil hq]
  case failure =>
    rw [exec_hbmChannelFailure]
    exact lift_live_eq hl (hbmFailure_first hnone hspare)
  case remap =>
    rw [exec_remapComplete]
    exact liftBb_live_eq hl (remapComplete_resumes hstop)

end Sys2Proof.Machine
end

section
/-! What an ATOM stores and returns at its home (R362, R23). -/

namespace Sys2Proof.Machine

/-! ### The word that an ATOM stores -/

theorem atomWord_add (op : Nat) (hop : op ≤ 1) (w x c : Word) :
    (atomWord op w x c).toNat = (w.toNat + x.toNat) % 2 ^ 36 := by
  have hadd : atomWord op w x c = w + x := by
    rcases Nat.le_one_iff_eq_zero_or_eq_one.mp hop with rfl | rfl <;> rfl
  rw [hadd, BitVec.toNat_add]

/-- The operand is compared with by a CAS alone. -/
theorem atomWord_cmp {op : Nat} (hlo : 1 ≤ op) (hhi : op ≤ 4) (w x c c' : Word) :
    atomWord op w x c = atomWord op w x c' := by
  obtain rfl | rfl | rfl | rfl : op = 1 ∨ op = 2 ∨ op = 3 ∨ op = 4 := by omega
  all_goals rfl

/-- The reserved OPs have no home (R23). -/
theorem homeAccepts_reserved {m : CMsg} (hcode : m.code = 5) (hsub : 5 < m.sub) (d : Dev) (a : Nat) :
    d.homeAccepts m a = false := by
  have hop : (m.code ≠ 5 || m.sub ≤ 5) = false := by
    rw [decide_eq_false (not_not.mpr hcode), decide_eq_false (Nat.not_le.mpr hsub)]
    rfl
  rw [Dev.homeAccepts, hop, Bool.false_and, Bool.false_and, Bool.false_and]

/-! ### The errors of words that are read -/

/-- A window of HBM is one of the two stacks'. -/
def Win.stackOk : Win → Bool
  | .hbm s => decide (s < 2)
  | _ => true

theorem stackOk_winOf (a : Nat) : (winOf a).stackOk = true := by
  have hbm0 : (Win.hbm 0).stackOk = true := rfl
  have hbm1 : (Win.hbm 1).stackOk = true := rfl
  simp only [winOf, apply_ite Win.stackOk, hbm0, hbm1]
  simp only [Win.stackOk, ite_self]

theorem lt_two_of_winOf {a s : Nat} (h : winOf a = .hbm s) : s < 2 :=
  of_decide_eq_true ((congrArg Win.stackOk h).symm.trans (stackOk_winOf a))

theorem error_hbmFail (d : Dev) (cls sev inst ah code : Nat) (q3 : Word) :
    (d.error cls sev inst ah code q3).err.hbmFail = d.err.hbmFail := by
  unfold Dev.error
  refine (ite_event_keeps (P := fun e : Dev => e.err.hbmFail) (fun e c i x => by rw [event_err]) _ _ _ _ _).trans ?_
  dsimp only
  rw [apply_ite Dev.err, apply_ite ErrUnit.hbmFail]
  exact ite_self _

/-- An error counts in a register above those that say where words are held. -/
theorem error_locOf (d : Dev) (cls sev inst ah code : Nat) (q3 : Word) (b : Nat) :
    (d.error cls sev inst ah code q3).locOf b = d.locOf b := by
  have hf (fl : Fld) (h : fl.off < 0x9100) : (d.error cls sev inst ah code q3).f fl = d.f fl := by
    have hreg : fl.off ≠ R.errCnt cls := (Nat.lt_of_lt_of_le h (Nat.le_add_right 0x9100 cls)).ne
    rw [Dev.f, Dev.f, error_reg_ne d sev inst ah code q3 hreg]
  rw [Dev.locOf, Dev.locOf]
  cases hw : winOf b with
  | hbm s =>
    have hs := lt_two_of_winOf hw
    dsimp only
    rw [Dev.hbmLoc, Dev.hbmLoc, error_hbmFail, Dev.fb, Dev.fb, hf (F.errHbmStat_CH s) (by simp only; omega),
      hf (F.errHbmStat_REMAP s) (by simp only; omega), hf (F.errHbmUse_GROUPS s) (by simp only; omega),
      hf (F.errHbmSpare_BASE s) (by simp only; omega)]
  | _ => rfl

/-- The parts of the block that an ATOM's read leaves: words, what is wrong with them, and where they are held. -/
structure SameWords (d e : Dev) : Prop where
  mem : e.mem = d.mem
  uncorr : e.uncorr = d.uncorr
  leave : e.coh.leave = d.coh.leave
  locOf : ∀ b, e.locOf b = d.locOf b

namespace SameWords

theorem refl (d : Dev) : SameWords d d := ⟨rfl, rfl, rfl, fun _ => rfl⟩

theorem trans {d e f : Dev} (h : SameWords d e) (h' : SameWords e f) : SameWords d f :=
  ⟨h'.mem.trans h.mem, h'.uncorr.trans h.uncorr, h'.leave.trans h.leave, fun b => (h'.locOf b).trans (h.locOf b)⟩

theorem error (d : Dev) (cls sev inst ah code : Nat) (q3 : Word) :
    SameWords d (d.error cls sev inst ah code q3) where
  mem := (error_keeps event_mem (fun _ _ => rfl) d cls sev inst ah code q3).trans (inc_mem d _ 1)
  uncorr := (error_keeps event_uncorr (fun _ _ => rfl) d cls sev inst ah code q3).trans (inc_uncorr d _ 1)
  leave := congrArg Coh.leave
    ((error_keeps event_coh (fun _ _ => rfl) d cls sev inst ah code q3).trans (inc_coh d _ 1))
  locOf := error_locOf d cls sev inst ah code q3

theorem wordErrs (d : Dev) (as : List Nat) : SameWords d (d.wordErrs as) := by
  refine foldl_keeps (P := fun e : Dev => SameWords d e) (fun e a he => ?_) as (refl d)
  have herr (cls sev : Nat) : SameWords d (e.memError cls sev a) := he.trans (error e _ _ _ _ _ _)
  dsimp only
  split
  · cases ueClass a with
    | none => exact he
    | some c => exact herr c 1
  · split
    · cases ceClass a with
      | none => exact he
      | some c => exact herr c 0
    · exact he

theorem rd {d e : Dev} (h : SameWords d e) (b : Nat) : e.rd b = d.rd b := by
  rw [rd_eq_locOf, rd_eq_locOf, h.mem, h.locOf]

end SameWords

/-! ### An ATOM of one word in the region store -/

section Atom
variable {d : Dev} {a i op : Nat} {x : Word}

theorem maskWords_single (hi : i < 16) : maskWords (2 ^ i) = [i] := by
  decide +revert

theorem mask_single_ne (hi : i < 16) : 2 ^ i ≠ 0xFFFF := by
  decide +revert

theorem locOf_rstore {b : Nat} (hw : winOf b = .rstore) : d.locOf b = b := by
  rw [Dev.locOf, hw]

theorem wr_rstore {b : Nat} (hw : winOf b = .rstore) (w : Word) : d.wr b w = d.store b w := by
  rw [Dev.wr, Dev.wrPart, hw]

theorem rdP_rstore {b : Nat} (hw : winOf b = .rstore) : (d.rdP b).2 = mget d.uncorr b := by
  rw [Dev.rdP, hw]

/-- With no package leaving, a write of one word at a home in the region store is its store. -/
theorem homeWrite_single (hi : i < 16) (hw : winOf (a + i) = .rstore) (hleave : d.coh.leave = none) (w : Word) :
    d.homeWrite a (2 ^ i) [w] = d.store (a + i) w := by
  have hkeep : (d.store (a + i) w).coh.leave = none := hleave
  rw [Dev.homeWrite, if_neg (mask_single_ne hi), maskWords_single hi]
  change ((d.wr (a + i) w).leaveRepeat a (2 ^ i) [w]) = _
  rw [wr_rstore hw, Dev.leaveRepeat, hkeep]

/-- The words of a line that stay uncorrectable under an ATOM. -/
def Dev.keepUncorr (a : Nat) (is : List Nat) (d : Dev) : Dev :=
  { d with uncorr := is.foldl (fun u i => mset u (a + i) true) d.uncorr }

theorem keepUncorr_nil (d : Dev) (a : Nat) : d.keepUncorr a [] = d := rfl

theorem homeAtom_eq (d : Dev) (m : CMsg) (a : Nat) :
    d.homeAtom m a =
      let is := maskWords m.mask
      let r := d.homeRead a is
      let xs := if m.sub = 5 then m.ws.drop 1 else m.ws
      (r.1, r.2.1, (r.2.2.homeWrite a m.mask ((r.1.zip xs).map fun p => atomWord m.sub p.1 p.2 (nth m.ws 0))).keepUncorr a
        (is.filter fun i => mget r.2.2.uncorr (a + i))) := rfl

/-- The word returns as it was, and the ATOM's takes its place (R362). -/
theorem homeAtom_single (hi : i < 16) (hw : winOf (a + i) = .rstore) (hlo : 1 ≤ op) (hhi : op ≤ 4)
    (hleave : d.coh.leave = none) (hgood : mget d.uncorr (a + i) = false) :
    d.homeAtom { code := 5, sub := op, mask := 2 ^ i, ws := [x] } a =
      ([d.rd (a + i)], false, (d.wordErrs [a + i]).store (a + i) (atomWord op (d.rd (a + i)) x 0)) := by
  have hsame := SameWords.wordErrs d [a + i]
  have hue : [i].filter (fun j => mget (d.wordErrs [a + i]).uncorr (a + j)) = [] := by
    rw [List.filter_cons_of_neg (by rw [hsame.uncorr, hgood]; exact Bool.false_ne_true), List.filter_nil]
  have hbad : ([i].any fun j => (d.rdP (a + j)).2) = false := by
    rw [List.any_cons, List.any_nil, rdP_rstore hw, hgood]
    rfl
  have hxs : (if op = 5 then [x].drop 1 else [x]) = [x] := if_neg (by omega)
  have hread : d.homeRead a [i] = ([d.rd (a + i)], false, d.wordErrs [a + i]) := by
    rw [Dev.homeRead, hbad]
    rfl
  rw [homeAtom_eq]
  dsimp only
  rw [maskWords_single hi, hread, hxs]
  dsimp only
  rw [hue, keepUncorr_nil, atomWord_cmp hlo hhi (d.rd (a + i)) x 0 (nth [x] 0)]
  exact congrArg (fun e : Dev => ([d.rd (a + i)], false, e)) (homeWrite_single hi hw (hsame.leave.trans hleave) _)

end Atom

/-- A word stored is read at its place, and no other changes. -/
theorem rd_store {e : Dev} {a : Nat} (w : Word) (b : Nat) :
    (e.store a w).rd b = if e.locOf b = a then w else e.rd b := by
  rw [rd_eq_locOf, store_locOf, rd_eq_locOf]
  split
  · next h => rw [h]; exact mapGet_mapSet_same _ e.mem a w
  · next h => exact mapGet_mapSet_ne _ e.mem w h

/-- Settles O11: the words case by case, and at a home the one word that the mask names. -/
theorem atomsStoreAndReturn : Obligations.AtomsStoreAndReturn := by
  unfold Obligations.AtomsStoreAndReturn
  refine ⟨fun w x c => ⟨atomWord_add 0 (by decide) w x c, atomWord_add 1 (by decide) w x c, apply_ite BitVec.toInt _ x w⟩,
    fun w x c => ⟨apply_ite BitVec.toInt _ x w, rfl, rfl⟩,
    fun d m a hcode hsub => homeAccepts_reserved hcode hsub d a,
    fun d a i x op _ hi hw hlo hhi hleave hgood => ?home⟩
  case home =>
    have hsame := SameWords.wordErrs d [a + i]
    intro r
    have hr : r = _ := homeAtom_single hi hw hlo hhi hleave hgood
    rw [hr]
    refine ⟨rfl, rfl, ?stored, fun b hb => ?others⟩
    case stored =>
      dsimp only
      rw [rd_store, if_pos ((hsame.locOf _).trans (locOf_rstore hw))]
    case others =>
      dsimp only
      rw [rd_store, hsame.locOf, if_neg hb, hsame.rd]

end Sys2Proof.Machine
end

section
/-! Loop inputs and outputs (R468 to R473). -/

namespace Sys2Proof.Machine

/-! ### What a write leaves -/

theorem violation_epo (p : Path) (key : Nat) (d : Dev) : (d.violation p key).epo = d.epo := by
  have herr (e : Dev) (x : ErrUnit) : ({ e with err := x } : Dev).epo = e.epo := rfl
  unfold Dev.violation
  cases (instOf (offOfKey key)).getD (0, 0) with
  | mk base i => rw [event_epo, herr, setF_epo, inc_epo, setF_epo]

theorem writeByType_epo (p : Path) (key : Nat) (w : Word) (d : Dev) : (d.writeByType p key w).epo = d.epo := by
  unfold Dev.writeByType
  dsimp only
  split <;> split
  · rw [violation_epo, setF_epo, setReg_epo]
  · rw [violation_epo, setReg_epo]
  · rw [setF_epo, setReg_epo]
  · rw [setReg_epo]

/-! ### The channels -/

section Loop
variable {d : Dev} {k : Nat}

/-- The stream and the counters of a sample of an enabled input (R468 to R470). -/
theorem loopInSample_enabled {raw : Nat} (hen : d.fb (F.loopInCfg_EN k) = true) :
    d.loopInSample k raw =
      let i := loopScale raw (d.f (F.loopInTrim_GAIN k)) (d.f (F.loopInTrim_OFS k))
      let cls := loopClass i
      let was := d.f (F.loopInVal_CLASS k)
      let d := (d.setF (F.loopInVal_I k) i).setF (F.loopInVal_CLASS k) cls
      let d := if cls = was ∨ cls = 0 then d
        else if cls ≤ 2 then d.inc (F.loopInCnt_RANGE k) 1
        else (d.inc (F.loopInCnt_FAIL k) 1).event 0xB20 k (toW cls)
      d.loopSlot k cls i := by
  rw [Dev.loopInSample]
  dsimp only
  rw [hen]
  simp only [Bool.not_true, Bool.false_eq_true, if_false, Bool.or_eq_true, decide_eq_true_eq]

/-- A setpoint with no expiry of this edge to undo (R471, R473). -/
theorem loopSetWrite_untied {p : Path} {w : Word} (htie : d.tieOf 4 k = none) :
    d.loopSetWrite p k w =
      ((d.writeByType p (R.loopOutSet k) w).setF (F.loopOutAct_FAILSAFE k) 0).modLoopOut k fun x => { x with
        pend := some (bitsOf w 24 0), setEdge := d.epo.edges + 1 } := by
  have hepo : ((d.writeByType p (R.loopOutSet k) w).setF (F.loopOutAct_FAILSAFE k) 0).epo = d.epo := by
    rw [setF_epo, writeByType_epo]
  rw [Dev.loopSetWrite, htie]
  dsimp only [Option.isSome_none]
  rw [if_neg Bool.false_ne_true, hepo]

/-- A setpoint at the edge of an expiry, which does not happen then (R474). -/
theorem loopSetWrite_tied {p : Path} {w : Word} {x : Tie} (htie : d.tieOf 4 k = some x) :
    d.loopSetWrite p k w =
      let d := ({ d.undo x.before x.after with ties := d.ties.erase x } : Dev)
      let d := (d.modLoopOut k fun x => { x with fail := false }).loopDrive k
      let d := (d.writeByType p (R.loopOutSet k) w).setF (F.loopOutAct_FAILSAFE k) 0
      d.modLoopOut k fun x => { x with pend := some (bitsOf w 24 0), setEdge := d.epo.edges + 1 } := by
  have hundo : d.untie 4 k = { d.undo x.before x.after with ties := d.ties.erase x } := by rw [Dev.untie, htie]
  rw [Dev.loopSetWrite, htie, hundo]
  rfl

theorem modLoopOut_same (d : Dev) (k : Nat) (f : LoopOut → LoopOut) :
    mget (d.modLoopOut k f).pwr.loopOut k = f (mget d.pwr.loopOut k) := mget_mset_same _ _ _

theorem modLoopOut_fb (d : Dev) (k : Nat) (f : LoopOut → LoopOut) (fl : Fld) : (d.modLoopOut k f).fb fl = d.fb fl := rfl

/-- An enabled output that has not failed drives what its setpoint asks for. -/
theorem loopDrive_cmd (hok : (mget d.pwr.loopOut k).fail = false) (hen : d.fb (F.loopOutCfg_EN k) = true) :
    d.loopDrive k = if d.loopCmd k = (mget d.pwr.loopOut k).level then d
      else (d.modLoopOut k fun x => { x with level := d.loopCmd k }).emit (.drive 1 k (d.loopCmd k)) := by
  have hlevel : d.loopLevel k = d.loopCmd k := by
    rw [Dev.loopLevel, hok, if_neg Bool.false_ne_true, hen, if_pos rfl]
  rw [Dev.loopDrive, hlevel]

/-- An output that has failed drives its failure level. -/
theorem loopDrive_fail (hfail : (mget d.pwr.loopOut k).fail = true) :
    d.loopDrive k = if d.failLevel k = (mget d.pwr.loopOut k).level then d
      else (d.modLoopOut k fun x => { x with level := d.failLevel k }).emit (.drive 1 k (d.failLevel k)) := by
  have hlevel : d.loopLevel k = d.failLevel k := by rw [Dev.loopLevel, hfail, if_pos rfl]
  rw [Dev.loopDrive, hlevel]

/-- A millisecond with a setpoint waiting (R471). -/
theorem loopOutSample_sets {cur vloop v : Nat} (hen : d.fb (F.loopOutCfg_EN k) = true) (hv : 1800 ≤ vloop)
    (hpend : (mget d.pwr.loopOut k).pend = some v) :
    d.loopOutSample k cur vloop =
      let d := (d.setF F.loopStat_VLOOP vloop).modLoopOut k fun x => { x with pend := none, set := v, fail := false }
      let d := if d.loopCmd k = (mget d.pwr.loopOut k).level then d
        else (d.modLoopOut k fun x => { x with level := d.loopCmd k }).emit (.drive 1 k (d.loopCmd k))
      (d.setF (F.loopOutAct_I k) cur).loopJudge k cur := by
  have hlow : ¬ (decide (vloop < 1800) && decide (d.f F.loopStat_VLOOP ≥ 1800)) = true := by
    rw [decide_eq_false (Nat.not_lt.mpr hv)]
    exact Bool.false_ne_true
  have hoff : (F.loopOutCfg_EN k).off ≠ F.loopStat_VLOOP.off := by simp only; omega
  have hen' : (d.setF F.loopStat_VLOOP vloop).fb (F.loopOutCfg_EN k) = true := by
    rw [Dev.fb, f_setF_reg _ _ _ _ hoff]
    exact hen
  have hpend' : (mget (d.setF F.loopStat_VLOOP vloop).pwr.loopOut k).pend = some v := by
    rw [setF_pwr]
    exact hpend
  have hok : (mget ((d.setF F.loopStat_VLOOP vloop).modLoopOut k fun x =>
      { x with pend := none, set := v, fail := false }).pwr.loopOut k).fail = false := by
    rw [modLoopOut_same]
  rw [Dev.loopOutSample]
  dsimp only
  rw [if_neg hlow, hen', hpend']
  dsimp only
  rw [loopDrive_cmd hok ((modLoopOut_fb _ _ _ _).trans hen'), Bool.not_true, if_neg Bool.false_ne_true]

/-! ### The watchdog -/

/-- The output at its failure level (R473). -/
def Dev.loopFailed (k : Nat) (d : Dev) : Dev :=
  let d := d.modLoopOut k fun x => { x with fail := true }
  let d := (d.setF (F.loopOutAct_FAILSAFE k) 1).event 0xB22 k 0
  if d.failLevel k = (mget d.pwr.loopOut k).level then d
  else (d.modLoopOut k fun x => { x with level := d.failLevel k }).emit (.drive 1 k (d.failLevel k))

theorem loopExpiry_fails (hwdog : d.f (F.loopOutCfg_WDOG k) ≠ 0) (hset : (mget d.pwr.loopOut k).setEdge ≠ d.epo.edges + 1) :
    d.loopExpiry k = d.loopFailed k := by
  have hacts : ¬ (decide (d.f (F.loopOutCfg_WDOG k) = 0) || decide ((mget d.pwr.loopOut k).setEdge = d.epo.edges + 1)) = true := by
    rw [decide_eq_false hwdog, decide_eq_false hset]
    exact Bool.false_ne_true
  have hfail : (mget (((d.modLoopOut k fun x => { x with fail := true }).setF (F.loopOutAct_FAILSAFE k) 1).event 0xB22 k
      0).pwr.loopOut k).fail = true := by
    rw [event_pwr, setF_pwr, modLoopOut_same]
  rw [Dev.loopExpiry, if_neg hacts]
  dsimp only
  rw [loopDrive_fail hfail]
  rfl

/-- A write of SET at this edge wins (R474). -/
theorem loopExpiry_written (hset : (mget d.pwr.loopOut k).setEdge = d.epo.edges + 1) : d.loopExpiry k = d := by
  rw [Dev.loopExpiry, hset, decide_eq_true rfl, Bool.or_true, if_pos rfl]

/-- The flag of the failure stands in a register that the end of a command leaves. -/
theorem settle_failsafe (d : Dev) (k : Nat) : d.settle.fb (F.loopOutAct_FAILSAFE k) = d.fb (F.loopOutAct_FAILSAFE k) := by
  have hreg : d.settle.reg (F.loopOutAct_FAILSAFE k).off = d.reg (F.loopOutAct_FAILSAFE k).off :=
    (settle_frame d).reg _ (fun n hn => by simp only [R.mbxStat]; omega) (by simp only [R.errQstat]; omega)
  rw [Dev.fb, Dev.fb, Dev.f, Dev.f, hreg]

theorem loopFailed_failsafe (d : Dev) (k : Nat) : (d.loopFailed k).fb (F.loopOutAct_FAILSAFE k) = true := by
  have hset : (((d.modLoopOut k fun x => { x with fail := true }).setF (F.loopOutAct_FAILSAFE k) 1).event 0xB22 k 0).fb
      (F.loopOutAct_FAILSAFE k) = true := by
    rw [event_fb, Dev.fb, f_setF_same _ _ _ (by simp) (by simp)]
    simp
  rw [Dev.loopFailed, apply_ite (Dev.fb · (F.loopOutAct_FAILSAFE k)), emit_fb, modLoopOut_fb, hset, ite_self]

end Loop

/-! ### The rows -/

theorem exec_loopInSample (k : Fin 16) (raw : BitVec 25) (s : State) :
    exec (.loopInSample k raw) s = lift (Dev.loopInSample k raw.toNat) s := rfl

theorem exec_loopSetWrite (p : Path) (k : Fin 16) (w : Word) (s : State) :
    exec (.loopSetWrite p k w) s = lift (Dev.loopSetWrite p k w) s := rfl

theorem exec_loopOutSample (k : Fin 16) (cur : BitVec 25) (vloop : BitVec 12) (s : State) :
    exec (.loopOutSample k cur vloop) s = lift (Dev.loopOutSample k cur.toNat vloop.toNat) s := rfl

/-- The expiry is noted where the flag of the failure rises by it. -/
theorem exec_loopWatchdogExpiry {s : State} (hl : s.live = true) (k : Fin 16) {f : Dev → Dev}
    (hf : s.dev.loopExpiry k = f s.dev) :
    exec (.loopWatchdogExpiry k) s = .next { s.after f with
      dev := (s.after f).dev.note 4 k (!s.dev.fb (F.loopOutAct_FAILSAFE k) && (f s.dev).fb (F.loopOutAct_FAILSAFE k)) s.dev } := by
  have hlift : lift (Dev.loopExpiry k) s = .next (s.after f) := lift_live_eq hl hf
  rw [← settle_failsafe (f s.dev)]
  exact tied_next (kind := 4) (idx := k)
    (has := fun old d => !old.fb (F.loopOutAct_FAILSAFE k) && d.fb (F.loopOutAct_FAILSAFE k)) hlift

/-- Settles O60, row by row. -/
theorem loopChannels : Obligations.LoopChannels := by
  unfold Obligations.LoopChannels
  refine ⟨fun s k raw hl hen => ?input, fun s p k w hl htie => ?set, fun s p k w x hl htie => ?setWins,
    fun s k cur vloop v hl hen hv hpend => ?output, fun s k hl hwdog hset => ?expiry, fun s k hl hset => ?written,
    fun s n h => ?get⟩
  case input =>
    rw [exec_loopInSample]
    exact lift_live_eq hl (loopInSample_enabled hen)
  case set =>
    rw [exec_loopSetWrite]
    exact lift_live_eq hl (loopSetWrite_untied htie)
  case setWins =>
    rw [exec_loopSetWrite]
    exact lift_live_eq hl (loopSetWrite_tied htie)
  case output =>
    rw [exec_loopOutSample]
    exact lift_live_eq hl (loopOutSample_sets hen hv hpend)
  case expiry =>
    rw [exec_loopWatchdogExpiry hl k (loopExpiry_fails hwdog hset), loopFailed_failsafe, Bool.and_true]
    rfl
  case written =>
    rw [exec_loopWatchdogExpiry hl k (f := id) (loopExpiry_written hset)]
    have hnone : (!s.dev.fb (F.loopOutAct_FAILSAFE k) && (id s.dev).fb (F.loopOutAct_FAILSAFE k)) = false := Bool.not_and_self _
    rw [hnone, Dev.note, if_neg Bool.false_ne_true]
  case get =>
    change execLoopGet n s = _
    exact lift_served h (· == 0) rfl _

end Sys2Proof.Machine
end

section
/-! Snoops and answers of the coherent fabric (R354 to R361, R367). -/

namespace Sys2Proof.Machine

section Coherent
variable {d : Dev}

/-! ### UNLOCK -/

theorem bankWrite_unlock (a p addr b : Nat) :
    d.bankWrite { code := 8, agent := a, sub := p, addr := addr } b = false := rfl

theorem agentWrites_unlock (a p addr b k : Nat) :
    d.agentWrites { code := 8, agent := a, sub := p, addr := addr } b k = false := rfl

/-- An UNLOCK writes nothing, so a bank of the Canvas never holds it. -/
theorem bankBusy_unlock (a p addr b : Nat) :
    d.bankBusy { code := 8, agent := a, sub := p, addr := addr } b = false := by
  rw [Dev.bankBusy, agentWrites_unlock, Bool.false_and, Bool.false_or]
  cases d.tieNow.applied with
  | none => rfl
  | some k => exact agentWrites_unlock a p addr b k

theorem bankOpen_unlock (a p addr b : Nat) :
    d.bankOpen { code := 8, agent := a, sub := p, addr := addr } b = d := by
  rw [Dev.bankOpen]
  dsimp only
  rw [agentWrites_unlock, if_neg Bool.false_ne_true]

/-- The holder frees the line (R367). -/
theorem homeUnlock_frees {a p addr : Nat} {e : DirEnt} (he : d.dirE (addr % 2 ^ 34 / 16) = e)
    (hst : e.st = 4) (hholder : e.holder = a) (hport : e.port = p) (hdp : e.wasDp = false) :
    d.homeUnlock { code := 8, agent := a, sub := p, addr := addr } = (d.setDir (addr % 2 ^ 34 / 16) default).homeNext := by
  have hline : CMsg.lineA { code := 8, agent := a, sub := p, addr := addr } / 16 = addr % 2 ^ 34 / 16 := by
    change addr % 2 ^ 34 / 16 * 16 / 16 = _
    exact Nat.mul_div_cancel _ (by decide)
  have hmine : (decide (e.st = 4) && decide (e.holder = a) && decide (e.port = p)) = true := by
    rw [decide_eq_true hst, decide_eq_true hholder, decide_eq_true hport]
    rfl
  have hcode : ¬ (8 : Nat) = 7 := by decide
  rw [Dev.homeUnlock]
  dsimp only
  rw [hline, he, if_pos hmine, bankBusy_unlock, if_neg Bool.false_ne_true, if_neg hcode, bankOpen_unlock, hdp,
    if_neg Bool.false_ne_true]

/-- An UNLOCK of an own agent for a line of the region store goes to its home at once. -/
theorem homeArrive_unlock {a p addr : Nat} (hw : winOf (addr % 2 ^ 34) = .rstore) (hown : d.ownAgent a = true)
    (hleave : d.coh.leave = none) :
    d.homeArrive { code := 8, agent := a, sub := p, addr := addr } =
      d.homeUnlock { code := 8, agent := a, sub := p, addr := addr } := by
  have haccepts : d.homeAccepts { code := 8, agent := a, sub := p, addr := addr } (addr % 2 ^ 34) = true := by
    rw [Dev.homeAccepts, bankWrite_unlock, hw, Dev.imageWrite]
    simp
  have hheld : d.hbmHeld (addr % 2 ^ 34) = false := by rw [Dev.hbmHeld, hw]
  rw [Dev.homeArrive]
  dsimp only
  rw [hw, haccepts, hheld, hown, hleave]
  simp [plainWin]

theorem fabUnlock_frees {a line p l : Nat} (htarget : d.target line = .here l) (hl : l = line % 2 ^ 34)
    (hw : winOf l = .rstore) (hown : d.ownAgent a = true) (hleave : d.coh.leave = none)
    (hdir : d.dirE (l / 16) = { (default : DirEnt) with st := 4, holder := a, port := p }) :
    d.fabUnlock a line p = (d.setDir (l / 16) default).homeNext := by
  subst hl
  rw [Dev.fabUnlock]
  dsimp only
  rw [htarget]
  dsimp only
  rw [hown, Bool.true_or, if_pos rfl, homeArrive_unlock hw hown hleave]
  exact homeUnlock_frees hdir rfl rfl rfl rfl

/-! ### Snoops -/

section Snoop
variable {a tag c mask addr : Nat} {x : CLine}

/-- SNP_S of a modified line: the data to the requester and home, the copy shared (R359). -/
theorem snoopArrive_shareM (hfind : findLine (d.cacheOf c) (addr / 16) = some x) (hst : x.st = 1) :
    let m : CMsg := { code := 0x0A, agent := a, tag := tag, clu := c, mask := mask, addr := addr }
    d.snoopArrive m =
      (((d.snoopData m 3 x.ws).snoopDirty m c x.ws).modCache c (setLine (addr / 16) 3)).snoopAnswer m c 2 := by
  have hwbp : ¬ x.st = 4 := by omega
  intro m
  rw [Dev.snoopArrive]
  dsimp only [m]
  rw [if_neg (by decide), hfind]
  dsimp only
  rw [if_neg hwbp]
  exact if_pos hst

/-- SNP_S of an exclusive line (R359). -/
theorem snoopArrive_shareE (hfind : findLine (d.cacheOf c) (addr / 16) = some x) (hst : x.st = 2) :
    let m : CMsg := { code := 0x0A, agent := a, tag := tag, clu := c, mask := mask, addr := addr }
    d.snoopArrive m = ((d.snoopData m 3 x.ws).modCache c (setLine (addr / 16) 3)).snoopAnswer m c 1 := by
  have hwbp : ¬ x.st = 4 := by omega
  have hdirty : ¬ x.st = 1 := by omega
  intro m
  rw [Dev.snoopArrive]
  dsimp only [m]
  rw [if_neg (by decide), hfind]
  dsimp only
  rw [if_neg hwbp]
  exact (if_neg hdirty).trans (if_pos hst)

/-- The owner's state, in the form of the snoops' own check. -/
theorem owns_of_state (hst : x.st = 1 ∨ x.st = 2) : (decide (x.st = 1) || decide (x.st = 2)) = true := by
  rwa [Bool.or_eq_true, decide_eq_true_eq, decide_eq_true_eq]

/-- SNP_X of an owner: its copy goes with the line's state to the requester (R359). -/
theorem snoopArrive_own (hfind : findLine (d.cacheOf c) (addr / 16) = some x) (hst : x.st = 1 ∨ x.st = 2) :
    let m : CMsg := { code := 0x0B, agent := a, tag := tag, clu := c, mask := mask, addr := addr }
    d.snoopArrive m = ((d.snoopData m x.st x.ws).modCache c (dropLine (addr / 16))).snoopAnswer m c 1 := by
  have hwbp : ¬ x.st = 4 := by omega
  intro m
  rw [Dev.snoopArrive]
  dsimp only [m]
  rw [if_neg (by decide), hfind]
  dsimp only
  rw [if_neg hwbp]
  exact if_pos (owns_of_state hst)

/-- SNP_NA of an owner: words for the requester, and the copy stays (R366). -/
theorem snoopArrive_words (hfind : findLine (d.cacheOf c) (addr / 16) = some x) (hst : x.st = 1 ∨ x.st = 2) :
    let m : CMsg := { code := 0x0D, agent := a, tag := tag, clu := c, mask := mask, addr := addr }
    d.snoopArrive m = (d.snoopData m 0 (pickWords x.ws mask)).snoopAnswer m c 1 := by
  have hwbp : ¬ x.st = 4 := by omega
  intro m
  rw [Dev.snoopArrive]
  dsimp only [m]
  rw [if_neg (by decide), hfind]
  dsimp only
  rw [if_neg hwbp]
  exact if_pos (owns_of_state hst)

/-- SNP_RCL of a modified line: the data goes home (R360). -/
theorem snoopArrive_recall (hfind : findLine (d.cacheOf c) (addr / 16) = some x) (hst : x.st = 1) :
    let m : CMsg := { code := 0x0E, agent := a, tag := tag, clu := c, mask := mask, addr := addr }
    d.snoopArrive m = ((d.snoopDirty m c x.ws).modCache c (dropLine (addr / 16))).snoopAnswer m c 2 := by
  have hwbp : ¬ x.st = 4 := by omega
  intro m
  rw [Dev.snoopArrive]
  dsimp only [m]
  rw [if_neg (by decide), hfind]
  dsimp only
  rw [if_neg hwbp]
  exact if_pos hst

/-- SNP_INV where no copy is on its way out: the shared ones go (R360). -/
theorem snoopArrive_invalidate
    (hnone : ((List.range 64).all fun c => ((findLine (d.cacheOf c) (addr / 16)).map (·.st)) != some 4) = true) :
    let m : CMsg := { code := 0x0C, agent := a, tag := tag, clu := c, mask := mask, addr := addr }
    d.snoopArrive m =
      (forN 64 (fun c (e : Dev) => if ((findLine (e.cacheOf c) (addr / 16)).map (·.st)) = some 3
        then e.modCache c (dropLine (addr / 16)) else e) d).snoopAnswer m 0 0 := by
  have hcross : ((List.range 64).any fun c => ((findLine (d.cacheOf c) (addr / 16)).map (·.st)) == some 4) = false := by
    rw [List.any_eq_not_all_not]
    exact congrArg Bool.not hnone
  intro m
  rw [Dev.snoopArrive]
  dsimp only [m]
  rw [if_pos rfl, hcross, if_neg Bool.false_ne_true]
  simp only [beq_iff_eq]

end Snoop

/-! ### Write-backs -/

section WriteBack
variable {a line l : Nat} {x : CLine}

/-- The modified line of an own cache goes home, held in WBP until the home answers (R361). -/
theorem fabWb_sends {ws : List Word} (hown : d.ownAgent a = true) (hcache : isCache a = true)
    (hfind : findLine (d.cacheOf (a % 128)) (line / 16) = some x) (hline : x.line = line / 16) (hst : x.st = 1 ∨ x.st = 2) :
    d.fabWb a line (some ws) =
      (d.modCache (a % 128) (setLine (line / 16) 4)).cohTo (line / 16 / 2 ^ 30)
        { code := 0x10, agent := d.agentOf (a % 128), addr := line / 16 * 16, mask := 0xFFFF, ws := ws } := by
  have hheld : x.st ≤ 2 := by omega
  have hmine : (d.ownAgent a && isCache a) = true := by rw [hown, hcache]; rfl
  rw [Dev.fabWb.eq_def]
  dsimp only
  rw [if_pos hmine, hfind]
  dsimp only
  rw [if_pos hheld, Dev.cacheEvict]
  dsimp only
  rw [hline]
  rfl

/-- An exclusive line of an own cache leaves without words (R361). -/
theorem fabWb_evicts (hown : d.ownAgent a = true) (hcache : isCache a = true)
    (hfind : findLine (d.cacheOf (a % 128)) (line / 16) = some x) (hline : x.line = line / 16) (hst : x.st = 2) :
    d.fabWb a line none =
      (d.modCache (a % 128) (setLine (line / 16) 4)).cohTo (line / 16 / 2 ^ 30)
        { code := 0x11, agent := d.agentOf (a % 128), addr := line / 16 * 16 } := by
  have hmine : (d.ownAgent a && isCache a) = true := by rw [hown, hcache]; rfl
  have hheld : (decide (x.st = 2) || decide (x.st = 3)) = true := by rw [decide_eq_true hst, Bool.true_or]
  rw [Dev.fabWb.eq_def]
  dsimp only
  rw [if_pos hmine, hfind]
  dsimp only
  rw [if_pos hheld, Dev.cacheEvict, hst, hline]
  rfl

/-- A live owner's entry stands at its lookup. -/
theorem dirLook_owned {e : DirEnt} (he : d.dirE l = e) (hst : e.st = 2) (hlive : d.agentDead e.owner = false) :
    d.dirLook l = d := by
  have hdead : ¬ (decide (e.st = 2) && d.agentDead e.owner) = true := by
    rw [hlive, Bool.and_false]
    exact Bool.false_ne_true
  have hshared : ¬ e.st = 1 := by omega
  rw [Dev.dirLook, he, if_neg hdead, if_neg hshared]

/-- At the home of a free line, from the owner of its entry (R358). -/
theorem fabWb_applies {ws : Option (List Word)} (hown : d.ownAgent a = false) (htarget : d.target line = .here l)
    (hlive : d.agentDead a = false) (hfree : d.txn (l / 16) = none)
    (hdir : d.dirE (l / 16) = { (default : DirEnt) with st := 2, owner := a }) :
    d.fabWb a line ws =
      let e := match ws with
        | some ws => d.dirtyWrite a (l / 16) ws
        | none => d
      ((e.setDir (l / 16) default).cohTo (a / 128)
        { code := 0x15, agent := a, addr := e.fullAddr (l / 16 * 16) }).homeNext := by
  have hmine : ¬ (d.ownAgent a && isCache a) = true := by
    rw [hown, Bool.false_and]
    exact Bool.false_ne_true
  have howner : (decide ((2 : Nat) = 2) && decide (a = a)) = true := by
    rw [decide_eq_true rfl, decide_eq_true rfl]
    rfl
  rw [Dev.fabWb.eq_def]
  dsimp only
  rw [if_neg hmine, htarget]
  dsimp only
  rw [hlive, if_neg Bool.false_ne_true, Dev.wbArrive, hfree]
  dsimp only
  rw [Dev.wbApply.eq_def]
  dsimp only
  rw [dirLook_owned hdir rfl hlive, hdir]
  dsimp only
  rw [if_pos howner] <;> rfl

end WriteBack

/-! ### Answers at a home -/

theorem atHome_here {line l : Nat} (htarget : d.target line = .here l) (f : Nat → Dev → Dev) :
    d.atHome line f = (f (l / 16) d).brgSettle := by rw [Dev.atHome, htarget]

/-- The answer of a package that the home waits for (R357). -/
theorem srspArrive_counts {k l : Nat} {t : CTxn} (htxn : d.txn l = some t) (hwait : t.waits.contains k = true)
    (ans : SnpAns) :
    d.srspArrive k l (snpAns ans) =
      (d.setTxn l (some { t with
        waits := t.waits.filter (· != k)
        fwd := t.fwd || ans == .fwd || (ans == .dirty && t.req.code == 1)
        dirty := t.dirty || ans == .dirty, cross := t.cross || ans == .cross })).homeAdvance l := by
  have hwaits : ¬ (!t.waits.contains k) = true := by
    rw [hwait]
    exact Bool.false_ne_true
  rw [Dev.srspArrive, htxn]
  dsimp only
  rw [if_neg hwaits]
  cases ans <;> rfl

theorem cackArrive_closes {a l : Nat} {t : CTxn} (htxn : d.txn l = some t) (hcack : t.cack = true)
    (hagent : t.req.agent = a) : d.cackArrive a l = (d.setTxn l (some { t with cack := false })).homeClose l := by
  have hmine : (t.cack && decide (t.req.agent = a)) = true := by rw [hcack, decide_eq_true hagent]; rfl
  rw [Dev.cackArrive, htxn]
  dsimp only
  rw [if_pos hmine]

theorem sdataArrive_takes {l : Nat} {t : CTxn} (htxn : d.txn l = some t) (hdone : t.done = false) (ws : List Word) :
    d.sdataArrive l ws = (d.setTxn l (some { t with sdata := some ws })).homeAdvance l := by
  rw [Dev.sdataArrive, htxn]
  dsimp only
  rw [hdone, if_neg Bool.false_ne_true]

/-! ### Answers at their requester -/

section Answer
variable {pst : Bool} {m : CMsg} {i : Nat} {o : COut}

theorem cplSt_ne_timeout {st : CplStatus} (h : st ≠ .timeout) : cplSt st ≠ stTIMEOUT := by
  cases st with
  | timeout => exact absurd rfl h
  | ok | poisoned | addrErr => decide

/-- A posted request is a WR_NC, not one for the right to write. -/
theorem stores_of_posted {la tag : Nat} {outs : List COut} (hfind : outs.findIdx? (COut.is true la tag) = some i)
    (hget : outs[i]? = some o) : o.m.stores = false := by
  obtain ⟨hi, his, -⟩ := List.findIdx?_eq_some_iff_getElem.mp hfind
  have ho : outs[i] = o := Option.some.inj ((List.getElem?_eq_getElem hi).symm.trans hget)
  rw [ho, COut.is, Bool.and_eq_true] at his
  have hcode : o.m.code = 9 := by simpa using his.2
  rw [CMsg.stores, hcode]
  rfl

/-- An answer without a grant to a request that stores nothing in the cache (R357, step 5). -/
theorem answerArrive_plain (hst : m.st ≠ stTIMEOUT) (hfind : d.coh.outs.findIdx? (COut.is pst (m.agent % 128) m.tag) = some i)
    (hget : d.coh.outs[i]? = some o) (hstores : o.m.stores = false) (hgrant : m.grant = 0) :
    d.answerArrive pst m =
      ((d.modCoh fun c => { c with outs := c.outs.eraseIdx i }).sendCack o).cohDone o m.st m.ws := by
  have hfill (b c e : Bool) : ¬ (decide (m.grant ≠ 0) && b && c && e) = true := by
    rw [decide_eq_false (not_not.mpr hgrant), Bool.false_and, Bool.false_and, Bool.false_and]
    exact Bool.false_ne_true
  rw [Dev.answerArrive, hfind]
  dsimp only
  rw [hget]
  dsimp only
  rw [if_neg hst, hstores, if_neg (hfill _ _ _), if_neg (hfill _ _ _), Bool.not_false, if_pos rfl]

/-- R418, step 2: a line that a leaving package just got goes again. -/
def Dev.leaveDrop (o : COut) (d : Dev) : Dev :=
  if d.coh.leave.isNone then d
  else each (findLine (d.cacheOf (o.m.agent % 128)) (o.m.addr / 16)).toList (Dev.cacheEvict (o.m.agent % 128)) d

/-- An answer with a grant fills the cache, and takes the stores that waited for it (R357, step 5). -/
theorem answerArrive_fills (hst : m.st ≠ stTIMEOUT) (hfind : d.coh.outs.findIdx? (COut.is pst (m.agent % 128) m.tag) = some i)
    (hget : d.coh.outs[i]? = some o) (hgrant : m.grant ≠ 0) (hcache : isCache o.m.agent = true)
    (hcode : o.m.code = 1 ∨ o.m.code = 2) (hon : d.fb (F.cohCache_OFF (o.m.agent % 128)) = false) :
    d.answerArrive pst m =
      let d := ((d.modCoh fun c => { c with outs := c.outs.eraseIdx i }).cacheInstall (o.m.agent % 128) (o.m.addr / 16)
        m.grant m.ws).sendCack o
      if o.m.stores then ((d.cacheStore (o.m.agent % 128) (o.m.addr / 16) o.m.mask o.m.ws).leaveDrop o).cohDone o stOK []
      else (d.leaveDrop o).cohDone o m.st m.ws := by
  have hon' : (d.modCoh fun c => { c with outs := c.outs.eraseIdx i }).fb (F.cohCache_OFF (o.m.agent % 128)) = false := hon
  have hfill : (decide (m.grant ≠ 0) && isCache o.m.agent && (decide (o.m.code = 1) || decide (o.m.code = 2)) &&
      !(d.modCoh fun c => { c with outs := c.outs.eraseIdx i }).fb (F.cohCache_OFF (o.m.agent % 128))) = true := by
    rw [decide_eq_true hgrant, hcache, hon', Bool.true_and, Bool.true_and, Bool.not_false, Bool.and_true, Bool.or_eq_true,
      decide_eq_true_eq, decide_eq_true_eq]
    exact hcode
  rw [Dev.answerArrive, hfind]
  dsimp only
  rw [hget]
  dsimp only
  rw [if_neg hst, if_pos hfill, if_pos hfill, if_pos hfill]
  cases o.m.stores with
  | false => rfl
  | true => rfl

end Answer

end Coherent

/-! ### The rows -/

theorem exec_unlock (a : BitVec 13) (line : BitVec 40) (p : Fin 4) (s : State) :
    exec (.unlock a line p) s = liftBb (fun d => (d.fabUnlock a.toNat (lineOf line) p).brgSettle) s := rfl

theorem exec_snpS (line : BitVec 40) (a : BitVec 13) (tag : Byte) (c : Fin 64) (s : State) :
    exec (.snpS line a tag c) s = liftBb (fun d => (d.snoopArrive
      { code := 0x0A, agent := a.toNat, tag := tag.toNat, clu := c, mask := 0, addr := lineOf line }).brgSettle) s := rfl

theorem exec_snpX (line : BitVec 40) (a : BitVec 13) (tag : Byte) (c : Fin 64) (s : State) :
    exec (.snpX line a tag c) s = liftBb (fun d => (d.snoopArrive
      { code := 0x0B, agent := a.toNat, tag := tag.toNat, clu := c, mask := 0, addr := lineOf line }).brgSettle) s := rfl

theorem exec_snpInv (line : BitVec 40) (s : State) :
    exec (.snpInv line) s = liftBb (fun d => (d.snoopArrive
      { code := 0x0C, agent := 0, tag := 0, clu := 0, mask := 0, addr := lineOf line }).brgSettle) s := rfl

theorem exec_snpNa (line : BitVec 40) (a : BitVec 13) (tag : Byte) (c : Fin 64) (i : Fin 16) (k : Fin 17) (s : State) :
    exec (.snpNa line a tag c i k) s = liftBb (fun d => (d.snoopArrive
      { code := 0x0D, agent := a.toNat, tag := tag.toNat, clu := c, mask := lineMask i k, addr := lineOf line }).brgSettle) s :=
  rfl

theorem exec_snpRcl (line : BitVec 40) (c : Fin 64) (s : State) :
    exec (.snpRcl line c) s = liftBb (fun d => (d.snoopArrive
      { code := 0x0E, agent := 0, tag := 0, clu := c, mask := 0, addr := lineOf line }).brgSettle) s := rfl

theorem exec_wb (a : BitVec 13) (line : BitVec 40) (ws : List Word) (s : State) :
    exec (.wb a line ws) s = liftBb (fun d => (d.fabWb a.toNat (lineOf line) (some (maskFill 0xFFFF ws))).brgSettle) s := rfl

theorem exec_evict (a : BitVec 13) (line : BitVec 40) (s : State) :
    exec (.evict a line) s = liftBb (fun d => (d.fabWb a.toNat (lineOf line) none).brgSettle) s := rfl

theorem exec_srsp (k : Fin 64) (line : BitVec 40) (ans : SnpAns) (s : State) :
    exec (.srsp k line ans) s = liftBb (Dev.atHome (lineOf line) fun l d => d.srspArrive k l (snpAns ans)) s := rfl

theorem exec_cmp (a : BitVec 13) (tag : Byte) (st : CplStatus) (s : State) :
    exec (.cmp a tag st) s =
      liftBb (Dev.fabAnswer false { code := 0x13, agent := a.toNat, tag := tag.toNat, st := cplSt st }) s := rfl

theorem exec_cack (a : BitVec 13) (line : BitVec 40) (s : State) :
    exec (.cack a line) s = liftBb (Dev.atHome (lineOf line) fun l d =>
      if d.agentDead a.toNat then d.lateRsp else d.cackArrive a.toNat l) s := rfl

theorem exec_wback (a : BitVec 13) (line : BitVec 40) (s : State) :
    exec (.wback a line) s = liftBb (fun d =>
      if d.ownAgent a.toNat then (d.wbackArrive a.toNat (lineOf line / 16)).brgSettle else d) s := rfl

theorem exec_pack (a : BitVec 13) (tag : Byte) (st : CplStatus) (s : State) :
    exec (.pack a tag st) s =
      liftBb (Dev.fabAnswer true { code := 0x16, agent := a.toNat, tag := tag.toNat, st := cplSt st }) s := rfl

theorem exec_data (a : BitVec 13) (tag : Byte) (st : CplStatus) (g : Grant) (ws : List Word) (s : State) :
    exec (.data a tag st g ws) s = liftBb (Dev.fabAnswer false
      { code := 0x18, agent := a.toNat, tag := tag.toNat, st := cplSt st, grant := grantCode g, ws := ws }) s := rfl

theorem exec_sdata (a : BitVec 13) (line : BitVec 40) (ws : List Word) (s : State) :
    exec (.sdata a line ws) s = liftBb (Dev.atHome (lineOf line) fun l d =>
      if d.agentDead a.toNat then d.lateRsp else d.sdataArrive l (maskFill 0xFFFF ws)) s := rfl

/-- An answer to an agent of this package settles the bridge after it. -/
theorem fabAnswer_own {d : Dev} {pst : Bool} {m : CMsg} (hown : d.ownAgent m.agent = true) :
    d.fabAnswer pst m = (d.answerArrive pst m).brgSettle := by
  rw [Dev.fabAnswer, hown, if_pos rfl]

theorem grantCode_ne {g : Grant} (h : g ≠ .none) : grantCode g ≠ 0 := by
  cases g with
  | none => exact absurd rfl h
  | m | e | s => decide

/-- Settles O49, message by message: what the line's copy, entry or transaction is decides what the message does. -/
theorem coherentMessages : Obligations.CoherentMessages := by
  unfold Obligations.CoherentMessages
  refine ⟨fun s a line p l hl htarget hline hw hown hleave hdir => ?unlock,
    fun s line a tag c x hl hfind hst => ?shareM, fun s line a tag c x hl hfind hst => ?shareE,
    fun s line a tag c x hl hfind hst => ?own, fun s line hl hnone => ?invalidate,
    fun s line a tag c i k x hl hfind hst => ?words, fun s line c x hl hfind hst => ?recalled,
    fun s a line ws x hl hown hcache hfind hline hst => ?wbSend,
    fun s a line ws l hl hown htarget hlive hfree hdir => ?wbHome,
    fun s a line x hl hown hcache hfind hline hst => ?evictSend,
    fun s a line l hl hown htarget hlive hfree hdir => ?evictHome,
    fun s k line ans l t hl htarget htxn hwait => ?srsp,
    fun s a tag st i o hl hown hst hfind hget hstores => ?cmp,
    fun s a line l t hl htarget hlive htxn hcack hagent => ?cack, fun s a line hl hown => ?wback,
    fun s a tag st i o hl hown hst hfind hget => ?pack,
    fun s a tag st ws i o hl hown hst hfind hget hstores => ?data,
    fun s a tag st g ws i o hl hown hst hfind hget hgrant hcache hcode hon => ?fill,
    fun s a line ws l t hl htarget hlive htxn hdone => ?sdata⟩
  case unlock =>
    rw [exec_unlock]
    exact liftBb_live_eq hl (congrArg Dev.brgSettle (fabUnlock_frees htarget hline hw hown hleave hdir))
  case shareM =>
    rw [exec_snpS]
    exact liftBb_live_eq hl (congrArg Dev.brgSettle (snoopArrive_shareM hfind hst))
  case shareE =>
    rw [exec_snpS]
    exact liftBb_live_eq hl (congrArg Dev.brgSettle (snoopArrive_shareE hfind hst))
  case own =>
    rw [exec_snpX]
    exact liftBb_live_eq hl (congrArg Dev.brgSettle (snoopArrive_own hfind hst))
  case invalidate =>
    rw [exec_snpInv]
    exact liftBb_live_eq hl (congrArg Dev.brgSettle (snoopArrive_invalidate hnone))
  case words =>
    rw [exec_snpNa]
    exact liftBb_live_eq hl (congrArg Dev.brgSettle (snoopArrive_words hfind hst))
  case recalled =>
    rw [exec_snpRcl]
    exact liftBb_live_eq hl (congrArg Dev.brgSettle (snoopArrive_recall hfind hst))
  case wbSend =>
    rw [exec_wb]
    exact liftBb_live_eq hl (congrArg Dev.brgSettle (fabWb_sends hown hcache hfind hline hst))
  case wbHome =>
    rw [exec_wb]
    exact liftBb_live_eq hl (congrArg Dev.brgSettle (fabWb_applies hown htarget hlive hfree hdir))
  case evictSend =>
    rw [exec_evict]
    exact liftBb_live_eq hl (congrArg Dev.brgSettle (fabWb_evicts hown hcache hfind hline hst))
  case evictHome =>
    rw [exec_evict]
    exact liftBb_live_eq hl (congrArg Dev.brgSettle (fabWb_applies hown htarget hlive hfree hdir))
  case srsp =>
    rw [exec_srsp]
    exact liftBb_live_eq hl ((atHome_here htarget _).trans (congrArg Dev.brgSettle (srspArrive_counts htxn hwait ans)))
  case cmp =>
    rw [exec_cmp]
    exact liftBb_live_eq hl ((fabAnswer_own hown).trans
      (congrArg Dev.brgSettle (answerArrive_plain (cplSt_ne_timeout hst) hfind hget hstores rfl)))
  case cack =>
    rw [exec_cack]
    refine liftBb_live_eq hl ((atHome_here htarget _).trans ?_)
    rw [hlive, if_neg Bool.false_ne_true, cackArrive_closes htxn hcack hagent]
  case wback =>
    rw [exec_wback]
    exact liftBb_live_eq hl (if_pos hown)
  case pack =>
    rw [exec_pack]
    exact liftBb_live_eq hl ((fabAnswer_own hown).trans
      (congrArg Dev.brgSettle (answerArrive_plain (cplSt_ne_timeout hst) hfind hget (stores_of_posted hfind hget) rfl)))
  case data =>
    rw [exec_data]
    exact liftBb_live_eq hl ((fabAnswer_own hown).trans
      (congrArg Dev.brgSettle (answerArrive_plain (cplSt_ne_timeout hst) hfind hget hstores rfl)))
  case fill =>
    rw [exec_data]
    exact liftBb_live_eq hl ((fabAnswer_own hown).trans
      (congrArg Dev.brgSettle (answerArrive_fills (cplSt_ne_timeout hst) hfind hget (grantCode_ne hgrant) hcache hcode hon)))
  case sdata =>
    rw [exec_sdata]
    refine liftBb_live_eq hl ((atHome_here htarget _).trans ?_)
    rw [hlive, if_neg Bool.false_ne_true, sdataArrive_takes htxn hdone]

end Sys2Proof.Machine
end

section
/-! A register map whose entries do not stand in the order of their keys, and what becomes of it under KS_ERASE (R72, R436,
R442, R450). -/

namespace Sys2Proof.Machine

/-- KS_ERASE of sector 12 waits in mailbox 8 and a request of package 7, to which no route leads, with an undefined opcode in
mailbox 9. The chain of egress 5 fills the reserve. The entry of ERR_BKL_STAT stands ahead of the register map's others. -/
def unsortedRegs : State :=
  let d := (State.reset.dev.setF F.cpBoot_STATE 5).setF F.errBklCfg_LEN 1
  let d := (((d.setF F.topPkg_ID 3).setF F.errBklBase_BASE 0x1000).setF F.errBklStat_USED 1).modChain 5 fun _ =>
    wholeReserveChain
  let d := { d with regs := (R.errBklStat, d.reg R.errBklStat) :: mapErase d.regs R.errBklStat }
  let d := d.modMb 8 fun m => { m with req := [mkW [(35, 24, 0xA11), (15, 8, 1)], 12], busy := true }
  let d := d.modMb 9 fun m => { m with req := [mkW [(35, 24, 0xFFF)]], busy := true, origin := .lysith 7 0 }
  { State.reset with dev := { d with cp := { d.cp with doorbells := [8, 9] }, pwr := { d.pwr with held := false } } }

/-- The registers that have an entry after a step, in the order of their entries. -/
def regKeysAfter (r : R) : Option (List Nat) :=
  match r with
  | .next t => some (t.dev.regs.map (·.1))
  | _ => none

theorem unsortedRegs_served : unsortedRegs.served 8 0xA11 1 = true := by decide +kernel

/-- The answer to the undefined opcode takes the chunk of egress 5: the entry of ERR_BKL_STAT goes and comes again in its
place, before that of KS_PEND joins the map. -/
theorem exec_ksErase_regKeys : (regKeysAfter (exec (.ksErase 8) unsortedRegs)).map (·.take 3) =
    some [R.ksStat, R.topPkg, R.ksPend 0] := by decide +kernel

/-- Refutes O57, in its clause of KS_ERASE, which shows KS_PEND before the answers to requests with undefined opcodes where
the model does so after them: no hypothesis keeps the register map in the order of its keys, and in another the entries come
to stand otherwise. -/
theorem not_keepStoreCommands : ¬ Obligations.KeepStoreCommands := by
  unfold Obligations.KeepStoreCommands
  rintro ⟨-, -, herase, -⟩
  have hclaim := congrArg regKeysAfter (herase unsortedRegs 8 12 unsortedRegs_served rfl rfl (by decide) (by decide)
    (by decide))
  have hkeys := exec_ksErase_regKeys
  rw [hclaim] at hkeys
  exact absurd hkeys (by decide +kernel)

end Sys2Proof.Machine
end

section
/-! COH_LINE while the CP sees Tweed addresses (R43, R351). -/

namespace Sys2Proof.Machine

/-- The CP of a package without an ID sees Tweed addresses; mailbox 8 holds a COH_LINE of the first line of the region store. -/
def lineByTweed : State :=
  let d := (State.reset.dev.setF F.cpBoot_STATE 5).setF F.topView_VIEW 1
  let d := d.modMb 8 fun m => { m with req := [mkW [(35, 24, 0x801), (15, 8, 2)], 0, toW 0x200000000], busy := true }
  { State.reset with dev := { d with cp := { d.cp with doorbells := [8] }, pwr := { d.pwr with held := false } } }

/-- The status in the response that mailbox 8 holds after a step. -/
def statusAfter (r : R) : Option Nat :=
  match r with
  | .next t => some (bitsOf (nth (t.dev.mb 8).rsp 0) 7 0)
  | _ => none

theorem lineByTweed_served : lineByTweed.served 8 0x801 2 = true := by decide +kernel

theorem lineByTweed_target : lineByTweed.dev.target ((lineByTweed.dev.arg 8 1).toNat * 2 ^ 36 +
    (lineByTweed.dev.arg 8 2).toNat) = .here 0x200000000 := by decide +kernel

/-- The address is taken for a Tweed address, which names no line here. -/
theorem exec_cohLine_refused : statusAfter (exec (.cohLine 8) lineByTweed) = some stBAD_ARG := by decide +kernel

/-- Refutes O51, in its clause of COH_LINE: no hypothesis says that VIEW is 0, and with VIEW = 1 an address whose upper word is
0 is a Tweed address, so that the command answers BAD_ARG. -/
theorem not_fabricCommands : ¬ Obligations.FabricCommands := by
  unfold Obligations.FabricCommands
  rintro ⟨-, hline, -⟩
  have hclaim := congrArg statusAfter (hline lineByTweed 8 0x200000000 lineByTweed_served (by decide +kernel)
    lineByTweed_target (by decide))
  rw [exec_cohLine_refused] at hclaim
  exact absurd hclaim (by decide +kernel)

end Sys2Proof.Machine
end

section
/-! What the operations of the backlog and of its egresses do to the chains (R436 to R442). -/

namespace Sys2Proof.Machine

/-! ### Operations that leave every chain -/

/-- The chains of the reserve, by egress. -/
def Dev.chains (d : Dev) : SMap Chain := d.err.chains

theorem chain_congr {d e : Dev} (h : d.chains = e.chains) (k : Nat) : d.chain k = e.chain k := congrArg (mget · k) h

namespace KeepsChains

theorem setF (d : Dev) (fl : Fld) (v : Nat) : (d.setF fl v).chains = d.chains := congrArg ErrUnit.chains (setF_err d fl v)

theorem inc (d : Dev) (fl : Fld) (n : Nat) : (d.inc fl n).chains = d.chains := congrArg ErrUnit.chains (inc_err d fl n)

theorem event (d : Dev) (code inst : Nat) (x : Word) : (d.event code inst x).chains = d.chains :=
  congrArg ErrUnit.chains (event_err d code inst x)

theorem maxF (d : Dev) (fl : Fld) (v : Nat) : (d.maxF fl v).chains = d.chains := OffAnswer.ite (setF d fl v) rfl

theorem incEv (d : Dev) (fl : Fld) (n code inst : Nat) (x : Nat → Word) : (d.incEv fl n code inst x).chains = d.chains :=
  (incEv_keeps event d fl n code inst x).trans (inc d fl n)

theorem error (d : Dev) (cls sev inst ah code : Nat) (q3 : Word) : (d.error cls sev inst ah code q3).chains = d.chains := by
  have hmet (e : Dev) (m : List (Nat × Nat × List Word)) : ({ e with err := { e.err with met := m } } : Dev).chains = e.chains := rfl
  unfold Dev.error
  exact (ite_event_keeps event _ _ _ _ _).trans (OffAnswer.ite ((hmet _ _).trans (inc d _ 1)) (inc d _ 1))

theorem addrError (d : Dev) (req addr : Nat) : (d.addrError req addr).chains = d.chains :=
  (error _ _ _ _ _ _ _).trans (event d _ _ _)

theorem wordErrs (d : Dev) (as : List Nat) : (d.wordErrs as).chains = d.chains := by
  refine OffAnswer.foldl (fun e a => ?_) as d
  dsimp only
  refine OffAnswer.ite ?_ (OffAnswer.ite ?_ rfl)
  · cases ueClass a with
    | none => rfl
    | some c => exact error e _ _ _ _ _ _
  · cases ceClass a with
    | none => rfl
    | some c => exact error e _ _ _ _ _ _

/-! ### Words of the reserve -/

theorem wrPart (d : Dev) (more : Bool) (a : Nat) (w : Word) : (d.wrPart more a w).chains = d.chains := by
  unfold Dev.wrPart
  split
  · exact OffAnswer.ite (OffAnswer.ite rfl rfl) rfl
  · rfl

theorem groupWhole (d : Dev) (a : Nat) : (d.groupWhole a).chains = d.chains := by
  unfold Dev.groupWhole
  split
  · split <;> rfl
  · rfl

theorem bklWrs (d : Dev) (a : Nat) (ws : List Word) : (d.bklWrs a ws).chains = d.chains :=
  OffAnswer.ite (OffAnswer.forN (fun _ e => addrError e _ _) _ d)
    ((OffAnswer.forN (fun _ e => groupWhole e _) _ _).trans (OffAnswer.foldl (fun e _ => wrPart e _ _ _) _ d))

theorem bklDescribe (d : Dev) (c : Chunk) (next : Option Nat) : (d.bklDescribe c next).chains = d.chains :=
  (bklWrs _ _ _).trans (bklWrs _ _ _)

theorem bklDescribeEnd (d : Dev) (e : Nat) : (d.bklDescribeEnd e).chains = d.chains := by
  have hlast (d d' : Dev) (x : Option Chunk) (hd : d.chains = d'.chains) :
      (match x with | some b => d.bklDescribe b none | none => d).chains = d'.chains := by
    cases x with
    | some b => exact (bklDescribe d b none).trans hd
    | none => exact hd
  unfold Dev.bklDescribeEnd
  refine hlast _ _ _ ?_
  split
  · exact OffAnswer.ite (bklDescribe d _ _) rfl
  · rfl

theorem bklCount (d : Dev) (e : Nat) : (d.bklCount e).chains = d.chains := by
  have hrise (d : Dev) (c : Prop) [Decidable c] (l code inst : Nat) (w : Word) :
      (if c then ({ d with err := { d.err with level := l } } : Dev).event code inst w else d).chains = d.chains :=
    OffAnswer.ite (event _ _ _ _) rfl
  have hlevel (d : Dev) (l : Nat) : ({ d with err := { d.err with level := l } } : Dev).chains = d.chains := rfl
  exact (hrise _ _ _ _ _ _).trans <| (hrise _ _ _ _ _ _).trans <| (hlevel _ _).trans <| (setF _ _ _).trans <|
    (maxF _ _ _).trans (setF d _ _)

theorem bklLoss (d : Dev) (e pkts words : Nat) : (d.bklLoss e pkts words).chains = d.chains := by
  have howe (d : Dev) : d.oweBbFree.chains = d.chains := rfl
  exact (howe _).trans <| (event _ _ _ _).trans <| (error _ _ _ _ _ _ _).trans <| (inc _ _ _).trans (inc d _ _)

theorem bklOut (d : Dev) (p : BklPkt) : (d.bklOut p).2.chains = d.chains := by
  unfold Dev.bklOut
  split
  · rfl
  · exact wordErrs d _

/-! ### Host queues -/

theorem modHq (d : Dev) (q : Nat) (f : HostQ → HostQ) : (d.modHq q f).chains = d.chains := rfl

theorem sendMsix (d : Dev) (v : Nat) : (d.sendMsix v).chains = d.chains := OffAnswer.ite rfl (OffAnswer.ite rfl rfl)

theorem hqWrite (d : Dev) (q : Nat) (ws : List Word) : (d.hqWrite q ws).chains = d.chains := by
  have hput := (setF (d.emit (.hostWrite (d.f (F.pciHqAddrHi_ADDR q) * 2 ^ 36 + d.f (F.pciHqAddrLo_ADDR q) +
    d.f (F.pciHqPtr_WR q) % 2 ^ d.hqLog q * 72) ws)) (F.pciHqPtr_WR q) (d.f (F.pciHqPtr_WR q) + 1))
  exact OffAnswer.ite ((sendMsix _ _).trans hput) hput

theorem hqPumpOne (d : Dev) (q : Nat) : (d.hqPumpOne q).chains = d.chains :=
  OffAnswer.ite rfl ((hqWrite _ _ _).trans (modHq d _ _))

theorem hqPump (d : Dev) (q : Nat) : (d.hqPump q).chains = d.chains := OffAnswer.forN (fun _ e => hqPumpOne e q) _ d

theorem hqBoundary (d : Dev) (q : Nat) : (d.hqBoundary q).chains = d.chains :=
  OffAnswer.ite rfl (OffAnswer.ite ((hqPump _ q).trans (modHq d q _)) (modHq d q _))

theorem hqPut (d : Dev) (q : Nat) (w : Word) (last : Bool) : (d.hqPut q w last).chains = d.chains :=
  (hqBoundary _ q).trans (OffAnswer.ite ((hqPump _ q).trans (modHq d q _)) (modHq d q _))

theorem hqDeliver (q : Nat) (ws : List Word) : ∀ d : Dev, (d.hqDeliver q ws).2.chains = d.chains := by
  induction ws with
  | nil => exact fun _ => rfl
  | cons w ws ih =>
    intro d
    rw [Dev.hqDeliver]
    split
    · rfl
    · exact (ih _).trans (hqPut d q w _)

/-! ### Lysith and Fiuth ports -/

theorem modPort (d : Dev) (n : Nat) (f : Lnk → Lnk) : (d.modPort n f).chains = d.chains :=
  congrArg ErrUnit.chains (modPort_err d n f)

theorem emit (d : Dev) (o : Out) : (d.emit o).chains = d.chains := congrArg ErrUnit.chains (emit_err d o)

theorem sendFrame (d : Dev) (n type seq : Nat) (ws : List Word) : (d.sendFrame n type seq ws).chains = d.chains :=
  (emit _ _).trans (OffAnswer.ite rfl (modPort d n _))

theorem pumpOne (d : Dev) (n : Nat) : (d.pumpOne n).chains = d.chains :=
  OffAnswer.ite rfl ((sendFrame _ _ _ _ _).trans (modPort d n _))

theorem pump (d : Dev) (n : Nat) : (d.pump n).chains = d.chains := by
  have hsent := OffAnswer.forN (fun _ e => pumpOne e n) ((d.port n).txq.length + 1) d
  have hidle (e : Dev) : (e.idleOut n).chains = e.chains := OffAnswer.ite (sendFrame e n 1 0 []) rfl
  exact OffAnswer.ite ((hidle _).trans hsent) hsent

theorem sendAll (d : Dev) (n : Nat) (ms : List Msg) : (d.sendAll n ms).chains = d.chains :=
  OffAnswer.ite (modPort d n _) ((pump _ n).trans (modPort d n _))

theorem rteCount (d : Dev) (fl : Fld) (n reason : Nat) : (d.rteCount fl n reason).chains = d.chains :=
  OffAnswer.ite rfl (incEv d _ _ _ _ _)

theorem postedErr (d : Dev) (dir port src reason addr : Nat) : (d.postedErr dir port src reason addr).chains = d.chains := by
  have herr := error d 16 1 port 0 0x710 (mkW [(4, 4, dir), (3, 0, reason)])
  exact OffAnswer.ite ((inc _ _ _).trans herr) <| (event _ _ _ _).trans <| (setF _ _ _).trans <| (setF _ _ _).trans <|
    (setF _ _ _).trans <| (setF _ _ _).trans <| (setF _ _ _).trans <| (setF _ _ _).trans <| (setF _ _ _).trans herr

theorem modFp (d : Dev) (p : Nat) (f : FiuPort → FiuPort) : (d.modFp p f).chains = d.chains :=
  congrArg ErrUnit.chains (modFp_err d p f)

theorem fiuCycles (d : Dev) (w ofs run : Nat) (head : Word) (ws : List Word) :
    (d.fiuCycles w ofs run head ws).chains = d.chains := by
  unfold Dev.fiuCycles
  dsimp only
  have hpushed (f : Nat × Nat → Own) (l : List (Nat × Nat)) (p : Nat) :
      (each l (fun x e => e.ownPush p (f x)) d).chains = d.chains :=
    OffAnswer.foldl (f := fun e x => e.ownPush p (f x)) (fun e _ => modFp e p _) l d
  exact OffAnswer.ite (hpushed _ _ _) ((postedErr _ _ _ _ _ _).trans ((rteCount _ _ _ _).trans (hpushed _ _ _)))

end KeepsChains

/-! ### Operations on one chain -/

theorem chain_modChain_same (d : Dev) (e : Nat) (f : Chain → Chain) : (d.modChain e f).chain e = f (d.chain e) :=
  mget_mset_same _ _ _

theorem chain_modChain_ne (d : Dev) {e k : Nat} (f : Chain → Chain) (h : k ≠ e) : (d.modChain e f).chain k = d.chain k :=
  mget_mset_ne _ _ h

/-- What a change of any chain keeps of it, it keeps of each. -/
theorem chain_modChain_keeps {α : Type} {P : Chain → α} (f : Chain → Chain) (hf : ∀ c, P (f c) = P c) (d : Dev) (e k : Nat) :
    P ((d.modChain e f).chain k) = P (d.chain k) := by
  by_cases h : k = e
  · rw [h, chain_modChain_same, hf]
  · rw [chain_modChain_ne d f h]

theorem bklTrim_pkts (d : Dev) (e : Nat) (hold : List Nat) (k : Nat) :
    ((d.bklTrim e hold).chain k).pkts = (d.chain k).pkts :=
  OffAnswer.ite (P := fun x : Dev => (x.chain k).pkts) rfl
    ((congrArg Chain.pkts (chain_congr (KeepsChains.bklCount _ e) k)).trans
      (chain_modChain_keeps (P := Chain.pkts) _ (by exact fun _ => rfl) d e k))

theorem bklTrim_stalled (d : Dev) (e : Nat) (hold : List Nat) (k : Nat) :
    ((d.bklTrim e hold).chain k).stalled = (d.chain k).stalled :=
  OffAnswer.ite (P := fun x : Dev => (x.chain k).stalled) rfl
    ((congrArg Chain.stalled (chain_congr (KeepsChains.bklCount _ e) k)).trans
      (chain_modChain_keeps (P := Chain.stalled) _ (by exact fun _ => rfl) d e k))

theorem bklEmptied_pkts (d : Dev) (e k : Nat) : ((d.bklEmptied e).chain k).pkts = (d.chain k).pkts :=
  OffAnswer.ite (P := fun x : Dev => (x.chain k).pkts)
    ((congrArg Chain.pkts (chain_congr (KeepsChains.event _ _ _ _) k)).trans
      (chain_modChain_keeps (P := Chain.pkts) _ (by exact fun _ => rfl) d e k)) rfl

/-- An emptied chain is not stalled; another stays as it is. -/
theorem bklEmptied_unstalled {d : Dev} {e : Nat} (h : (d.chain e).stalled = false) :
    ((d.bklEmptied e).chain e).stalled = false :=
  OffAnswer.ite (P := fun x : Dev => (x.chain e).stalled)
    ((congrArg Chain.stalled (chain_congr (KeepsChains.event _ _ _ _) e)).trans
      (congrArg Chain.stalled (chain_modChain_same d e fun c => { c with stalled := false }))) h

theorem bklPopPkt_pkts (d : Dev) (e : Nat) : ((d.bklPopPkt e).chain e).pkts = (d.chain e).pkts.drop 1 := by
  rw [Dev.bklPopPkt, bklEmptied_pkts, bklTrim_pkts, chain_modChain_same]

theorem bklPopPkt_unstalled {d : Dev} {e : Nat} (h : (d.chain e).stalled = false) :
    ((d.bklPopPkt e).chain e).stalled = false := by
  refine bklEmptied_unstalled ?_
  rw [bklTrim_stalled, chain_modChain_same]
  exact h

/-! ### Words left to drain -/

/-- A bound of the steps that a drain of some packets takes. -/
def wordsLeft (ps : List BklPkt) : Nat := (ps.map fun p => p.words + 1).sum

/-- The bound for the chain of an egress. -/
def Dev.drainLeft (d : Dev) (e : Nat) : Nat := wordsLeft (d.chain e).pkts

theorem wordsLeft_cons (p : BklPkt) (ps : List BklPkt) : wordsLeft (p :: ps) = p.words + 1 + wordsLeft ps := by
  rw [wordsLeft, List.map_cons, List.sum_cons, ← wordsLeft]

theorem foldl_wordsLeft (ps : List BklPkt) : ∀ a, ps.foldl (fun a p => a + p.words + 1) a = a + wordsLeft ps := by
  induction ps with
  | nil => exact fun _ => rfl
  | cons p ps ih =>
    intro a
    rw [List.foldl_cons, ih, wordsLeft_cons]
    omega

/-- The words of some spans. -/
theorem foldl_spans (ss : List (Nat × Nat × Nat)) : ∀ a, ss.foldl (fun a s => a + s.2.2) a = a + (ss.map (·.2.2)).sum := by
  induction ss with
  | nil => exact fun _ => rfl
  | cons s ss ih =>
    intro a
    rw [List.foldl_cons, ih, List.map_cons, List.sum_cons]
    omega

theorem words_eq (p : BklPkt) : p.words = (p.spans.map (·.2.2)).sum := by
  rw [BklPkt.words, foldl_spans, Nat.zero_add]

theorem dropSpans_sum (ss : List (Nat × Nat × Nat)) : ∀ n, ((dropSpans n ss).map (·.2.2)).sum = (ss.map (·.2.2)).sum - n := by
  induction ss with
  | nil => exact fun n => (Nat.zero_sub n).symm
  | cons s ss ih =>
    intro n
    obtain ⟨c, o, k⟩ := s
    rw [dropSpans]
    split
    · next h => rw [h, Nat.sub_zero]
    · split
      · simp only [List.map_cons, List.sum_cons]
        omega
      · rw [ih]
        simp only [List.map_cons, List.sum_cons]
        omega

/-- What is delivered of a packet: its words, or a HEAD or an ABORT alone. -/
theorem bklOut_length (d : Dev) (p : BklPkt) : (d.bklOut p).1.length ≤ max 1 p.words := by
  unfold Dev.bklOut
  split
  · exact Nat.le_max_left 1 _
  · have hlen : (p.spans.flatMap fun x => (List.range x.2.2).map fun i => d.bklAddr x.1 (16 + x.2.1 + i)).length = p.words := by
      rw [List.length_flatMap, words_eq]
      simp only [List.length_map, List.length_range]
    unfold Dev.bklRead
    dsimp only
    split
    · rw [List.length_map, hlen]
      exact Nat.le_max_right 1 _
    · rw [List.length_cons, List.length_drop, List.length_map, hlen]
      omega

/-- A part of the oldest packet delivered leaves less to drain, when it is the packet's end or at least one word. -/
theorem bklTake_left {d : Dev} {e n k : Nat} {p : BklPkt} {ps : List BklPkt} (hp : (d.chain e).pkts = p :: ps)
    (hn : n ≤ max 1 p.words) (hk : n ≤ k ∨ 1 ≤ k) : (d.bklTake e n k).drainLeft e < wordsLeft (p :: ps) := by
  rw [Dev.drainLeft, Dev.bklTake, wordsLeft_cons]
  split
  · rw [bklPopPkt_pkts, hp, List.drop_one, List.tail_cons]
    omega
  · have hwords : ({ p with spans := dropSpans k p.spans, begun := p.begun || decide (k > 0) } : BklPkt).words = p.words - k := by
      rw [words_eq, dropSpans_sum, ← words_eq]
    rw [bklTrim_pkts, chain_modChain_same]
    dsimp only
    rw [hp]
    dsimp only
    rw [wordsLeft_cons, hwords]
    omega

theorem bklTake_unstalled {d : Dev} {e : Nat} (h : (d.chain e).stalled = false) (n k : Nat) :
    ((d.bklTake e n k).chain e).stalled = false := by
  unfold Dev.bklTake
  split
  · exact bklPopPkt_unstalled h
  · rw [bklTrim_stalled, chain_modChain_same]
    exact h

/-! ### One step of a drain -/

/-- A drain goes on with an egress that still takes words, and with less left. -/
structure DrainsOn (d : Dev) (e : Nat) (d' : Dev) : Prop where
  unstalled : (d'.chain e).stalled = false
  less : d'.drainLeft e < d.drainLeft e

section Step
variable {d : Dev} {e : Nat} {p : BklPkt} {ps : List BklPkt}

/-- The packet at the head of a chain is taken, in part or whole, after operations that leave every chain. -/
theorem DrainsOn.take {x : Dev} (hx : x.chains = d.chains) (hst : (d.chain e).stalled = false)
    (hp : (d.chain e).pkts = p :: ps) {n k : Nat} (hn : n ≤ max 1 p.words) (hk : n ≤ k ∨ 1 ≤ k) :
    DrainsOn d e (x.bklTake e n k) := by
  have hchain := chain_congr hx e
  refine ⟨bklTake_unstalled (by rw [hchain]; exact hst) n k, ?_⟩
  have hleft : d.drainLeft e = wordsLeft (p :: ps) := congrArg wordsLeft hp
  rw [hleft]
  exact bklTake_left (by rw [hchain]; exact hp) hn hk

theorem DrainsOn.pop {x : Dev} (hx : x.chains = d.chains) (hst : (d.chain e).stalled = false)
    (hp : (d.chain e).pkts = p :: ps) : DrainsOn d e (x.bklPopPkt e) := by
  have hchain := chain_congr hx e
  refine ⟨bklPopPkt_unstalled (by rw [hchain]; exact hst), ?_⟩
  rw [Dev.drainLeft, Dev.drainLeft, bklPopPkt_pkts, hchain, hp, List.drop_one, List.tail_cons, wordsLeft_cons]
  omega

theorem drainHost_drainsOn (hst : (d.chain e).stalled = false) (hp : (d.chain e).pkts = p :: ps)
    (hgo : (d.drainHost e p).1 = true) : DrainsOn d e (d.drainHost e p).2 := by
  have hrest : ((d.bklOut p).2.hqDeliver e (d.bklOut p).1).1.length = 0 :=
    List.length_eq_zero_iff.mpr (List.isEmpty_iff.mp hgo)
  have hall : (d.bklOut p).1.length ≤
      (d.bklOut p).1.length - ((d.bklOut p).2.hqDeliver e (d.bklOut p).1).1.length := by
    rw [hrest]
    exact Nat.le_refl _
  exact DrainsOn.take ((KeepsChains.hqDeliver e _ _).trans (KeepsChains.bklOut d p)) hst hp (bklOut_length d p)
    (Or.inl hall)

theorem drainLys_drainsOn {n : Nat} (hst : (d.chain (256 + n)).stalled = false) (hp : (d.chain (256 + n)).pkts = p :: ps)
    (hgo : (d.drainLys n p).1 = true) : DrainsOn d (256 + n) (d.drainLys n p).2 := by
  unfold Dev.drainLys at hgo ⊢
  dsimp only at hgo ⊢
  split at hgo
  · next hopen =>
    rw [if_pos hopen]
    exact DrainsOn.take ((KeepsChains.sendAll _ _ _).trans (KeepsChains.bklOut d p)) hst hp (bklOut_length d p)
      (Or.inr (by decide))
  · exact absurd hgo Bool.false_ne_true

/-- A cycle of a run that has words left to write takes one at least. -/
theorem cycleLen_pos {block : Bool} {addr left : Nat} (h : left ≠ 0) : 1 ≤ cycleLen block addr left := by
  unfold cycleLen
  split
  · have : addr % 256 < 256 := Nat.mod_lt _ (by decide)
    simp only [Nat.min_def]
    split <;> split <;> omega
  · simp only [Nat.min_def]
    split <;> omega

theorem nextCycle_takes (d : Dev) (w ofs n : Nat) :
    n ≤ (d.nextCycle w ofs n).getD n ∨ 1 ≤ (d.nextCycle w ofs n).getD n := by
  unfold Dev.nextCycle
  dsimp only
  split
  · exact Or.inl (Nat.le_refl n)
  · next h => exact Or.inr (cycleLen_pos h)

/-- The head of the chain of a Fiuth egress with its run and the place of its next word. -/
def Dev.fiuHead (e : Nat) (run dest : Nat) (d : Dev) : Dev :=
  d.modChain e fun c => { c with pkts := match c.pkts with
    | q :: qs => { q with run := some run, dest := dest } :: qs
    | [] => [] }

theorem fiuHead_pkts {x : Dev} (hp : (x.chain e).pkts = p :: ps) (run dest : Nat) :
    ((x.fiuHead e run dest).chain e).pkts = { p with run := some run, dest := dest } :: ps := by
  rw [Dev.fiuHead, chain_modChain_same]
  dsimp only
  rw [hp]

theorem DrainsOn.fiu {x : Dev} (hx : x.chains = d.chains) (hst : (d.chain e).stalled = false)
    (hp : (d.chain e).pkts = p :: ps) {n k : Nat} (hn : n ≤ max 1 p.words) (hk : n ≤ k ∨ 1 ≤ k) (w ofs run dest : Nat)
    (head : Word) (ws : List Word) :
    DrainsOn d e (((x.fiuHead e run dest).fiuCycles w ofs run head ws).bklTake e n k) := by
  have hx' := chain_congr hx e
  have hcycles := chain_congr (KeepsChains.fiuCycles (x.fiuHead e run dest) w ofs run head ws) e
  refine ⟨bklTake_unstalled ?_ n k, ?_⟩
  · rw [hcycles, Dev.fiuHead, chain_modChain_same, hx']
    exact hst
  · have hleft : d.drainLeft e = wordsLeft (p :: ps) := congrArg wordsLeft hp
    rw [hleft]
    have hpkts := fiuHead_pkts (e := e) (by rw [hx']; exact hp) run dest
    exact bklTake_left (p := { p with run := some run, dest := dest }) (by rw [hcycles]; exact hpkts) hn hk

/-- A cycle of a Fiuth egress that is put into the posted buffer of its port under run `r`. -/
def Dev.fiuStep (e : Nat) (p : BklPkt) (r : Nat × Dev) (ws : List Word) (k : Nat) : Dev :=
  let w := p.dest / 2 ^ 26 % 16
  let ofs := p.dest % 2 ^ 26
  ((r.2.fiuHead e r.1 (fiuDest w (ofs + k))).fiuCycles w ofs r.1 p.head (ws.take k)).bklTake e ws.length k

/-- The run that a chained packet goes on with: its own, or a new one of its port. -/
def Dev.fiuRun (e : Nat) (p : BklPkt) (d : Dev) : Nat × Dev :=
  match p.run with
  | some r => (r, (d.bklOut p).2)
  | none => (d.bklOut p).2.newRun (e - 264)

/-- The next cycle of a chained packet finds room in the posted buffer of its port, or has no word to write. -/
def Dev.fiuFits (e : Nat) (p : BklPkt) (d : Dev) : Bool :=
  let c := d.nextCycle (p.dest / 2 ^ 26 % 16) (p.dest % 2 ^ 26) (d.bklOut p).1.length
  c.isNone || (decide (d.postedFill (e - 264) + c.getD (d.bklOut p).1.length ≤ 1024) && !d.postedWaits (e - 264))

theorem drainFiu_eq (d : Dev) (e : Nat) (p : BklPkt) :
    d.drainFiu e p =
      if !d.fb (F.brgOwinCfg_EN (p.dest / 2 ^ 26 % 16)) then (true, (d.rteDiscard 1).bklPopPkt e)
      else if !d.fiuFits e p then (false, d)
      else (true, Dev.fiuStep e p (d.fiuRun e p) (d.bklOut p).1
        ((d.nextCycle (p.dest / 2 ^ 26 % 16) (p.dest % 2 ^ 26) (d.bklOut p).1.length).getD (d.bklOut p).1.length)) := rfl

theorem fiuRun_chains (d : Dev) (e : Nat) (p : BklPkt) : (d.fiuRun e p).2.chains = d.chains := by
  unfold Dev.fiuRun
  cases p.run with
  | some r => exact KeepsChains.bklOut d p
  | none => exact (KeepsChains.modFp _ _ _).trans (KeepsChains.bklOut d p)

theorem drainFiu_drainsOn (hst : (d.chain e).stalled = false) (hp : (d.chain e).pkts = p :: ps)
    (hgo : (d.drainFiu e p).1 = true) : DrainsOn d e (d.drainFiu e p).2 := by
  rw [drainFiu_eq] at hgo ⊢
  split at hgo
  · next hoff =>
    rw [if_pos hoff]
    exact DrainsOn.pop (KeepsChains.rteCount d _ _ _) hst hp
  · next hon =>
    rw [if_neg hon]
    split at hgo
    · exact absurd hgo Bool.false_ne_true
    · next hfits =>
      rw [if_neg hfits]
      exact DrainsOn.fiu (fiuRun_chains d e p) hst hp (bklOut_length d p) (nextCycle_takes _ _ _ _) _ _ _ _ _ _

/-- One step of a drain, with the oldest packet named. -/
theorem drainOne_eq (hp : (d.chain e).pkts = p :: ps) :
    d.drainOne e =
      if d.egStalled e || d.bklHeld p then (false, d)
      else if e < 256 then (if d.fb (F.pciHqCfg_EN e) then d.drainHost e p else (false, d))
      else if e < 264 then d.drainLys (e - 256) p
      else d.drainFiu e p := by
  rw [Dev.drainOne, hp]

theorem drainOne_drainsOn (hst : (d.chain e).stalled = false) (hgo : (d.drainOne e).1 = true) :
    DrainsOn d e (d.drainOne e).2 := by
  cases hp : (d.chain e).pkts with
  | nil =>
    rw [Dev.drainOne, hp] at hgo
    exact absurd hgo Bool.false_ne_true
  | cons p ps =>
    rw [drainOne_eq hp] at hgo ⊢
    split at hgo
    · exact absurd hgo Bool.false_ne_true
    · next hflow =>
      rw [if_neg hflow]
      split at hgo
      · next hhost =>
        rw [if_pos hhost]
        split at hgo
        · next hen =>
          rw [if_pos hen]
          exact drainHost_drainsOn hst hp hgo
        · exact absurd hgo Bool.false_ne_true
      · next hhost =>
        rw [if_neg hhost]
        split at hgo
        · next hlys =>
          rw [if_pos hlys]
          have he : e = 256 + (e - 256) := by omega
          rw [he] at hst hp
          have := drainLys_drainsOn hst hp hgo
          rwa [← he] at this
        · next hlys =>
          rw [if_neg hlys]
          exact drainFiu_drainsOn hst hp hgo

end Step

/-! ### A whole drain -/

theorem drainN_succ (d : Dev) (e fuel : Nat) :
    d.drainN e (fuel + 1) = if (d.drainOne e).1 then (d.drainOne e).2.drainN e fuel else (d.drainOne e).2 := rfl

theorem drainOne_nil {d : Dev} {e : Nat} (h : (d.chain e).pkts = []) : d.drainOne e = (false, d) := by
  rw [Dev.drainOne, h]

theorem drainN_nil {d : Dev} {e : Nat} (h : (d.chain e).pkts = []) (fuel : Nat) : d.drainN e fuel = d := by
  cases fuel with
  | zero => rfl
  | succ f => rw [drainN_succ, drainOne_nil h, if_neg Bool.false_ne_true]

theorem pkts_of_drainLeft_zero {d : Dev} {e : Nat} (h : d.drainLeft e = 0) : (d.chain e).pkts = [] := by
  cases hp : (d.chain e).pkts with
  | nil => rfl
  | cons p ps =>
    rw [Dev.drainLeft, hp, wordsLeft_cons] at h
    omega

/-- Enough steps end a drain: more of them change nothing. -/
theorem drainN_enough (e : Nat) : ∀ (n m : Nat) (d : Dev), (d.chain e).stalled = false → d.drainLeft e ≤ n →
    d.drainLeft e ≤ m → d.drainN e n = d.drainN e m := by
  intro n
  induction n with
  | zero =>
    intro m d _ hn _
    have hp := pkts_of_drainLeft_zero (Nat.le_zero.mp hn)
    rw [drainN_nil hp, drainN_nil hp]
  | succ n ih =>
    intro m d hst hn hm
    cases m with
    | zero =>
      have hp := pkts_of_drainLeft_zero (Nat.le_zero.mp hm)
      rw [drainN_nil hp, drainN_nil hp]
    | succ m =>
      rw [drainN_succ, drainN_succ]
      split
      · next hgo =>
        obtain ⟨hst', hless⟩ := drainOne_drainsOn hst hgo
        exact ih m _ hst' (by omega) (by omega)
      · rfl

theorem drain_eq (d : Dev) (e : Nat) : d.drain e = (d.egFlow e).drainN e (1 + (d.egFlow e).drainLeft e) :=
  congrArg (fun n => (d.egFlow e).drainN e n) (foldl_wordsLeft _ 1)

theorem egFlow_of_unstalled {d : Dev} {e : Nat} (h : (d.chain e).stalled = false) : d.egFlow e = d := by
  rw [Dev.egFlow, h, Bool.false_and, if_neg Bool.false_ne_true]

/-- An egress whose chain drains has no wait to end. -/
theorem unstalled_of_egFlow {d : Dev} {e : Nat} (he : e < 268) (h : (d.egFlow e).egStalled e = false) :
    ((d.egFlow e).chain e).stalled = false := by
  have hwait : ((d.chain e).stalled && !d.egWaits e) = false → d.egStalled e = false → (d.chain e).stalled = false := by
    intro hflow hst
    cases hs : (d.chain e).stalled with
    | false => rfl
    | true =>
      have hw : d.egWaits e = true := by rwa [hs, Bool.true_and, Bool.not_eq_false'] at hflow
      rw [Dev.egStalled, hs, hw] at hst
      by_cases h256 : e < 256
      · have : d.egWaits e = false := by
          rw [Dev.egWaits, if_neg (by simp only [Bool.and_eq_true, decide_eq_true_eq]; omega),
            if_neg (by simp only [Bool.and_eq_true, decide_eq_true_eq]; omega)]
        exact absurd (hw.symm.trans this) (by decide)
      · rw [if_neg h256, if_pos he] at hst
        split at hst
        · rw [Bool.and_self, Bool.or_true] at hst
          exact absurd hst (by decide)
        · rw [Bool.and_self, Bool.or_true] at hst
          exact absurd hst (by decide)
  unfold Dev.egFlow at h ⊢
  split at h
  · next hflow =>
    rw [if_pos hflow, chain_modChain_same]
  · next hflow =>
    rw [if_neg hflow]
    exact hwait (Bool.eq_false_iff.mpr hflow) h

/-- A drain that stops at once, but for the end of the egress's wait. -/
theorem drain_stops {d d0 : Dev} {e : Nat} (h0 : d.egFlow e = d0) (h : d0.drainOne e = (false, d0)) : d.drain e = d0 := by
  rw [drain_eq, h0, Nat.add_comm, drainN_succ, h, if_neg Bool.false_ne_true]

/-- A drain goes on after its first step as a drain of its own. -/
theorem drain_goes {d d0 d1 : Dev} {e : Nat} (he : e < 268) (h0 : d.egFlow e = d0) (hst : d0.egStalled e = false)
    (h : d0.drainOne e = (true, d1)) : d.drain e = d1.drain e := by
  have hun : (d0.chain e).stalled = false := h0 ▸ unstalled_of_egFlow he (h0 ▸ hst)
  obtain ⟨hst', hless⟩ := drainOne_drainsOn hun (congrArg Prod.fst h)
  rw [h] at hst' hless
  rw [drain_eq d, h0, Nat.add_comm, drainN_succ, h, if_pos rfl, drain_eq d1, egFlow_of_unstalled hst']
  exact drainN_enough e _ _ d1 hst' (Nat.le_of_lt hless) (Nat.le_add_left _ 1)

end Sys2Proof.Machine
end

section
namespace Sys2Proof.Machine

theorem exec_bklInfo (n : Mbx) (s : State) : exec (.bklInfo n) s = lift (Dev.takeCmd n 0xA20 (· == 1) (Dev.bklInfo n)) s := rfl

theorem exec_egressStall (e : Fin 269) (s : State) :
    exec (.egressStall e) s = liftBb (fun d => if d.egWaits e then
      (let d := d.modChain e fun c => { c with stalled := true }
       if e.val < 264 then d.spillLys (e.val - 256) else d.spillFiu (e.val - 264)) else d) s := rfl

theorem exec_backlogDrain (e : Fin 269) (s : State) :
    exec (.backlogDrain e) s = liftBb (fun d =>
      if e.val = 268 then (if e.val < 256 then d.hqPump e else d).drainUnrouted
      else (if e.val < 256 then d.hqPump e else d).drain e) s := rfl

section Rows
variable {s : State} {e : Fin 269} {d0 d1 : Dev} {p : BklPkt} {ps : List BklPkt}

/-- The drain of an egress other than 268 that stops at once. -/
theorem backlogDrain_stops (hl : s.live = true) (he : e.val < 268)
    (h0 : (if e.val < 256 then s.dev.hqPump e else s.dev).egFlow e = d0) (h : d0.drainOne e = (false, d0)) :
    exec (.backlogDrain e) s = .next (s.afterBb fun _ => d0) := by
  rw [exec_backlogDrain]
  refine liftBb_live_eq hl ?_
  rw [if_neg he.ne]
  exact drain_stops h0 h

/-- The drain of an egress other than 268 that takes a step. -/
theorem backlogDrain_goes (hl : s.live = true) (he : e.val < 268)
    (h0 : (if e.val < 256 then s.dev.hqPump e else s.dev).egFlow e = d0) (hst : d0.egStalled e = false)
    (h : d0.drainOne e = (true, d1)) : exec (.backlogDrain e) s = .next (s.afterBb fun _ => d1.drain e) := by
  rw [exec_backlogDrain]
  refine liftBb_live_eq hl ?_
  rw [if_neg he.ne]
  exact drain_goes he h0 hst h

end Rows

section FirstStep
variable {d : Dev} {e : Nat} {p : BklPkt} {ps : List BklPkt}

theorem drainOne_stalled (h : d.egStalled e = true) : d.drainOne e = (false, d) := by
  cases hp : (d.chain e).pkts with
  | nil => exact drainOne_nil hp
  | cons p ps => rw [drainOne_eq hp, h, Bool.true_or, if_pos rfl]

/-- The oldest packet of an egress that takes it. -/
theorem drainOne_of_open (hp : (d.chain e).pkts = p :: ps) (hst : d.egStalled e = false) (hheld : d.bklHeld p = false) :
    d.drainOne e = if e < 256 then (if d.fb (F.pciHqCfg_EN e) then d.drainHost e p else (false, d))
      else if e < 264 then d.drainLys (e - 256) p else d.drainFiu e p := by
  rw [drainOne_eq hp, hst, hheld, Bool.or_self, if_neg Bool.false_ne_true]

/-- A host queue that takes the whole packet. -/
theorem drainHost_whole (h : ((d.bklOut p).2.hqDeliver e (d.bklOut p).1).1 = []) :
    d.drainHost e p = (true, ((d.bklOut p).2.hqDeliver e (d.bklOut p).1).2.bklPopPkt e) := by
  have heq : d.drainHost e p = ((((d.bklOut p).2.hqDeliver e (d.bklOut p).1).1).isEmpty,
    ((d.bklOut p).2.hqDeliver e (d.bklOut p).1).2.bklTake e (d.bklOut p).1.length
      ((d.bklOut p).1.length - ((d.bklOut p).2.hqDeliver e (d.bklOut p).1).1.length)) := rfl
  rw [heq, h, List.length_nil, Nat.sub_zero, Dev.bklTake, if_pos (Nat.le_refl _), List.isEmpty_nil]

/-- A Lysith port that sends the next segment at once. -/
theorem drainLys_open {n : Nat} {m : Msg}
    (hm : m = p.info.seg 1 p.dest (!p.cont && !p.begun) (decide ((d.bklOut p).1.length ≤ 31)) ((d.bklOut p).1.take 31))
    (hopen : d.linkOpen n = true) (hsend : (d.port n).canSend m = true)
    (hpkt : ((d.port n).txq.any fun m => m.cls == 5) = false) (hack : (d.port n).unacked.length < 512) :
    d.drainLys n p = (true, ((d.bklOut p).2.sendOn n m).bklTake (256 + n) (d.bklOut p).1.length 31) := by
  subst hm
  have heq : d.drainLys n p = if d.linkOpen n && (d.port n).canSend (p.info.seg 1 p.dest (!p.cont && !p.begun)
        (decide ((d.bklOut p).1.length ≤ 31)) ((d.bklOut p).1.take 31)) && !((d.port n).txq.any fun m => m.cls == 5) &&
        decide ((d.port n).unacked.length < 512) then
      (true, ((d.bklOut p).2.sendOn n (p.info.seg 1 p.dest (!p.cont && !p.begun)
        (decide ((d.bklOut p).1.length ≤ 31)) ((d.bklOut p).1.take 31))).bklTake (256 + n) (d.bklOut p).1.length 31)
    else (false, d) := rfl
  rw [heq, hopen, hsend, hpkt, decide_eq_true hack, Bool.not_false, Bool.and_self, Bool.and_self, Bool.and_self, if_pos rfl]

/-- A window that takes no packet (assumption 27). -/
theorem drainFiu_off (hoff : d.fb (F.brgOwinCfg_EN (p.dest / 2 ^ 26 % 16)) = false) :
    d.drainFiu e p = (true, (d.rteDiscard 1).bklPopPkt e) := by
  rw [drainFiu_eq, hoff, Bool.not_false, if_pos rfl]

theorem modChain_congr {x : Dev} {f g : Chain → Chain} (h : f (x.chain e) = g (x.chain e)) : x.modChain e f = x.modChain e g :=
  congrArg (fun c => ({ x with err := { x.err with chains := mset x.err.chains e c } } : Dev)) h

/-- The head of a chain whose packets are known. -/
theorem fiuHead_eq {x : Dev} {run dest : Nat} (hp : (x.chain e).pkts = p :: ps) (hrun : p.run = some run) :
    x.fiuHead e run dest = x.modChain e fun c => { c with pkts := { p with dest := dest } :: ps } := by
  refine modChain_congr ?_
  rw [hp, hrun]

/-- The next cycle of a run that goes on (R326). -/
theorem drainFiu_cycle {r k : Nat} (hp : (d.chain e).pkts = p :: ps)
    (hon : d.fb (F.brgOwinCfg_EN (p.dest / 2 ^ 26 % 16)) = true) (hrun : p.run = some r)
    (hk : d.nextCycle (p.dest / 2 ^ 26 % 16) (p.dest % 2 ^ 26) (d.bklOut p).1.length = some k)
    (hfill : (d.fp (e - 264)).pFill + k ≤ 1024) (hwaits : d.postedWaits (e - 264) = false) :
    d.drainFiu e p = (true, ((((d.bklOut p).2.modChain e fun c => { c with
        pkts := { p with dest := fiuDest (p.dest / 2 ^ 26 % 16) (p.dest % 2 ^ 26 + k) } :: ps }).fiuCycles (p.dest / 2 ^ 26 % 16)
      (p.dest % 2 ^ 26) r p.head ((d.bklOut p).1.take k)).bklTake e (d.bklOut p).1.length k)) := by
  have hfits : d.fiuFits e p = true := by
    have hroom : decide (d.postedFill (e - 264) + k ≤ 1024) = true := decide_eq_true hfill
    rw [Dev.fiuFits, hk, Option.getD_some, hroom, hwaits]
    rfl
  have hcont : d.fiuRun e p = (r, (d.bklOut p).2) := by
    rw [Dev.fiuRun, hrun]
  have hhead := fiuHead_eq (dest := fiuDest (p.dest / 2 ^ 26 % 16) (p.dest % 2 ^ 26 + k))
    ((congrArg Chain.pkts (chain_congr (KeepsChains.bklOut d p) e)).trans hp) hrun
  rw [drainFiu_eq, hon, hfits, hcont, hk, Bool.not_true, if_neg Bool.false_ne_true, if_neg Bool.false_ne_true,
    Option.getD_some, Dev.fiuStep]
  dsimp only
  rw [hhead]

end FirstStep

theorem bklInfo_inRange {d : Dev} {n : Mbx} (h : (d.arg n 1).toNat ≤ 268) :
    d.bklInfo n = d.reply n stOK [d.reg R.errBklStat,
      putBits (d.reg (R.errBklEgr (d.arg n 1).toNat)) 35 34 (d.egState (d.arg n 1).toNat), toW (d.chain (d.arg n 1).toNat).pkts.length] :=
  if_neg (Nat.not_lt.mpr h)

end Sys2Proof.Machine
end

section
/-! Egress 268: packets that the system route table sends on leave it for good (R405, R440). -/

namespace Sys2Proof.Machine

/-! ### What a route depends on -/

/-- The parts of the block that say where a message leaves: the tables, the ports and their registers. -/
structure SameRoute (d e : Dev) : Prop where
  mem : e.mem = d.mem
  lnk : e.lnk = d.lnk
  reg : ∀ o, 0x20000 ≤ o → e.reg o = d.reg o

namespace SameRoute

theorem refl (d : Dev) : SameRoute d d := ⟨rfl, rfl, fun _ _ => rfl⟩

theorem trans {d e f : Dev} (h : SameRoute d e) (h' : SameRoute e f) : SameRoute d f :=
  ⟨h'.mem.trans h.mem, h'.lnk.trans h.lnk, fun o ho => (h'.reg o ho).trans (h.reg o ho)⟩

theorem ite {d a b : Dev} {c : Prop} [Decidable c] (ha : SameRoute d a) (hb : SameRoute d b) :
    SameRoute d (if c then a else b) := by
  split
  · exact ha
  · exact hb

theorem setF (d : Dev) (fl : Fld) (v : Nat) (h : fl.off < 0x20000) : SameRoute d (d.setF fl v) :=
  ⟨setF_mem d fl v, setF_lnk d fl v, fun _ ho => reg_setF_ne d fl v (Nat.lt_of_lt_of_le h ho).ne'⟩

theorem inc (d : Dev) (fl : Fld) (n : Nat) (h : fl.off < 0x20000) : SameRoute d (d.inc fl n) :=
  ⟨inc_mem d fl n, inc_lnk d fl n, fun _ ho => inc_reg_ne d fl n (Nat.lt_of_lt_of_le h ho).ne'⟩

theorem maxF (d : Dev) (fl : Fld) (v : Nat) (h : fl.off < 0x20000) : SameRoute d (d.maxF fl v) := ite (setF d fl v h) (refl d)

theorem event (d : Dev) (code inst : Nat) (x : Word) : SameRoute d (d.event code inst x) :=
  ⟨event_mem d code inst x, event_lnk d code inst x, fun o _ => event_reg d code inst x o⟩

theorem withErr (d : Dev) (x : ErrUnit) : SameRoute d { d with err := x } := ⟨rfl, rfl, fun o _ => reg_of_err d x o⟩

theorem error (d : Dev) {cls : Nat} (hc : cls < 32) (sev inst ah code : Nat) (q3 : Word) :
    SameRoute d (d.error cls sev inst ah code q3) where
  mem := (error_keeps event_mem (fun _ _ => rfl) d cls sev inst ah code q3).trans (inc_mem d _ 1)
  lnk := (error_keeps event_lnk (fun _ _ => rfl) d cls sev inst ah code q3).trans (inc_lnk d _ 1)
  reg o ho := error_reg_ne d sev inst ah code q3 (by unfold R.errCnt; omega)

theorem wordErrs (d : Dev) (as : List Nat) : SameRoute d (d.wordErrs as) := by
  refine foldl_keeps (P := fun e : Dev => SameRoute d e) (fun e a he => ?_) as (refl d)
  dsimp only
  split
  · cases hc : ueClass a with
    | none => exact he
    | some c => exact he.trans (error e (ueClass_lt hc) _ _ _ _ _)
  · split
    · cases hc : ceClass a with
      | none => exact he
      | some c => exact he.trans (error e (ceClass_lt hc) _ _ _ _ _)
    · exact he

theorem bklOut (d : Dev) (p : BklPkt) : SameRoute d (d.bklOut p).2 := by
  unfold Dev.bklOut
  split
  · exact refl d
  · exact wordErrs d _

theorem modChain (d : Dev) (e : Nat) (f : Chain → Chain) : SameRoute d (d.modChain e f) := withErr d _

theorem bklCount (d : Dev) {e : Nat} (he : e ≤ 268) : SameRoute d (d.bklCount e) := by
  have hrise (d : Dev) (c : Prop) [Decidable c] (l code inst : Nat) (w : Word) :
      SameRoute d (if c then ({ d with err := { d.err with level := l } } : Dev).event code inst w else d) :=
    ite ((withErr d _).trans (event _ _ _ _)) (refl d)
  have hchunks : (F.errBklEgr_CHUNKS e).off < 0x20000 := by simp only; omega
  exact (setF d _ _ (by decide)).trans <| (maxF _ _ _ (by decide)).trans <| (setF _ _ _ hchunks).trans <|
    (withErr _ _).trans <| (hrise _ _ _ _ _ _).trans (hrise _ _ _ _ _ _)

theorem bklTrim (d : Dev) {e : Nat} (he : e ≤ 268) (hold : List Nat) : SameRoute d (d.bklTrim e hold) :=
  ite (refl d) ((modChain d e _).trans (bklCount _ he))

theorem bklEmptied (d : Dev) (e : Nat) : SameRoute d (d.bklEmptied e) := ite ((modChain d e _).trans (event _ _ _ _)) (refl d)

section
variable {d e : Dev} (h : SameRoute d e)
include h

theorem rd {a : Nat} (ha : 0x200000000 ≤ a) : e.rd a = d.rd a := by
  rw [rd_of_not_hbm (winOf_ne_hbm ha), rd_of_not_hbm (winOf_ne_hbm ha), h.mem]

theorem f (fl : Fld) (ho : 0x20000 ≤ fl.off) : e.f fl = d.f fl := by
  rw [Dev.f, Dev.f, h.reg fl.off ho]

theorem entryPort (rt0 now : Bool) (w : Word) : e.entryPort rt0 now w = d.entryPort rt0 now w := by
  have hstate (n : Nat) : e.f (F.lnkStat_STATE n) = d.f (F.lnkStat_STATE n) := h.f _ (by simp only; omega)
  have htrunk (n : Nat) : e.fb (F.lnkCfg_TRUNK n) = d.fb (F.lnkCfg_TRUNK n) := by
    rw [Dev.fb, Dev.fb, h.f _ (by simp only; omega)]
  have hup (n : Nat) : e.portUp n = d.portUp n := by rw [Dev.portUp, Dev.portUp, hstate]
  have hport (n : Nat) : e.port n = d.port n := congrArg (mget · n) h.lnk
  simp only [Dev.entryPort, hup, hport, htrunk]

theorem routeOf (dest : Nat) : e.routeOf 1 dest = d.routeOf 1 dest := by
  have hsrt : 0x200000000 ≤ srtTab + dest % 65536 := by unfold srtTab; omega
  have hdrt (k : Nat) : 0x200000000 ≤ drtTab + k := by unfold drtTab; omega
  simp only [Dev.routeOf, Dev.routeBy, h.rd hsrt, h.rd (hdrt _), h.entryPort]

end

end SameRoute

/-- A route names one of the eight ports. -/
theorem entryPort_lt {d : Dev} {rt0 now : Bool} {w : Word} {n : Nat} (h : d.entryPort rt0 now w = some n) : n < 8 := by
  have hpri : bitsOf w 27 25 < 8 := bitsOf_lt w 27 25
  have halt : bitsOf w 23 21 < 8 := bitsOf_lt w 23 21
  unfold Dev.entryPort at h
  dsimp only at h
  split_ifs at h <;> exact Option.some.inj h ▸ ‹_›

theorem routeOf_lt {d : Dev} {dest n : Nat} (h : d.routeOf 1 dest = some n) : n < 8 := by
  rw [Dev.routeOf, Dev.routeBy, if_neg Nat.one_ne_zero] at h
  dsimp only at h
  split at h
  · exact entryPort_lt h
  · exact entryPort_lt h

/-! ### No chain but the egress's own grows -/

/-- Packets of a chain. -/
def Dev.held (k : Nat) (d : Dev) : Nat := (d.chain k).pkts.length

theorem held_of_chains {d e : Dev} (h : d.chains = e.chains) (k : Nat) : d.held k = e.held k :=
  congrArg (fun c : Chain => c.pkts.length) (chain_congr h k)

theorem held_modChain_ne (d : Dev) {e k : Nat} (f : Chain → Chain) (h : k ≠ e) : (d.modChain e f).held k = d.held k := by
  rw [Dev.held, chain_modChain_ne d f h, Dev.held]

theorem held_bklTrim (d : Dev) (e : Nat) (hold : List Nat) (k : Nat) : (d.bklTrim e hold).held k = d.held k :=
  congrArg List.length (bklTrim_pkts d e hold k)

theorem held_bklEmptied (d : Dev) (e k : Nat) : (d.bklEmptied e).held k = d.held k :=
  congrArg List.length (bklEmptied_pkts d e k)

/-- A packet given up makes no chain longer. -/
theorem held_eraseIdx_le (d : Dev) (e i k : Nat) :
    (d.modChain e fun c => { c with pkts := c.pkts.eraseIdx i }).held k ≤ d.held k := by
  by_cases h : k = e
  · rw [h, Dev.held, chain_modChain_same]
    exact List.length_eraseIdx_le _ i
  · exact Nat.le_of_eq (held_modChain_ne d _ h)

theorem held_bklGive_le (w : Nat) (hold : List Nat) (e len k : Nat) : ∀ (fuel pk wd : Nat) (d : Dev),
    (d.bklGive w hold e len pk wd fuel).held k ≤ d.held k := by
  intro fuel
  induction fuel with
  | zero => exact fun pk wd d => Nat.le_of_eq (held_of_chains (KeepsChains.bklLoss d _ _ _) k)
  | succ fuel ih =>
    intro pk wd d
    rw [Dev.bklGive]
    split
    · split
      · exact Nat.le_refl _
      · exact Nat.le_of_eq (held_of_chains (KeepsChains.bklLoss d _ _ _) k)
    · next i _ =>
      have hgiven (hold : List Nat) := (held_bklTrim (d.modChain e fun c => { c with pkts := c.pkts.eraseIdx i }) e hold k).le.trans
        (held_eraseIdx_le d e i k)
      generalize (if e = w then hold else []) = hold' at hgiven ⊢
      dsimp only
      split
      · exact (held_of_chains (KeepsChains.bklLoss _ _ _ _) k).le.trans (hgiven _)
      · exact (ih _ _ _).trans (hgiven _)

theorem held_bklRoom_le (w : Nat) (hold : List Nat) (k : Nat) : ∀ (fuel : Nat) (d : Dev),
    (d.bklRoom w hold fuel).held k ≤ d.held k := by
  intro fuel
  induction fuel with
  | zero => exact fun d => Nat.le_refl _
  | succ fuel ih =>
    intro d
    rw [Dev.bklRoom]
    dsimp only
    split
    · exact Nat.le_refl _
    · split
      · exact Nat.le_refl _
      · have hgive := held_bklGive_le w hold
        refine (ih _).trans ?_
        split
        · exact hgive _ _ _ _ _ _ _
        · exact (held_bklEmptied _ _ k).le.trans (hgive _ _ _ _ _ _ _)

section Append
variable {e k : Nat} (hne : k ≠ e)
include hne

theorem held_bklAlloc_le (hold : List Nat) (d : Dev) : (d.bklAlloc e hold).2.held k ≤ d.held k := by
  have hroom := held_bklRoom_le e hold k (d.err.chains.length + 1) d
  unfold Dev.bklAlloc
  dsimp only
  split
  · exact ((held_of_chains (KeepsChains.bklCount _ e) k).trans (held_modChain_ne _ _ hne)).le.trans hroom
  · exact hroom

theorem held_bklWords_le : ∀ (fuel : Nat) (ws : List Word) (sp : List (Nat × Nat × Nat)) (d : Dev),
    (d.bklWords e fuel ws sp).2.2.held k ≤ d.held k := by
  intro fuel
  induction fuel with
  | zero => exact fun ws sp d => Nat.le_refl _
  | succ fuel ih =>
    intro ws sp d
    have halloc := held_bklAlloc_le hne (sp.map (·.1)) d
    rw [Dev.bklWords]
    split
    · exact Nat.le_refl _
    · dsimp only
      split
      · split
        · exact (ih _ _ _).trans halloc
        · exact halloc
      · exact (ih _ _ _).trans ((held_modChain_ne _ _ hne).trans (held_of_chains (KeepsChains.bklWrs d _ _) k)).le

theorem held_bklRecord (d : Dev) (num : Nat) (head : Word) (len : Nat) (cont : Bool) :
    (d.bklRecord e num head len cont).held k = d.held k := by
  rw [Dev.bklRecord]
  refine (held_of_chains (KeepsChains.bklDescribeEnd _ e) k).trans ?_
  refine (held_of_chains (OffAnswer.foldl (fun x i => ?_) _ _) k).trans (held_modChain_ne d _ hne)
  split
  · exact OffAnswer.ite (KeepsChains.bklDescribe x _ _) rfl
  · rfl

theorem held_bklClose (d : Dev) : (d.bklClose e).held k = d.held k := OffAnswer.ite (P := Dev.held k) (held_modChain_ne d _ hne) rfl

theorem held_bklAppend_le (p : BklPkt) (ws : List Word) (d : Dev) : (d.bklAppend e p ws).held k ≤ d.held k := by
  have hbegin : (if d.chainEmpty e then d.event 0xA10 0 (toW e) else d).held k = d.held k :=
    held_of_chains (OffAnswer.ite (KeepsChains.event d _ _ _) rfl) k
  rw [Dev.bklAppend]
  dsimp only
  generalize (if d.chainEmpty e then d.event 0xA10 0 (toW e) else d) = d1 at hbegin ⊢
  have hwords := (held_bklWords_le hne (2 * (ws.length / 992 + 2)) ws [] (d1.bklClose e)).trans
    ((held_bklClose hne d1).trans hbegin).le
  generalize (d1.bklClose e).bklWords e (2 * (ws.length / 992 + 2)) ws [] = r at hwords ⊢
  obtain ⟨ok, sp, x⟩ := r
  cases ok with
  | true =>
    rw [if_pos rfl, held_bklRecord hne, held_modChain_ne _ _ hne]
    exact hwords
  | false =>
    rw [if_neg Bool.false_ne_true, held_of_chains (KeepsChains.bklLoss _ _ _ _), held_bklTrim, held_modChain_ne _ _ hne]
    exact hwords

end Append

theorem held_sendLys_le {n k : Nat} (hne : k ≠ 256 + n) (p : BklPkt) (ws : List Word) (d : Dev) :
    (d.sendLys n p ws).held k ≤ d.held k := by
  unfold Dev.sendLys
  dsimp only
  split
  · exact held_bklAppend_le hne p ws d
  · exact (held_of_chains (KeepsChains.sendAll d n _) k).le

/-- A packet that has a route joins no chain but its port's. -/
theorem held_sendSrt_le {d : Dev} {p : BklPkt} {n : Nat} (h : d.routeOf 1 p.dest = some n) (ws : List Word) :
    (d.sendSrt p ws).held 268 ≤ d.held 268 := by
  have hne : 268 ≠ 256 + n := by
    have := routeOf_lt h
    omega
  rw [Dev.sendSrt, h]
  exact held_sendLys_le hne _ ws _

/-! ### The drain of egress 268 -/

/-- What R440 sends on of egress 268. -/
def routable (d : Dev) (p : BklPkt) : Bool := (d.routeOf 1 p.dest).isSome

/-- A packet of egress 268 out of its chain. -/
def Dev.unchain (i : Nat) (p : BklPkt) (d : Dev) : Dev :=
  (((d.bklOut p).2.modChain 268 fun c => { c with pkts := c.pkts.eraseIdx i }).bklTrim 268 []).bklEmptied 268

theorem resendPkt_eq (d : Dev) (i : Nat) (p : BklPkt) :
    d.resendPkt 268 i p =
      (d.unchain i p).sendSrt { p with spans := [], cont := p.cont || p.begun, begun := false, abort := none } (d.bklOut p).1 := rfl

theorem unchain_route (d : Dev) (i : Nat) (p : BklPkt) : SameRoute d (d.unchain i p) :=
  (SameRoute.bklOut d p).trans <| (SameRoute.modChain _ _ _).trans <|
    (SameRoute.bklTrim _ (Nat.le_refl 268) _).trans (SameRoute.bklEmptied _ _)

theorem held_unchain {d : Dev} {i : Nat} (hi : i < d.held 268) (p : BklPkt) : (d.unchain i p).held 268 = d.held 268 - 1 := by
  have hout : (d.bklOut p).2.chain 268 = d.chain 268 := chain_congr (KeepsChains.bklOut d p) 268
  rw [Dev.unchain, held_bklEmptied, held_bklTrim, Dev.held, chain_modChain_same, hout]
  exact List.length_eraseIdx_of_lt hi

/-- A routable packet leaves egress 268 for good. -/
theorem held_resendPkt_lt {d : Dev} {i : Nat} {p : BklPkt} (hi : i < d.held 268) (hgo : routable d p = true) :
    (d.resendPkt 268 i p).held 268 < d.held 268 := by
  obtain ⟨n, hn⟩ := Option.isSome_iff_exists.mp hgo
  have hroute : (d.unchain i p).routeOf 1 p.dest = some n := ((unchain_route d i p).routeOf p.dest).trans hn
  rw [resendPkt_eq]
  have := (held_sendSrt_le (p := { p with spans := [], cont := p.cont || p.begun, begun := false, abort := none }) hroute
    (d.bklOut p).1).trans_eq (held_unchain hi p)
  omega

/-- The packet at place `i` of egress 268 sent on, if it can be. -/
def Dev.resendAt (i : Nat) (d : Dev) : Dev :=
  match (d.chain 268).pkts[i]? with
  | some p => if routable d p && !d.bklHeld p then d.resendPkt 268 i p else d
  | none => d

theorem resendLast_succ (d : Dev) (r : Nat) :
    d.resendLast 268 routable (r + 1) = (d.resendAt (d.held 268 - (r + 1))).resendLast 268 routable r := by
  rw [Dev.resendLast, Dev.resendAt, Dev.held]
  cases (d.chain 268).pkts[(d.chain 268).pkts.length - (r + 1)]? with
  | none => rfl
  | some p => exact congrArg (Dev.resendLast 268 routable r) (apply_ite (fun f : Dev → Dev => f d) _ _ _)

theorem resendAt_none {d : Dev} (h : d.held 268 = 0) (i : Nat) : d.resendAt i = d := by
  rw [Dev.resendAt, List.length_eq_zero_iff.mp h, List.getElem?_nil]

/-- A packet of egress 268 goes or stays. -/
theorem resendAt_cases (d : Dev) (i : Nat) : d.resendAt i = d ∨ (d.resendAt i).held 268 < d.held 268 := by
  unfold Dev.resendAt
  split
  · next p hp =>
    split
    · next hgo => exact Or.inr (held_resendPkt_lt (List.getElem?_eq_some_iff.mp hp).1 (Bool.and_eq_true_iff.mp hgo).1)
    · exact Or.inl rfl
  · exact Or.inl rfl

/-- As many rounds as egress 268 holds packets end its drain: more of them change nothing. -/
theorem resendLast_enough (r : Nat) : ∀ d : Dev, d.held 268 ≤ r →
    d.resendLast 268 routable r = d.resendLast 268 routable (d.held 268) := by
  induction r using Nat.strong_induction_on with
  | _ r ih =>
    intro d hr
    rcases Nat.eq_or_lt_of_le hr with heq | hlt
    · rw [heq]
    · obtain ⟨r, rfl⟩ : ∃ q, r = q + 1 := ⟨r - 1, by omega⟩
      have hfirst : d.held 268 - (r + 1) = 0 := by omega
      rw [resendLast_succ, hfirst]
      rcases resendAt_cases d 0 with hstay | hgone
      · rw [hstay]
        exact ih r (by omega) d (by omega)
      · obtain ⟨q, hq⟩ : ∃ q, d.held 268 = q + 1 := ⟨d.held 268 - 1, by omega⟩
        rw [ih r (by omega) _ (by omega), hq, resendLast_succ, hq, Nat.sub_self, ih q (by omega) _ (by omega)]

theorem drainUnrouted_eq (d : Dev) : d.drainUnrouted = d.resendLast 268 routable (d.held 268) := rfl

/-- With no packet routable nothing leaves egress 268. -/
theorem drainUnrouted_of_none {d : Dev} (h : ((d.chain 268).pkts.all fun p => (d.routeOf 1 p.dest).isNone) = true) :
    d.drainUnrouted = d := by
  have hstay (i : Nat) : d.resendAt i = d := by
    unfold Dev.resendAt
    split
    · next p hp =>
      have hroute := Option.isNone_iff_eq_none.mp (List.all_eq_true.mp h p (List.mem_of_getElem? hp))
      have hnone : routable d p = false := congrArg Option.isSome hroute
      rw [hnone, Bool.false_and, if_neg Bool.false_ne_true]
    · rfl
  have hall (r : Nat) : d.resendLast 268 routable r = d := by
    induction r with
    | zero => rfl
    | succ r ih => rw [resendLast_succ, hstay, ih]
  exact hall _

/-- A routable packet at the head of egress 268 leaves it first; the drain goes on. -/
theorem drainUnrouted_first {d : Dev} {p : BklPkt} {ps : List BklPkt} (hp : (d.chain 268).pkts = p :: ps)
    (hgo : (d.routeOf 1 p.dest).isSome = true) (hheld : d.bklHeld p = false) :
    d.drainUnrouted = (d.resendPkt 268 0 p).drainUnrouted := by
  have hlen : d.held 268 = ps.length + 1 := congrArg List.length hp
  have hsent : d.resendAt 0 = d.resendPkt 268 0 p := by
    have hr : routable d p = true := hgo
    rw [Dev.resendAt, hp, List.getElem?_cons_zero]
    dsimp only
    rw [hr, hheld, Bool.not_false, Bool.and_self, if_pos rfl]
  have hless := held_resendPkt_lt (i := 0) (by omega) hgo
  rw [drainUnrouted_eq, hlen, resendLast_succ, hlen, Nat.sub_self, hsent, drainUnrouted_eq]
  exact resendLast_enough _ _ (by omega)

/-- The packet at the head of egress 268 leaves its chain. -/
theorem unchain_head {d : Dev} {p : BklPkt} {ps : List BklPkt} (hp : (d.chain 268).pkts = p :: ps) :
    d.unchain 0 p = (((d.bklOut p).2.modChain 268 fun c => { c with pkts := ps }).bklTrim 268 []).bklEmptied 268 := by
  have hhead : (d.bklOut p).2.modChain 268 (fun c => { c with pkts := c.pkts.eraseIdx 0 }) =
      (d.bklOut p).2.modChain 268 fun c => { c with pkts := ps } := by
    refine modChain_congr ?_
    rw [chain_congr (KeepsChains.bklOut d p) 268, hp, List.eraseIdx_cons_zero]
  rw [Dev.unchain, hhead]

end Sys2Proof.Machine
end

section
/-! The backlog's commands and events (R437 to R443). -/

namespace Sys2Proof.Machine

section
variable {s : State} {p : BklPkt} {ps : List BklPkt}

theorem exec_backlogDrain_unrouted (s : State) : exec (.backlogDrain 268) s = liftBb Dev.drainUnrouted s := rfl

/-- The segment of a packet's front that a Lysith port sends. -/
theorem backlogDrain_lys {e : Fin 269} {d0 : Dev} (hl : s.live = true) (hlo : 256 ≤ e.val) (hhi : e.val < 264)
    (h0 : s.dev.egFlow e = d0) (hp : (d0.chain e).pkts = p :: ps) (hst : d0.egStalled e = false)
    (hheld : d0.bklHeld p = false) {d1 : Dev} (hstep : d0.drainLys (e.val - 256) p = (true, d1)) :
    exec (.backlogDrain e) s = .next (s.afterBb fun _ => d1.drain e) := by
  have hhost : ¬ e.val < 256 := Nat.not_lt.mpr hlo
  refine backlogDrain_goes hl (by omega) ((congrArg (Dev.egFlow e) (if_neg hhost)).trans h0) hst ?_
  rw [drainOne_of_open hp hst hheld, if_neg hhost, if_pos hhi, hstep]

/-- The cycle, or the discard, of a packet's front at a Fiuth egress. -/
theorem backlogDrain_fiu {e : Fin 269} {d0 : Dev} (hl : s.live = true) (hlo : 264 ≤ e.val) (hhi : e.val < 268)
    (h0 : s.dev.egFlow e = d0) (hp : (d0.chain e).pkts = p :: ps) (hst : d0.egStalled e = false)
    (hheld : d0.bklHeld p = false) {d1 : Dev} (hstep : d0.drainFiu e p = (true, d1)) :
    exec (.backlogDrain e) s = .next (s.afterBb fun _ => d1.drain e) := by
  have hhost : ¬ e.val < 256 := by omega
  refine backlogDrain_goes hl hhi ((congrArg (Dev.egFlow e) (if_neg hhost)).trans h0) hst ?_
  rw [drainOne_of_open hp hst hheld, if_neg hhost, if_neg (by omega), hstep]

end

/-- Settles O55: each row's first step, and for a drain what its first step leaves drained in turn. -/
theorem backlogCommands : Obligations.BacklogCommands := by
  unfold Obligations.BacklogCommands
  refine ⟨fun s n e hs he hle => ?info, fun s e hl hwaits => ?stall, fun s e hl he hstop => ?stops,
    fun s e p ps hl he hp hst hheld hen hall => ?host,
    fun s e p ps hl hlo hhi hp hst hheld hopen hsend hpkt hack => ?lys,
    fun s e p ps hl hlo hhi hp hst hheld hoff => ?closed,
    fun s e p ps k r hl hlo hhi hp hst hheld hon hrun hk hfill hwaits => ?cycle,
    fun s hl hnone => ?unrouted, fun s p ps hl hp hgo hheld => ?routed⟩
  case info =>
    subst he
    rw [exec_bklInfo]
    exact lift_served_of_eq hs rfl (bklInfo_inRange (d := s.dev.taken) hle)
  case stall =>
    rw [exec_egressStall]
    exact liftBb_live_eq hl (if_pos hwaits)
  case stops =>
    refine backlogDrain_stops hl he rfl ?_
    rcases hstop with hnil | hst
    · exact drainOne_nil hnil
    · exact drainOne_stalled hst
  case host =>
    refine backlogDrain_goes hl (by omega) (congrArg (Dev.egFlow e) (if_pos he)) hst ?_
    rw [drainOne_of_open hp hst hheld, if_pos he, if_pos hen, drainHost_whole hall]
  case lys =>
    have heg : 256 + (e.val - 256) = e.val := by omega
    have hstep := drainLys_open rfl hopen hsend hpkt hack
    rw [heg] at hstep
    exact backlogDrain_lys hl hlo hhi rfl hp hst hheld hstep
  case closed => exact backlogDrain_fiu hl hlo hhi rfl hp hst hheld (drainFiu_off hoff)
  case cycle => exact backlogDrain_fiu hl hlo hhi rfl hp hst hheld (drainFiu_cycle hp hon hrun hk hfill hwaits)
  case unrouted =>
    rw [exec_backlogDrain_unrouted]
    exact liftBb_live_eq hl (drainUnrouted_of_none hnone)
  case routed =>
    rw [exec_backlogDrain_unrouted]
    refine liftBb_live_eq hl ?_
    rw [drainUnrouted_first hp hgo hheld, resendPkt_eq, unchain_head hp]

end Sys2Proof.Machine
end
